-- ==== Sys2Proof/Word.lean ====
section
/-!
DEFINITION. The word types of the NDW2408's registers, fields and wire formats, and nothing else.
Registers are 32 bits wide and byte addressed (R13); everything a program adds, shifts or masks
as a register is one of these. Counts, times in ticks and signed measurements are `Nat` and `Int`.
-/

namespace Sys2Proof

/-- A register word, a mailbox word or a register address (R13). -/
abbrev Word := BitVec 32

/-- One byte of a payload, of a memory or of a frame. -/
abbrev Byte := BitVec 8

/-- One of the 24 phases, PH0 to PH23. -/
abbrev Phase := Fin 24

/-- One of the four regulation groups, G0 to G3. -/
abbrev Group := Fin 4

/-- One of the four loop engines, LE0 to LE3. -/
abbrev Engine := Fin 4

/-- One of the 24 slots of the auxiliary sequencer. -/
abbrev Slot := Fin 24

/-- One of the four load-command inputs, LCMD0 to LCMD3. -/
abbrev LcmdPort := Fin 4

/-- One of the two host ports, CAN0 and CAN1. -/
abbrev CanPort := Fin 2

/-- One of the two Sett ports: 0 is UP, 1 is DN. -/
abbrev SettPort := Fin 2

/-- One of the 45 guard blocks, by the index of R496. -/
abbrev Block := Fin 45

/-- A chain address, 0 to 7 (R413). -/
abbrev Address := Fin 8

/-- One of the 16 hardware counters CNT0 to CNT15 (R589). -/
abbrev Counter := Fin 16

/-- One of the 64 sectors of the NV store (R565). -/
abbrev Sector := Fin 64

end Sys2Proof
end

