-- ==== Sys2Proof/Syntax.lean ====
section
/-!
DEFINITION. The commands of the NDW2408 block: one constructor of `Instr` for each row of the
spec's table of operations and events, with the operands that the row's step takes from outside
(what a pin, a converter input, a wire or a partner shows). A row that happens at a timebase
position carries that position as a count of ticks, `t`; the device's own state is never an operand.
-/

namespace Sys2Proof

/-- The three cores (R28 to R30). -/
inductive Core where
  | badger
  | owl
  | hedgehog
deriving DecidableEq, Repr

/-- Who reads a register: each core and the host read path have latches of their own (R217). -/
inductive Reader where
  | badger
  | owl
  | hedgehog
  | host
deriving DecidableEq, Repr

/-- The six mailboxes; the first letter is the sender, the second the receiver (R50 to R59). -/
inductive Mailbox where
  | bo
  | ob
  | bh
  | hb
  | oh
  | ho
deriving DecidableEq, Repr

/-- The twelve operating modes (R157). -/
inductive Mode where
  | off
  | boot
  | standby
  | precharge
  | softstart
  | regulate
  | charge
  | lightload
  | derated
  | sweep
  | shutdown
  | safe
deriving DecidableEq, Repr

/-- The causes of a group's mode change (R161). -/
inductive Cause where
  | none
  | bootEnd
  | enable
  | disable
  | preDone
  | ssDone
  | runSel
  | loadLow
  | loadHigh
  | forecast
  | phaseLost
  | phaseBack
  | leaderLost
  | sweepStart
  | sweepEnd
  | faultB
  | cleared
  | faultA
  | shdn
deriving DecidableEq, Repr

/-- The converter references (R272). -/
inductive RefSel where
  | internal
  | external
  | vdda
deriving DecidableEq, Repr

/-- The rails watched by R88. -/
inductive Rail where
  | v5
  | vddio
  | vdda
  | vdd08
deriving DecidableEq, Repr

/-- What requested SHDN_START (R188). -/
inductive ShdnCause where
  | enable
  | host
  | ride
  | powerLoss
deriving DecidableEq, Repr

/-- The class of a fault or warning (R501 to R503). -/
inductive Cls where
  | a
  | b
  | c
deriving DecidableEq, Repr

/-- Where a double-bit error was read, outside coefficients and set-point entries (R505). -/
inductive EccPlace where
  | badgerSram
  | cfgRegister (b : Block)
  | owlSram
  | hedgehogSram
  | capture (offset : Nat)
  | snapshot
deriving DecidableEq, Repr

/-- Where a critical double-bit error was read (R501). -/
inductive CritPlace where
  | coefficient (e : Engine)
  | setpoint (g : Group)
deriving DecidableEq, Repr

/-- Which trigger of a phase (R257). -/
inductive Trig where
  | a
  | b
deriving DecidableEq, Repr

/-- The target of a mode change: the device or one group. -/
inductive Target where
  | device
  | group (g : Group)
deriving DecidableEq, Repr

/-- What the configuration flash returned to the reads of step 5 of BOOT (R128, R129): the header read
with command 0x0B, the header read with 0x0C, and the bytes of the image from offset 0 on. -/
structure FlashReads where
  hdr3 : List Byte
  hdr4 : List Byte
  /-- what the flash returns from address 0 on, by the read command of the transfer (R129) -/
  reads : List (Nat × List Byte)
deriving DecidableEq, Repr

/-- What the pins and the supply show to one BOOT (R124 to R127). -/
structure BootInput where
  /-- the straps CHAIN_ADDR2–0 (R413) -/
  addr : Address
  /-- the strap CHAIN_HEAD -/
  head : Bool
  /-- TMODE, looked at only at power-on reset release (R525) -/
  tmode : Bool
  /-- a reference is present at step 2 (R691) -/
  refPresent : Bool
  /-- VIN has risen above VIN_WARN recovery by power-on reset release (R690) -/
  vinRecovered : Bool
  /-- VHOLD is below 8.0 V when the charger starts at step 2 (R92, R93) -/
  vholdLow : Bool
  /-- the charger's running time in ns from 8.0 V to 12.0 V, if VHOLD crosses 12.0 V before step 5 ends -/
  crossing : Option Nat
  /-- the timebase meets its lock criterion by the end of step 3 (R125, R208) -/
  locked : Bool
  /-- the calendar crystal runs (R78) -/
  rtc : Bool
  /-- the levels of VSEL3–0 as their samples begin at step 2 (R344) -/
  vsel : Fin 16
  /-- what the configuration flash returned -/
  flash : FlashReads
deriving DecidableEq, Repr

/-- What the outside of a phase shows in the switching period that has just ended: the commutation time
in FS of each edge of SWNn (R240), and the two codes of a diagnosis if its conversions were made (R395). -/
structure PeriodObs where
  hl : Option Nat
  lh : Option Nat
  rise : Option Int
  mid : Option Int
deriving DecidableEq, Repr

/-- Which host command is meant: the port that brought it, its tag, whether it was sent to address 0xF, its
priority, and the frame format of its frames (R608 to R618). -/
structure HostRef where
  port : CanPort
  tag : Nat
  bcast : Bool
  prio : Nat
  fd : Bool
  brs : Bool
deriving DecidableEq, Repr

/-- A CAN frame as a port receives it (R601, R608). -/
structure CanFrame where
  port : CanPort
  ident : Nat
  extended : Bool
  fd : Bool
  brs : Bool
  data : List Byte
  /-- the frame has ended without an error that the port has seen (R601) -/
  good : Bool := true
  /-- what ISO 11898-1 has added to REC and to TEC for the errors that the port has seen since its last frame, in this one among them (R601) -/
  recAdd : Nat := 0
  tecAdd : Nat := 0
deriving DecidableEq, Repr

/-- A TELEM_SUB request (R624, R632). -/
structure SubReq where
  stream : Nat
  prio : Nat
  periodMs : Nat
  ports : Nat
  items : List Nat
deriving DecidableEq, Repr

/-- The sweep descriptor (R468); reserved bytes are kept so that R469 can refuse them. -/
structure SweepDesc where
  group : Nat
  mode : Nat
  points : Nat
  fStart : Nat
  fStop : Nat
  settle : Nat
  dwell : Nat
  ampStart : Nat
  ampStop : Nat
  reserved : List Byte
deriving DecidableEq, Repr

/-- ORIG and GROUP of a sweep's flit (R482). -/
structure SweepOwner where
  orig : Address
  group : Group
deriving DecidableEq, Repr

/-- What every payload of a sweep's flit begins with: TAG, ORIG and GROUP (R482). -/
structure SweepName where
  tag : Nat
  owner : SweepOwner
deriving DecidableEq, Repr

/-- A CAL_SET request: a count of seconds or a date view (R596, R624). -/
inductive CalReq where
  | count (secs : Nat)
  | date (year month day hour minute second : Nat)
  | badForm
deriving DecidableEq, Repr

/-- How a flit ends at its receiver (R421, R426): with a good CRC, a bad one, or with K30.7 in its CRC's place. -/
inductive FlitEnd where
  | good
  | bad
  | cut
deriving DecidableEq, Repr

/-- The header of a flit that arrives at this device, the port it comes by, how it ends (R421, R426), and for a flit of VC2 whether its TYPE is one of those
the spec gives no name, 0x26 + x (R482). -/
structure FlitHdr where
  src : Address
  dst : Nat
  hops : Nat
  seq : Nat
  port : SettPort
  crc : FlitEnd
  unnamed : Option (Fin 10)
deriving DecidableEq, Repr

/-- The payload of an EPOCH (R430), and the tick of capture of its first code group. -/
structure EpochPay where
  tstamp : Nat
  corr : Nat
  slope : Int
  head : Address
  role : Nat
  topoGen : Nat
deriving DecidableEq, Repr

/-- One group record of a SHARE (R438). -/
structure ShareRec where
  present : Bool
  iref : Int
  mode : Mode
  set : Nat
  healthy : Nat
  valid : Bool
deriving DecidableEq, Repr

/-- The payload of a SHARE (R438). -/
structure SharePay where
  ct : Nat
  recs : Vector ShareRec 4
deriving DecidableEq, Repr

/-- One group record of a REPORT (R440). -/
structure ReportRec where
  assigned : Nat
  healthy : Nat
  switching : Nat
  onLocal : Bool
  droop : Bool
  safe : Bool
  iMean : Int
  pAvg : Word
deriving DecidableEq, Repr

/-- The topology states of SETT_TOPO.STATE. -/
inductive TopoState where
  | single
  | forming
  | ring
  | line
  | island
deriving DecidableEq, Repr

/-- The payload of a TOPO (R422, R449); `order` is that of the reachable devices along the chain. -/
structure TopoPay where
  gen : Nat
  reach : Byte
  order : List Address
  head : Address
  state : TopoState
deriving DecidableEq, Repr

/-- Why a port goes down (R448, SETT_x_STAT.CAUSE). -/
inductive LinkCause where
  | none
  | lock
  | crc
  | starved
  | holdup
  | miswire
  | build
  | timeout
deriving DecidableEq, Repr

/-- One delay exchange of training, in FS (R420): the tick and fine position of a MARK's departure and of the reply's arrival, and the partner's turnaround. -/
structure DelayExchange where
  t1 : Nat
  t4 : Nat
  turnaround : Nat
deriving DecidableEq, Repr

/-- What the partner sends in the TRAIN exchange, and the delay exchanges (R418 to R420). -/
structure TrainInput where
  peer : Address
  /-- the partner's port is its UP port -/
  peerIsUp : Bool
  chainSize : Nat
  build : Word
  exchanges : List DelayExchange
deriving DecidableEq, Repr

/-- The four operations of R69 and R70 that end on their own and can be aborted. -/
inductive Operation where
  | sweep
  | nvWrite
  | precharge (g : Group)
  | commit
deriving DecidableEq, Repr

/-- The gauge record (R560) as Owl hands it over, in its payload bytes; empty for NOT_FOUND. -/
abbrev GaugeBytes := List Byte

/-- How an NV erase or program went at the cells: pulses an erase took, and whether it verified (R566, R583). -/
structure NvCells where
  pulses : Nat
  verified : Bool
deriving DecidableEq, Repr

/-- The commands. Every constructor is one row of the table, in the table's order. -/
inductive Instr where
  | powerOnResetRelease (b : BootInput)
  | bootDone (periods : Nat)
  | rstNAssert
  | rstNRelease (b : BootInput)
  | rstStuck
  | vinLow
  | rideThroughRecovery
  | rideThroughLimit
  | vinHigh
  | vinHighRelease
  | vinOver
  | powerLoss
  | vholdOkCrossing (above : Bool)
  | vholdFloor
  | supplyCollapse (r : Rail)
  | rtcOscLost
  | rtcOscBack
  | enableFalling
  | enableRising
  | vselChange (v : Fin 16)
  | tripAssert (p : Phase)
  | tripDeassert (p : Phase)
  | phTrip (p : Phase)
  | shootReq (p : Phase) (high : Bool)
  | tbLock
  | referenceLost
  | referenceQualified
  | relockComplete
  | tbLimit (suppressed : Bool)
  | refReady (r : RefSel)
  | refLost (r : RefSel)
  | phasePeriodStart (p : Phase) (t : Nat) (o : PeriodObs)
  | phOpen (p : Phase)
  | diagWindowLapse (p : Phase)
  | firingSlot (g : Group) (t : Nat) (o : PeriodObs)
  | groupPeriodStart (g : Group) (t : Nat)
  | balPass (g : Group)
  | phState (p : Phase)
  | phaseTrigger (p : Phase) (k : Trig) (t : Nat)
  | phaseConversionDone (p : Phase) (code : Int)
  | groupVoltageTrigger (g : Group) (t : Nat)
  | groupFreeRun (g : Group) (t : Nat)
  | groupConversionDone (g : Group) (code : Int) (commonModeOk : Bool)
  | grpOv (g : Group)
  | grpOvWarn (g : Group)
  | senseLost (g : Group)
  | senseBack (g : Group)
  | pgFilter (g : Group)
  | auxConversion
  | auxConversionDone (code : Nat) (dieTemp : Int)
  | ffVinUpdate (e : Engine)
  | setpointSwap (t : Nat)
  | swapRequest
  | rampDone (g : Group)
  | modeChange (target : Target) (m : Mode) (c : Cause)
  | groupStart (g : Group)
  | prechargeComplete (g : Group)
  | prechargeTimeout (g : Group)
  | softstartTimeout (g : Group)
  | lightloadEntry (g : Group)
  | shdnStart (c : ShdnCause)
  | shutdownEnd (b : BootInput)
  | snapFill (t : Nat)
  | publish
  | openSnap (c : Core)
  | closeSnap (c : Core)
  | snapHeld (c : Core)
  | mailboxWrite (m : Mailbox) (w : Word)
  | mailboxRead (m : Mailbox)
  | doorbellRing (receiver sender : Core)
  | domainUp (c : Core)
  | wakeHoldLapse (c : Core)
  | powerDownRequest (c : Core)
  | latchedRead (r : Reader) (addr : Word)
  | rclRead (r : Reader) (addr : Word)
  | eccCrit (w : CritPlace)
  | eccDed (w : EccPlace)
  | watchdogExpiry (c : Core)
  | faultRaise (b : Block) (c : Cls) (code unit : Nat) (d0 : Word)
  | faultFrame (p : CanPort)
  | conditionGone (b : Block) (code unit : Nat)
  | retry (b : Block) (code unit : Nat)
  | retriesReset (b : Block)
  | factoryUnlock (data : List Byte)
  | tmodeIgnored
  | forecast (p : LcmdPort) (frame : List Byte) (t : Nat)
  | vreq (p : LcmdPort) (frame : List Byte) (t : Nat)
  | heartbeat (p : LcmdPort) (frame : List Byte) (t : Nat)
  | lcmdFrameAbandon (p : LcmdPort) (gap : Bool)
  | heartbeatTimeout (p : LcmdPort)
  | hbLapse (p : LcmdPort)
  | lcmdRx (p : LcmdPort)
  | fcastMiss (p : LcmdPort) (g : Group)
  | hostSetSelect (h : HostRef) (g : Group) (value mask : Word)
  | groupEnable (h : HostRef) (g : Group) (value mask : Word)
  | groupDisable (h : HostRef) (g : Group) (value mask : Word)
  | runSelChange (h : HostRef) (g : Group) (value mask : Word)
  | shutdownRequest (h : HostRef) (value mask : Word)
  | gaugeCmdSave (h : HostRef) (value mask : Word)
  | warningClear (h : HostRef) (b : Block) (value mask : Word)
  | faultInject (h : HostRef) (value mask : Word)
  | writeCmd (h : HostRef) (addr value mask : Word)
  | canFrameRx (f : CanFrame)
  | reassemblyTimeout (p : CanPort) (type tag : Nat)
  | readReg (h : HostRef) (addr : Word) (count : Nat)
  | telemGet (h : HostRef) (items : List Nat)
  | telemSub (h : HostRef) (r : SubReq)
  | sweepStart (h : HostRef) (d : SweepDesc)
  | sweepAbort (h : HostRef) (tag : Nat)
  | faultClear (h : HostRef) (block code : Nat)
  | nvRead (h : HostRef) (password : Word) (key : Nat)
  | nvWrite (h : HostRef) (password : Word) (key : Nat) (payload : List Byte)
  | logRead (h : HostRef) (password : Word) (first count : Nat)
  | calSet (h : HostRef) (r : CalReq)
  | join (h : HostRef)
  | cfgRelease (h : HostRef)
  | abort (h : HostRef) (tag type : Nat)
  | updBegin (h : HostRef) (length : Nat)
  | updData (h : HostRef) (offset : Nat) (data : List Byte)
  | updCommit (h : HostRef)
  | hostAns
  | telemStream (stream : Fin 8)
  | canBusoff (p : CanPort)
  | canBusoffRecovery (p : CanPort)
  | complete (o : Operation)
  | abortGrant (o : Operation)
  | bankStateWrite
  | nvOpStart
  | nvOpEnd (c : NvCells)
  | nvReclaim
  | journalSwitch
  | counterIncrement (k : Counter)
  | counterSetSwitch
  | carryWrite
  | minuteCountersWake
  | calStamp
  | calendarEnd
  | logFlush
  | gaugeSlot (t : Nat) (code : Int) (commonModeOk : Bool)
  | gaugeInputLost
  | gaugeInputValid
  | hedgehogSecond
  | chargeLimitTimeout
  | chgLimits (iLim vLim : Nat)
  | gaugeInput (lost : Bool)
  | groupState (g : Group) (m : Mode) (dir : Nat)
  | shdn
  | gaugeSave (tag : Nat)
  | cal (set : Bool) (secs : Nat)
  | nvState (writable readOnly : Bool)
  | gaugeRecord (r : GaugeBytes)
  | record (r : GaugeBytes)
  | log (code unit : Nat)
  | ah (increments : Nat)
  | recordReq
  | done (tag result : Nat)
  | mode (target : Target) (m : Mode) (c : Cause)
  | fault (b : Block) (code unit : Nat)
  | count (increments : Nat) (k : Counter)
  | sweepEnd (tag cause : Nat)
  | linkUp (p : SettPort) (i : TrainInput)
  | trainingTimeout (p : SettPort)
  | linkDown (p : SettPort) (c : LinkCause)
  | credit (p : SettPort) (vc : Fin 4) (n : Nat)
  | flitDrop (p : SettPort)
  | epochSend (t : Nat)
  | epoch (f : FlitHdr) (t : Nat) (e : EpochPay)
  | shareSend (t : Nat)
  | share (f : FlitHdr) (r : SharePay)
  | irefRx (g : Group)
  | reportSend (t : Nat)
  | report (f : FlitHdr) (t : Nat) (r : Vector ReportRec 4)
  | deviceUnreachable (a : Address)
  | formationEnd
  | linkDownFlit (f : FlitHdr) (p : SettPort) (c : LinkCause)
  | topo (f : FlitHdr) (r : TopoPay)
  | headSilent
  | headClaim (f : FlitHdr) (a : Address)
  | localHead
  | leadClaim (f : FlitHdr) (groups : Nat)
  | leaderTimeout (g : Group)
  | leaderLost (g : Group)
  | deviceSafe (f : FlitHdr)
  | modeOrder (f : FlitHdr) (g : Group) (m : Mode) (c : Cause) (s0 : Nat)
  | setOrder (f : FlitHdr) (g : Group) (set : Fin 16)
  | selFwd (f : FlitHdr) (g : Group) (set : Fin 16) (src : Nat)
  | fcastFwd (f : FlitHdr) (p : LcmdPort) (frame : List Byte) (te : Nat)
  | phFloor (f : FlitHdr) (g : Group) (floor : Nat)
  | phaseLost (f : FlitHdr) (g : Group)
  | resume (f : FlitHdr) (g : Group)
  | swReq (f : FlitHdr) (tag : Nat) (d : SweepDesc)
  | swSetup (f : FlitHdr) (tag : Nat) (orig : Address) (d : SweepDesc) (t0 : Nat)
  | swAck (f : FlitHdr) (tag : Nat) (w : SweepOwner) (answer : Nat)
  | sweepSetupTimeout
  | swDone (f : FlitHdr) (w : SweepName) (written : Nat)
  | swDoneTimeout
  | swAbort (f : FlitHdr) (w : SweepName) (cause : Nat)
  | swEnd (f : FlitHdr) (w : SweepName) (aborted : Bool) (cause : Nat)
  | sweepPointStart (t : Nat)
  | sweepWindowClose
  | capGrant
  | capRelease
  | vinWarnRecoveryCrossing
  | vholdChargeEnd
  | holdupCheck12vCrossing (ns : Nat)
  | domainRestartEnd (c : Core)
  | formTmaxNoEpoch
  | antFiredGrant (g : Group)
  | tbFerrMeasure (ppm : Int)
deriving DecidableEq, Repr

end Sys2Proof
end

