-- ==== Sys2Proof/Decode.lean ====
section
/-!
DEFINITION. Words of the table. No row of spec/opcode_table.json gives its command any bits (their field lists are
empty): the commands are events at pins, converters, wires and ports, not encoded instructions. So no word spells one.
-/

namespace Sys2Proof

/-- The command that a word of `nbits` bits spells: none, since the table gives no row a bit. -/
def decodeTableWord (_nbits _w : Nat) : Option Instr := none

end Sys2Proof
end

