-- ==== Sys2Proof/Config.lean ====
section
/-!
DEFINITION. What the spec leaves open: constants without a body. Nothing can evaluate one or prove
a value of it, so every statement holds for every value. Each is named in a row of the assumption log.
A `Nat` argument called `draw` is the plain counter of State that makes each use a fresh one.
-/

namespace Sys2Proof.Config

/-- Direction of rounding of an engineering value that IEEE 754 single cannot hold (R298 to R300): true is up. -/
opaque roundUp : Rat → Bool

/-- What an engineering computation takes for a single that is an infinity or a NaN (R302). -/
opaque notFinite : BitVec 32 → Rat

/-- The error of the sine source and of the Q1.15 cosine and sine (R332, R334): −1, 0 or +1 LSB once reduced. -/
opaque sineError : Nat → Rat → Int

/-- An ORDINARY grant's wait in grant cycles (R66); the meaning reduces it to 0 to 126. -/
opaque grantWait : Nat → Nat

/-- What running firmware wrote to the OWL and BADGER fields of _INT_EN of a guard block (R497). -/
opaque intEn : Nat → Nat → BitVec 8

/-- Whether a whole second of the calendar elapses in one timebase tick of an idle step (R594). -/
opaque calendarSecond : Nat → Bool

/-- The factory unlock value of this device (R525). -/
opaque unlockValue : List Byte

/-- Whether a signature verifies against the device's public key (R635, R636). -/
opaque signatureValid : List Byte → List Byte → Bool

/-- The number that a firmware release gives to a failed check (R689); the meaning makes it non-zero. -/
opaque checkNumber : Nat → BitVec 32

/-- The amplitude and the time constant of the least-squares fit of a voltage history, one value a second, to a single exponential (R548). -/
opaque relaxFit : List Rat → Rat × Rat

/-- A natural-number value the spec leaves open, by place and draw. -/
opaque openNat : Nat → Nat → Nat

/-- A yes-or-no value the spec leaves open, by place and draw. -/
opaque openBool : Nat → Nat → Bool

end Sys2Proof.Config
end

