-- ==== Sys2Proof/Machine/Numeric.lean ====
section
/-!
DEFINITION. Counting, clamping, rounding, packing of register words and the single-precision format:
the arithmetic that the chapters of the spec share.
-/

namespace Sys2Proof.Machine

/-- One more, held at `top`: a saturating counter. -/
def satInc (top n : Nat) : Nat := if n < top then n + 1 else top

/-- `x` clamped to `lo` … `hi`; the low end wins where the two cross. -/
def clampInt (lo hi x : Int) : Int := max lo (min hi x)

/-- The nearest integer, halves away from zero (R293, R309, R377). -/
def roundAway (q : Rat) : Int :=
  if 0 ≤ q then (q + 1 / 2).floor else - ((-q + 1 / 2).floor)

/-- Towards zero. -/
def truncRat (q : Rat) : Int := if 0 ≤ q then q.floor else - ((-q).floor)

/-- The least integer at or above `q`. -/
def ceilRat (q : Rat) : Int := - ((-q).floor)

/-- `|q|`. -/
def absRat (q : Rat) : Rat := if 0 ≤ q then q else -q

/-- The four bits of a pattern position reversed (R222). -/
def bitReverse4 (p : Nat) : Nat :=
  (p % 2) * 8 + (p / 2 % 2) * 4 + (p / 4 % 2) * 2 + p / 8 % 2

/-- A register word from (lowest bit, width, value) triples. -/
def packWord (fs : List (Nat × Nat × Int)) : Word :=
  fs.foldl (fun w f => w ||| BitVec.ofNat 32 ((f.2.2 % ((2 ^ f.2.1 : Nat) : Int)).toNat * 2 ^ f.1)) 0

/-- An unsigned field of a word. -/
def fieldOf (w : Word) (lsb width : Nat) : Nat := w.toNat / 2 ^ lsb % 2 ^ width

/-- A two's-complement value of `width` bits. -/
def signedOf (width n : Nat) : Int :=
  if n % 2 ^ width < 2 ^ (width - 1) then ((n % 2 ^ width : Nat) : Int)
  else ((n % 2 ^ width : Nat) : Int) - ((2 ^ width : Nat) : Int)

/-- A signed field of a word. -/
def signedField (w : Word) (lsb width : Nat) : Int := signedOf width (fieldOf w lsb width)

/-- A Bool as a field value. -/
def bit (b : Bool) : Int := if b then 1 else 0

/-- Little-endian number of a byte list (R16). -/
def leNat : List Byte → Nat
  | [] => 0
  | b :: bs => b.toNat + 256 * leNat bs

/-- The `n` low bytes of a number, little-endian (R16). -/
def leBytes : Nat → Nat → List Byte
  | 0, _ => []
  | n + 1, v => BitVec.ofNat 8 v :: leBytes n (v / 256)

/-- `n` bytes at `off`, zero past the end. -/
def bytesAt (bs : List Byte) (off n : Nat) : List Byte :=
  let s := (bs.drop off).take n
  s ++ List.replicate (n - s.length) 0

/-- Bytes of a flash read: where the flash drives nothing, the pull-ups make them 0xFF (R127). -/
def flashAt (bs : List Byte) (off n : Nat) : List Byte :=
  let s := (bs.drop off).take n
  s ++ List.replicate (n - s.length) 0xFF

/-- The little-endian number of `n` bytes at `off`. -/
def numAt (bs : List Byte) (off n : Nat) : Nat := leNat (bytesAt bs off n)

/-- The 32-bit word at `off`. -/
def wordAt (bs : List Byte) (off : Nat) : Word := BitVec.ofNat 32 (numAt bs off 4)

/-- Every byte is zero. -/
def allZero (bs : List Byte) : Bool := bs.all (· == 0)

/-- The list with element `i` replaced; unchanged where there is none. -/
def setNth {α : Type} (xs : List α) (i : Nat) (x : α) : List α := xs.set i x

/-- A vector with one element changed. -/
def vmod {α : Type} {n : Nat} (v : Vector α n) (i : Fin n) (f : α → α) : Vector α n := v.set i (f v[i])

/-- A vector with every element changed. -/
def vmap {α β : Type} {n : Nat} (v : Vector α n) (f : α → β) : Vector β n := ⟨⟨v.toList.map f⟩, by simp⟩

/-- 2 to an integer power, exactly. -/
def pow2 (e : Int) : Rat := if 0 ≤ e then ((2 ^ e.toNat : Nat) : Rat) else 1 / ((2 ^ (-e).toNat : Nat) : Rat)

/-- The value of an IEEE 754 single. The spec gives no result of a computation with an infinity or a NaN, which a scale or a table point of
an image may hold (R302): its value is open (`Config.notFinite`, log 122). -/
def f32 (w : Word) : Rat :=
  let e := fieldOf w 23 8
  let m := fieldOf w 0 23
  let mag : Rat :=
    if e = 0 then (m : Rat) * pow2 (-149)
    else if e = 255 then Config.notFinite w
    else ((m + 2 ^ 23 : Nat) : Rat) * pow2 ((e : Int) - 150)
  if w.msb then -mag else mag

/-- Whether a word is a finite IEEE 754 single. -/
def f32Finite (w : Word) : Bool := fieldOf w 23 8 != 255

/-- The floor of the binary logarithm of a positive rational. -/
def log2Rat (q : Rat) : Int :=
  let e := (Nat.log2 q.num.natAbs : Int) - (Nat.log2 q.den : Int)
  if pow2 e ≤ q then e else e - 1

/-- An IEEE 754 single for `q`: `q` itself where the format holds it, else one of its two neighbours,
which one being open (`Config.roundUp`). -/
def toF32 (q : Rat) : Word :=
  let a := absRat q
  if a = 0 then 0 else
    let e := max (log2Rat a) (-126)
    let s := a * pow2 (23 - e)
    let lo := s.floor.toNat
    let m := if ((lo : Nat) : Rat) = s then lo else if Config.roundUp q then lo + 1 else lo
    let mag := if m < 2 ^ 23 then m else ((e + 126).toNat + 1) * 2 ^ 23 + (m - 2 ^ 23)
    let mag := min mag 0x7F800000
    BitVec.ofNat 32 (mag + if q < 0 then 2 ^ 31 else 0)

/-- Timebase ticks in one microsecond (R206). -/
def tkUs : Nat := 2400
/-- Timebase ticks in one millisecond. -/
def tkMs : Nat := 2400000
/-- FS in one TK: 416.67 ps is 8 FS. -/
def fsTk : Nat := 8
/-- Timebase ticks in one second. -/
def tkSec : Nat := 2400000000

end Sys2Proof.Machine
end

