-- ==== Sys2Proof/Machine/Memory.lean ====
section
/-!
DEFINITION. Byte memories: capture memory, whose unlisted bytes read 0 (R74), and the two code banks,
whose unlisted bytes read 0xFF, the erased content (R74). One canonical form: addresses strictly rising,
no entry equal to what an unlisted address reads as.
-/

namespace Sys2Proof.Machine

/-- A byte memory in canonical form (see `memWf`). -/
abbrev Memory := List Host.Cell

/-- Addresses rise strictly and no entry holds the fill value. -/
def memWf (fill : Byte) : Memory → Bool
  | [] => true
  | [c] => c.2 != fill
  | c :: d :: rest => c.2 != fill && decide (c.1 < d.1) && memWf fill (d :: rest)

/-- The byte at an address. -/
def memRead (fill : Byte) : Memory → Nat → Byte
  | [], _ => fill
  | c :: rest, a => if c.1 = a then c.2 else memRead fill rest a

/-- Write one byte, keeping the canonical form. -/
def memWrite (fill : Byte) (m : Memory) (a : Nat) (b : Byte) : Memory :=
  match m with
  | [] => if b = fill then [] else [(a, b)]
  | c :: rest =>
    if a < c.1 then (if b = fill then c :: rest else (a, b) :: c :: rest)
    else if a = c.1 then (if b = fill then rest else (a, b) :: rest)
    else c :: memWrite fill rest a b

/-- Write consecutive bytes from an address. -/
def memWriteBytes (fill : Byte) : Memory → Nat → List Byte → Memory
  | m, _, [] => m
  | m, a, b :: bs => memWriteBytes fill (memWrite fill m a b) (a + 1) bs

/-- Read `n` consecutive bytes. -/
def memReadBytes (fill : Byte) (m : Memory) : Nat → Nat → List Byte
  | _, 0 => []
  | a, n + 1 => memRead fill m a :: memReadBytes fill m (a + 1) n

/-- Make a range read as the fill value. -/
def memErase (m : Memory) (lo hi : Nat) : Memory := m.filter (fun c => decide (c.1 < lo) || decide (hi < c.1))

end Sys2Proof.Machine
end

