-- ==== Sys2Proof/Machine/StateControl.lean ====
section
/-!
DEFINITION. The control plane's state: timebase, edge placers, phase converters, BAL, groups, loop
engines, the set-point file, VSEL and the load-command ports. A field's default is its reset value.
CFG fields read 0 until the configuration load (R22, R74). Times are TB_COUNT values.
-/

namespace Sys2Proof.Machine

/-- Timebase states (R207). -/
inductive TbState where
  | acquire
  | locked
  | holdover
  | relock
  | freerun
deriving DecidableEq, Repr

/-- The timebase (R203 to R217). -/
structure Timebase where
  /-- TB_COUNT, 64 bits, R205; reset 0 -/
  count : Nat := 0
  /-- TB_STAT.STATE, 3 bits, R207; reset 0 -/
  st : TbState := .acquire
  /-- TB_STAT.REF_PRESENT, 1 bit, R691 R211 R209; reset 0 -/
  refPresent : Bool := false
  /-- TB_STAT.LIMIT_SEEN, 1 bit RCL, R216; reset 0 -/
  limitSeen : Bool := false
  /-- TB_STAT.HOLDOVER, 1 bit, R209 R212; reset 0 -/
  holdover : Bool := false
  /-- TB_FERR.PPM, 16 bits signed, R603; reset 0 -/
  ferr : Int := 0
  /-- TB_EVT.RELOCKS, 16 bits, wraps; reset 0 -/
  relocks : BitVec 16 := 0
  /-- TB_EVT.LOSSES, 16 bits, wraps, R209; reset 0 -/
  losses : BitVec 16 := 0
  /-- TB_LIM_CNT, 32 bits, saturates, R216; reset 0 -/
  limCnt : Nat := 0
  /-- TB_CFG.REFSEL, 1 bit CFG, R203; reset 0 -/
  refSel : Bool := false
  /-- TB_DIV.BM_DIV, 9 bits CFG, R220; reset 0 -/
  bmDiv : Nat := 0
deriving DecidableEq, Repr

/-- PSTATE (R370). -/
inductive PState where
  | standby
  | adding
  | active
  | shedding
  | faulted
deriving DecidableEq, Repr

/-- A converter trigger's MODE and POS (R257). -/
structure TrigCfg where
  /-- MODE, 2 bits CFG; reset 0 -/
  mode : Nat := 0
  /-- POS, 22 bits CFG; reset 0 -/
  pos : Nat := 0
deriving DecidableEq, Repr

/-- The image's settings of one phase: PHASE_MAP (R262), SHEDDING (R411), LIMITS (R523). -/
structure PhaseCfg where
  /-- PHn_CFG.GROUP, 3 bits CFG, R262; reset 0 -/
  group : Nat := 0
  /-- PHn_CFG.ROT, 5 bits CFG, R232; reset 0 -/
  rot : Nat := 0
  /-- PHn_OFS, 22 bits CFG, R229; reset 0 -/
  ofs : Nat := 0
  /-- PHn_DT_LIM.DT_MIN, 13 bits CFG, R242; reset 0 -/
  dtMin : Nat := 0
  /-- PHn_DT_LIM.DT_MAX, 13 bits CFG, R242; reset 0 -/
  dtMax : Nat := 0
  /-- PHn_DT_CFG.DT_INIT, 13 bits CFG, R245; reset 0 -/
  dtInit : Nat := 0
  /-- PHn_DT_CFG.DT_MARGIN, 9 bits CFG, R242; reset 0 -/
  dtMargin : Nat := 0
  /-- PHn_BOOT.BOOT_EN, 1 bit CFG, R249; reset 0 -/
  bootEn : Bool := false
  /-- PHn_BOOT.BOOT_N, 8 bits CFG, R249; reset 0 -/
  bootN : Nat := 0
  /-- PHn_BOOT.BOOT_M, 7 bits CFG, R249; reset 0 -/
  bootM : Nat := 0
  /-- PHn_BOOT.BOOT_W, 11 bits CFG, R250; reset 0 -/
  bootW : Nat := 0
  /-- PHn_TRIP.TRIP_FILT, 8 bits CFG, R252; reset 0 -/
  tripFilt : Nat := 0
  /-- PHn_TRIP.TRIP_K, 8 bits CFG, R255; reset 0 -/
  tripK : Nat := 0
  /-- PHn_TRIGA, 32 bits CFG, R257; reset 0 -/
  trigA : TrigCfg := {}
  /-- PHn_TRIGB, 32 bits CFG, R257; reset 0 -/
  trigB : TrigCfg := {}
  /-- ADC_PHn_CFG.AVG_K, 5 bits CFG; reset 0 -/
  avgK : Nat := 0
  /-- ADC_PHn_CFG.CUR_SEL, 2 bits CFG, R279; reset 0 -/
  curSel : Nat := 0
  /-- ADC_PHn_SCALE, 32 bits CFG, R280; reset 0 -/
  scale : Word := 0
  /-- ADC_PHn_OFFS, 16 bits signed CFG, R269; reset 0 -/
  offs : Int := 0
  /-- BAL_PHn_CFG.PRIO, 5 bits CFG, R389; reset 0 -/
  prio : Nat := 0
  /-- GRD_PHn_OC.OC_LEVEL, 11 bits CFG, R494; reset 0 -/
  ocLevel : Nat := 0
deriving DecidableEq, Repr

/-- The four edges of one period, in FS from its start, and how the modifiers of R259 made them. -/
structure Plan where
  /-- PWMHn rises -/
  hRise : Option Int := none
  /-- PWMHn falls -/
  hFall : Option Int := none
  /-- PWMLn rises -/
  lRise : Option Int := none
  /-- PWMLn falls -/
  lFall : Option Int := none
  /-- the integer period with its dither step, FS -/
  period : Nat := 0
  /-- the on-time placed, FS -/
  onTime : Nat := 0
  /-- the on-time otherwise due, before a stretch, FS (R260) -/
  due : Nat := 0
  refresh : Bool := false
  stretch : Bool := false
  /-- the period skipped in LIGHTLOAD (R178) -/
  skipped : Bool := false
  /-- PWMLn omitted as too short (R239) -/
  noLow : Bool := false
  /-- the on-time this period repays of the debt, FS (R260) -/
  repay : Nat := 0
  /-- a trip or a guard cut the period before its PWMHn fell, so that its fall is not placed (R258) -/
  cutHigh : Bool := false
  /-- the period was cut from its start (R254) -/
  void : Bool := false
  /-- the period carries the two conversions of a diagnosis (R395) -/
  diag : Bool := false
deriving DecidableEq, Repr

/-- The edge placer of one phase (R221 to R261). -/
structure Placer where
  /-- PHn_STATE.PSTATE, 3 bits, R370; reset 0 (STANDBY) -/
  pstate : PState := .standby
  /-- the first switching period has started (R370) -/
  switching : Bool := false
  /-- the phase stops at the end of its current period (R371, R184) -/
  stopAtEnd : Bool := false
  /-- outputs held off by a group-off broadcast until the next entry to ADDING (R492) -/
  heldOff : Bool := false
  /-- PHn_PERIOD, 26 bits in sixteenths of FS; reset 0 -/
  per : Nat := 0
  /-- PHn_ON, 25 bits in sixteenths of FS, R221; reset 0 -/
  on : Nat := 0
  /-- the demand the engine last delivered, sixteenths of FS (R309) -/
  demand : Nat := 0
  /-- the demand before it, which a rise committed by then still follows (R225) -/
  demandWas : Nat := 0
  /-- tick at which the last demand was delivered (R225) -/
  demandAt : Nat := 0
  /-- PHn_DT.HL, 13 bits, R244; reset 0 -/
  dtHl : Nat := 0
  /-- PHn_DT.LH, 13 bits, R244; reset 0 -/
  dtLh : Nat := 0
  /-- DT_ADAPT of the HL edge, FS, R242; reset 0 DESIGN CHOICE -/
  adHl : Nat := 0
  /-- DT_ADAPT of the LH edge -/
  adLh : Nat := 0
  /-- the next period uses DT_MAX for the HL edge (R243) -/
  maxHl : Bool := false
  maxLh : Bool := false
  /-- the period in progress uses DT_MAX for the HL edge -/
  nowMaxHl : Bool := false
  nowMaxLh : Bool := false
  /-- PHn_TCOMM.HL, 13 bits, R240; reset 0x1FFF -/
  tcHl : Nat := 0x1FFF
  /-- PHn_TCOMM.LH, 13 bits, R240; reset 0x1FFF -/
  tcLh : Nat := 0x1FFF
  /-- consecutive periods without a PWMLn pulse (R249) -/
  noLowRun : Nat := 0
  /-- PHn_CNT_BOOT, 32 bits, wraps, R251; reset 0 -/
  cntBoot : Word := 0
  /-- PHn_STATE.TRIP_IN, 1 bit, R252; reset 0 -/
  tripIn : Bool := false
  /-- the model's: tick at which TRIP_IN last changed, from which TRIP_FILT samples of the other level are counted (R252) -/
  tripAt : Nat := 0
  /-- PHn_STATE.CUT, 1 bit, R253; reset 0 -/
  cut : Bool := false
  /-- the period in progress is a tripped period (R255) -/
  tripped : Bool := false
  /-- the on-time held before the cut, FS (R261) -/
  cutOn : Nat := 0
  /-- PHn_STATE.FULL_ON, 1 bit, R238; reset 0 -/
  fullOn : Bool := false
  /-- PWMHn high through the boundary into this period -/
  highAtStart : Bool := false
  /-- PHn_STATE.INROT, 1 bit, R232; reset 0 -/
  inRot : Bool := false
  /-- PHn_CNT_TRIP.TOTAL, 24 bits, saturates; reset 0 -/
  tripTotal : Nat := 0
  /-- PHn_CNT_TRIP.RUN, 8 bits, R255; reset 0 -/
  tripRun : Nat := 0
  /-- PHn_CNT_NOCOMM.HL, 16 bits, saturates, R243; reset 0 -/
  noCommHl : Nat := 0
  /-- PHn_CNT_NOCOMM.LH, 16 bits, saturates; reset 0 -/
  noCommLh : Nat := 0
  /-- PHn_CNT_SKIP.SKIP, 16 bits, saturates, R237; reset 0 -/
  skip : Nat := 0
  /-- PHn_CNT_SKIP.NO_LOW, 16 bits, saturates, R239; reset 0 -/
  noLow : Nat := 0
  /-- PHn_TRIM, 18 bits signed, R377; reset 0 -/
  trim : Int := 0
  /-- PHn_DEBT, 22 bits, R260; reset 0 -/
  debt : Nat := 0
  /-- pulses of the phase in COT and COFF (R223) -/
  pulses : Nat := 0
  /-- pattern position of the current period (R222, R223) -/
  pat : Nat := 0
  /-- the group period in which BAL added the phase; it first switches in a later one (R382) -/
  addedIn : Option Nat := none
  /-- the phase has returned from SHEDDING in the period in progress, which keeps its share of the demand (R386) -/
  returning : Bool := false
  /-- periods since SHEDDING began (R385) -/
  shedJ : Nat := 0
  /-- full periods completed since the first switching period started (R371) -/
  periods : Nat := 0
  /-- where the current period started, FS of the timebase (R229 to R231) -/
  start : Nat := 0
  /-- the model's: tick at which the phase last began to switch (R511) -/
  switchedAt : Nat := 0
  /-- the edges of the current period -/
  plan : Plan := {}
  /-- where edges of the current period were last placed anew, FS from its start (R225, R257) -/
  reAt : Int := 0
  /-- the on-time at the period's start, and at each position at which a demand has since placed it anew, oldest first: what a trigger committed by
  then still follows (R257) -/
  onFirst : Nat := 0
  moves : List (Int × Nat) := []
  /-- the period in progress is a full-on period, cut or not (R238, R258) -/
  wasFull : Bool := false
  /-- TRIGA of the current period has fired or was dropped (R257) -/
  firedA : Bool := false
  /-- TRIGB likewise -/
  firedB : Bool := false
  /-- the trigger of the current period that is an event of the group converter has been counted (R283) -/
  gvDone : Bool := false
  /-- tick of the end of the phase's last switching period that was not skipped (R285) -/
  pulseEnd : Nat := 0
  /-- state changes made and not yet granted as PH_STATE, oldest first (R371) -/
  reports : List PState := []
  /-- both outputs low at once because the output cell met an overlap request (R248) -/
  interlock : Bool := false
deriving DecidableEq, Repr

/-- Which consumer a conversion in flight belongs to. -/
inductive Purpose where
  | a
  | b
deriving DecidableEq, Repr

/-- A conversion between its trigger tick and its result (R264). -/
structure Flight where
  trig : Nat
  /-- the phase's period it belongs to, by `Placer.periods` -/
  per : Nat := 0
  purpose : Purpose := .a
  notReady : Bool := false
  local_ : Bool := false
deriving DecidableEq, Repr

/-- The current converter of one phase (R277 to R281). -/
structure PhaseConv where
  /-- ADC_PHn_RES_A, 32 bits, R267; reset 0 -/
  resA : Word := 0
  /-- ADC_PHn_RES_B, 32 bits, R267; reset 0 -/
  resB : Word := 0
  /-- SEQ of the next result, 8 bits; reset 0 -/
  seq : BitVec 8 := 0
  /-- ADC_PHn_CNT, 32 bits, wraps; reset 0 -/
  cnt : Word := 0
  /-- ADC_PHn_DROP, 32 bits, saturates, R278; reset 0 -/
  drop : Nat := 0
  /-- trigger tick of the last accepted conversion (R266) -/
  lastTrig : Option Nat := none
  /-- conversions in progress, oldest first -/
  flights : List Flight := []
  /-- the latest TRIGA and TRIGB results, each with its period and corrected count (R279) -/
  valA : Option (Nat × Int) := none
  valB : Option (Nat × Int) := none
  /-- the latest selected value, corrected counts, doubled for the mean of a pair (R279) -/
  sel2 : Option Int := none
  /-- sum and number of the averaging window in progress, amperes (R281) -/
  avgSum : Rat := 0
  avgN : Nat := 0
  /-- ADC_PHn_AVG, IEEE 754 single; reset 0 -/
  avg : Rat := 0
  /-- ADC_PHn_STAT.AVG_VALID, 1 bit; reset 0 -/
  avgValid : Bool := false
  /-- the last result of either trigger lay below OC_LEVEL (R502) -/
  belowOc : Bool := true
deriving DecidableEq, Repr

/-- BAL's registers and counters of one phase (R375 to R405). -/
structure PhaseBal where
  /-- sum and number of the pass's selected values, amperes (R375) -/
  sum : Rat := 0
  n : Nat := 0
  /-- values of the period in progress, which count only if it ends neither cut, skipped nor diagnosed -/
  perSum : Rat := 0
  perN : Nat := 0
  /-- whether the values of the period before count, for a conversion that ends after it -/
  lastGood : Bool := false
  /-- the phase has an average for the last pass -/
  has : Bool := false
  /-- BAL_PHn_AVG, IEEE 754 single, R375; reset 0 -/
  avg : Rat := 0
  /-- BAL_PHn_DIAG.VERIFIED, 1 bit, R399; reset 0 -/
  verified : Bool := false
  /-- BAL_PHn_DIAG.FAILS, 2 bits, R400; reset 0 -/
  fails : Nat := 0
  /-- FAILS has reached 3 and PH_OPEN has not been raised for it yet (R400) -/
  openDue : Bool := false
  /-- BAL_PHn_DIAG.SINCE, 13 bits, saturates, R402; reset 0 -/
  since : Nat := 0
  /-- BAL_PHn_DIAG.RISE, 16 bits signed, R395; reset 0 -/
  rise : Int := 0
  /-- BAL_PHn_STAT.DIAG_DUE, 1 bit, R401; reset 0 -/
  diagDue : Bool := false
  /-- BAL_PHn_STAT.IMBAL, 1 bit, R380; reset 0 -/
  imbal : Bool := false
  /-- BAL_PHn_STAT.UNVERIFIED, 1 bit, R402; reset 0 -/
  unverified : Bool := false
  /-- consecutive passes ended at the trim limit (R380) -/
  imbalRun : Nat := 0
  /-- BAL_PHn_CNT_DIAG.PASSED, 16 bits, saturates; reset 0 -/
  passed : Nat := 0
  /-- BAL_PHn_CNT_DIAG.FAILED, 16 bits, saturates; reset 0 -/
  failed : Nat := 0
  /-- BAL_PHn_CNT_STR, 32 bits, wraps; reset 0 -/
  strCnt : Word := 0
  /-- diagnosed already in this pass (R397) -/
  donePass : Bool := false
  /-- a stretch waits for a period that may carry it, with the periods left of its 16 (R402) -/
  stretchWait : Option Nat := none
  /-- PH_UNVERIFIED logged since the phase started (R402) -/
  logged : Bool := false
deriving DecidableEq, Repr

/-- One phase. -/
structure PhaseUnit where
  cfg : PhaseCfg := {}
  pl : Placer := {}
  conv : PhaseConv := {}
  bal : PhaseBal := {}
deriving DecidableEq, Repr

/-- Modulation modes (R228). -/
inductive Modulation where
  | fixedTe
  | fixedLe
  | cot
  | coff
deriving DecidableEq, Repr

/-- The image's settings of one group: GROUPS (R302), LIMITS (R523), SHEDDING (R411), SETPOINTS (R336),
LCMD (R369), CHAIN (R466). -/
structure GroupCfg where
  /-- GRPn_MOD.MOD, 2 bits CFG, R228; reset 0 -/
  mod : Modulation := .fixedTe
  /-- GRPn_MOD.FULL_EN, 1 bit CFG, R238; reset 0 -/
  fullEn : Bool := false
  /-- GRPn_MOD.SPAN, 1 bit CFG; reset 0 -/
  span : Bool := false
  /-- GRPn_PERIOD, 26 bits CFG in sixteenths of FS; reset 0 -/
  period : Nat := 0
  /-- GRPn_CONST, 21 bits CFG, R230; reset 0 -/
  const : Nat := 0
  /-- GRPn_PER_MIN, 22 bits CFG, R234; reset 0 -/
  perMin : Nat := 0
  /-- GRPn_PER_MAX, 22 bits CFG, R234; reset 0 -/
  perMax : Nat := 0
  /-- GRPn_MODE_CFG.LL_EN, 1 bit CFG; reset 0 -/
  llEn : Bool := false
  /-- GRPn_MODE_CFG.PRE_EN, 1 bit CFG; reset 0 -/
  preEn : Bool := false
  /-- GRPn_MODE_CFG.CHARGE_OK, 1 bit CFG; reset 0 -/
  chargeOk : Bool := false
  /-- GRPn_MODE_CFG.RUN_DEFAULT, 1 bit CFG; reset 0 -/
  runDefault : Bool := false
  /-- GRPn_MODE_CFG.AUTO_START, 1 bit CFG; reset 0 -/
  autoStart : Bool := false
  /-- GRPn_PRE.PRE_TMAX, 16 bits CFG; reset 0 -/
  preTmax : Nat := 0
  /-- GRPn_PRE.PRE_ILIM, 10 bits CFG; reset 0 -/
  preIlim : Nat := 0
  /-- GRPn_PRE_V.PRE_VEND, 10 bits CFG; reset 0 -/
  preVend : Nat := 0
  /-- GRPn_SS.SS_TMAX, 16 bits CFG; reset 0 -/
  ssTmax : Nat := 0
  /-- GRPn_SS.SS_INEG, 10 bits CFG; reset 0 -/
  ssIneg : Nat := 0
  /-- GRPn_SHDN.SHDN_RAMP_T, 10 bits CFG; reset 0 -/
  shdnRampT : Nat := 0
  /-- GRPn_LL.LL_ENTER, 8 bits CFG; reset 0 -/
  llEnter : Nat := 0
  /-- GRPn_LL.LL_EXIT, 8 bits CFG; reset 0 -/
  llExit : Nat := 0
  /-- GRPn_LL.LL_DWELL, 16 bits CFG; reset 0 -/
  llDwell : Nat := 0
  /-- ADC_GVn_VTRIG.SRC, 2 bits CFG, R283; reset 0 -/
  src : Nat := 0
  /-- ADC_GVn_VTRIG.SUB, 4 bits CFG, less 1; reset 0 -/
  sub : Nat := 0
  /-- ADC_GVn_VTRIG.DEC, 4 bits CFG, less 1, R284; reset 0 -/
  dec : Nat := 0
  /-- ADC_GVn_IN_CFG.LOSS_WARN, 1 bit CFG, R288; reset 0 -/
  lossWarn : Bool := false
  /-- ADC_GVn_IN_CFG.REF, 2 bits CFG, R272; reset 0 -/
  refSel : Nat := 0
  /-- ADC_GVn_IN_CFG.DIFF, 1 bit CFG, R282; reset 0 -/
  diff : Bool := false
  /-- ADC_GVn_OFFS, 16 bits signed CFG; reset 0 -/
  offs : Int := 0
  /-- ADC_GVn_VSL_CAL.VSL_GAIN, 16 bits CFG, R293; reset 0 -/
  vslGain : Nat := 0
  /-- ADC_GVn_VSL_CAL.VSL_OFFS, 16 bits CFG, R293; reset 0 -/
  vslOffs : Nat := 0
  /-- ADC_GVn_V_SCALE, 32 bits CFG; reset 0 -/
  vScale : Word := 0
  /-- ADC_GVn_TEL_CFG.AVG_K, 5 bits CFG, R299; reset 0 -/
  avgK : Nat := 0
  /-- ADC_GVn_TEL_CFG.NTC_MASK, 16 bits CFG, R298; reset 0 -/
  ntcMask : Nat := 0
  /-- GRD_GRPn_ILIM.I_LIM, 16 bits CFG, R394; reset 0 -/
  iLim : Nat := 0
  /-- GRD_GRPn_ILIM.I_FOLD, 16 bits CFG; reset 0 -/
  iFold : Nat := 0
  /-- GRD_GRPn_VKNEE.V_KNEE, 16 bits CFG; reset 0 -/
  vKnee : Nat := 0
  /-- GRD_GRPn_OV.OV_LEVEL, 16 bits signed CFG; reset 0 -/
  ovLevel : Int := 0
  /-- GRD_GRPn_OV.OV_CLR, 16 bits signed CFG; reset 0 -/
  ovClr : Int := 0
  /-- GRD_GRPn_OVW.OV_WARN, 16 bits signed CFG; reset 0 -/
  ovWarn : Int := 0
  /-- GRD_GRPn_OT.OT_LEVEL, 16 bits signed CFG, 0.1 °C; reset 0 -/
  otLevel : Int := 0
  /-- GRD_GRPn_OT.OT_CLR, 16 bits signed CFG; reset 0 -/
  otClr : Int := 0
  /-- GRD_GRPn_OTW.OT_WARN, 16 bits signed CFG; reset 0 -/
  otWarn : Int := 0
  /-- GRD_GRPn_RETRY.RETRY_N, 4 bits CFG, R510; reset 0 -/
  retryN : Nat := 0
  /-- GRD_GRPn_RETRY.RETRY_MS, 16 bits CFG; reset 0 -/
  retryMs : Nat := 0
  /-- GRD_GRPn_RETRY_MASK, 16 bits CFG; reset 0 -/
  retryMask : Nat := 0
  /-- BAL_Gg_THR.ADD_PCT, 8 bits CFG, R382; reset 0 -/
  addPct : Nat := 0
  /-- BAL_Gg_THR.SHED_PCT, 8 bits CFG, R384; reset 0 -/
  shedPct : Nat := 0
  /-- BAL_Gg_THR.HYST_PCT, 8 bits CFG, R384; reset 0 -/
  hystPct : Nat := 0
  /-- BAL_Gg_THR.ADD_FAST_PCT, 8 bits CFG, R383; reset 0 -/
  addFastPct : Nat := 0
  /-- BAL_Gg_SHED.SHED_DWELL, 8 bits CFG, R384; reset 0 -/
  shedDwell : Nat := 0
  /-- BAL_Gg_SHED.SHED_RAMP, 8 bits CFG, R385; reset 0 -/
  shedRamp : Nat := 0
  /-- BAL_Gg_SHED.ADD_BURST, 5 bits CFG, R383; reset 0 -/
  addBurst : Nat := 0
  /-- BAL_Gg_DER.PH_MIN_NOM, 5 bits CFG, R388; reset 0 -/
  phMinNom : Nat := 0
  /-- BAL_Gg_DER.DER_MIN, 8 bits CFG, R407; reset 0 -/
  derMin : Nat := 0
  /-- BAL_Gg_DER.DER_ILIM_PCT, 8 bits CFG, R408; reset 0 -/
  derIlimPct : Nat := 0
  /-- BAL_Gg_CFG.BAL_EN, 1 bit CFG, R374; reset 0 -/
  balEn : Bool := false
  /-- BAL_Gg_CFG.BAL_POL, 1 bit CFG, R377; reset 0 -/
  balPol : Bool := false
  /-- BAL_Gg_CFG.STRETCH_EN, 1 bit CFG, R402; reset 0 -/
  stretchEn : Bool := false
  /-- BAL_Gg_CFG.DIAG_EN, 1 bit CFG, R396; reset 0 -/
  diagEn : Bool := false
  /-- BAL_Gg_CFG.TRIM_STEP, 8 bits CFG, R377; reset 0 -/
  trimStep : Nat := 0
  /-- BAL_Gg_DIAG.WINDOW, 13 bits CFG, R402; reset 0 -/
  window : Nat := 0
  /-- BAL_Gg_DIAG.DIAG_MIN, 11 bits CFG, R399; reset 0 -/
  diagMin : Nat := 0
  /-- BAL_Gg_KI, IEEE 754 single CFG, R377; reset 0 -/
  balKi : Word := 0
  /-- BAL_Gg_DB, IEEE 754 single CFG, R377; reset 0 -/
  balDb : Word := 0
  /-- BAL_Gg_RATE, IEEE 754 single CFG, R262; reset 0 -/
  rate : Word := 0
  /-- SETPOINTS selection byte: VSEL_EN, R336; reset 0 -/
  vselEn : Bool := false
  /-- HOST_EN, R336; reset 0 -/
  hostEn : Bool := false
  /-- VREQ_EN, R336; reset 0 -/
  vreqEn : Bool := false
  /-- DEFAULT_SET, 4 bits, R336; reset 0 -/
  defaultSet : Nat := 0
  /-- LCMD_Gg_ANT_K, 32 bits signed CFG, R369; reset 0 -/
  antK : Int := 0
  /-- LCMD_Gg_ANT_BASE, 20 bits CFG; reset 0 -/
  antBase : Nat := 0
  /-- LCMD_Gg_PREP.PREP_LOAD, 8 bits CFG; reset 0 -/
  prepLoad : Nat := 0
  /-- LCMD_Gg_PREP.ARRIVE_PCT, 8 bits CFG; reset 0 -/
  arrivePct : Nat := 0
deriving DecidableEq, Repr

/-- A held peak (R300). -/
structure Peak where
  hi : Rat := 0
  lo : Rat := 0
deriving DecidableEq, Repr

/-- A block average in progress and its last result (R299). -/
structure BlockAvg where
  sum : Rat := 0
  n : Nat := 0
  avg : Rat := 0
  valid : Bool := false
deriving DecidableEq, Repr

/-- The voltage converter and telemetry of one group (R282 to R300). -/
structure GroupConv where
  /-- ADC_GVn_RES, 32 bits, R267; reset 0 -/
  res : Word := 0
  /-- SEQ of the next result, 8 bits; reset 0 -/
  seq : BitVec 8 := 0
  /-- ADC_GVn_STAT.SKIP, 16 bits, saturates, R284; reset 0 -/
  skip : Nat := 0
  /-- ADC_GVn_STAT.CHECKING, 1 bit, R291; reset 0 -/
  checking : Bool := false
  /-- ADC_GVn_STAT.LOCAL, 1 bit, R288; reset 0 -/
  onLocal : Bool := false
  /-- ADC_GVn_STAT.LOST, 1 bit, R288; reset 0 -/
  lost : Bool := false
  /-- the sense loss is an injection's, whose condition counts as gone at once (R528) -/
  lostInj : Bool := false
  /-- trigger events since the group's start (R284) -/
  events : Nat := 0
  /-- equally spaced positions of the current group period that have been events (R283) -/
  sub : Nat := 0
  /-- the last firing slot has not been counted as an event yet (R283) -/
  slotEv : Bool := false
  /-- trigger tick of the last accepted conversion -/
  lastTrig : Option Nat := none
  flights : List Flight := []
  /-- the next conversion while CHECKING is on the remote pair (R291) -/
  remoteNext : Bool := true
  /-- consecutive out-of-range remote conversions (R288) -/
  oorRun : Nat := 0
  /-- consecutive in-range remote conversions while CHECKING (R291) -/
  inRun : Nat := 0
  /-- the latest corrected count -/
  v : Int := 0
  /-- trigger tick of the latest conversion delivered -/
  vTick : Nat := 0
  /-- a valid corrected count has been delivered (VALID), and it carries OVR -/
  vValid : Bool := false
  vOvr : Bool := false
  vNotReady : Bool := false
  vAvg : BlockAvg := {}
  iAvg : BlockAvg := {}
  pAvg : BlockAvg := {}
  vPk : Peak := {}
  iPk : Peak := {}
  pPk : Peak := {}
  /-- ADC_GVn_TEL_STAT.PK_VALID, 1 bit; reset 0 -/
  pkValid : Bool := false
  /-- most recent sample of voltage, current and power (R300) -/
  vLast : Rat := 0
  iLast : Rat := 0
  pLast : Rat := 0
  /-- ADC_GVn_T_MAX, IEEE 754 single; reset 0 -/
  tMax : Rat := 0
  /-- ADC_GVn_TEL_STAT.T_VALID, 1 bit; reset 0 -/
  tValid : Bool := false
  /-- OT_WARN held against repetition while T_MAX stays at or above it (R63) -/
  otWarned : Bool := false
  /-- consecutive conversions at or above OV_WARN, and whether the run has warned (R503) -/
  ovwRun : Nat := 0
  ovwDone : Bool := false
  /-- consecutive conversions below OV_CLR (R502) -/
  ovClrRun : Nat := 0
  /-- an OV request awaits its URGENT grant (R522), with the result word -/
  ovReq : Option (Word × Bool) := none
  /-- consecutive conversions inside and outside the PG limits (R349) -/
  pgIn : Nat := 0
  pgOut : Nat := 0
deriving DecidableEq, Repr

/-- BAL of one group (R373 to R409). -/
structure GroupBal where
  /-- BAL_Gg_COUNT, five 5-bit counts, R373; reset 0 -/
  active : Nat := 0
  adding : Nat := 0
  shedding : Nat := 0
  standby : Nat := 0
  faulted : Nat := 0
  /-- BAL_Gg_LOAD, IEEE 754 single, R381; reset 0 -/
  load : Rat := 0
  /-- BAL_Gg_STAT.ROTATING, 1 bit, R403; reset 0 -/
  rotating : Bool := false
  /-- the phase a rotation sheds once its replacement is ACTIVE -/
  rotOut : Option Phase := none
  rotIn : Option Phase := none
  /-- BAL_Gg_STAT.DERATE, 1 bit, R408; reset 0 -/
  derate : Bool := false
  /-- BAL_Gg_CNT_AS.ADDS, 16 bits, wraps; reset 0 -/
  adds : BitVec 16 := 0
  /-- BAL_Gg_CNT_AS.SHEDS, 16 bits, wraps; reset 0 -/
  sheds : BitVec 16 := 0
  /-- BAL_Gg_CNT_RR.REVERSALS, 16 bits, wraps; reset 0 -/
  reversals : BitVec 16 := 0
  /-- BAL_Gg_CNT_RR.ROTATIONS, 16 bits, wraps; reset 0 -/
  rotations : BitVec 16 := 0
  /-- sum and number of the group current samples of the period and of the pass (R381) -/
  perSum : Rat := 0
  perN : Nat := 0
  passSum : Rat := 0
  passN : Nat := 0
  /-- consecutive shed candidate passes (R384) -/
  dwell : Nat := 0
  /-- the phases BAL has decided to shed and that have not entered SHEDDING yet, oldest first (R385, R403) -/
  shedNext : List Phase := []
  /-- group periods still to start before a new add decision (R383) -/
  addAfter : Nat := 0
  /-- the group period that has just started ends a pass, and BAL_PASS is due (R374) -/
  passDue : Bool := false
deriving DecidableEq, Repr

/-- An open forecast preparation of one port for one group (R360 to R368). -/
structure Prep where
  port : LcmdPort
  /-- the device whose port took the frame: this one, or the member that forwarded it (R362) -/
  src : Address
  step : Int
  ts : Nat
  windowEnd : Nat
  arrival : Rat
  /-- arrived or missed; kept only until its armed or queued term has fired -/
  closed : Bool := false
  /-- the term, if any: AT, AMP, DECAY, and whether it has fired or still waits -/
  at_ : Nat := 0
  amp : Int := 0
  decay : Nat := 0
  hasTerm : Bool := false
  fired : Bool := false
  armed : Bool := false
  /-- generation in which the term was armed -/
  gen : Nat := 0
  liftEn : Bool := false
  /-- swaps still to be granted up to the preparation's own (R361, R363) -/
  swaps : Nat := 0
deriving DecidableEq, Repr

/-- One group (modes, modulation, set selection, preparations). -/
structure GroupUnit where
  cfg : GroupCfg := {}
  /-- GRPn_MODE.MODE, 4 bits, R160; reset 0x1 (BOOT); the group's own mode beneath the device's (R159) -/
  mode : Mode := .boot
  /-- GRPn_MODE.PREV, 4 bits; reset 0 (OFF) -/
  prev : Mode := .off
  /-- GRPn_MODE.CAUSE, 8 bits, R161; reset 0 -/
  cause : Cause := .none
  /-- GRPn_MODE_SEQ, 32 bits; reset 0 -/
  modeSeq : Word := 0
  /-- GRPn_REQ.ENABLE, 1 bit CMD; reset 0 -/
  enable : Bool := false
  /-- GRPn_REQ.RUN_SEL, 1 bit CMD; reset 0 -/
  runSel : Bool := false
  /-- tick of entry to the present mode -/
  since : Nat := 0
  /-- tick from which the group has switched in running modes without a break (R511) -/
  runSince : Option Nat := none
  /-- a ramp to zero is in progress for a stop or SHUTDOWN (R184, R348) -/
  ramping : Bool := false
  /-- the stop was an ENABLE cleared: at its end the group enters STANDBY -/
  stopping : Bool := false
  /-- tick from which the group voltage has been at or above PRE_VEND (R169) -/
  preHold : Option Nat := none
  /-- COMPLETE of PRECHARGE has been requested and awaits its grant (R169) -/
  preReq : Bool := false
  /-- COMPLETE of PRECHARGE has been granted (R69) -/
  preDone : Bool := false
  /-- COMPLETE of PRECHARGE has been granted with an ABORT of it still to be granted (R69) -/
  preWon : Bool := false
  /-- tick from which the load has been below LL_ENTER (R177) -/
  llSince : Option Nat := none
  /-- a load above LL_EXIT was seen and asks for REGULATE -/
  pg : Bool := false
  /-- GRPn_ROT.COUNT, 5 bits, R234; reset 0 -/
  rotCount : Nat := 0
  /-- GRPn_ROT.NEXT, 5 bits; reset 0 -/
  rotNext : Nat := 0
  /-- the firing interval in force, FS (R234) -/
  ti : Nat := 0
  /-- GRPn_PCNT.COUNT, 28 bits, wraps; reset 0 -/
  pcnt : Nat := 0
  /-- the first group period has started since the group left STANDBY -/
  started : Bool := false
  /-- tick from which period 0 starts: of the grant of the MODE_CHANGE that took the group out of STANDBY (R229) -/
  startAt : Nat := 0
  /-- where the current group period started, FS of the timebase (R229) -/
  perStart : Nat := 0
  /-- where the last firing slot lay, FS (R230, R231) -/
  slotLast : Nat := 0
  /-- where the next firing slot lies, FS (R233) -/
  slotAt : Nat := 0
  conv : GroupConv := {}
  bal : GroupBal := {}
  /-- SETPT_Gn_HSEL, 4 bits CMD; reset 0 -/
  hsel : Nat := 0
  /-- SETPT_Gn_SELSTAT.SRC, 4 bits; reset 0 -/
  selSrc : Nat := 0
  /-- SETPT_Gn_SELSTAT.SET, 4 bits; reset 0 -/
  selSet : Nat := 0
  /-- SETPT_Gn_SELSEQ, 32 bits; reset 0 -/
  selSeq : Word := 0
  /-- a selection made in SWEEP waits for the end of the sweep that it aborts (R341) -/
  selWait : Bool := false
  /-- open preparations, oldest first -/
  preps : List Prep := []
  /-- the last ANT_GEN issued, 16 bits, skips 0 (R361) -/
  antGen : Nat := 0
  /-- a phase floor a leader has sent (R442) -/
  floor : Nat := 0
  /-- what the chain's corrections add to the periods of the group period in progress, FS (R433, R435) -/
  adj : Int := 0
deriving DecidableEq, Repr

/-- Output kinds (R309). -/
inductive OutKind where
  | on
  | duty
  | ti
  | iref
deriving DecidableEq, Repr

/-- PAIR (R321). -/
inductive PairKind where
  | none
  | cascade
  | minSelect
deriving DecidableEq, Repr

/-- One coefficient bank (R330), Q4.20. -/
structure Bank where
  a1 : Int := 0
  a2 : Int := 0
  a3 : Int := 0
  b0 : Int := 0
  b1 : Int := 0
  b2 : Int := 0
  b3 : Int := 0
deriving DecidableEq, Repr

/-- The image's settings of one engine (R335). -/
structure EngineCfg where
  /-- LEn_CFG.EN, 1 bit CFG; reset 0 -/
  en : Bool := false
  /-- LEn_CFG.ORDER, 1 bit CFG, R304; reset 0 -/
  order : Bool := false
  /-- LEn_CFG.MEAS, 1 bit CFG: mean phase current; reset 0 -/
  measI : Bool := false
  /-- LEn_CFG.OUT, 3 bits CFG, R309; reset 0 -/
  out : OutKind := .on
  /-- LEn_CFG.PAIR, 2 bits CFG, R321; reset 0 -/
  pair : PairKind := .none
  /-- LEn_CFG.REF_SRC, 2 bits CFG; reset 0 -/
  refSrc : Nat := 0
  /-- LEn_CFG.GROUP, 3 bits CFG; reset 0 -/
  group : Nat := 0
  /-- LEn_CFG.VFF_SRC, 5 bits CFG, R326; reset 0 -/
  vffSrc : Nat := 0
  /-- LEn_CFG.VFF_MODE, 3 bits CFG, R326; reset 0 -/
  vffMode : Nat := 0
  /-- LEn_YMIN, 21 bits CFG; reset 0 -/
  yMin : Int := 0
  /-- LEn_YMAX, 21 bits CFG; reset 0 -/
  yMax : Int := 0
  /-- LEn_VFF_K, 24 bits CFG, Q4.20; reset 0 -/
  vffK : Int := 0
  /-- LEn_DROOP, 24 bits CFG, Q4.20; reset 0 -/
  droop : Int := 0
  /-- LEn_Bb_A1 to _B3, 24 bits CFG each; reset 0 -/
  banks : Vector Bank 3 := Vector.replicate 3 {}
deriving DecidableEq, Repr

/-- The sine source and response accumulators (R332 to R334). -/
structure Injection where
  /-- LEn_INJ_CFG.POINT, 2 bits; reset 0 -/
  point : Nat := 0
  /-- LEn_INJ_CFG.AMP, 16 bits; reset 0 -/
  amp : Nat := 0
  /-- LEn_INJ_INC, 40 bits; reset 0 -/
  inc : Nat := 0
  /-- LEn_INJ_T0, 64 bits; reset 0 -/
  t0 : Nat := 0
  /-- LEn_RSP_CTL.RUN, 1 bit; reset 0 -/
  run : Bool := false
  /-- LEn_RSP_CTL.SAT, 1 bit; reset 0 -/
  sat : Bool := false
  /-- LEn_RSP_X1C, 64 bits signed; reset 0 -/
  x1c : Int := 0
  x1s : Int := 0
  x2c : Int := 0
  x2s : Int := 0
  /-- LEn_RSP_N, 32 bits; reset 0 -/
  n : Word := 0
  /-- the last evaluation clamped yc or y_out (R477) -/
  clamped : Bool := false
deriving DecidableEq, Repr

/-- A request that an engine's source holds at EVA (R62): the ramp's end of its group, a term fired, or a change of the saturation bits with what
its record holds. -/
inductive EngReq where
  | ramp
  | ant
  | sat (hi lo : Bool) (out : Int) (rose : Bool)
deriving DecidableEq, Repr

/-- One loop engine (R304 to R331). -/
structure EngineUnit where
  cfg : EngineCfg := {}
  /-- LEn_HY1 to _HY3, 26 bits signed; reset 0 -/
  y1 : Int := 0
  y2 : Int := 0
  y3 : Int := 0
  /-- LEn_HE1 to _HE3, 16 bits signed; reset 0 -/
  e1 : Int := 0
  e2 : Int := 0
  e3 : Int := 0
  /-- LEn_RESID, 20 bits; reset 0 -/
  resid : Int := 0
  /-- LEn_OUT, 26 bits signed sixteenths; reset 0 -/
  yOut : Int := 0
  /-- LEn_ERR, 16 bits signed; reset 0 -/
  err : Int := 0
  /-- LEn_REF, 16 bits signed; reset 0 -/
  ref : Int := 0
  /-- LEn_MEAS, 16 bits signed; reset 0 -/
  meas : Int := 0
  /-- LEn_FF_VIN, 25 bits; reset 0 -/
  ffVin : Int := 0
  /-- LEn_FF_ANT, 26 bits signed; reset 0 -/
  ffAnt : Int := 0
  /-- trigger tick of the conversion last evaluated, for the CT of a SHARE (R438) -/
  evalAt : Nat := 0
  /-- LEn_CNT_EVAL, 32 bits, wraps; reset 0 -/
  cntEval : Word := 0
  /-- LEn_CNT_NR, 32 bits, saturates; reset 0 -/
  cntNr : Nat := 0
  /-- LEn_CNT_SAT, 32 bits, saturates; reset 0 -/
  cntSat : Nat := 0
  /-- LEn_CNT_ACCSAT, 32 bits, saturates; reset 0 -/
  cntAccSat : Nat := 0
  /-- LEn_STAT.ACC_SAT, 1 bit RCL; reset 0 -/
  accSat : Bool := false
  /-- LEn_STAT.SEL, 1 bit, R323; reset 0 -/
  sel : Bool := false
  /-- consecutive evaluations clamped high and low (R311), and the reported bits SAT_HI, SAT_LO -/
  hiRun : Nat := 0
  loRun : Nat := 0
  satHi : Bool := false
  satLo : Bool := false
  /-- LEn_STAT.DROOP, 1 bit, R325; reset 0 -/
  droopOn : Bool := false
  /-- LEn_STAT.BANK, 2 bits; reset 0 -/
  bank : Nat := 0
  /-- the anticipation generation last fired, its tick, amplitude and decay (R328) -/
  antGen : Nat := 0
  antT : Nat := 0
  antAmp : Int := 0
  antDecay : Nat := 0
  antRun : Bool := false
  /-- ANT_FIRED awaits its grant (R366) -/
  antReq : Bool := false
  /-- what the engine's source has to report, in the order in which it occurred (R62); empty at first -/
  reqs : List EngReq := []
  /-- a valid V_SRC value has arrived since the start, and VFF_SRC_BAD was logged (R327) -/
  vffOk : Bool := false
  vffLogged : Bool := false
  inj : Injection := {}
deriving DecidableEq, Repr

/-- One group's entry of the set-point file (R345 to R349). -/
structure Entry where
  /-- REF_FROM, 16 bits signed; reset 0 -/
  refFrom : Int := 0
  /-- REF_TO, 16 bits signed; reset 0 -/
  refTo : Int := 0
  /-- SLEW, 20 bits; reset 0 -/
  slew : Nat := 0
  /-- RAMP_T0, 64 bits; reset 0 -/
  rampT0 : Nat := 0
  /-- PG_LO, 16 bits signed; reset 0 -/
  pgLo : Int := 0
  /-- PG_HI, 16 bits signed; reset 0 -/
  pgHi : Int := 0
  /-- CTL.SET, 4 bits; reset 0 -/
  set : Nat := 0
  /-- CTL.BANK, 2 bits; reset 0 -/
  bank : Nat := 0
  /-- CTL.PREP, 1 bit; reset 0 -/
  prep : Bool := false
  /-- CTL.LIFT, 1 bit; reset 0 -/
  lift : Bool := false
  /-- CTL.RAMPING, 1 bit; reset 0 -/
  ramping : Bool := false
  /-- I_LIM, 16 bits; reset 0 -/
  iLim : Nat := 0
  /-- I_FOLD, 16 bits; reset 0 -/
  iFold : Nat := 0
  /-- V_KNEE, 16 bits; reset 0 -/
  vKnee : Nat := 0
  /-- PH_MIN, 5 bits; reset 0 -/
  phMin : Nat := 0
  /-- PH_MAX, 5 bits; reset 0 -/
  phMax : Nat := 0
  /-- ANT_GEN, 16 bits; reset 0 -/
  antGen : Nat := 0
  /-- ANT_AT, 64 bits; reset 0 -/
  antAt : Nat := 0
  /-- ANT_AMP, 26 bits signed; reset 0 -/
  antAmp : Int := 0
  /-- ANT_DECAY, 20 bits; reset 0 -/
  antDecay : Nat := 0
  /-- CHG_V, 16 bits; reset 0 -/
  chgV : Nat := 0
  /-- CHG_I, 16 bits; reset 0 -/
  chgI : Nat := 0
  /-- PRE_IREF, 16 bits; reset 0 -/
  preIref : Nat := 0
  /-- the law that RUN_SEL has put in force by a swap, R176: that of CHARGE; the model's record; reset 0 -/
  chargeLaw : Bool := false
deriving DecidableEq, Repr

/-- One field that a set-point change writes. -/
inductive FieldSet where
  | refFrom (v : Int)
  | refTo (v : Int)
  | slew (v : Nat)
  | pg (lo hi : Int)
  | set (v : Nat)
  | bank (v : Nat)
  | prep (v : Bool)
  | lift (v : Bool)
  | limits (iLim iFold vKnee : Nat)
  | phMin (v : Nat)
  | phMax (v : Nat)
  | ant (gen at_ : Nat) (amp : Int) (decay : Nat)
  | antGen (v : Nat)
  | antAt (v : Nat)
  | chg (v i : Nat)
  | preIref (v : Nat)
  | chargeLaw (v : Bool)
deriving DecidableEq, Repr

/-- A change of one group's entry: its kind (R346) and the fields it writes. -/
structure Change where
  g : Group
  restart : Bool
  sets : List FieldSet
deriving DecidableEq, Repr

/-- One stored set's record for one group (R336). -/
structure SetRec where
  /-- TARGET, 16 bits signed CFG; reset 0 -/
  target : Int := 0
  /-- PG_LO, 16 bits signed CFG; reset 0 -/
  pgLo : Int := 0
  /-- PG_HI, 16 bits signed CFG; reset 0 -/
  pgHi : Int := 0
  /-- LIFT, 16 bits signed CFG; reset 0 -/
  lift : Int := 0
  /-- SLEW, 20 bits CFG; reset 0 -/
  slew : Nat := 0
  /-- DEFINED, 1 bit CFG; reset 0 -/
  defined : Bool := false
deriving DecidableEq, Repr

/-- The set-point file and VSEL (R38 to R42, R336 to R349). -/
structure SetptUnit where
  active : Vector Entry 4 := Vector.replicate 4 {}
  shadow : Vector Entry 4 := Vector.replicate 4 {}
  /-- SETPT_STAT.PENDING, 1 bit; reset 0: the changes written to SHADOW and awaiting the grant -/
  pending : Option (List Change) := none
  /-- changes that fall due while a swap is pending (R346) -/
  waiting : List Change := []
  /-- SETPT_STAT.SWAPS, 16 bits, wraps; reset 0 -/
  swaps : BitVec 16 := 0
  /-- SETPT_SWAP_SEQ, 32 bits; reset 0 -/
  swapSeq : Word := 0
  /-- a group's RAMP_DONE is armed (R347) -/
  armed : Vector Bool 4 := Vector.replicate 4 false
  /-- a RAMP_DONE request awaits its grant; true if a later armed swap has overtaken it -/
  rampReq : Vector (Option Bool) 4 := Vector.replicate 4 none
  /-- swaps still to be granted up to that of the group's latest ramp: none before it arms RAMP_DONE (R172, R184, R190) -/
  hold : Vector Nat 4 := Vector.replicate 4 0
  /-- the 16 stored sets, record s of group g, R336 -/
  sets : Vector (Vector SetRec 4) 16 := Vector.replicate 16 (Vector.replicate 4 {})
  /-- VSEL_STAT.ADOPTED, 1 bit; reset 0 -/
  adopted : Bool := false
  /-- the model's: tick of the last adoption, from which 48 000 samples of another value are counted (R343) -/
  vselAt : Nat := 0
  /-- the EVSEQ of the VSEL_CHANGE that adopted VALUE (R338); the model's record -/
  vselSeq : Word := 0
  /-- VSEL_STAT.RAW, 4 bits; reset 0 -/
  raw : Fin 16 := 0
  /-- VSEL_STAT.VALUE, 4 bits; reset 0 -/
  value : Fin 16 := 0
  /-- VSEL_CNT, 32 bits, wraps; reset 0 -/
  cnt : Word := 0
deriving DecidableEq, Repr

/-- The image's settings of one load-command port (R369). -/
structure LcmdCfg where
  /-- EN, 1 bit CFG; reset 0 -/
  en : Bool := false
  /-- ANT_EN, 1 bit CFG; reset 0 -/
  antEn : Bool := false
  /-- LIFT_EN, 1 bit CFG; reset 0 -/
  liftEn : Bool := false
  /-- DRIVE_ID, 8 bits CFG; reset 0 -/
  driveId : Nat := 0
  /-- GROUPS, 4 bits CFG; reset 0 -/
  groups : Nat := 0
  /-- HB_TIMEOUT, 10 bits CFG; reset 0 -/
  hbTimeout : Nat := 0
  /-- TOL, 10 bits CFG; reset 0 -/
  tol : Nat := 0
  /-- VREQ_MASK, 16 bits CFG; reset 0 -/
  vreqMask : Nat := 0
deriving DecidableEq, Repr

/-- A frame accepted on a load-command port and queued for Badger (R356), with t_e. -/
structure LcmdFrame where
  bytes : List Byte
  te : Nat
deriving DecidableEq, Repr

/-- One load-command port (R350 to R369). -/
structure LcmdUnit where
  cfg : LcmdCfg := {}
  /-- LCMDp_STAT.LAST_SEQ, 8 bits; reset 0 -/
  lastSeq : Nat := 0
  /-- LCMDp_STAT.ALIVE, 1 bit; reset 0 -/
  alive : Bool := false
  /-- ALIVE as the granted HB_ALIVE and HB_LAPSE events give it (R357) -/
  aliveG : Bool := false
  /-- an HB_LAPSE request awaits its grant -/
  lapseReq : Bool := false
  /-- end of the last accepted HEARTBEAT -/
  hbAt : Nat := 0
  /-- LCMDp_HB_LO and _HB_HI, 48 bits; reset 0 -/
  hb : List Byte := [0, 0, 0, 0, 0, 0]
  /-- the four-frame queue, oldest first, R356; reset empty -/
  queue : List LcmdFrame := []
  /-- the last frame accepted, for check 4 of R354 -/
  last : Option (List Byte) := none
  /-- LCMDp_CNT_OK, 32 bits, wraps; reset 0 -/
  ok : Word := 0
  /-- LCMDp_CNT_LINE.GAP, 16 bits, saturates; reset 0 -/
  gap : Nat := 0
  /-- FRAMING, 16 bits, saturates; reset 0 -/
  framing : Nat := 0
  /-- CRC, 16 bits, saturates; reset 0 -/
  crc : Nat := 0
  /-- ID, 16 bits, saturates; reset 0 -/
  idErr : Nat := 0
  /-- FMT, 16 bits, saturates; reset 0 -/
  fmt : Nat := 0
  /-- DUP, 16 bits, saturates; reset 0 -/
  dup : Nat := 0
  /-- OVF, 16 bits, saturates; reset 0 -/
  ovf : Nat := 0
  /-- ORPHAN, 16 bits, saturates; reset 0 -/
  orphan : Nat := 0
  /-- DENIED, 16 bits, saturates; reset 0 -/
  denied : Nat := 0
  /-- MISS, 16 bits, saturates; reset 0 -/
  miss : Nat := 0
  /-- ARRIVED, 16 bits, saturates; reset 0 -/
  arrived : Nat := 0
deriving DecidableEq, Repr

end Sys2Proof.Machine
end

