-- ==== Sys2Proof/Machine/StateData.lean ====
section
/-!
DEFINITION. The data plane's state: references, the auxiliary sequencer, the snapshot buffers, capture
memory and the SWEEP block, the Sett ports and the chain, and the gauge. A field's default is its reset value.
-/

namespace Sys2Proof.Machine

/-- A converter reference of R272: ready, and the REFIN losses (ADC_REF). -/
structure RefUnit where
  /-- ADC_REF.INT_RDY, 1 bit, R272; reset 0 -/
  int_ : Bool := false
  /-- ADC_REF.EXT_RDY, 1 bit, R272; reset 0 -/
  ext_ : Bool := false
  /-- ADC_REF.VDDA_RDY, 1 bit, R272; reset 0 -/
  vdda : Bool := false
  /-- ADC_REF.LOSSES, 3 bits, saturates; reset 0 -/
  losses : Nat := 0
  /-- ADC_CFG.REF_PH, 2 bits CFG; reset 0 -/
  refPh : Nat := 0
  /-- ADC_CFG.ALIGN_GV, 1 bit CFG, R268; reset 0 -/
  alignGv : Bool := false
  /-- ADC_CFG.ALIGN_PH, 1 bit CFG, R268; reset 0 -/
  alignPh : Bool := false
deriving DecidableEq, Repr

/-- One slot of the auxiliary sequencer (R294 to R297). -/
structure AuxSlot where
  /-- ADC_AUXs_CFG.EN, 1 bit CFG; reset 0 -/
  en : Bool := false
  /-- ADC_AUXs_CFG.AVG_K, 4 bits CFG; reset 0 -/
  avgK : Nat := 0
  /-- ADC_AUXs_CFG.REF, 2 bits CFG; reset 0 -/
  ref : Nat := 0
  /-- ADC_AUXs_CFG.LIN, 3 bits CFG; reset 0 -/
  lin : Nat := 0
  /-- ADC_AUXs_CFG.SRC, 5 bits CFG; reset 0 -/
  src : Nat := 0
  /-- ADC_AUXs_SCALE, IEEE 754 single CFG; reset 0 -/
  scale : Word := 0
  /-- ADC_AUXs_RES, 32 bits; reset 0 -/
  res : Word := 0
  /-- ADC_AUXs_VAL, IEEE 754 single, R297; reset 0 -/
  val : Rat := 0
  /-- the first block has completed -/
  has : Bool := false
  /-- the block in progress (R297) -/
  sum : Rat := 0
  n : Nat := 0
deriving DecidableEq, Repr

/-- The auxiliary converter (R294). -/
structure AuxUnit where
  slots : Vector AuxSlot 24 := Vector.replicate 24 {}
  /-- linearisation tables 1 to 4, CFG: 17 points of code and value (R296); reset 0 -/
  tables : Vector (Vector (Nat × Word) 17) 4 := Vector.replicate 4 (Vector.replicate 17 (0, 0))
  /-- slot of the next conversion, and the conversion in progress with its NOTREADY -/
  next : Nat := 0
  busy : Option (Nat × Bool) := none
  /-- SEQ of the converter, 8 bits; reset 0 -/
  seq : BitVec 8 := 0
  /-- OT_DIE_WARN held against repetition (R63) -/
  warned : Bool := false
deriving DecidableEq, Repr

/-- What a snapshot holds of one group (R301, R631). -/
structure SnapGroup where
  vAvg : Rat := 0
  iAvg : Rat := 0
  pAvg : Rat := 0
  tMax : Rat := 0
  vPk : Peak := {}
  iPk : Peak := {}
  pPk : Peak := {}
  tel : Nat := 0
  gv : Nat := 0
deriving DecidableEq, Repr

/-- What a snapshot holds of the gauge (R631). -/
structure SnapGauge where
  soc : Nat := 0
  soh : Nat := 0
  rc : Rat := 0
  fcc : Rat := 0
  i : Rat := 0
  v : Rat := 0
  t : Rat := 0
  stat : Nat := 0
deriving DecidableEq, Repr

/-- The content of one snapshot buffer: 32 KiB of telemetry as R44 and R301 list it; zero before the first fill. -/
structure Snapshot where
  valid : Bool := false
  groups : Vector SnapGroup 4 := Vector.replicate 4 {}
  phases : Vector (Rat × Nat × Bool) 24 := Vector.replicate 24 (0, 0, false)
  aux : Vector (Rat × Word) 24 := Vector.replicate 24 (0, 0)
  /-- the result words of R267: ADC_GVn_RES, and RES_A and RES_B of each phase -/
  gvRes : Vector Word 4 := Vector.replicate 4 0
  phRes : Vector (Word × Word) 24 := Vector.replicate 24 (0, 0)
  gauge : SnapGauge := {}
deriving DecidableEq, Repr

/-- One reader's hold on a snapshot buffer (R46, R48). -/
structure SnapHold where
  buf : Bool
  since : Nat
  gen : BitVec 16
deriving DecidableEq, Repr

/-- The snapshot buffers (R44 to R49). -/
structure SnapUnit where
  /-- SNAP_STAT.PUB, 1 bit; reset 0 (SNAP_A) -/
  pub : Bool := false
  /-- the model's: tick of the last multiple of SNAP_PERIOD at which a fill began or was skipped (R45, R47) -/
  lastAt : Nat := 0
  /-- SNAP_STAT.GEN, 16 bits, wraps; reset 0 -/
  gen : BitVec 16 := 0
  /-- SNAP_A and SNAP_B -/
  bufA : Snapshot := {}
  bufB : Snapshot := {}
  /-- a fill has ended and PUBLISH awaits its grant -/
  filled : Bool := false
  /-- SNAP_OPEN, one hold per reader Badger, Owl, Hedgehog; reset none -/
  open_ : Vector (Option SnapHold) 3 := Vector.replicate 3 none
  /-- the reader's next CLOSE returns STALE (R48) -/
  stale : Vector Bool 3 := Vector.replicate 3 false
  /-- what the last OPEN or CLOSE returned to each reader: index, GEN, STALE -/
  answer : Vector (Bool × BitVec 16 × Bool) 3 := Vector.replicate 3 (false, 0, false)
  /-- SNAP_SKIPS, 32 bits, wraps; reset 0 -/
  skips : Word := 0
  /-- SNAP_PERIOD.PERIOD, 10 bits CFG; reset 0 -/
  period : Nat := 0
deriving DecidableEq, Repr

/-- Ownership of capture memory (R478). -/
inductive CapState where
  | nobody
  | running
  | completed
deriving DecidableEq, Repr

/-- SWEEP_STAT.STATE (R490). -/
inductive SweepState where
  | idle
  | setup
  | running
  | ending
deriving DecidableEq, Repr

/-- The SWEEP block (R468 to R490). -/
structure SweepUnit where
  /-- SWEEP_STAT.STATE, 3 bits; reset 0 -/
  st : SweepState := .idle
  /-- SWEEP_STAT.DONE, 9 bits; reset 0 -/
  done : Nat := 0
  /-- SWEEP_STAT.POINT, 8 bits; reset 0 -/
  point : Nat := 0
  /-- SWEEP_STAT.CHAIN, 1 bit; reset 0 -/
  chain : Bool := false
  /-- SWEEP_STAT.ORIG, 1 bit; reset 0 -/
  orig : Bool := false
  /-- SWEEP_STAT.GROUP, 2 bits; reset 0 -/
  group : Group := 0
  /-- SWEEP_CAP_OWNER.TAG, 16 bits; reset 0 -/
  capTag : Nat := 0
  /-- SWEEP_CAP_OWNER.STATE, 2 bits; reset 0 -/
  cap : CapState := .nobody
  /-- SWEEP_T0, 64 bits; reset 0 -/
  t0 : Nat := 0
  /-- SWEEP_CNT.ABORTED, 16 bits, wraps; reset 0 -/
  aborted : BitVec 16 := 0
  /-- SWEEP_CNT.COMPLETED, 16 bits, wraps; reset 0 -/
  completed : BitVec 16 := 0
  /-- SWEEP_LAST.TAG, 16 bits; reset 0 -/
  lastTag : Nat := 0
  /-- SWEEP_LAST.CAUSE, 8 bits; reset 0 -/
  lastCause : Nat := 0
  /-- SWEEP_END_SEQ, 32 bits; reset 0 -/
  endSeq : Word := 0
  /-- tag, originator and descriptor of the present sweep -/
  tag : Nat := 0
  origAddr : Address := 0
  desc : SweepDesc := ⟨0, 0, 0, 0, 0, 0, 0, 0, 0, []⟩
  /-- the engine that injects on this device, if any -/
  engine : Option Engine := none
  /-- T_i of the next point and of the point in progress, in the sweep's own time base (R473), and the point's INC -/
  tNext : Nat := 0
  tStart : Nat := 0
  inc : Nat := 0
  /-- T_0 is known: a sweep of one device shows it only with its first point -/
  t0Known : Bool := false
  /-- CAP_RELEASE has been requested (R478, R488) -/
  releaseReq : Bool := false
  /-- the point's accumulation window: its first tick, and the first tick past it, local TB_COUNT (R474) -/
  tOpen : Nat := 0
  tClose : Nat := 0
  /-- the window has not closed yet -/
  windowOpen : Bool := false
  /-- quality flags of the point in progress (R477) -/
  fClamp : Bool := false
  fTb : Bool := false
  fNr : Bool := false
  /-- COMPLETE has been requested (R487) -/
  request : Bool := false
  /-- ABORT causes delivered or requested and not yet granted, oldest first -/
  abortReq : List Nat := []
  /-- tags of sweeps of this device that completed, newest last (R489) -/
  completedTags : List Nat := []
  /-- index of the next point to start (R473) -/
  next : Nat := 0
  /-- this participant's group has left SWEEP for a cause of its own, and SW_ABORT has been sent (R487) -/
  left : Bool := false
  /-- originator of the sweep that owns capture memory, and whether that one is chain-wide (R488) -/
  capOrig : Address := 0
  capChain : Bool := false
  /-- tag of a chain-wide sweep that this device has asked the head for and not yet taken up (R483), and the ABORT causes delivered for it -/
  ask : Option Nat := none
  askAbort : List Nat := []
  /-- end reports of sweeps that a broken link ended, which a local head of this segment would send: tag, points, originator, EVSEQ (R460) -/
  linkOwed : List (Nat × Nat × Address × Word) := []
  /-- end reports still to be sent: tag, cause, points written, originator, EVSEQ of the end (R489) -/
  owed : List (Nat × Nat × Nat × Address × Word) := []
  /-- the head's books of a chain-wide set-up: participants awaited, T_0 in chain time -/
  acksLeft : List Address := []
  ackBad : Bool := false
  headTag : Option (Nat × Address) := none
  headGroup : Group := 0
  headT0 : Nat := 0
  /-- the originator's books: participants whose SW_DONE is awaited, T_end -/
  donesLeft : List Address := []
  tEnd : Nat := 0
deriving DecidableEq, Repr

/-- SETT_x_STAT.STATE. -/
inductive PortState where
  | down
  | training
  | up
  | disabled
deriving DecidableEq, Repr

/-- A code group of the Sett link, as far as the spec names one (R417, R421, R426, R427): K28.x, K30.7, or a data byte. -/
inductive CodeGroup where
  | k28 (x : Fin 8)
  | k30
  | data (b : Byte)
deriving DecidableEq, Repr

/-- What a flit carries, by TYPE (R422, R430, R438, R440, R482); `unnamed x` is TYPE 0x26 + x. -/
inductive FlitBody where
  | epoch (e : EpochPay)
  | share (r : SharePay)
  | report (r : Vector ReportRec 4)
  | swReq (tag : Nat) (d : SweepDesc)
  | swSetup (tag : Nat) (orig : Address) (d : SweepDesc) (t0 : Nat)
  | swAck (tag : Nat) (orig : Address) (g : Group) (answer : Nat)
  | swDone (tag : Nat) (orig : Address) (g : Group) (written : Nat)
  | swAbort (tag : Nat) (orig : Address) (g : Group) (cause : Nat)
  | swEnd (tag : Nat) (orig : Address) (g : Group) (aborted : Bool) (cause : Nat)
  | unnamed (x : Fin 10)
  | linkDown (p : SettPort) (c : LinkCause)
  | topo (r : TopoPay)
  | headClaim (a : Address)
  | modeOrder (g : Group) (m : Mode) (c : Cause) (s0 : Nat)
  | setOrder (g : Group) (set : Nat)
  | selFwd (g : Group) (set : Nat) (src : Nat)
  | fcastFwd (p : LcmdPort) (frame : List Byte) (te : Nat)
  | phFloor (g : Group) (floor : Nat)
  | phaseLost (g : Group)
  | resume (g : Group)
  | deviceSafe
  | leadClaim (groups : Nat)
deriving DecidableEq, Repr


/-- A flit that this device transmits: its own, with HOPS 0, or one it forwards (R421, R423); a forwarded one whose CRC turned out bad has K30.7 in the CRC's
place (R426). -/
structure Flit where
  src : Address
  dst : Nat
  hops : Nat
  seq : Nat
  body : FlitBody
  cut : Bool
deriving DecidableEq, Repr

/-- A flit that waits to leave by a port. -/
structure Waiting where
  /-- the port whose receive buffer holds it, of another device's flit -/
  held : Option SettPort
  flit : Flit
  /-- tick from which it has waited (R426, R448) -/
  since : Nat
deriving DecidableEq, Repr

/-- One Sett port (R417 to R428, R448). -/
structure SettPortUnit where
  /-- _STAT.STATE, 2 bits; reset 0 -/
  st : PortState := .down
  /-- _STAT.CAUSE, 3 bits; reset 0 -/
  cause : LinkCause := .none
  /-- _STAT.PEER, 3 bits; reset 0 -/
  peer : Address := 0
  /-- _STAT.PEER_VALID, 1 bit; reset 0 -/
  peerValid : Bool := false
  /-- _DLY, 20 bits, R420; reset 0 -/
  dly : Nat := 0
  /-- _CRED.TX_CRED, 4 bits per VC, R427; reset 0 -/
  txCred : Vector Nat 4 := Vector.replicate 4 0
  /-- _CRED.RX_FREE, 4 bits per VC; reset 0 -/
  rxFree : Vector Nat 4 := Vector.replicate 4 0
  /-- credits returned to the partner since the port came UP, per VC, R427 -/
  returned : Vector Nat 4 := Vector.replicate 4 0
  /-- _CNT_RX, 32 bits, wraps; reset 0 -/
  rx : Word := 0
  /-- _CNT_ERR.CRC, 16 bits, saturates; reset 0 -/
  crcErr : Nat := 0
  /-- _CNT_ERR.CODE, 16 bits, saturates; reset 0 -/
  codeErr : Nat := 0
  /-- _CNT_LINK.TRAINED, 16 bits, wraps; reset 0 -/
  trained : BitVec 16 := 0
  /-- _CNT_LINK.DOWNS, 16 bits, wraps; reset 0 -/
  downs : BitVec 16 := 0
  /-- _CNT_DROP, 32 bits, saturates, R426; reset 0 -/
  drops : Nat := 0
  /-- flits that wait to leave by this port, for the flit in progress to end or for a credit, oldest first (R425, R426) -/
  wait : List Waiting := []
  /-- the model's: tick at which each VC last spent a credit (R448, STARVED) -/
  spentAt : Vector Nat 4 := Vector.replicate 4 0
  /-- tick at which the flit in progress on this port ends, R425 -/
  busyUntil : Nat := 0
  /-- VC3 is served before VC2 the next time, R425 -/
  turn : Bool := false
  /-- CREDIT pairs sent since the port came UP, in their code groups, R427 -/
  pairs : List CodeGroup := []
  /-- ticks of the last flits with a bad CRC, newest first, at most three (R448) -/
  badAt : List Nat := []
  /-- tick at which the port's training window ends, R418 -/
  trainEnd : Nat := 0
deriving DecidableEq, Repr

/-- What a device knows of another (R440, R441). -/
structure PeerInfo where
  /-- tick of the last flit delivered from it -/
  heard : Option Nat := none
  /-- its last REPORT and the tick of its delivery -/
  reports : Vector ReportRec 4 := Vector.replicate 4 ⟨0, 0, 0, false, false, false, 0, 0⟩
  reportAt : Option Nat := none
  safe : Bool := false
  /-- groups it has claimed to lead -/
  leads : Nat := 0
  /-- SEQ of recent deliveries by VC, with their ticks (R424) -/
  seen : List (Nat × Nat × Nat) := []
  /-- copies of its flits have arrived by the UP port and by the DN port since a link last broke (R424) -/
  viaUp : Bool := false
  viaDn : Bool := false
deriving DecidableEq, Repr

/-- The Sett registers of one group (R435 to R443, R454 to R466). -/
structure SettGroup where
  /-- SETT_Gg_CFG.SPAN, 1 bit CFG; reset 0 -/
  span : Bool := false
  /-- LEADER, 1 bit CFG; reset 0 -/
  leader : Bool := false
  /-- LEADER_ADDR, 3 bits CFG; reset 0 -/
  leaderAddr : Address := 0
  /-- SEG_MIN, 4 bits CFG; reset 0 -/
  segMin : Nat := 0
  /-- DEV_MASK, 8 bits CFG; reset 0 -/
  devMask : Nat := 0
  /-- DROOP_ENG of the CHAIN section, 8 bits, R466; reset 0 -/
  droopEng : Nat := 0
  /-- SETT_Gg_OFS, 26 bits CFG in sixteenths of FS; reset 0 -/
  ofs : Nat := 0
  /-- The condition of CHAIN_MISMATCH (R446), which _STAT.MISMATCH shows as the fault that is set, 1 bit; reset 0 -/
  mismatch : Bool := false
  /-- The condition of CHAIN_LOST (R454), which _STAT.SEG_SHORT shows as the fault that is set, 1 bit; reset 0 -/
  segShort : Bool := false
  /-- _STAT.DROOP, 1 bit; reset 0 -/
  droop : Bool := false
  /-- _STAT.LEADER_OK, 1 bit; reset 0 -/
  leaderOk : Bool := false
  /-- a LEADER_LOST request awaits its grant -/
  lostReq : Bool := false
  /-- _IREF, 16 bits signed; reset 0 -/
  iref : Int := 0
  /-- an IREF handed over and not yet taken by IREF_RX, with its CT -/
  irefPend : Option Int := none
  /-- the newest IREF the engine may use (R324) -/
  irefUse : Int := 0
  /-- CT of that IREF, for _IREF_AGE -/
  irefCt : Nat := 0
  irefHas : Bool := false
  /-- tick of the last SHARE from the leader -/
  shareAt : Option Nat := none
  /-- _S0, 64 bits; reset 0 -/
  s0 : Nat := 0
  /-- _COUNT.FLOOR, 8 bits; reset 0 -/
  floor : Nat := 0
  /-- _COUNT.ASSIGNED, 8 bits; reset 0 -/
  assigned : Nat := 0
  /-- _COUNT.HEALTHY, 8 bits; reset 0 -/
  healthy : Nat := 0
  /-- the leader's present mode, as its last SHARE gave it (R438) -/
  leadMode : Mode := .standby
  /-- chain time at which the next group period starts, less the correction still to be made, 1/16 FS (R436) -/
  chainNext : Int := 0
  /-- period correction still to be made, 1/16 FS, and the 16 FS steps of a large one (R433) -/
  slew : Int := 0
  fast : Bool := false
  /-- the leader's start order of the present run has been given or received (R447) -/
  ordered : Bool := false
  /-- a member's own SOFTSTART has ended, and its leader's mode is still to be taken (R465) -/
  startDone : Bool := false
deriving DecidableEq, Repr

/-- SETT_TOPO.ROLE. -/
inductive Role where
  | member
  | head
  | localHead
  | single
deriving DecidableEq, Repr

/-- The chain (R413 to R467). -/
structure SettUnit where
  ports : Vector SettPortUnit 2 := Vector.replicate 2 {}
  peers : Vector PeerInfo 8 := Vector.replicate 8 {}
  groups : Vector SettGroup 4 := Vector.replicate 4 {}
  /-- SETT_TOPO.GEN, 8 bits, wraps; reset 0 -/
  gen : BitVec 8 := 0
  /-- SETT_TOPO.REACH of the last TOPO, 8 bits; reset 0 -/
  reach : Byte := 0
  /-- SETT_TOPO.HEAD, 3 bits; reset 0 -/
  head : Address := 0
  /-- SETT_TOPO.ADDR, 3 bits, the strap, R413; reset DESIGN CHOICE 0 -/
  addr : Address := 0
  /-- CHAIN_HEAD strap, R415; reset DESIGN CHOICE 0 -/
  headStrap : Bool := false
  /-- SETT_TOPO.ROLE, 2 bits; reset 0 -/
  role : Role := .member
  /-- SETT_TOPO.STATE, 3 bits; reset 0 -/
  st : TopoState := .single
  /-- formation has ended since BOOT (R447) -/
  formed : Bool := false
  /-- tick of the end of BOOT, for FORM_TMAX -/
  bootAt : Nat := 0
  /-- CHAIN_SIZE of the image, 4 bits, R131; reset 0 -/
  chainSize : Nat := 0
  /-- SETT_CFG.SHARE_INT, 16 bits CFG; reset 0 -/
  shareInt : Nat := 0
  /-- SETT_CFG.UP_EN, 1 bit CFG; reset 0 -/
  upEn : Bool := false
  /-- SETT_CFG.DN_EN, 1 bit CFG; reset 0 -/
  dnEn : Bool := false
  /-- SETT_BUILD, 32 bits CFG; reset 0 -/
  build : Word := 0
  /-- SETT_FORM.FORM_TMAX, 16 bits CFG; reset 0 -/
  formTmax : Nat := 0
  /-- chain time less TB_COUNT, in 1/128 TK (R429), CT_OFS on the head; reset 0 -/
  ctOfs : Int := 0
  /-- chain time has been set by an EPOCH since BOOT (R433, R463) -/
  ctSet : Bool := false
  /-- SETT_ALIGN.ERR, 16 bits signed; reset 0 -/
  err : Int := 0
  /-- SETT_ALIGN.HOPS, 8 bits; reset 0 -/
  hops : Nat := 0
  /-- SETT_RATE, 32 bits signed; reset 0 -/
  rate : Int := 0
  /-- SLOPE of the last EPOCH used, 0.001 ppm per µs (R432) -/
  slope : Int := 0
  /-- tick from which the rate and the slope extrapolate: that of the last EPOCH used or of a change of the device's own timebase (R432) -/
  baseAt : Option Nat := none
  /-- tick at which a port last came UP while none was: a head whose chain time is unset listens from then on (R463) -/
  upAt : Option Nat := none
  /-- chain time in 1/128 TK of recent epochs with their ticks, newest first, at most 17 (R432) -/
  epochs : List (Nat × Nat) := []
  /-- tick of the last EPOCH delivered -/
  epochAt : Option Nat := none
  /-- SETT_CNT_TOPO.SILENT, 16 bits, wraps; reset 0 -/
  silent : BitVec 16 := 0
  /-- SETT_CNT_TOPO.TOPOS, 16 bits, wraps; reset 0 -/
  topos : BitVec 16 := 0
  /-- the head is declared silent, and the tick of the claim sent (R452) -/
  isSilent : Bool := false
  claimAt : Option Nat := none
  /-- SEQ of the next flit per VC, 8 bits -/
  seqs : Vector Nat 4 := Vector.replicate 4 0
  /-- flits sent on each UP port, oldest first -/
  tx : List (SettPort × Flit) := []
  /-- order of the reachable devices along the chain, as the last TOPO gave it, R422 -/
  order : List Address := []
  /-- every link of the chain is known to be UP since a link last broke (R444) -/
  linksUp : Bool := false
  /-- this device, the lowest address with no head reachable, rebuilds the topology since its ports came UP (R462) -/
  rebuilds : Bool := false
  /-- DEVICE_SAFE has been sent (R443) -/
  safeSent : Bool := false
deriving DecidableEq, Repr

/-- The image's GAUGE section (R562). -/
structure GaugeCfg where
  /-- GAUGE_CFG.EN, 1 bit CFG; reset 0 -/
  en : Bool := false
  /-- GAUGE_CFG.INPUT, 1 bit CFG; reset 0 -/
  ext : Bool := false
  /-- GAUGE_CFG.LEARN_EN, 1 bit CFG; reset 0 -/
  learn : Bool := false
  /-- GAUGE_CFG.VBAT_SRC, 5 bits CFG; reset 0 -/
  vbatSrc : Nat := 0
  /-- GAUGE_CFG.CHG_GROUP, 3 bits CFG; reset 0 -/
  chgGroup : Nat := 0
  /-- GAUGE_TMASK, 16 bits CFG; reset 0 -/
  tmask : Nat := 0
  /-- CELLS, 8 bits; reset 0 -/
  cells : Nat := 0
  /-- CYCLE_PCT, 8 bits; reset 0 -/
  cyclePct : Nat := 0
  /-- GAUGE_SCALE, IEEE 754 single CFG; reset 0 -/
  scale : Word := 0
  /-- GAUGE_OFFS, 32 bits signed CFG; reset 0 -/
  offs : Int := 0
  designAh : Word := 0
  restI : Word := 0
  stepI : Word := 0
  termI : Word := 0
  chgI : Word := 0
  chgV : Word := 0
  zohm0 : Word := 0
  zpol0 : Word := 0
  taupol0 : Word := 0
  restT : Nat := 0
  termT : Nat := 0
  chgTMin : Int := 0
  chgTMax : Int := 0
  selfDis : Nat := 0
  /-- OCV_T, five temperatures, 0.1 °C -/
  ocvT : List Int := []
  /-- OCV, 5 rows of 21 cell voltages, mV -/
  ocv : List (List Nat) := []
deriving DecidableEq, Repr

/-- A message of Hedgehog's (R651): to Badger over MBX_HB, to Owl over MBX_HO. -/
inductive GaugeMsg where
  | chgLimits (iLim vLim : Nat)
  | input (lost : Bool)
  | record (bytes : List Byte)
  | ah (n : Nat)
  | recordReq
deriving DecidableEq, Repr

/-- The integrator and Hedgehog's estimates (R529 to R560). -/
structure GaugeUnit where
  cfg : GaugeCfg := {}
  /-- index of the next slot to end, k of R534 -/
  slot : Nat := 0
  /-- S of R534: the first multiple of 600 000 TK after the end of BOOT -/
  s : Nat := 0
  /-- GAUGE_RAW.VALID, 1 bit; reset 0 -/
  rawValid : Bool := false
  /-- GAUGE_RAW.INTERP, 1 bit; reset 0 -/
  rawInterp : Bool := false
  /-- GAUGE_RAW.HOLD, 1 bit; reset 0 -/
  rawHold : Bool := false
  /-- GAUGE_RAW.DATA, 24 bits signed; reset 0 -/
  raw : Int := 0
  /-- the last valid sample, for R537 -/
  lastValid : Int := 0
  /-- the sample before the chop interval (R536) -/
  sA : Int := 0
  /-- GAUGE_STAT.CHOP, 1 bit; reset 0 -/
  chop : Bool := false
  /-- GAUGE_OFFS_CHOP, 24 bits signed; reset 0 -/
  offsChop : Int := 0
  /-- GAUGE_Q, 64 bits signed, saturates, R540; reset 0 -/
  q : Int := 0
  /-- GAUGE_STAT.SAT, 1 bit; reset 0 -/
  sat : Bool := false
  /-- GAUGE_STAT.HOLD, 1 bit; reset 0 -/
  hold : Bool := false
  /-- GAUGE_STAT.LOST, 1 bit, R538; reset 0 -/
  lost : Bool := false
  /-- consecutive out-of-range and in-range samples (R538) -/
  oorRun : Nat := 0
  inRun : Nat := 0
  /-- GAUGE_INTERP_MS, 32 bits, wraps; reset 0 -/
  interpMs : Word := 0
  /-- GAUGE_HOLD_SMP, 32 bits, saturates; reset 0 -/
  holdSmp : Nat := 0
  /-- GAUGE_SEC, 32 bits, wraps; reset 0 -/
  sec : Word := 0
  /-- a SECOND request awaits its grant -/
  secReq : Bool := false
  /-- GAUGE_QMARK, 64 bits signed; reset 0 -/
  qmark : Int := 0
  /-- GAUGE_I, GAUGE_V, GAUGE_T, IEEE 754 single; reset 0 -/
  i : Rat := 0
  v : Rat := 0
  t : Rat := 0
  /-- GAUGE_I_MAX and _MIN, IEEE 754 single RCL; reset 0 -/
  iPk : Peak := {}
  iPkArmed : Bool := false
  /-- GAUGE_SOC.SOC, 14 bits; reset 0 -/
  soc : Nat := 0
  /-- GAUGE_SOC.SOH, 16 bits; reset 0 -/
  soh : Nat := 0
  /-- GAUGE_STAT.SOC_VALID, 1 bit; reset 0 -/
  socValid : Bool := false
  /-- GAUGE_RC, _FCC, _ZOHM, _ZPOL, _TAUPOL, IEEE 754 single; reset 0 -/
  rc : Rat := 0
  fcc : Rat := 0
  zohm : Rat := 0
  zpol : Rat := 0
  taupol : Rat := 0
  /-- GAUGE_CYCLES, 32 bits; reset 0 -/
  cycles : Word := 0
  /-- GAUGE_CYC_ACC, IEEE 754 single; reset 0 -/
  cycAcc : Rat := 0
  /-- 0.1 Ah of throughput not yet reported (R550) -/
  ahAcc : Rat := 0
  /-- GAUGE_STAT.REST, 1 bit, R546; reset 0 -/
  rest : Bool := false
  restRun : Nat := 0
  /-- the current at the last second with |I| ≥ REST_I, and the seconds since (R547) -/
  loadI : Rat := 0
  sinceLoad : Nat := 0
  /-- V of the last REST_T seconds, oldest first (R548) -/
  vHist : List Rat := []
  /-- GAUGE_STAT.FULL, 1 bit, R555; reset 0 -/
  full : Bool := false
  termRun : Nat := 0
  /-- GAUGE_STAT.CHG_INHIBIT, 1 bit; reset 0 -/
  chgInhibit : Bool := false
  /-- GAUGE_STAT.UNCLEAN, 1 bit; reset 0 -/
  unclean : Bool := false
  /-- SOC below 500 has been reported, re-armed at 600 -/
  lowSent : Bool := false
  /-- the FCC anchor: SOC_ocv and the charge counted since (R548) -/
  anchor : Option (Rat × Rat) := none
  /-- the last slot's current and the V read at it, if both were valid, and the values of ZOHM that steps of the current have given in this
  second, oldest first (R548) -/
  prevIV : Option (Rat × Rat) := none
  steps : List Rat := []
  /-- samples integrated since QMARK was set (R543) -/
  nSince : Nat := 0
  /-- ampere-hours counted before the starting record was received, and the discharge among them (R544, R550) -/
  early : Rat := 0
  earlyOut : Rat := 0
  /-- the starting record has been asked for and received (R551) -/
  asked : Bool := false
  started : Bool := false
  noRecord : Bool := false
  /-- GAUGE_CHG_I, 24 bits; reset 0 -/
  chgI : Nat := 0
  /-- GAUGE_CHG_V, 24 bits; reset 0 -/
  chgV : Nat := 0
  /-- GAUGE_NV_AGE, 32 bits, saturates; reset 0 -/
  nvAge : Nat := 0
  /-- the age at which the next periodic record is due (R556) -/
  nextPeriodic : Nat := 600
  staleSent : Bool := false
  /-- GAUGE_NV_SEQ, 32 bits; reset 0 -/
  nvSeq : Word := 0
  /-- messages that Hedgehog has made for MBX_HB and MBX_HO and that have not been received, oldest first (R651) -/
  out : List GaugeMsg := []
  /-- tags of GAUGE_CMD writes that await their record's entry into the NV queue, with its generation once it is formed (R564) -/
  saves : List (Nat × Option Nat) := []
  /-- the record that Owl has sent in answer to RECORD_REQ -/
  reply : Option (List Byte) := none
  /-- Badger's copy of LOST, as GAUGE_INPUT last reported (R651) -/
  badgerLost : Bool := false
  /-- an occasion waits for ride-through to end, its lowest REASON (R557) -/
  deferred : Option Nat := none
  /-- record generation, from 1 (R560) -/
  gen : Nat := 0
  /-- the charging group's mode and current direction as Badger last reported (R552) -/
  grpMode : Mode := .standby
  grpDir : Nat := 0
  /-- the NV store as Owl last reported -/
  nvWritable : Bool := true
  nvReadOnly : Bool := false
  /-- calendar SET and seconds as Owl last reported -/
  calSet : Bool := false
  calSecs : Nat := 0
  /-- tick of the last limits message granted (R554), and its limits -/
  limAt : Option Nat := none
  limI : Nat := 0
  limV : Nat := 0
  limZero : Bool := false
deriving DecidableEq, Repr

end Sys2Proof.Machine
end

