-- ==== Sys2Proof/Machine/StateMgmt.lean ====
section
/-!
DEFINITION. The shared and management blocks' state: supply, reset and boot, the code flash, guards, EVA, the
trace port, the observation counters, mailboxes, domains, the NV store, calendar, log and host port.
A field's default is its reset value.
-/

namespace Sys2Proof.Machine

/-- SYS_MODE.DEV (R194, R201); `off` is the unpowered device. -/
inductive DevMode where
  | off
  | boot
  | standbyHeld
  | shutdown
  | safe
  | perGroup
deriving DecidableEq, Repr

/-- Which step of SHUTDOWN is next (R190). -/
inductive ShdnStep where
  | none
  /-- step 2: groups ramp to zero -/
  | ramps
  /-- step 3: Hedgehog hands over its record and Owl writes it -/
  | gauge
  /-- step 4: the log and the counters -/
  | commits
  /-- step 5: the clean-shutdown marker -/
  | marker
  | over
deriving DecidableEq, Repr

/-- SYS_BOOT_STAT.RESULT (R145). -/
inductive BootResult where
  | ok
  | cfgBlank
  | cfgCrc
  | cfgFormat
  | cfgInvalid
  | cfgAddr
  | bootCompat
  | codeCorrupt
deriving DecidableEq, Repr

/-- A log entry (R598). -/
structure LogEntry where
  seq : Word
  calS : Nat
  calSet : Bool
  inj : Bool
  coarse : Bool
  wrap : BitVec 16
  block : Nat
  code : Nat
  kind : Nat
  unit : Nat
  data : List Byte
  /-- the model's: the AON second at which Owl took the entry (R600) -/
  at_ : Nat := 0
deriving DecidableEq, Repr

/-- Supply, reset, boot and device mode (R76 to R155). -/
structure SysUnit where
  /-- SYS_MODE.DEV, 4 bits; reset 0x1 (BOOT); before the first power-on reset release the device is in OFF (R193) -/
  dev : DevMode := .off
  /-- SYS_MODE.TEST, 1 bit, R202; reset 0 -/
  test : Bool := false
  /-- SYS_MODE_SEQ, 32 bits; reset 0 -/
  modeSeq : Word := 0
  /-- a BOOT has ended since the power-on reset release (R514) -/
  booted : Bool := false
  /-- the mode that RST_N or a reboot has ended, until BOOT reports the change (R160, R196); the model's record -/
  bootFrom : Option DevMode := none
  /-- SYS_SUP_STAT.VIN_HIGH, 1 bit; reset 0 -/
  vinHigh : Bool := false
  /-- SYS_SUP_STAT.HOLDUP_ACTIVE, 1 bit, R89; reset 0 -/
  holdup : Bool := false
  /-- SYS_SUP_STAT.VHOLD_SEEN, 1 bit, R91; reset 0 -/
  vholdSeen : Bool := false
  /-- SYS_SUP_STAT.VHOLD_OK, 1 bit; reset 0 -/
  vholdOk : Bool := false
  /-- SYS_SUP_STAT.RIDE, 1 bit, R103; reset 0 -/
  ride : Bool := false
  /-- SYS_SUP_STAT.VIN_WARN, 1 bit, R103; reset 0 -/
  vinWarn : Bool := false
  /-- the model's: corrected single-bit errors of SRAM words, which no register shows (R72) -/
  eccFixed : Nat := 0
  /-- SYS_SUP_STAT.RAILS_OK, 1 bit; reset 0 -/
  rails : Bool := false
  /-- SYS_SUP_DIPS, 32 bits, wraps, R105; reset 0 -/
  dips : Word := 0
  /-- SYS_RST_CAUSE.RST_STUCK, 1 bit W1C, R121; reset 0 -/
  rstStuck : Bool := false
  /-- RST_STUCK awaits its one log after the next release (R121) -/
  stuckLog : Bool := false
  /-- the log entry of a VIN_LOW seen as power comes on waits for Owl's log (R690) -/
  lowLog : Option LogEntry := none
  /-- RST_N is high again, and BOOT waits for the NV operation in progress, with what it will sample (R117, R120) -/
  bootReq : Option BootInput := none
  /-- SYS_RST_CAUSE.SHDN_REBOOT, 1 bit; reset 0 -/
  shdnReboot : Bool := false
  /-- SYS_RST_CAUSE.RST_PIN, 1 bit; reset 0 -/
  rstPin : Bool := false
  /-- SYS_RST_CAUSE.POWER, 1 bit; reset 1 -/
  power : Bool := true
  /-- the RST_N ball is low (R115) -/
  rstLow : Bool := false
  /-- the ENABLE pin's debounced level (R167); reset low at every BOOT -/
  enable : Bool := false
  /-- SYS_BOOT_STAT.BOOT_TIME, 16 bits, saturates; reset 0 -/
  bootTime : Nat := 0
  /-- SYS_BOOT_STAT.CFG_RELEASED, 1 bit, R153; reset 0 -/
  cfgReleased : Bool := false
  /-- the crystal amplifier has been disabled, so XOUT is at high impedance, 1 bit, R203; reset 0 -/
  xoutOff : Bool := false
  /-- SYS_BOOT_STAT.FALLBACK, 1 bit, R148; reset 0 -/
  fallback : Bool := false
  /-- SYS_BOOT_STAT.ATTEMPTS, 2 bits; reset 0 -/
  attempts : Nat := 0
  /-- SYS_BOOT_STAT.TRIAL, 1 bit; reset 0 -/
  trial : Bool := false
  /-- SYS_BOOT_STAT.BANK, 1 bit; reset 0 -/
  bank : Bool := false
  /-- SYS_BOOT_STAT.RESULT, 8 bits; reset 0 -/
  result : BootResult := .ok
  /-- SYS_BOOT_DETAIL.SECT_TYPE, 16 bits; reset 0 -/
  sectType : Nat := 0
  /-- SYS_BOOT_DETAIL.CHECK, 16 bits, R689; reset 0 -/
  check : Nat := 0
  /-- SYS_BOOT_OFFSET, 18 bits; reset 0 -/
  offset : Nat := 0
  /-- SYS_VHOLD_CAP.UF, 16 bits, R92; reset 0 -/
  vholdCap : Nat := 0
  /-- the capacitance check in progress (R92): the charge is timed from 8.0 V; an estimate crossed early and not written yet -/
  capTiming : Bool := false
  capEst : Option Nat := none
  /-- VHOLD has reached 14.0 V since the charger started -/
  charged : Bool := false
  /-- a configuration image has been loaded in this BOOT -/
  loaded : Bool := false
  /-- CFGVER of the image, 16 bits, R131; reset 0 -/
  cfgVer : Nat := 0
  /-- header FLAGS.REL_HOLD, 1 bit, R154; reset 0 -/
  relHold : Bool := false
  /-- SHDN_CUT, 4 bits, R135; reset 0 -/
  shdnCut : Nat := 0
  /-- OWL_IDLE, 16 bits, R29; reset 0 -/
  owlIdle : Nat := 0
  /-- HOLDUP_CHECK, 1 bit, R92; reset 0 -/
  holdupCheck : Bool := false
  /-- SYS_REV [15:0]: letter and digit, R25; reset 0x4200, the first production revision B0 -/
  rev : Nat := 0x4200
  /-- SHUTDOWN's progress (R190), whether hold-up became active in it, and whether a write was skipped (R101) -/
  shdn : ShdnStep := .none
  shdnHold : Bool := false
  shdnSkip : Bool := false
  /-- VHOLD was at or above VHOLD_OK when hold-up became active (R100, R101) -/
  holdOkAtStart : Bool := false
  /-- RST_N has been low in this SHUTDOWN, so the BOOT that follows sets RST_PIN (R112, R119) -/
  rstSeen : Bool := false
  /-- requests for SHDN_START awaiting their grant (R188) -/
  shdnReq : List ShdnCause := []
  /-- SHDN_START awaits BOOT_DONE (R690) -/
  rideLimit : Bool := false
  /-- a rail has left its band since the rails were good (R88): RAILS_OK reads 0 -/
  railBad : Bool := false
  /-- the factory unlock window is open (R525), and TMODE at power-on reset release -/
  unlockOpen : Bool := false
  tmode : Bool := false
  /-- GRD_FI_CTL: UNIT, CODE, BLOCK, 24 bits CMD in factory test; reset 0 -/
  fiCtl : Nat := 0
  /-- GRD_FI_CNT, 32 bits, wraps; reset 0 -/
  fiCnt : Word := 0
  /-- GRD_SYS_DIE.DIE_OT, 16 bits signed CFG; reset 0 -/
  dieOt : Int := 0
  /-- GRD_SYS_DIE.DIE_CLR, 16 bits signed CFG; reset 0 -/
  dieClr : Int := 0
  /-- GRD_SYS_DIEW.DIE_WARN, 16 bits signed CFG; reset 0 -/
  dieWarn : Int := 0
  /-- GRD_SYS_DIEW.ALERT_EN, 1 bit CFG, R515; reset 0 -/
  alertEn : Bool := false
  /-- GRD_SYS_RETRY, RETRY_N 4 bits and RETRY_MS 16 bits CFG; reset 0 -/
  retryN : Nat := 0
  retryMs : Nat := 0
  /-- GRD_SYS_RETRY_MASK, 16 bits CFG; reset 0 -/
  retryMask : Nat := 0
  /-- the four die sensors' latest values, °C (R502) -/
  die : Vector Rat 4 := Vector.replicate 4 0
deriving DecidableEq, Repr

/-- The bank state of the code flash for one bank (R152). -/
structure BankInfo where
  trial : Bool := false
  attempts : Nat := 0
  confirmed : Bool := false
  rejected : Bool := false
deriving DecidableEq, Repr

/-- One entry of the bank state: its sequence number, what it holds of both banks, the pending swap, and whether its CRC-32 matches (R152). -/
structure BankEntry where
  seq : Nat
  info0 : BankInfo
  info1 : BankInfo
  swap : Option Bool
  good : Bool := true
deriving DecidableEq, Repr

/-- The code flash (R146 to R152). -/
structure CodeUnit where
  /-- content of bank 0 and bank 1; unlisted bytes read 0xFF, R74; reset DESIGN CHOICE erased -/
  bank0 : Memory := []
  bank1 : Memory := []
  /-- bank state, R152; reset DESIGN CHOICE bank 0 confirmed -/
  info0 : BankInfo := { confirmed := true }
  info1 : BankInfo := {}
  /-- the pending swap and its bank (R146); reset DESIGN CHOICE none -/
  swap : Option Bool := none
  /-- the bank booted last -/
  last : Bool := false
  /-- the entries of the bank-state sector written last and of the other one, oldest first, at most 64 each (R152); reset DESIGN CHOICE blank -/
  stateNow : List BankEntry := []
  stateOther : List BankEntry := []
  /-- the sector written last is the second of the two (R152); reset DESIGN CHOICE false -/
  stateSecond : Bool := false
  /-- the BOOT in progress has written the bank state at its step 4 (R147, R152) -/
  stepWrite : Bool := false
  /-- a bank-state write that sets the swap waits for a ride-through to end (R639) -/
  writeReq : Option Bool := none
deriving DecidableEq, Repr

/-- KIND of a guard history entry (R497). -/
inductive HistKind where
  | raise
  | clear
  | retry
  | gone
  | warn
  | auto
deriving DecidableEq, Repr

/-- One guard history entry (R497). -/
structure HistEntry where
  valid : Bool := false
  seq : Word := 0
  kind : HistKind := .raise
  cls : Cls := .a
  inj : Bool := false
  wrap : BitVec 8 := 0
  code : Nat := 0
  unit : Nat := 0
  d0 : Word := 0
  d1 : Word := 0
deriving DecidableEq, Repr

/-- An uncleared Class B fault. -/
structure FaultRec where
  code : Nat
  unit : Nat
  seq : Word
  /-- tick of the raise's grant (R510) -/
  at_ : Nat
  /-- the condition is present (COND) -/
  present : Bool
  inj : Bool
deriving DecidableEq, Repr

/-- One guard block (R497 to R499). -/
structure Guard where
  /-- A_CODE, 8 bits, with A set when not 0; reset 0 -/
  aCode : Nat := 0
  /-- uncleared Class B faults, lowest EVSEQ first: B, COND, B_CODE; reset none -/
  faults : List FaultRec := []
  /-- C, 1 bit W1C; reset 0 -/
  c : Bool := false
  /-- C_CODE, 8 bits; reset 0 -/
  cCode : Nat := 0
  /-- RETRIES, 4 bits, saturates; reset 0 -/
  retries : Nat := 0
  /-- _INT_EN.OWL, 4 bits, and BADGER, 4 bits, as the firmware last wrote them, R497; reset 0 -/
  intEn : BitVec 8 := 0
  /-- _HIST_HEAD.TOTAL, 16 bits, wraps; reset 0 -/
  total : BitVec 16 := 0
  /-- _HIST_HEAD.NEWEST, 2 bits; reset 0 -/
  newest : Fin 4 := 0
  /-- history, four entries; reset VALID = 0 -/
  hist : Vector HistEntry 4 := Vector.replicate 4 {}
  /-- UNIT of the warning in C_CODE; 0xFF before one (R497, R498) -/
  cUnit : Nat := 0xFF
  /-- tick of the last Class B raise of the block (R511) -/
  lastB : Nat := 0
  /-- the groups that the block's Class B faults have concerned since RETRIES was last 0 (R511) -/
  concerned : List Group := []
deriving DecidableEq, Repr

/-- EVA (R60 to R66). -/
structure Eva where
  /-- EVA_SEQ, 32 bits, wraps; reset 0 -/
  seq : Word := 0
  /-- EVA_WRAP, 32 bits; reset 0 -/
  wrap : Word := 0
  /-- EVA_MAXWAIT.GRANTS, 16 bits RCL; reset 0 -/
  maxWait : Nat := 0
  /-- EVA_URGENT, 32 bits, wraps; reset 0 -/
  urgent : Word := 0
  /-- round-robin pointer, 0 to 63, R66; reset 0 -/
  pointer : Fin 64 := 0
deriving DecidableEq, Repr

/-- KIND of a trace record (R648). -/
inductive TraceKind where
  | guard
  | mbx
  | mode
  | sat
  | topo
  | grant
  | sync
  | lost
deriving DecidableEq, Repr

/-- A trace record (R647). -/
structure TraceRec where
  kind : TraceKind
  src : Nat
  info : Nat
  seq : Word
  tb : Word
  data : Word
deriving DecidableEq, Repr

/-- The trace port (R643 to R650). -/
structure TraceUnit where
  /-- OBS_TRC_STAT.RUNNING, 1 bit, R645; reset 0 -/
  running : Bool := false
  /-- records waiting, oldest first: OBS_TRC_STAT.LEVEL, 7 bits; reset none -/
  queue : List TraceRec := []
  /-- the run of dropped records: all, other than GRANT, and the last dropped EVSEQ -/
  lostAll : Nat := 0
  lostInfo : Nat := 0
  lostSeq : Word := 0
  /-- ticks until the record on the wire ends, and records sent without idle -/
  busy : Nat := 0
  burst : Nat := 0
  /-- records sent, oldest first, as the pins carried them -/
  sent : List TraceRec := []
deriving DecidableEq, Repr

/-- One mailbox (R50 to R55). -/
structure MailboxUnit where
  /-- _DATA, 32 bits; reset 0 -/
  data : Word := 0
  /-- _STAT.FULL, 1 bit; reset 0 -/
  full : Bool := false
  /-- _WRITTEN, 32 bits, wraps; reset 0 -/
  written : Word := 0
  /-- _READ, 32 bits, wraps; reset 0 -/
  read : Word := 0
  /-- _REJECTS.DOMAIN_OFF, 16 bits, saturates; reset 0 -/
  rejOff : Nat := 0
  /-- _REJECTS.BUSY_FULL, 16 bits, saturates; reset 0 -/
  rejFull : Nat := 0
  /-- the ARRIVE interrupt at the receiver and the EMPTY interrupt at the sender (R53) -/
  arrive : Bool := false
  empty : Bool := false
  /-- the words that the receiver has read of the message it is reading, R59; empty at first -/
  taken : List Word := []
deriving DecidableEq, Repr

/-- One core's power domain and doorbell (R28 to R32, R56 to R58). -/
structure DomainUnit where
  /-- MBX_DB_x.UP, 1 bit; reset 0 -/
  up : Bool := false
  /-- MBX_DB_x.HOLD, 1 bit; reset 0 -/
  hold : Bool := false
  /-- MBX_DB_x.RINGS, 16 bits, wraps; reset 0 -/
  rings : BitVec 16 := 0
  /-- the domain is powering up after a ring or wake -/
  waking : Bool := false
  /-- the wake was a ring, so UP sets the wake-hold (R57) -/
  rung : Bool := false
  /-- a watchdog restart is in progress (R504) -/
  restart : Bool := false
  /-- the restart is an injection's (R528) -/
  inj : Bool := false
  /-- the last power-down request of the core was refused (R31) -/
  pdRefused : Bool := false
  /-- a ring has been granted since the domain came up and its core last read a message or asked to power down (R31, R56) -/
  ringSince : Bool := false
deriving DecidableEq, Repr

/-- What an NV operation does (R566, R572, R579). -/
inductive NvKind where
  /-- a record write of a key: user writes carry their host tag -/
  | record (key : Nat) (payload : List Byte) (user : Option Nat)
  /-- a record copy of a reclaim or retirement (R577) -/
  | copy (key seq : Nat) (payload : List Byte)
  | eraseRecord (sector : Sector)
  | eraseJournal
  | eraseStripe (sector : Sector)
  /-- increments of a counter programmed in its stripe (R585) -/
  | counterBit (k : Counter)
  /-- a CNT_CARRY record, formed as it starts: a switch of sets (R587), or the bases alone (R588) -/
  | carry (switch : Bool)
  /-- the RETIRE entry of a sector (R583) -/
  | retire (sector : Sector)
deriving DecidableEq, Repr

/-- A visible or superseded record in the record area (R569, R570): COMMIT is 0x00 where it is committed, else 0xFF. -/
structure NvRecord where
  key : Nat
  seq : BitVec 16
  payload : List Byte
  committed : Bool
  /-- CRC, 16 bits -/
  crc : BitVec 16
  /-- offset in its sector -/
  off : Nat
deriving DecidableEq, Repr

/-- One record-area sector (R569). -/
structure NvSector where
  /-- ERASES, 32 bits; reset DESIGN CHOICE 1 -/
  erases : Nat := 1
  /-- MAGIC, "NVSR", and the header's CRC, 16 bits; reset DESIGN CHOICE those of ERASES = 1 -/
  magic : Word := 0x5253564E
  crc : BitVec 16 := 0x8B3C
  /-- ORDER once opened -/
  order : Option Nat := none
  /-- bytes used, from 16 -/
  used : Nat := 16
  records : List NvRecord := []
  retired : Bool := false
  spare : Bool := false
  /-- half-erased (R580) -/
  half : Bool := false
deriving DecidableEq, Repr

/-- A journal entry (R578). -/
structure JournalEntry where
  type : Nat
  sector : Nat
  pulses : Nat
  jseq : Nat
  data : Word
  /-- CRC, 16 bits -/
  crc : BitVec 16
deriving DecidableEq, Repr

/-- The operation in progress (R568, R572). -/
structure NvOp where
  kind : NvKind
  sector : Nat
  /-- COMPLETE has been granted (R572) -/
  complete : Bool := false
  aborted : Bool := false
  /-- its answer is discarded by a fault (R574) -/
  mute : Bool := false
  /-- the pages of its sector that it makes busy (R568) -/
  pages : List Nat := []
deriving DecidableEq, Repr

/-- The NV store (R565 to R592). -/
structure NvUnit where
  /-- the 54 sectors of the record area, sector 10 + i; the last four are spare, R565; reset DESIGN CHOICE blank -/
  sectors : Vector NvSector 54 :=
    Vector.ofFn (fun i : Fin 54 => if i.val < 50 then {} else { spare := true })
  /-- the open sector, if one is -/
  open_ : Option (Fin 54) := none
  /-- next ORDER -/
  nextOrder : Nat := 1
  /-- the entries of the two journal sectors, oldest first, and the next JSEQ (R578) -/
  journals : Vector (List JournalEntry) 2 := Vector.replicate 2 []
  jseq : Nat := 1
  /-- the index of visible records in Owl's SRAM (R571): key, version, payload -/
  index : List (Nat × BitVec 16 × List Byte) := []
  /-- operations waiting, oldest first; user writes among them at most 8 (R593) -/
  queue : List NvKind := []
  /-- the operation in progress: NVS_STAT.BUSY, OP, SECTOR; reset none -/
  op : Option NvOp := none
  /-- NVS_STAT.READONLY, 1 bit, R584; reset 0 -/
  readOnly : Bool := false
  /-- NVS_STAT.LOCKED, 1 bit, R592, held in AON; reset 0 -/
  locked : Bool := false
  /-- NVS_STAT.GC, 1 bit, R577; reset 0 -/
  gc : Bool := false
  /-- NVS_STAT.CARRY_ONLY, 1 bit, R588; reset 0 -/
  carryOnly : Bool := false
  /-- the model's: tick at which the last CNT_CARRY of carry-only mode was queued (R588) -/
  carryAt : Nat := 0
  /-- NVS_PW.FAILS, 4 bits; reset 0 -/
  fails : Nat := 0
  /-- READ_PW and WRITE_PW, 32 bits each, R590; reset 0 -/
  readPw : Word := 0
  writePw : Word := 0
  /-- stripe counts in the active set, bases and pending increments of CNT0 to CNT15 (R585, R586); reset 0 -/
  stripe : Vector Nat 16 := Vector.replicate 16 0
  base : Vector Nat 16 := Vector.replicate 16 0
  pending : Vector Nat 16 := Vector.replicate 16 0
  /-- stripe sectors of the inactive set that are not known blank (R587) -/
  stale : List Sector := []
  /-- NVS_SPACE.HALF, half-erased sectors found at the last BOOT (R580); reset 0 -/
  halfFound : Nat := 0
  /-- the active set, false for A, and GEN of CNT_CARRY -/
  setB : Bool := false
  carryGen : Nat := 0
  /-- AON minute counters not yet recorded: RUN_MINUTES, ON_MINUTES (R589) -/
  runMin : Nat := 0
  onMin : Nat := 0
  /-- seconds towards the next minute -/
  minSec : Nat := 0
deriving DecidableEq, Repr

/-- The calendar (R594 to R597). -/
structure CalUnit where
  /-- CAL_SEC, 40 bits; reset 0 -/
  sec : Nat := 0
  /-- CAL_STAT.END, 1 bit; reset 0 -/
  ended : Bool := false
  /-- CAL_STAT.COARSE, 1 bit, R594; reset 0 -/
  coarse : Bool := false
  /-- CAL_STAT.OSC, 1 bit; reset 0 -/
  osc : Bool := false
  /-- CAL_STAT.SET, 1 bit, R597; reset 0 -/
  set : Bool := false
  /-- the model's: seconds counted in the AON domain since power-on, which neither CAL_SET nor the end of the range moves (R597, R598, R600) -/
  up : Nat := 0
  /-- the model's: the AON second at which the last CAL_STAMP was queued or restored (R597) -/
  stampAt : Nat := 0
  /-- CAL_SET_SEQ, 32 bits; reset 0 -/
  setSeq : Word := 0
deriving DecidableEq, Repr

/-- The log (R598 to R600). -/
structure LogUnit where
  /-- LOG_NEXT, 32 bits; reset 0 -/
  next : Nat := 0
  /-- entries held, oldest first with their indices, at most 2048 -/
  entries : List (Nat × LogEntry) := []
  /-- entries not yet stored: LOG_STAT.WAITING, 8 bits; reset 0 -/
  waiting : Nat := 0
  /-- a Class A or B entry waits (R600) -/
  urgent : Bool := false
  /-- AON second and count for the 64-per-second limit (R598) -/
  rateSec : Nat := 0
  rateN : Nat := 0
  /-- LOG_STAT.DROPPED, 16 bits, saturates; reset 0 -/
  dropped : Nat := 0
  /-- AON second of the oldest waiting entry -/
  oldest : Nat := 0
deriving DecidableEq, Repr

/-- Result codes of R623. -/
inductive Result where
  | ok | accessDenied | addrInvalid | domainOff | paramRange | unknownType | tagReused | hostBusy | wrongMode
  | shuttingDown | alreadyDone | tagUnknown | streamLimit
  | faultActive | noFault | classALatched | setUndefined | sourceDisabled
  | sweepBusy | sweepUnknown | sweepAborted | sweepAbortedLink | joinPartial
  | notFound | badPassword | nvLocked | keyReserved | nvBusy | nvFull | nvReadonly | aborted | invalidDate
  | updNoSession | updOverlap | updIncomplete | updFormat | updSignature | updCompat | bankTrial
deriving DecidableEq, Repr

/-- A message on its way to the host (R611 to R614): port, identifier fields, tag, result, body, format. -/
structure Message where
  port : CanPort
  prio : Nat
  type : Nat
  tag : Nat
  result : Result
  body : List Byte
  fd : Bool
  brs : Bool
  /-- ADDR and NET of its identifier (R608, R610) -/
  addr : Nat
  net : Nat
deriving DecidableEq, Repr

/-- A command received: where from, its type and body (R615 to R618). -/
structure HostCmd where
  ref : HostRef
  type : Nat
  body : List Byte
deriving DecidableEq, Repr

/-- A message in reassembly (R613). -/
structure Reasm where
  type : Nat
  tag : Nat
  next : Nat
  body : List Byte
  bcast : Bool
  prio : Nat
  fd : Bool
  brs : Bool
  /-- tick of its last fragment (R613) -/
  at_ : Nat
deriving DecidableEq, Repr

/-- A running telemetry stream (R632). -/
structure Stream where
  prio : Nat
  periodMs : Nat
  ports : Nat
  items : List Nat
  /-- SEQ of the next STREAM message (R633) -/
  seq : BitVec 16
  /-- tick at which its present period began (R632) -/
  at_ : Nat
deriving DecidableEq, Repr

/-- CAN port state, HOST_Pp_STAT.STATE. -/
inductive CanState where
  | off
  | active
  | passive
  | busOff
deriving DecidableEq, Repr

/-- One CAN port (R601 to R607). -/
structure CanUnit where
  /-- HOST_Pp_CFG.EN, 1 bit CFG; reset 0 -/
  en : Bool := false
  /-- FD, 1 bit CFG; reset 0 -/
  fd : Bool := false
  /-- BRS, 1 bit CFG; reset 0 -/
  brs : Bool := false
  /-- NBR, 2 bits CFG; reset 0 -/
  nbr : Nat := 0
  /-- NTSEG1, 8 bits CFG; reset 0 -/
  ntseg1 : Nat := 0
  /-- NSJW, 6 bits CFG; reset 0 -/
  nsjw : Nat := 0
  /-- DBR, 2 bits CFG; reset 0 -/
  dbr : Nat := 0
  /-- DTSEG1, 8 bits CFG; reset 0 -/
  dtseg1 : Nat := 0
  /-- DSJW, 5 bits CFG; reset 0 -/
  dsjw : Nat := 0
  /-- TDCO, 6 bits CFG; reset 0 -/
  tdco : Nat := 0
  /-- HOST_Pp_STAT.STATE, 3 bits; reset 0 -/
  st : CanState := .off
  /-- HOST_Pp_STAT.REC, 8 bits; reset 0 -/
  rec_ : Nat := 0
  /-- HOST_Pp_STAT.TEC, 8 bits; reset 0 -/
  tec : Nat := 0
  /-- HOST_Pp_CNT_RX, 32 bits, wraps; reset 0 -/
  rx : Word := 0
  /-- HOST_Pp_CNT_TX, 32 bits, wraps; reset 0 -/
  tx : Word := 0
  /-- HOST_Pp_CNT_ERR.ABANDON, 16 bits, saturates; reset 0 -/
  abandon : Nat := 0
  /-- HOST_Pp_CNT_ERR.BUSOFF, 16 bits, saturates; reset 0 -/
  busOff : Nat := 0
  /-- messages in reassembly, at most four (R613) -/
  reasm : List Reasm := []
  /-- FAULT frames waiting, oldest first, at most 16, and OVERFLOW (R520) -/
  faults : List (List Byte) := []
  overflow : Bool := false
  /-- messages sent on this port, oldest first -/
  out : List Message := []
deriving DecidableEq, Repr

/-- The host port (R601 to R642). -/
structure HostUnit where
  ports : Vector CanUnit 2 := Vector.replicate 2 {}
  /-- HOST_NET.NET_ID, 13 bits CFG; reset 0 -/
  netId : Nat := 0
  /-- HOST_NET.DUP_MS, 16 bits CFG; reset 0 -/
  dupMs : Nat := 0
  /-- HOST_STRCFG.STREAM_MAX, 4 bits CFG; reset 0 -/
  streamMax : Nat := 0
  /-- HOST_STRCFG.STREAM_MIN_MS, 16 bits CFG; reset 0 -/
  streamMin : Nat := 0
  /-- HOST_STRBPS, 32 bits CFG; reset 0 -/
  streamBps : Nat := 0
  /-- HOST_STAT.DEFAULTS, 1 bit, R607; reset 0 -/
  defaults : Bool := false
  /-- commands reported as HOST_RX and not yet taken by Owl, oldest first -/
  rx : List HostCmd := []
  /-- commands taken and not answered, oldest first; with rx they are PENDING, at most 16 (R616) -/
  pending : List HostCmd := []
  /-- aborts that await the grant of COMPLETE or ABORT, with the host command to answer (R69, R70, R171) -/
  aborts : List (Operation × Option HostCmd) := []
  /-- reads of busy pages, which wait for the end of the NV operation with what they were granted (R568, R572) -/
  reads : List (HostCmd × List Byte) := []
  /-- answers made and awaiting HOST_ANS, oldest first -/
  answers : List (HostCmd × Result × List Byte) := []
  /-- recent HOST_RX grants with their ticks, for R618 -/
  recent : List (Nat × HostCmd) := []
  /-- tags and types of the last 16 commands answered (R627) -/
  answered : List (Nat × Nat) := []
  /-- HOST_LAST, 16 bits; reset 0 -/
  last : Nat := 0
  /-- HOST_LAST_SEQ, 32 bits; reset 0 -/
  lastSeq : Word := 0
  /-- a command has been answered since the last BOOT or restart (R519) -/
  lastValid : Bool := false
  /-- HOST_CNT_CMD, 32 bits, wraps; reset 0 -/
  cmds : Word := 0
  /-- HOST_CNT_REJ.DUP, 16 bits, saturates; reset 0 -/
  dups : Nat := 0
  /-- HOST_CNT_REJ.BUSY, 16 bits, saturates; reset 0 -/
  busy : Nat := 0
  streams : Vector (Option Stream) 8 := Vector.replicate 8 none
  /-- HOST_UPD.LAST_RESULT, 8 bits; reset 0 -/
  updLast : Result := .ok
  /-- HOST_UPD.BANK, 1 bit; reset 0 -/
  updBank : Bool := false
  /-- HOST_UPD.STATE: a session is open, or committed; reset neither -/
  updOpen : Bool := false
  updDone : Bool := false
  /-- length of the session, bytes programmed, and which (R638) -/
  updLen : Nat := 0
  updBytes : Nat := 0
  updMap : List (Nat × Nat) := []
  /-- a commit awaits COMPLETE or ABORT (R639): CFG_WARN and SETID of its answer -/
  commitReq : Option (Bool × Nat) := none
  /-- COMPLETE of the commit has been granted -/
  commitDone : Bool := false
  /-- the tick of the last CAN frame received, for R29 -/
  frameAt : Nat := 0
  /-- the JOINs whose answers await the end of their window, each with the ports it started and that tick (R461) -/
  joinCmds : List (HostCmd × List SettPort × Nat) := []
  /-- the SWEEP_START of a chain-wide sweep whose answer awaits the delivery of SW_SETUP (R483) -/
  sweepCmd : Option HostCmd := none
deriving DecidableEq, Repr

/-- One reader's high-word latches, one for each low word that captures, and what its last read returned (R217, R652). -/
structure Latches where
  /-- of TB_COUNT, R217; reset 0 -/
  tb : Word := 0
  /-- of SETT_CT; reset 0 -/
  ct : Word := 0
  /-- of GAUGE_Q; reset 0 -/
  q : Word := 0
  /-- of GAUGE_QMARK; reset 0 -/
  qmark : Word := 0
  /-- of NVS_CNT0 to NVS_CNT15; reset 0 -/
  cnt : Vector Word 16 := Vector.replicate 16 0
  /-- of CAL_SEC; reset 0 -/
  cal : Word := 0
  /-- of OBS_CNT0 to OBS_CNT31, R652; reset 0 -/
  obs : Vector Word 32 := Vector.replicate 32 0
  /-- the word that the reader's last read returned (R13); reset DESIGN CHOICE 0 -/
  data : Word := 0
deriving DecidableEq, Repr

end Sys2Proof.Machine
end

