-- ==== Sys2Proof/Machine/State.lean ====
section
/-!
DEFINITION. The machine's state: the block (`Chip`) and the queue of commands waiting, first in, first out.
`StateControl`, `StateData` and `StateMgmt` hold its parts, each field with its width, the rule that names it
and its reset value; what each block holds is listed in INVENTORY.md.
-/

namespace Sys2Proof.Machine

/-- Everything the spec gives the device. -/
structure Chip where
  sys : SysUnit := {}
  code : CodeUnit := {}
  tb : Timebase := {}
  ph : Vector PhaseUnit 24 := Vector.replicate 24 {}
  grp : Vector GroupUnit 4 := Vector.replicate 4 {}
  le : Vector EngineUnit 4 := Vector.replicate 4 {}
  setpt : SetptUnit := {}
  lcmd : Vector LcmdUnit 4 := Vector.replicate 4 {}
  refs : RefUnit := {}
  aux : AuxUnit := {}
  snap : SnapUnit := {}
  /-- capture memory 0x0100_0000 to 0x0107_FFFF, by offset from its base; unlisted bytes read 0, R74; reset empty -/
  cap : Memory := []
  sweep : SweepUnit := {}
  sett : SettUnit := {}
  gauge : GaugeUnit := {}
  guards : Vector Guard 45 := Vector.replicate 45 {}
  eva : Eva := {}
  trace : TraceUnit := {}
  /-- OBS_CNT0 to OBS_CNT31, 48 bits, wrap, R652; reset 0 -/
  obs : Vector (BitVec 48) 32 := Vector.replicate 32 0
  /-- MBX_BO, MBX_OB, MBX_BH, MBX_HB, MBX_OH, MBX_HO, R50; reset empty -/
  mbx : Vector MailboxUnit 6 := Vector.replicate 6 {}
  /-- domains and doorbells of Badger, Owl, Hedgehog, R28 to R32, R56; reset down -/
  dom : Vector DomainUnit 3 := Vector.replicate 3 {}
  nv : NvUnit := {}
  cal : CalUnit := {}
  log : LogUnit := {}
  host : HostUnit := {}
  /-- latches of Badger, Owl, Hedgehog and the host read path, R217; reset 0 -/
  latch : Vector Latches 4 := Vector.replicate 4 {}
  /-- the model's own counter of free values drawn; no statement rests on it; reset DESIGN CHOICE 0 -/
  draws : Nat := 0
deriving DecidableEq, Repr

/-- The machine: the commands waiting and the block. -/
structure State where
  pending : List Instr := []
  chip : Chip := {}
deriving DecidableEq, Repr

/-- Reasons a step could stop with a fault. No command has one: every row of the table has an effect the spec gives. -/
inductive Fault where
deriving DecidableEq, Repr

/-- Reasons a step could be refused. -/
inductive Refusal where
  /-- raised by an arm of `exec` whose command has no meaning yet; safe -/
  | notModelled (mnemonic : String)
deriving DecidableEq, Repr

/-- The machine with power-on reset held: the device in OFF (R193), every field at its reset value, nothing waiting. -/
def State.reset : State := {}

/-- `s` with its block changed; the queue stands. -/
def State.onChip (f : Chip → Chip) (s : State) : State := { s with chip := f s.chip }

end Sys2Proof.Machine
end

