-- ==== Sys2Proof/Machine/Ops.lean ====
section
/-!
DEFINITION. The named operations that every command is built from: changing one part of the block, EVA's
grant and its trace record, the passing of timebase ticks, log entries and guard history.
-/

namespace Sys2Proof.Machine

/-! ### One part of the block -/

/-- Change one phase. -/
def Chip.modPh (p : Phase) (f : PhaseUnit → PhaseUnit) (c : Chip) : Chip := { c with ph := vmod c.ph p f }
/-- Change one phase's edge placer. -/
def Chip.modPl (p : Phase) (f : Placer → Placer) (c : Chip) : Chip := c.modPh p (fun u => { u with pl := f u.pl })
/-- Change one phase's converter. -/
def Chip.modConv (p : Phase) (f : PhaseConv → PhaseConv) (c : Chip) : Chip :=
  c.modPh p (fun u => { u with conv := f u.conv })
/-- Change one phase's BAL registers. -/
def Chip.modBal (p : Phase) (f : PhaseBal → PhaseBal) (c : Chip) : Chip := c.modPh p (fun u => { u with bal := f u.bal })
/-- Change one group. -/
def Chip.modGrp (g : Group) (f : GroupUnit → GroupUnit) (c : Chip) : Chip := { c with grp := vmod c.grp g f }
/-- Change one group's converter. -/
def Chip.modGv (g : Group) (f : GroupConv → GroupConv) (c : Chip) : Chip :=
  c.modGrp g (fun u => { u with conv := f u.conv })
/-- Change one group's BAL. -/
def Chip.modGb (g : Group) (f : GroupBal → GroupBal) (c : Chip) : Chip := c.modGrp g (fun u => { u with bal := f u.bal })
/-- Change one engine. -/
def Chip.modLe (e : Engine) (f : EngineUnit → EngineUnit) (c : Chip) : Chip := { c with le := vmod c.le e f }
/-- Change one load-command port. -/
def Chip.modLcmd (p : LcmdPort) (f : LcmdUnit → LcmdUnit) (c : Chip) : Chip := { c with lcmd := vmod c.lcmd p f }
/-- Change one guard block. -/
def Chip.modGuard (b : Block) (f : Guard → Guard) (c : Chip) : Chip := { c with guards := vmod c.guards b f }
/-- Change the chain's registers. -/
def Chip.onSett (f : SettUnit → SettUnit) (c : Chip) : Chip := { c with sett := f c.sett }
/-- Change one Sett port. -/
def Chip.modPort (p : SettPort) (f : SettPortUnit → SettPortUnit) (c : Chip) : Chip :=
  { c with sett := { c.sett with ports := vmod c.sett.ports p f } }
/-- Change one group's Sett registers. -/
def Chip.modSg (g : Group) (f : SettGroup → SettGroup) (c : Chip) : Chip :=
  { c with sett := { c.sett with groups := vmod c.sett.groups g f } }
/-- Change what is known of one peer. -/
def Chip.modPeer (a : Address) (f : PeerInfo → PeerInfo) (c : Chip) : Chip :=
  { c with sett := { c.sett with peers := vmod c.sett.peers a f } }
/-- Change one CAN port. -/
def Chip.modCan (p : CanPort) (f : CanUnit → CanUnit) (c : Chip) : Chip :=
  { c with host := { c.host with ports := vmod c.host.ports p f } }
/-- Change one core's domain. -/
def Chip.modDom (k : Fin 3) (f : DomainUnit → DomainUnit) (c : Chip) : Chip := { c with dom := vmod c.dom k f }
/-- Change one mailbox. -/
def Chip.modMbx (m : Fin 6) (f : MailboxUnit → MailboxUnit) (c : Chip) : Chip := { c with mbx := vmod c.mbx m f }
/-- Add to an observation counter, wrapping at 2^48 (R652). -/
def Chip.count (k : Fin 32) (n : Nat) (c : Chip) : Chip := { c with obs := vmod c.obs k (· + BitVec.ofNat 48 n) }
/-- Hold increments of a hardware counter for programming (R585, R589). -/
def Chip.bump (k : Counter) (n : Nat) (c : Chip) : Chip :=
  { c with nv := { c.nv with pending := vmod c.nv.pending k (· + n) } }

/-- A free number, each use of its own (the model's draw counter). -/
def Chip.draw (place : Nat) (c : Chip) : Nat × Chip :=
  (Config.openNat place c.draws, { c with draws := c.draws + 1 })

/-- Index of a core's domain. -/
def coreIdx : Core → Fin 3
  | .badger => 0
  | .owl => 1
  | .hedgehog => 2

/-- A core's domain is up. -/
def Chip.isUp (k : Core) (c : Chip) : Bool := (c.dom[coreIdx k]).up

/-- The AON domain is powered: the device is out of OFF (R26). -/
def Chip.powered (c : Chip) : Bool := c.sys.dev != .off

/-- The CTRL and DATA domains are up (R27, R115); a SHUTDOWN in progress keeps them up while RST_N is low (R119). -/
def Chip.ctrlUp (c : Chip) : Bool := c.powered && c.sys.rails && (!c.sys.rstLow || c.sys.dev == .shutdown)

/-- The device is out of BOOT, in any of STANDBY, SHUTDOWN, SAFE or per group. -/
def Chip.outOfBoot (c : Chip) : Bool := c.powered && c.sys.dev != .boot

/-! ### The trace port -/

/-- Queue a record, or drop it (R650). One of the 64 places is kept free for a SYNC record (DEDUCED, log 12). -/
def Chip.pushTrace (r : TraceRec) (c : Chip) : Chip :=
  let t := c.trace
  let n := t.queue.length
  let drop (t : TraceUnit) : Chip :=
    Chip.count 2 1 { c with trace := { t with
      lostAll := t.lostAll + 1
      lostInfo := if r.kind = .grant then t.lostInfo else satInc 0xFFFF t.lostInfo
      lostSeq := r.seq } }
  if r.kind = .sync then { c with trace := { t with queue := t.queue ++ [r] } }
  else if 63 ≤ n ∨ (48 ≤ n ∧ r.kind = .grant) then drop t
  else if t.lostAll = 0 then { c with trace := { t with queue := t.queue ++ [r] } }
  else
    let lost : TraceRec := ⟨.lost, 0, t.lostInfo, t.lostSeq, 0, BitVec.ofNat 32 t.lostAll⟩
    let t := { t with queue := t.queue ++ [lost], lostAll := 0, lostInfo := 0 }
    if 63 ≤ n + 1 then drop t else { c with trace := { t with queue := t.queue ++ [r] } }

/-- A SYNC record (R648, R649). -/
def Chip.syncRecord (c : Chip) : TraceRec :=
  ⟨.sync, 0, c.eva.wrap.toNat % 65536, c.eva.seq, 0, BitVec.ofNat 32 (c.tb.count / 2 ^ 32)⟩

/-- The port sends for `n` ticks: 272 TK a record, and one STB period of idle after every 16 (R644, R646). -/
def drainTrace : Nat → Nat → TraceUnit → TraceUnit × Nat
  | 0, _, t => (t, 0)
  | fuel + 1, n, t =>
    if n < t.busy then ({ t with busy := t.busy - n }, 0)
    else
      let left := n - t.busy
      match t.queue with
      | [] => ({ t with busy := 0, burst := if left = 0 then t.burst else 0 }, 0)
      | r :: rs =>
        if left = 0 then ({ t with busy := 0 }, 0)
        else
          let t' := { t with queue := rs, sent := t.sent ++ [r], burst := (t.burst + 1) % 16
                             busy := 272 + if t.burst = 15 then 16 else 0 }
          let (t'', k) := drainTrace fuel left t'
          (t'', k + 1)

/-- A record begins on a rising edge of TRC_STB, every 16 ticks of TB_COUNT (R218, R646; log 127): an idle port waits for the next one. -/
def TraceUnit.align (now : Nat) (t : TraceUnit) : TraceUnit := if t.busy = 0 then { t with busy := (16 - now % 16) % 16 } else t

/-! ### Grants -/

/-- What the trace says of a grant (R648). -/
structure GrantInfo where
  kind : TraceKind := .grant
  src : Nat
  info : Nat
  data : Word := 0

/-- EVA grants one event of an input: EVSEQ and EVA_WRAP (R60, R61), the round-robin pointer or the URGENT
count (R65, R66), MAXWAIT, OBS0 and the trace record (R648). Which of several pending requests is granted first is the order of the commands
(DESIGN CHOICE, log 6). -/
def Chip.grantAs (input : Nat) (i : GrantInfo) (c : Chip) : Chip :=
  let seq := c.eva.seq + 1
  let wrap := if seq = 0 then c.eva.wrap + 1 else c.eva.wrap
  let eva : Eva :=
    if input < 64 then
      { c.eva with seq := seq, wrap := wrap, pointer := Fin.ofNat 64 (input + 1)
                   maxWait := max c.eva.maxWait (Config.grantWait c.draws % 127) }
    else { c.eva with seq := seq, wrap := wrap, urgent := c.eva.urgent + 1 }
  let c := Chip.count 0 1 { c with eva := eva, draws := c.draws + 1 }
  c.pushTrace ⟨i.kind, i.src, i.info, seq, BitVec.ofNat 32 c.tb.count, i.data⟩

/-- A grant whose record is of kind GRANT. -/
def Chip.grant (input member : Nat) (c : Chip) : Chip := c.grantAs input { src := input, info := member }

/-! ### The ports of the Sett link (R422, R425, R427) -/

/-- The virtual channel of a flit (R422). -/
def FlitBody.vc : FlitBody → Fin 4
  | .epoch _ => 0
  | .share _ => 1
  | .report _ => 1
  | .swReq .. => 2
  | .swSetup .. => 2
  | .swAck .. => 2
  | .swDone .. => 2
  | .swAbort .. => 2
  | .swEnd .. => 2
  | .unnamed _ => 2
  | .linkDown .. => 3
  | .topo _ => 3
  | .headClaim _ => 3
  | .modeOrder .. => 3
  | .setOrder .. => 3
  | .selFwd .. => 3
  | .fcastFwd .. => 3
  | .phFloor .. => 3
  | .phaseLost _ => 3
  | .resume _ => 3
  | .deviceSafe => 3
  | .leadClaim _ => 3

/-- LINK_DOWN still leaves once hold-up has begun, by the other port (R448); every other flit stops there (R94). -/
def FlitBody.isLinkDown : FlitBody → Bool
  | .linkDown .. => true
  | .epoch _ | .share _ | .report _ | .swReq .. | .swSetup .. | .swAck .. | .swDone .. | .swAbort .. | .swEnd .. | .unnamed _ | .topo _
  | .headClaim _ | .modeOrder .. | .setOrder .. | .selFwd .. | .fcastFwd .. | .phFloor .. | .phaseLost _ | .resume _ | .deviceSafe
  | .leadClaim _ => false

/-- A CREDIT pair that returns `n` credits of a VC (R427). -/
def creditPair (vc : Fin 4) (n : Nat) : List CodeGroup := [.k28 6, .data (BitVec.ofNat 8 (vc.val * 64 + n))]

/-- A receive buffer of a port has emptied: a credit of its VC is returned in a CREDIT pair of its own, which is on the wire for at most one flit time
(R71, R427; DEDUCED, log 143). -/
def Chip.returnCredit (q : SettPort) (vc : Fin 4) (c : Chip) : Chip :=
  c.modPort q (fun u => { u with returned := vmod u.returned vc (· + 1), pairs := u.pairs ++ creditPair vc 1 })

/-- A receive buffer of a port that a waiting flit held empties, and its credit returns (R427). -/
def Chip.freeBuffer (held : Option SettPort) (vc : Fin 4) (c : Chip) : Chip :=
  match held with
  | some q => (c.modPort q (fun u => { u with rxFree := vmod u.rxFree vc (fun n => min 8 (n + 1)) })).returnCredit q vc
  | none => c

/-- A credit of a VC is spent at tick `now`, and the flit is in progress for 640 TK (R417, R427); VC2 and VC3 take turns (R425). -/
def SettPortUnit.spend (vc : Fin 4) (now : Nat) (u : SettPortUnit) : SettPortUnit :=
  { u with txCred := vmod u.txCred vc (· - 1), spentAt := u.spentAt.set vc now, busyUntil := now + 640
           turn := if vc = 2 then true else if vc = 3 then false else u.turn }

/-- The first element of a list that a condition picks, and the rest. -/
def takeFirst {α : Type} (p : α → Bool) : List α → Option (α × List α)
  | [] => none
  | w :: ws =>
    if p w then some (w, ws)
    else match takeFirst p ws with
      | some (x, rest) => some (x, w :: rest)
      | none => none

/-- A waiting flit of the VC that may leave. -/
def Waiting.leaves (holdup : Bool) (vc : Fin 4) (w : Waiting) : Bool := w.flit.body.vc == vc && (!holdup || w.flit.body.isLinkDown)

/-- The flit that leaves next by a port that is idle, with the flits that go on waiting: VC0 first, then VC1, then VC2 and VC3 in turn (R425), of a VC that
holds a credit (R427). -/
def SettPortUnit.nextFlit (holdup : Bool) (u : SettPortUnit) : Option (Waiting × List Waiting) :=
  let order : List (Fin 4) := if u.turn then [0, 1, 3, 2] else [0, 1, 2, 3]
  order.findSome? (fun vc => if u.txCred[vc] = 0 then none else takeFirst (Waiting.leaves holdup vc) u.wait)

/-- A port that is UP sends what waits, from tick `t` up to tick `now`, at most `fuel` flits (R425). -/
def Chip.servePort (p : SettPort) (t now : Nat) : Nat → Chip → Chip
  | 0, c => c
  | fuel + 1, c =>
    let u := c.sett.ports[p]
    let t := max t u.busyUntil
    if u.st != .up || decide (now < t) then c
    else match u.nextFlit c.sys.holdup with
      | none => c
      | some (w, rest) =>
        let vc := w.flit.body.vc
        let c := c.modPort p (fun u => { u.spend vc t with wait := rest })
        let c := Chip.count 23 1 (c.onSett (fun s => { s with tx := s.tx ++ [(p, w.flit)] }))
        Chip.servePort p t now fuel (c.freeBuffer w.held vc)

/-- A port sends what may leave at this tick. -/
def Chip.serveNow (p : SettPort) (c : Chip) : Chip := c.servePort p c.tb.count c.tb.count (c.sett.ports[p]).wait.length

/-- A flit is to leave by a port: it waits for the flit in progress to end and for a credit of its VC (R425, R427), which may both be there. A waiting flit that
this device forwards keeps its receive buffer; a port that is not UP sends nothing. -/
def Chip.transmit (held : Option SettPort) (p : SettPort) (f : Flit) (c : Chip) : Chip :=
  let vc := f.body.vc
  if (c.sett.ports[p]).st != .up || (c.sys.holdup && !f.body.isLinkDown) then
    (match held with
    | some q => c.returnCredit q vc
    | none => c)
  else
    let c := c.modPort p (fun u => { u with wait := u.wait ++ [⟨held, f, c.tb.count⟩] })
    let c := match held with
      | some q => c.modPort q (fun u => { u with rxFree := vmod u.rxFree vc (· - 1) })
      | none => c
    c.serveNow p

/-! ### Time -/

/-- The number of ticks in one calendar second's worth of the calendar, when it is counted at a tick. -/
def calEnd : Nat := 0x17830D57F

/-- The calendar counts one second, up to the end of its range (R594). -/
def Chip.calendarSecond (c : Chip) : Chip :=
  let running := c.outOfBoot &&
    c.grp.toList.any (fun u => u.mode = .regulate || u.mode = .charge || u.mode = .lightload || u.mode = .derated || u.mode = .sweep)
  let sec := c.nv.minSec + 1
  { c with
    cal := { c.cal with sec := if c.cal.sec < calEnd then c.cal.sec + 1 else c.cal.sec, up := c.cal.up + 1 }
    nv := { c.nv with
      minSec := sec % 60
      onMin := if sec = 60 then c.nv.onMin + 1 else c.nv.onMin
      runMin := if sec = 60 ∧ running then c.nv.runMin + 1 else c.nv.runMin } }

/-- `n` timebase ticks pass (R204, R205): TB_COUNT, a SYNC record at each wrap of its low word (R648),
OBS31 in HOLDOVER and RELOCK, the trace port, and what the Sett ports send meanwhile (R425). -/
def Chip.elapse (n : Nat) (c : Chip) : Chip :=
  if c.ctrlUp then
    let before := c.tb.count
    let c := { c with tb := { c.tb with count := before + n } }
    let c := if c.tb.st = .holdover ∨ c.tb.st = .relock then c.count 31 n else c
    let c := if c.trace.running then
        let (t, k) := drainTrace (c.trace.queue.length + 1) n (c.trace.align before)
        Chip.count 1 k { c with trace := t }
      else c
    let c := if before / 2 ^ 32 < c.tb.count / 2 ^ 32 then c.pushTrace c.syncRecord else c
    (List.finRange 2).foldl (fun c p => c.servePort p before c.tb.count (c.sett.ports[p]).wait.length) c
  else c

/-- The time passes up to tick `t`; nothing where `t` is past. -/
def Chip.elapseTo (t : Nat) (c : Chip) : Chip := c.elapse (t - c.tb.count)

/-! ### The log and guard history -/

/-- Code of a mode (R157). -/
def modeCode : Mode → Nat
  | .off => 0
  | .boot => 1
  | .standby => 2
  | .precharge => 3
  | .softstart => 4
  | .regulate => 5
  | .charge => 6
  | .lightload => 7
  | .derated => 8
  | .sweep => 9
  | .shutdown => 10
  | .safe => 11

/-- Code of a cause (R161). -/
def causeCode : Cause → Nat
  | .none => 0
  | .bootEnd => 1
  | .enable => 2
  | .disable => 3
  | .preDone => 4
  | .ssDone => 5
  | .runSel => 6
  | .loadLow => 7
  | .loadHigh => 8
  | .forecast => 9
  | .phaseLost => 10
  | .phaseBack => 11
  | .leaderLost => 12
  | .sweepStart => 13
  | .sweepEnd => 14
  | .faultB => 15
  | .cleared => 16
  | .faultA => 17
  | .shdn => 18

/-- Number of a fault class (R497). -/
def clsCode : Cls → Nat
  | .a => 1
  | .b => 2
  | .c => 3

/-- KIND of a history entry (R497). -/
def histCode : HistKind → Nat
  | .raise => 0
  | .clear => 1
  | .retry => 2
  | .gone => 3
  | .warn => 4
  | .auto => 5

/-- A log entry stamped with the last grant and the present calendar (R598). -/
def Chip.logEntry (block code kind unit : Nat) (inj : Bool) (data : List Byte) (c : Chip) : LogEntry :=
  { seq := c.eva.seq, calS := c.cal.sec, calSet := c.cal.set, inj := inj, coarse := c.cal.coarse, wrap := c.eva.wrap.setWidth 16
    block := block, code := code, kind := kind, unit := unit, data := bytesAt data 0 16 }

/-- One entry joins the log (R598): refused past 64 in one second, the newest 2048 kept (R600). Without Owl's firmware, in the recovery service,
nothing is logged (R151). -/
def Chip.pushLog (e : LogEntry) (urgent : Bool) (c : Chip) : Chip :=
  let l := c.log
  let n := if l.rateSec = c.cal.up then l.rateN else 0
  if c.sys.result == .codeCorrupt then c
  else if 64 ≤ n then { c with log := { l with dropped := satInc 0xFFFF l.dropped } }
  else
    let all := l.entries ++ [(l.next, { e with at_ := c.cal.up })]
    -- a read-only store leaves a ring of 256 entries that are not stored (R584)
    let full := c.nv.readOnly && decide (256 ≤ l.waiting)
    let all := if full then all.eraseIdx (l.entries.length - l.waiting) else all
    { c with log := { l with
      next := (l.next + 1) % 2 ^ 32
      entries := all.drop (all.length - 2048)
      waiting := if full then l.waiting else l.waiting + 1
      oldest := if l.waiting = 0 then c.cal.up else l.oldest
      urgent := l.urgent || urgent
      rateSec := c.cal.up
      rateN := n + 1 } }

/-- One log entry of the last grant. -/
def Chip.addLog (block code kind unit : Nat) (inj urgent : Bool) (data : List Byte) (c : Chip) : Chip :=
  c.pushLog (c.logEntry block code kind unit inj data) urgent

/-- Blocks whose D1 is the timebase count: those of the CTRL and DATA domains (R497). -/
def blockOnTimebase (b : Nat) : Bool := b < 38 || b == 39

/-- Write one history entry at the last grant (R497, R498), and its log entry (R598). D0 is the value that caused a raise; for any other kind of entry
it is 0 (R500; DEDUCED, log 128). -/
def Chip.writeHist (b : Block) (k : HistKind) (cl : Cls) (code unit : Nat) (d0 : Word) (inj : Bool) (c : Chip) : Chip :=
  let d1 : Word := BitVec.ofNat 32 (if blockOnTimebase b then c.tb.count else c.cal.sec)
  let e : HistEntry := ⟨true, c.eva.seq, k, cl, inj, c.eva.wrap.setWidth 8, code, unit, d0, d1⟩
  let c := c.modGuard b (fun g =>
    let i : Fin 4 := if g.total = 0 && !(g.hist[(0 : Fin 4)]).valid then 0 else g.newest + 1
    { g with total := g.total + 1, newest := i, hist := g.hist.set i e })
  c.addLog b code (clsCode cl * 64 + histCode k) unit inj (cl != .c)
    (leBytes 4 d0.toNat ++ leBytes 4 d1.toNat)

/-- The trace record of a guard history entry (R648). -/
def guardInfo (b : Block) (k : HistKind) (cl : Cls) (code : Nat) (d0 : Word) (inj : Bool) : GrantInfo :=
  { kind := .guard, src := b, info := code * 256 + histCode k * 32 + clsCode cl * 8 + (if inj then 4 else 0), data := d0 }

/-- The mode change record and its log entry at a grant of Badger's (R160, R598, R648). -/
def Chip.modeGrant (src prev new cause : Nat) (unit : Nat) (c : Chip) : Chip :=
  let c := c.grantAs 41 { kind := .mode, src := src, info := new * 256 + cause, data := BitVec.ofNat 32 prev }
  let c := c.count 17 1
  c.addLog 0x80 new 0 unit false false [BitVec.ofNat 8 prev, BitVec.ofNat 8 cause]

end Sys2Proof.Machine
end

