-- ==== Sys2Proof/Machine/Operands.lean ====
section
/-!
DEFINITION. What the commands read: the phases and engines of a group, levels and ratings, the reference in
force, the current limit in force, and the measured values that several commands share.
-/

namespace Sys2Proof.Machine

/-- Guard block indices of R496. -/
def phBlock (p : Phase) : Block := ⟨p.val, by omega⟩
def leBlock (e : Engine) : Block := ⟨24 + e.val, by omega⟩
def grpBlock (g : Group) : Block := ⟨28 + g.val, by omega⟩
def settPortBlock (p : SettPort) : Block := ⟨34 + p.val, by omega⟩
def adcBlock : Block := 32
def tbBlock : Block := 33
def settBlock : Block := 36
def lcmdBlock : Block := 37
def nvsBlock : Block := 38
def gaugeBlock : Block := 39
def hostBlock : Block := 40
def badgerBlock : Block := 41
def owlBlock : Block := 42
def hhBlock : Block := 43
def sysBlock : Block := 44

/-- All phases, in ascending number. -/
def allPhases : List Phase := List.finRange 24
def allGroups : List Group := List.finRange 4
def allEngines : List Engine := List.finRange 4

/-- The phases the image assigns to a group on this device (R370). -/
def Chip.phasesOf (c : Chip) (g : Group) : List Phase :=
  allPhases.filter (fun p => c.sys.loaded && (c.ph[p]).cfg.group == g.val)

/-- The group of a phase, none for GROUP = 7. -/
def Chip.groupOf (c : Chip) (p : Phase) : Option Group :=
  let g := (c.ph[p]).cfg.group
  if h : g < 4 then (if c.sys.loaded then some ⟨g, h⟩ else none) else none

/-- A phase's state (R370). -/
def Chip.pstate (c : Chip) (p : Phase) : PState := (c.ph[p]).pl.pstate

/-- The group's phases in one state. -/
def Chip.phasesIn (c : Chip) (g : Group) (s : PState) : List Phase := (c.phasesOf g).filter (fun p => c.pstate p == s)

/-- ADDING, ACTIVE or SHEDDING: the phases that count in MEAS, telemetry and N (R370, R381). -/
def Chip.counting (c : Chip) (g : Group) : List Phase :=
  (c.phasesOf g).filter (fun p => c.pstate p == .adding || c.pstate p == .active || c.pstate p == .shedding)

/-- Healthy phases of the group on this device: those not FAULTED (R407). -/
def Chip.healthy (c : Chip) (g : Group) : Nat := ((c.phasesOf g).filter (fun p => c.pstate p != .faulted)).length

/-- At least one phase of the group is switching (R283, R285). -/
def Chip.anySwitching (c : Chip) (g : Group) : Bool := (c.phasesOf g).any (fun p => (c.ph[p]).pl.switching)

/-- The running modes (R158, R177 to R183). -/
def isRunning (m : Mode) : Bool :=
  m == .regulate || m == .charge || m == .lightload || m == .derated || m == .sweep

/-- Modes in which a group's phases switch. -/
def isSwitchingMode (m : Mode) : Bool := m == .precharge || m == .softstart || isRunning m

/-- Adds are made in the mode (R387). -/
def allowsAdds (m : Mode) : Bool := m == .regulate || m == .charge || m == .derated || m == .lightload

/-- Sheds are made in the mode (R387). -/
def allowsSheds (m : Mode) : Bool := m == .regulate || m == .charge || m == .derated

/-- BAL neither adds nor sheds in the group's mode, nor in the ramp of SHUTDOWN (R387). -/
def Chip.frozen (c : Chip) (g : Group) : Bool := !(allowsAdds (c.grp[g]).mode) || c.sys.dev == .shutdown

/-- BAL_Gg_STAT.FROZEN: the modes of R387's table in which BAL is frozen; a group of which no phase switches has none (DEDUCED, log 121: it is 0 at
reset). -/
def Chip.showsFrozen (c : Chip) (g : Group) : Bool :=
  c.frozen g && (isSwitchingMode (c.grp[g]).mode || (c.sys.dev == .shutdown && (c.grp[g]).ramping))

/-- The fixed-period modulations (R229). -/
def isFixed (m : Modulation) : Bool := m == .fixedTe || m == .fixedLe

/-- The per-phase rating of the group, amperes (R262). -/
def Chip.rate (c : Chip) (g : Group) : Rat := f32 (c.grp[g]).cfg.rate

/-- ADC_PHn_SCALE of a phase. -/
def Chip.scale (c : Chip) (p : Phase) : Rat := f32 (c.ph[p]).cfg.scale

/-- ADC_GVn_V_SCALE of a group. -/
def Chip.vScale (c : Chip) (g : Group) : Rat := f32 (c.grp[g]).cfg.vScale

/-- ADC_PHn_SCALE of the group's lowest-numbered phase on the device (R173). -/
def Chip.grpScale (c : Chip) (g : Group) : Rat :=
  match c.phasesOf g with
  | [] => 0
  | p :: _ => c.scale p

/-- The group rating: the per-phase rating times the assigned phases. -/
def Chip.grpRating (c : Chip) (g : Group) : Rat := c.rate g * ((c.phasesOf g).length : Rat)

/-! ### The reference and the limits -/

/-- REF of an entry at tick `t` (R345). -/
def refAt (e : Entry) (t : Nat) : Int :=
  let k : Int := ((e.slew * (t - e.rampT0) / 2457600 : Nat) : Int)
  if e.refFrom ≤ e.refTo then min (e.refFrom + k) e.refTo else max (e.refFrom - k) e.refTo

/-- The current limit in force at group voltage `v` (R391). -/
def iEff (e : Entry) (v : Int) : Int :=
  if (e.vKnee : Int) ≤ v ∨ e.vKnee = 0 then (e.iLim : Int)
  else (e.iFold : Int) + (((e.iLim : Int) - e.iFold) * max v 0) / (e.vKnee : Int)

/-- The reverse limit in SOFTSTART (R173). -/
def Chip.ssReverse (c : Chip) (g : Group) : Int :=
  let s := absRat (c.grpScale g)
  if s = 0 then 0
  else - (min 32767 ((16 * ((c.grp[g]).cfg.ssIneg : Rat) * c.rate g / (1000 * s)).floor))

/-- The reverse limit in force (R392). -/
def Chip.reverseLimit (c : Chip) (g : Group) (v : Int) : Int :=
  if (c.grp[g]).mode = .softstart then c.ssReverse g else - iEff c.setpt.active[g] v

/-- The per-phase precharge reference that Badger derives from PRE_ILIM and the rating, in sixteenths of a count (R317). -/
def Chip.preIref (c : Chip) (g : Group) : Nat :=
  let s := absRat (c.grpScale g)
  if s = 0 then 0
  else (min 32767 ((16 * ((c.grp[g]).cfg.preIlim : Rat) * c.rate g / (1000 * s)).floor)).toNat

/-! ### Engines -/

/-- The engines that serve a group (R317). -/
def Chip.enginesOf (c : Chip) (g : Group) : List Engine :=
  allEngines.filter (fun e => (c.le[e]).cfg.en && (c.le[e]).cfg.group == g.val)

/-- The group's voltage engine: the outermost engine of a single, cascade or min-select arrangement (R321, R328). -/
def Chip.voltEngine (c : Chip) (g : Group) : Option Engine := (c.enginesOf g).find? (fun e => !(c.le[e]).cfg.measI)

/-- The group's current engine. -/
def Chip.currEngine (c : Chip) (g : Group) : Option Engine := (c.enginesOf g).find? (fun e => (c.le[e]).cfg.measI)

/-- The outermost engine: the voltage engine, or a member's one engine. -/
def Chip.outerEngine (c : Chip) (g : Group) : Option Engine := (c.voltEngine g).or (c.currEngine g)

/-- The pairing of a group's engines (R321). -/
def Chip.pairing (c : Chip) (g : Group) : PairKind :=
  match c.enginesOf g with
  | [] => .none
  | e :: _ => (c.le[e]).cfg.pair

/-- This device is a member, not the leader, of a spanning group. -/
def Chip.isMember (c : Chip) (g : Group) : Bool := (c.sett.groups[g]).span && !(c.sett.groups[g]).leader

/-- This device leads the spanning group. -/
def Chip.isLeader (c : Chip) (g : Group) : Bool := (c.sett.groups[g]).span && (c.sett.groups[g]).leader

/-- The transitions of a group's mode that R201 lists. -/
def listed (old m : Mode) : Bool :=
  match m with
  | .standby => old == .precharge || old == .softstart || isRunning old || old == .safe
  | .precharge => old == .standby
  | .softstart => old == .standby || old == .precharge
  | .regulate => old == .softstart || old == .charge || old == .lightload || old == .sweep || old == .derated
  | .charge => old == .softstart || old == .regulate || old == .derated
  | .lightload => old == .regulate
  | .derated => old == .softstart || old == .regulate || old == .charge || old == .lightload || old == .sweep
  | .sweep => old == .regulate
  | .safe => old != .standby
  | .off => false
  | .boot => false
  | .shutdown => false

/-- A bank of seven zero coefficients is empty (R330). -/
def bankEmpty (b : Bank) : Bool := b == {}

/-- Bank 1 of the group's engines is not empty, so Badger may select it (R330). -/
def Chip.hasBank1 (c : Chip) (g : Group) : Bool := (c.enginesOf g).all (fun e => !bankEmpty (c.le[e]).cfg.banks[(1 : Fin 3)])

/-! ### Measured values -/

/-- The latest selected current of a phase in corrected counts; none while it has produced none (R279, R281). -/
def Chip.selected (c : Chip) (p : Phase) : Option Rat := ((c.ph[p]).conv.sel2).map (fun v => (v : Rat) / 2)

/-- The group current: the sum of the counting phases' selected values in amperes (R298). -/
def Chip.groupCurrent (c : Chip) (g : Group) : Rat :=
  (c.counting g).foldl (fun a p => a + ((c.selected p).getD 0) * c.scale p) 0

/-- 16 times the mean of the selected values of the counting phases, truncated towards zero (R313). -/
def Chip.meanCurrent (c : Chip) (g : Group) : Int :=
  let vs := (c.counting g).filterMap c.selected
  if vs.isEmpty then 0 else truncRat (16 * (vs.foldl (· + ·) 0) / (vs.length : Rat))

/-- A source of R326 and R543: an auxiliary slot (0 to 23) or a group converter (24 to 27), in volts;
none where it carries VALID = 0, NOTREADY or OVR. -/
def Chip.voltSource (c : Chip) (s : Nat) : Option Rat :=
  if h : s < 24 then
    let a := c.aux.slots[(⟨s, h⟩ : Slot)]
    if a.has && a.res.getLsbD 31 && !a.res.getLsbD 30 && !a.res.getLsbD 29 then some a.val else none
  else if h : s < 28 then
    let g : Group := ⟨s - 24, by omega⟩
    let v := (c.grp[g]).conv
    if v.vValid && !v.vOvr && !v.vNotReady then some ((v.v : Rat) * c.vScale g) else none
  else none

/-- The per-phase load L in percent for a summed current (R381). -/
def Chip.loadPct (c : Chip) (g : Group) (current : Rat) (n : Nat) : Rat :=
  if n = 0 ∨ c.rate g = 0 then 0 else absRat current / ((n : Rat) * c.rate g) * 100

/-- The group has an uncleared Class B fault: its own block's, its REF_LOST in ADC, a chain fault, or one that takes every
group to SAFE (R165, R502). -/
def Chip.groupFaulted (c : Chip) (g : Group) : Bool :=
  !(c.guards[grpBlock g]).faults.isEmpty ||
  (c.guards[adcBlock]).faults.any (fun f => f.code == 0x22 && f.unit == g.val || f.code == 0x2D) ||
  (c.guards[settBlock]).faults.any (fun f => (f.code == 0x2A || f.code == 0x2B) && f.unit == g.val) ||
  (c.guards[sysBlock]).faults.any (fun f => f.code == 0x27 || f.code == 0x28) ||
  (c.guards[badgerBlock]).faults.any (fun f => f.code == 0x2C || f.code == 0x2D) ||
  (c.guards[gaugeBlock]).faults.any (fun f => f.code == 0x2E && (c.gauge.cfg.chgGroup == g.val)) ||
  (c.guards[tbBlock]).faults.any (fun f => f.code == 0x29) ||
  c.guards.toList.any (fun b => b.faults.any (fun f => f.code == 0x2D))

/-- A spanning group counts nothing of this device while it is in SAFE here or held by a Class B fault (R440, R441). -/
def Chip.ownCounts (c : Chip) (g : Group) : Bool := (c.grp[g]).mode != .safe && !c.groupFaulted g

/-- A device's reported phases of a group count (R441): reachable, its last REPORT at most 48 000 TK old, not in Class A SAFE, and the
group not in SAFE on it. -/
def Chip.deviceCounts (c : Chip) (g : Group) (d : Address) : Bool :=
  let p := c.sett.peers[d]
  let recent (t : Option Nat) : Bool := match t with
    | some t => decide (c.tb.count ≤ t + 48000)
    | none => false
  d != c.sett.addr && recent p.heard && recent p.reportAt && !p.safe && !(p.reports[g]).safe

/-- The group's present power P0: P_AVG, summed over the devices that count for a spanning group (R360, R441). -/
def Chip.groupPower (c : Chip) (g : Group) : Rat :=
  let own := (c.grp[g]).conv.pAvg.avg
  if c.isLeader g then
    (List.finRange 8).foldl (fun a d =>
      let p := c.sett.peers[d]
      if c.deviceCounts g d then a + f32 (p.reports[g]).pAvg else a) (if c.ownCounts g then own else 0)
  else own

/-- The per-phase power P_PH of R360: the rating times the active TARGET in volts, in kW. -/
def Chip.phasePower (c : Chip) (g : Group) : Rat :=
  c.rate g * absRat (((c.setpt.sets[Fin.ofNat 16 (c.setpt.active[g]).set][g]).target : Rat) * c.vScale g) / 1000

/-- A spanning group's healthy phases: the sum over the devices that count (R441); a group on one device counts its own. -/
def Chip.healthyAll (c : Chip) (g : Group) : Nat :=
  if c.isLeader g then
    (List.finRange 8).foldl (fun a d =>
      let p := c.sett.peers[d]
      if c.deviceCounts g d then a + (p.reports[g]).healthy else a)
      (if c.ownCounts g then c.healthy g else 0)
  else c.healthy g

/-- Assigned phases, across the reachable chain for a leader. -/
def Chip.assignedAll (c : Chip) (g : Group) : Nat :=
  if c.isLeader g then
    (List.finRange 8).foldl (fun a d =>
      let p := c.sett.peers[d]
      if d ≠ c.sett.addr ∧ p.reportAt.isSome then a + (p.reports[g]).assigned else a) (c.phasesOf g).length
  else (c.phasesOf g).length

/-- A device that carries the group by its DEV_MASK has not reported since BOOT: its phases are short of the assigned total (R199, R447). -/
def Chip.missing (c : Chip) (g : Group) : Bool :=
  c.isLeader g && (List.finRange 8).any (fun d =>
    d != c.sett.addr && (c.sett.groups[g]).devMask.testBit d.val && (c.sett.peers[d]).reportAt.isNone)

/-- Healthy phases are short of the assigned total (R199, R447). -/
def Chip.fewer (c : Chip) (g : Group) : Bool := decide (c.healthyAll g < c.assignedAll g) || c.missing g

/-- SYS_SUP_STAT.RAILS_OK (R88). -/
def Chip.railsOk (c : Chip) : Bool := c.sys.rails && !c.sys.railBad

/-- REF_RDY of a reference by its field value (R272). -/
def Chip.refReady (c : Chip) : Nat → Bool
  | 0 => c.refs.int_
  | 1 => c.refs.ext_
  | 2 => c.refs.vdda && c.railsOk
  | _ => false

/-- The conditions of R165 hold for a group. R165 lists no phase: that a group to which no phase of this device is assigned stays in STANDBY is the
model's reading (DEDUCED, log 125). -/
def Chip.mayStart (c : Chip) (g : Group) : Bool :=
  c.sys.dev == .perGroup && (c.grp[g]).enable && c.sys.enable && c.sys.vholdSeen && c.tb.st == .locked &&
  c.refReady (c.grp[g]).cfg.refSel && c.refReady c.refs.refPh && !c.groupFaulted g && !(c.phasesOf g).isEmpty &&
  (!(c.sett.groups[g]).span || (c.sett.formed && ((c.sett.groups[g]).leader || (c.sett.groups[g]).ordered)))

end Sys2Proof.Machine
end

