-- ==== Sys2Proof/Machine/Flags.lean ====
section
/-!
DEFINITION. Flag words: the result word of a conversion (R267), the guards' STATUS words and their summary (R497, R499), and
the pins that follow them (R514, R515, R158).
-/

namespace Sys2Proof.Machine

/-! ### The result word -/

/-- A conversion's result word (R267); DATA of a `bits`-bit signed code as ALIGN selects (R268). -/
def resultWord (bits : Nat) (align notReady ovr local_ : Bool) (seq : BitVec 8) (code : Int) : Word :=
  packWord [(31, 1, 1), (30, 1, bit notReady), (29, 1, bit ovr), (28, 1, bit local_), (16, 8, (seq.toNat : Int)),
    (0, 16, if align then code * (2 ^ (16 - bits) : Nat) else code)]

/-- A code at either end of a signed converter's range carries OVR (R271). -/
def codeOvr (bits : Nat) (code : Int) : Bool :=
  decide (code ≤ -(2 ^ (bits - 1) : Nat)) || decide (((2 ^ (bits - 1) - 1 : Nat) : Int) ≤ code)

/-! ### Guard status -/

/-- The uncleared Class B fault with the lowest EVSEQ (R497). -/
def Guard.oldest (g : Guard) : Option FaultRec := g.faults.head?

/-- _STATUS (R497, R499). -/
def Guard.status (g : Guard) : Word :=
  let b := g.oldest
  packWord [(31, 1, bit (g.aCode != 0)), (30, 1, bit b.isSome), (29, 1, bit ((b.map (·.present)).getD false)), (28, 1, bit g.c),
    (24, 4, (g.retries : Int)), (16, 8, (((b.map (·.code)).getD 0 : Nat) : Int)), (8, 8, (g.cCode : Int)),
    (0, 8, (g.aCode : Int))]

/-- The condition of a fault that stands is back: COND reads 1 again, and neither a clearing nor a retry takes the fault until it has gone (R497, R508,
R510). -/
def Chip.condBack (b : Block) (code unit : Nat) (c : Chip) : Chip :=
  c.modGuard b (fun g => { g with faults := g.faults.map (fun f =>
    if f.code = code ∧ f.unit = unit then { f with present := true } else f) })

/-- The Class A latch: a block has raised a Class A fault since power-on reset (R187, R506). -/
def Chip.latched (c : Chip) : Bool := c.guards.toList.any (·.aCode != 0)

/-- Any block's STATUS.B. -/
def Chip.anyB (c : Chip) : Bool := c.guards.toList.any (!·.faults.isEmpty)

/-- Any block's STATUS.C. -/
def Chip.anyC (c : Chip) : Bool := c.guards.toList.any (·.c)

/-- FAULT_N is driven low (R514); in OFF it is not driven (R516). -/
def Chip.faultLow (c : Chip) : Bool :=
  c.powered && (!c.sys.booted || c.sys.rstLow || c.latched || c.anyB)

/-- ALERT_N is driven low (R515). -/
def Chip.alertLow (c : Chip) : Bool := c.powered && c.sys.alertEn && c.anyC

/-- PGn is high (R158, R349). -/
def Chip.pgHigh (c : Chip) (g : Group) : Bool := c.ctrlUp && isRunning (c.grp[g]).mode && (c.grp[g]).pg

/-- GRD_SUM. -/
def Chip.grdSum (c : Chip) : Word :=
  packWord [(24, 8, ((c.guards.toList.filter (!·.faults.isEmpty)).length : Int)),
    (16, 8, ((c.guards.toList.filter (·.c)).length : Int)), (2, 1, bit c.latched), (1, 1, bit c.alertLow), (0, 1, bit c.faultLow)]

/-- GRD_BMAP: bit b is B of block b. -/
def Chip.bmap (c : Chip) : Nat :=
  (List.finRange 45).foldl (fun a b => if (c.guards[b]).faults.isEmpty then a else a + 2 ^ b.val) 0

/-- The gate outputs of a phase are held low by the safe-state net, RST_N, OFF or BOOT (R247, R491, R493). -/
def Chip.outputsHeld (c : Chip) : Bool := !c.powered || c.sys.rstLow || c.latched || c.sys.dev == .boot || c.sys.holdup

end Sys2Proof.Machine
end

