-- ==== Sys2Proof/Machine/Mailbox.lean ====
section
/-!
DEFINITION. The mailboxes between the cores (R50 to R55, R59) and the messages that pass through them (R36, R37, R651).
-/

namespace Sys2Proof.Machine

/-- Number of a mailbox in R648's order. -/
def mbxIdx : Mailbox → Fin 6
  | .bo => 0
  | .ob => 1
  | .bh => 2
  | .hb => 3
  | .oh => 4
  | .ho => 5

/-- The core that writes a mailbox. -/
def mbxSender : Mailbox → Core
  | .bo => .badger
  | .ob => .owl
  | .bh => .badger
  | .hb => .hedgehog
  | .oh => .owl
  | .ho => .hedgehog

/-- The core that reads a mailbox. -/
def mbxReceiver : Mailbox → Core
  | .bo => .owl
  | .ob => .badger
  | .bh => .hedgehog
  | .hb => .badger
  | .oh => .hedgehog
  | .ho => .owl

/-- The mailboxes that a core receives. -/
def incoming : Core → List Mailbox
  | .badger => [.ob, .hb]
  | .owl => [.bo, .ho]
  | .hedgehog => [.bh, .oh]

/-- A grant of kind MBX (R648). -/
def Chip.mbxGrant (input src info : Nat) (data : Word) (c : Chip) : Chip :=
  c.grantAs input { kind := .mbx, src := src, info := info, data := data }

/-- MAILBOX_WRITE by the mailbox's sender (R50 to R53): DOMAIN_OFF, BUSY_FULL, or the word is held. -/
def Chip.mailboxWrite (m : Mailbox) (w : Word) (c : Chip) : Chip :=
  let i := mbxIdx m
  if !c.isUp (mbxSender m) then c
  else if !c.isUp (mbxReceiver m) then
    ((c.mbxGrant (45 + i.val) i.val 2 w).modMbx i (fun u => { u with rejOff := satInc 0xFFFF u.rejOff })).count 4 1
  else if (c.mbx[i]).full then
    ((c.mbxGrant (45 + i.val) i.val 1 w).modMbx i (fun u => { u with rejFull := satInc 0xFFFF u.rejFull })).count 4 1
  else
    ((c.mbxGrant (45 + i.val) i.val 0 w).modMbx i (fun u =>
      { u with data := w, full := true, written := u.written + 1, arrive := true, empty := false })).count 3 1

/-- TYPE of a continuation word (R59). -/
def contType : Nat := 1

/-- The words of the message that the receiver is reading, with one word more: a word of another TYPE than 0x01 begins a message (R59). -/
def takenWith (ws : List Word) (w : Word) : List Word := if w.toNat / 2 ^ 24 = contType then ws ++ [w] else [w]

/-- MAILBOX_READ by the mailbox's receiver (R53, R57): a message waiting is consumed, and the receiver's wake-hold clears. -/
def Chip.mailboxRead (m : Mailbox) (c : Chip) : Chip :=
  let i := mbxIdx m
  if c.isUp (mbxReceiver m) && (c.mbx[i]).full then
    ((c.mbxGrant (45 + i.val) i.val 3 0).modMbx i (fun u =>
      { u with full := false, read := u.read + 1, arrive := false, empty := true, taken := takenWith u.taken u.data })).modDom
      (coreIdx (mbxReceiver m)) (fun d => { d with hold := false, ringSince := false })
  else c

/-! ### Messages (R59, R651) -/

/-- The number of a result code (R623). -/
def resultCode : Result → Nat
  | .ok => 0x00
  | .accessDenied => 0x01
  | .addrInvalid => 0x02
  | .domainOff => 0x03
  | .paramRange => 0x04
  | .unknownType => 0x05
  | .tagReused => 0x06
  | .hostBusy => 0x07
  | .wrongMode => 0x08
  | .shuttingDown => 0x09
  | .alreadyDone => 0x0A
  | .tagUnknown => 0x0B
  | .streamLimit => 0x0C
  | .faultActive => 0x10
  | .noFault => 0x11
  | .classALatched => 0x12
  | .setUndefined => 0x18
  | .sourceDisabled => 0x19
  | .sweepBusy => 0x20
  | .sweepUnknown => 0x21
  | .sweepAborted => 0x22
  | .sweepAbortedLink => 0x23
  | .joinPartial => 0x28
  | .notFound => 0x30
  | .badPassword => 0x31
  | .nvLocked => 0x32
  | .keyReserved => 0x33
  | .nvBusy => 0x34
  | .nvFull => 0x35
  | .nvReadonly => 0x36
  | .aborted => 0x37
  | .invalidDate => 0x38
  | .updNoSession => 0x40
  | .updOverlap => 0x41
  | .updIncomplete => 0x42
  | .updFormat => 0x43
  | .updSignature => 0x44
  | .updCompat => 0x45
  | .bankTrial => 0x46

/-- A body in words of TYPE 0x01, three bytes a word, the lowest in [7:0], padded with zero. -/
def contWords : Nat → List Byte → List Word
  | 0, _ => []
  | _, [] => []
  | n + 1, b :: bs => BitVec.ofNat 32 (contType * 2 ^ 24 + numAt (b :: bs) 0 3) :: contWords n (bs.drop 2)

/-- The words of a message: TYPE and ARG, then its body (R651). -/
def messageWords (type arg : Nat) (body : List Byte) : List Word :=
  BitVec.ofNat 32 (type * 2 ^ 24 + arg % 2 ^ 24) :: contWords body.length body

/-- The words of a tagged message: ARG holds the tag and the length of the body (R651). -/
def taggedWords (type tag : Nat) (body : List Byte) : List Word := messageWords type (tag % 2 ^ 16 * 256 + body.length % 256) body

/-- The receiver has read exactly these words (by MAILBOX_READ), or both cores are up and the mailbox is free, so that the words can
pass now (R36, R58). -/
def Chip.canPass (m : Mailbox) (ws : List Word) (c : Chip) : Bool :=
  let u := c.mbx[mbxIdx m]
  u.taken == ws || (c.isUp (mbxSender m) && c.isUp (mbxReceiver m) && !u.full)

/-- One word passes: its write is granted, then its read. -/
def Chip.passWord (m : Mailbox) (c : Chip) (w : Word) : Chip := (c.mailboxWrite m w).mailboxRead m

/-- A message reaches its receiver, word by word, each written after the EMPTY of the one before (R59); words that MAILBOX_WRITE and
MAILBOX_READ have passed already do not pass again (DESIGN CHOICE, log 117). -/
def Chip.pass (m : Mailbox) (ws : List Word) (c : Chip) : Chip :=
  let c := if (c.mbx[mbxIdx m]).taken == ws then c else ws.foldl (Chip.passWord m) c
  c.modMbx (mbxIdx m) (fun u => { u with taken := [] })

end Sys2Proof.Machine
end

