-- ==== Sys2Proof/Machine/Engine.lean ====
section
/-!
DEFINITION. The loop engines (chapter 6 of the spec): the difference equation, its clamps and residue, the
feed-forward terms, the test source and accumulators, and one evaluation of a group's engines.
-/

namespace Sys2Proof.Machine

/-! ### Which law runs (R317) -/

/-- What the engines of a group do in its present mode. -/
inductive Law where
  | idle
  | precharge
  | voltage
  | charge
  | droop
deriving DecidableEq, Repr

/-- A member runs the droop law: its entry names bank 2, which only the swap of R325 writes. It stays through a SHUTDOWN ramp. -/
def Chip.onDroop (c : Chip) (g : Group) : Bool := c.isMember g && (c.setpt.active[g]).bank == 2

/-- The law of a group that regulates: droop (R325), or as the swap of R176 has set it (R317). -/
def Chip.runLaw (c : Chip) (g : Group) : Law :=
  if c.onDroop g then .droop else if (c.setpt.active[g]).chargeLaw then .charge else .voltage

/-- The law of a group's mode (R317, R325). A ramped stop keeps the law of its mode. -/
def Chip.law (c : Chip) (g : Group) : Law :=
  let u := c.grp[g]
  match u.mode with
  | .precharge => .precharge
  | .softstart => .voltage
  | .regulate => c.runLaw g
  | .charge => c.runLaw g
  | .derated => c.runLaw g
  | .lightload => .voltage
  | .sweep => .voltage
  | .shutdown => if !u.ramping then .idle else if c.onDroop g then .droop else .voltage
  | .off => .idle
  | .boot => .idle
  | .standby => .idle
  | .safe => .idle

/-- An engine acts in its group's present mode: LEn_STAT.RUN (R317). -/
def Chip.engineActs (c : Chip) (e : Engine) : Bool :=
  let u := (c.le[e]).cfg
  if h : u.group < 4 then
    let g : Group := ⟨u.group, h⟩
    u.en && match c.law g with
    | .idle => false
    | .precharge => u.measI
    | .voltage => true
    | .charge => u.pair == .minSelect
    | .droop => true
  else false

/-! ### Clamps and sums -/

/-- The accumulator's limit, 2^47 − 1 (R305). -/
def accLimit : Int := 2 ^ 47 - 1

/-- One saturating addition, and whether it saturated (R307). -/
def satAdd (a x : Int) : Int × Bool :=
  let v := a + x
  if accLimit < v then (accLimit, true) else if v < -accLimit then (-accLimit, true) else (v, false)

/-- The sum of R307, one product at a time, with the number of additions that saturated. -/
def accumulate : Int → List Int → Int × Nat
  | a, [] => (a, 0)
  | a, x :: xs =>
    let (v, s) := satAdd a x
    let (r, n) := accumulate v xs
    (r, n + if s then 1 else 0)

/-- A saturating 16-bit value (R306). -/
def sat16 (x : Int) : Int := clampInt (-32768) 32767 x

/-- A saturating 64-bit addition, and whether it saturated (R334). -/
def sat64 (a x : Int) : Int × Bool :=
  let v := a + x
  if 2 ^ 63 - 1 < v then (2 ^ 63 - 1, true) else if v < -(2 ^ 63) then (-(2 ^ 63), true) else (v, false)

/-! ### The sine source (R332) -/

/-- sin(x) for x in 0 to π/2, by its series to the 19th power. -/
def sinSeries (x : Rat) : Rat :=
  let x2 := x * x
  let step (acc : Rat × Rat) (k : Nat) : Rat × Rat :=
    let t := -(acc.2 * x2 / ((2 * k * (2 * k + 1) : Nat) : Rat))
    (acc.1 + t, t)
  ((List.range' 1 9).foldl step (x, x)).1

/-- sin(2π φ / 2^48) for a phase of 48 bits. -/
def sinTurn (phase : Nat) : Rat :=
  let q := phase / 2 ^ 46 % 4
  let r := phase % 2 ^ 46
  let pi : Rat := 3141592653589793238462643383279 / 1000000000000000000000000000000
  let ang (n : Nat) : Rat := (n : Rat) / ((2 ^ 46 : Nat) : Rat) * pi / 2
  match q with
  | 0 => sinSeries (ang r)
  | 1 => sinSeries (ang (2 ^ 46 - r))
  | 2 => - sinSeries (ang r)
  | _ => - sinSeries (ang (2 ^ 46 - r))

/-- cos(2π φ / 2^48). -/
def cosTurn (phase : Nat) : Rat := sinTurn ((phase + 2 ^ 46) % 2 ^ 48)

/-- The phase at a trigger tick (R332). -/
def Injection.phase (i : Injection) (t : Nat) : Nat :=
  (((i.inc : Int) * ((t : Int) - (i.t0 : Int))) % ((2 ^ 48 : Nat) : Int)).toNat

/-- A rounded multiple of the sine, off by at most one LSB, which way being open (R332). -/
def openRound (draw : Nat) (x : Rat) : Int := roundAway x + clampInt (-1) 1 (Config.sineError draw x)

/-- Q1.15 of a sine value (R334). -/
def q15 (draw : Nat) (x : Rat) : Int := clampInt (-32768) 32767 (openRound draw (x * 32768))

/-! ### One evaluation of one engine -/

/-- What an engine reads at one evaluation (R40: one copy). -/
structure EvalIn where
  /-- trigger tick of the conversion -/
  t : Nat
  ref : Int
  meas : Int
  /-- the feed-forward terms in force, sixteenths -/
  ffVin : Int := 0
  ffAnt : Int := 0
  bank : Nat := 0
  /-- the current limit that narrows an IREF's clamp, sixteenths of an output unit (R310, R392) -/
  limits : Option (Int × Int) := none
  /-- the output hold of R393: current above the limit, below the reverse limit -/
  holdHi : Bool := false
  holdLo : Bool := false
  /-- this is the first evaluation of the droop law (R325) -/
  droopFirst : Bool := false
  /-- counter of free values, for the sine source -/
  draw : Nat := 0

/-- Coefficients of a bank as lists: b0 to b3 and a1 to a3, less a3 and b3 for 2p2z (R304). -/
def Bank.bs (order : Bool) (b : Bank) : List Int := if order then [b.b0, b.b1, b.b2, b.b3] else [b.b0, b.b1, b.b2]
def Bank.as (order : Bool) (b : Bank) : List Int := if order then [b.a1, b.a2, b.a3] else [b.a1, b.a2]

/-- The clamp on yc in sixteenths: YMIN and YMAX, for an IREF narrowed to the current limit, less the feed-forward, and
the hold of R393 (R310). -/
def EvalIn.clamp (i : EvalIn) (u : EngineUnit) : Int × Int :=
  let ff := i.ffVin + i.ffAnt
  let lo := u.cfg.yMin * 16
  let hi := u.cfg.yMax * 16
  let (lo, hi) := match i.limits with
    | some (l, h) => (max lo l, min hi h)
    | none => (lo, hi)
  (if i.holdLo then u.y1 else lo - ff, if i.holdHi then u.y1 else hi - ff)

/-- The range of y_out in sixteenths (R310). -/
def EvalIn.outRange (i : EvalIn) (u : EngineUnit) : Int × Int :=
  match i.limits with
  | some (l, h) => (max (u.cfg.yMin * 16) l, min (u.cfg.yMax * 16) h)
  | none => (u.cfg.yMin * 16, u.cfg.yMax * 16)

/-- y_out in sixteenths as delivered: whole units for TI and IREF (R309). -/
def deliverable (k : OutKind) (y : Int) : Int :=
  if k = .ti ∨ k = .iref then roundAway ((y : Rat) / 16) * 16 else y

/-- The response accumulators after one evaluation (R334). -/
def Injection.respond (i : Injection) (draw t : Nat) (x1 x2 : Int) : Injection :=
  if i.run then
    let ph := i.phase t
    let co := q15 draw (cosTurn ph)
    let si := q15 draw (sinTurn ph)
    let a := sat64 i.x1c (x1 * co)
    let b := sat64 i.x1s (x1 * si)
    let d := sat64 i.x2c (x2 * co)
    let e := sat64 i.x2s (x2 * si)
    { i with x1c := a.1, x1s := b.1, x2c := d.1, x2s := e.1, n := i.n + 1
             sat := i.sat || a.2 || b.2 || d.2 || e.2 }
  else i

/-- R304 to R311 and R334: the engine after one evaluation. -/
def EngineUnit.eval (u : EngineUnit) (i : EvalIn) : EngineUnit :=
  let inj := if u.inj.point = 0 then 0 else openRound i.draw ((u.inj.amp : Rat) * sinTurn (u.inj.phase i.t))
  let injE := if u.inj.point = 1 then inj else 0
  let injO := if u.inj.point = 2 then inj else 0
  let e0 := sat16 (i.ref - i.meas + injE)
  let u := if i.droopFirst then { u with e1 := e0, e2 := e0, e3 := e0, resid := 0, droopOn := true } else u
  let b := u.cfg.banks[Fin.ofNat 3 i.bank]
  let bs := List.zipWith (fun k e => k * e * 16) (b.bs u.cfg.order) [e0, u.e1, u.e2, u.e3]
  let as := List.zipWith (fun k y => k * y) (b.as u.cfg.order) [u.y1, u.y2, u.y3]
  let (acc, sats) := accumulate u.resid (bs ++ as)
  let yc := acc / 2 ^ 20
  let resid := acc - yc * 2 ^ 20
  let (lo, hi) := i.clamp u
  let isHi := decide (hi < yc)
  let y := if isHi then hi else yc
  let isLo := decide (y < lo)
  let y := if isLo then lo else y
  let clamped := isHi || isLo
  let (olo, ohi) := i.outRange u
  let raw := y + (i.ffVin + i.ffAnt) + injO
  let out := deliverable u.cfg.out (clampInt olo ohi raw)
  let hiRun := if isHi then satInc 16 u.hiRun else 0
  let loRun := if isLo then satInc 16 u.loRun else 0
  let x1 := if u.inj.point = 1 then i.ref - i.meas else y + (i.ffVin + i.ffAnt)
  let x2 := if u.inj.point = 1 then e0 else out
  { u with
    y1 := y, y2 := u.y1, y3 := u.y2
    e1 := e0, e2 := u.e1, e3 := u.e2
    resid := if clamped then 0 else resid
    yOut := out, err := e0, ref := i.ref, meas := i.meas
    ffVin := i.ffVin, ffAnt := i.ffAnt, bank := i.bank
    evalAt := i.t, cntEval := u.cntEval + 1
    cntSat := if clamped then satInc 0xFFFFFFFF u.cntSat else u.cntSat
    cntAccSat := min 0xFFFFFFFF (u.cntAccSat + sats)
    accSat := u.accSat || decide (0 < sats)
    hiRun := hiRun, loRun := loRun
    satHi := decide (hiRun = 16), satLo := decide (loRun = 16)
    inj := { u.inj.respond i.draw i.t x1 x2 with clamped := clamped || clampInt olo ohi raw != raw } }

/-! ### Feed-forward -/

/-- The reference of a charging group's voltage engine: CHG_V (R323), and in a ramped stop the entry's reference on its way to zero where that
is lower (DEDUCED, log 20). -/
def Chip.chargeRef (c : Chip) (g : Group) (t : Nat) : Int :=
  let e := c.setpt.active[g]
  if (c.grp[g]).ramping then min (e.chgV : Int) (refAt e t) else (e.chgV : Int)

/-- The group's voltage reference in force, in volts (R326): CHG_V in CHARGE, else REF of the entry. -/
def Chip.voltRef (c : Chip) (g : Group) (t : Nat) : Rat :=
  (if c.law g = .charge then (c.chargeRef g t : Rat) else (refAt c.setpt.active[g] t : Rat)) * c.vScale g

/-- r of R326 for a source at `src` volts. -/
def vffRatio (mode : Nat) (vref src : Rat) : Rat :=
  let r := if mode = 1 then (if vref ≤ 0 then 0 else vref / src) else (if vref ≤ 0 then 1 else src / vref)
  max 0 (min 1 r)

/-- FF_VIN for a valid source: VFF_K × r × P, truncated towards zero to a sixteenth (R326). -/
def Chip.ffVinOf (c : Chip) (g : Group) (u : EngineCfg) (vref src : Rat) : Int :=
  let p : Rat := if u.out = .duty then ((2 ^ 21 : Nat) : Rat) else ((c.grp[g]).cfg.period : Rat) / 16
  truncRat ((u.vffK : Rat) / ((2 ^ 20 : Nat) : Rat) * vffRatio u.vffMode vref src * p * 16)

/-- The source value of an engine's feed-forward, none where R327 refuses it. -/
def Chip.vffSource (c : Chip) (u : EngineCfg) : Option Rat :=
  match c.voltSource u.vffSrc with
  | some v => if 0 < v then some v else none
  | none => none

/-- FF_VIN recomputed now (R326), or held where the source is bad (R327), and whether that is to be logged. -/
def Chip.ffUpdate (c : Chip) (g : Group) (e : Engine) : EngineUnit × Bool :=
  let u := c.le[e]
  match c.vffSource u.cfg with
  | some v => ({ u with ffVin := c.ffVinOf g u.cfg (c.voltRef g c.tb.count) v, vffOk := true }, false)
  | none => ({ u with ffVin := if u.vffOk then u.ffVin else 0, vffLogged := true }, !u.vffLogged)

/-- The anticipation term at an evaluation of the outermost engine (R328, R329): the engine with its books, and FF_ANT. -/
def EngineUnit.anticipate (u : EngineUnit) (en : Entry) (t : Nat) : EngineUnit × Int :=
  if en.antGen ≠ 0 ∧ en.antGen ≠ u.antGen ∧ en.antAt ≤ t then
    ({ u with antGen := en.antGen, antT := t, antAmp := en.antAmp, antDecay := en.antDecay, antRun := true, antReq := true,
              reqs := if u.antReq then u.reqs else u.reqs ++ [.ant] },
      en.antAmp)
  else if u.antRun then
    let d := u.antDecay * tkUs
    if d ≤ t - u.antT then ({ u with antRun := false }, 0)
    else (u, truncRat ((u.antAmp : Rat) * (1 - ((t - u.antT : Nat) : Rat) / (d : Rat))))
  else (u, 0)

/-! ### Starting and stopping -/

/-- R318: the engine as its group starts from STANDBY, with the books of R327 and the droop law ended. -/
def EngineUnit.start (m : Modulation) (u : EngineUnit) : EngineUnit :=
  let y := if u.cfg.out = .ti then (if m = .coff then u.cfg.yMin * 16 else u.cfg.yMax * 16) else 0
  { u with e1 := 0, e2 := 0, e3 := 0, resid := 0, y1 := y, y2 := y, y3 := y
           yOut := if u.cfg.out = .iref then 0 else u.yOut
           vffOk := false, vffLogged := false, ffVin := 0, droopOn := false }

/-- R318: a cascade's voltage engine takes the precharge reference in force as PRECHARGE ends. -/
def EngineUnit.handOver (pre : Int) (u : EngineUnit) : EngineUnit :=
  { u with e1 := 0, e2 := 0, e3 := 0, resid := 0, y1 := pre * 16, y2 := pre * 16, y3 := pre * 16, yOut := pre * 16 }

/-- R329: the anticipation term ends as the group leaves the running modes. -/
def EngineUnit.endTerm (u : EngineUnit) : EngineUnit := { u with ffAnt := 0, antRun := false }

/-- R333: the injection ends with the sweep. -/
def EngineUnit.endInjection (u : EngineUnit) : EngineUnit :=
  { u with inj := { u.inj with point := 0, run := false } }

/-- Every engine of a group changed. -/
def Chip.modEngines (g : Group) (f : EngineUnit → EngineUnit) (c : Chip) : Chip :=
  (c.enginesOf g).foldl (fun c e => c.modLe e f) c

/-! ### One evaluation of a group -/

/-- REF of an engine at an evaluation, in its measurement units (R316, R317, R322 to R325, R345, R392); DROOP_ENG names the engine whose DROOP
is the group's slope (R466). -/
def Chip.engineRef (c : Chip) (g : Group) (e : Engine) (t : Nat) (v mean : Int) : Int :=
  let u := (c.le[e]).cfg
  let en := c.setpt.active[g]
  let lim := iEff en v
  match c.law g with
  | .precharge => min (en.preIref : Int) lim
  | .droop =>
    let slope := (c.le[(Fin.ofNat 4 (c.sett.groups[g]).droopEng : Engine)]).cfg.droop
    refAt en t - roundAway ((slope : Rat) * (mean : Rat) / ((2 ^ 20 : Nat) : Rat))
  | .charge => if u.measI then min (en.chgI : Int) lim else c.chargeRef g t
  | .voltage =>
    if !u.measI then refAt en t
    else match u.pair with
    | .cascade => match c.voltEngine g with
      | some w => (c.le[w]).yOut / 16
      | none => 0
    | .minSelect => min (en.chgI : Int) lim
    | .none => clampInt (c.reverseLimit g v) lim (c.sett.groups[g]).irefUse
  | .idle => 0

/-- What an engine reads at a conversion triggered at `t` with corrected count `v` and mean current `mean` (R312, R313). -/
def Chip.evalIn (c : Chip) (g : Group) (e : Engine) (t : Nat) (v mean ffAnt : Int) : EvalIn :=
  let u := c.le[e]
  let en := c.setpt.active[g]
  let lim := iEff en v
  let rev := c.reverseLimit g v
  let droop := decide (c.law g = .droop)
  let single := decide (u.cfg.pair = .none) && !c.isMember g
  { t := t
    ref := c.engineRef g e t v mean
    meas := if u.cfg.measI && !droop then mean else v
    ffVin := if u.cfg.vffMode = 0 then 0 else u.ffVin
    ffAnt := ffAnt
    bank := en.bank
    limits := if u.cfg.out = .iref then some (rev * 16, lim * 16) else none
    holdHi := single && decide (lim < mean)
    holdLo := single && decide (mean < rev)
    droopFirst := droop && decide (en.bank = 2) && !u.droopOn
    draw := c.draws }

/-- An evaluation at tick `t` falls in the accumulation window of the sweep's point on this engine (R474). -/
def Chip.inWindow (c : Chip) (e : Engine) (t : Nat) : Bool :=
  c.sweep.st == .running && c.sweep.engine == some e && decide (c.sweep.tOpen ≤ t) && decide (t < c.sweep.tClose)

/-- The SWEEP block sets RSP_CTL.RUN of the engine that it injects on (R474). -/
def Chip.sweepGate (c : Chip) (e : Engine) (t : Nat) (u : EngineUnit) : EngineUnit :=
  if c.sweep.st = .running ∧ c.sweep.engine = some e then { u with inj := { u.inj with run := c.inWindow e t } } else u

/-- The quality flags of the point after evaluations at `t` (R477). -/
def Chip.sweepFlags (es : List Engine) (t : Nat) (c : Chip) : Chip :=
  match es.find? (fun e => c.inWindow e t) with
  | some e => { c with sweep := { c.sweep with fClamp := c.sweep.fClamp || (c.le[e]).inj.clamped
                                               fTb := c.sweep.fTb || c.tb.st != .locked } }
  | none => c

/-- The engine after an evaluation; FF_VIN holds its last value between updates (R326). -/
def Chip.evalEngine (c : Chip) (g : Group) (e : Engine) (t : Nat) (v mean : Int) : EngineUnit :=
  let u := c.sweepGate e t (c.le[e])
  let u := if c.law g = .droop then u else { u with droopOn := false }
  let outer := decide (c.outerEngine g = some e) && !c.isMember g
  let m := (c.grp[g]).mode
  let (u, ant) := if outer && isRunning m && m != .charge then u.anticipate c.setpt.active[g] t else (u, 0)
  u.eval (c.evalIn g e t v mean ant)

/-- R323: the taken and the other engine of a min-select pair after an evaluation: `taken` is `some w` for the engine whose
output is used. -/
def minSelect (charge : Bool) (vu cu : EngineUnit) : EngineUnit × EngineUnit × Int :=
  if charge && decide (cu.yOut < vu.yOut) then
    ({ vu with y1 := cu.yOut - (vu.ffVin + vu.ffAnt), resid := 0, sel := false }, { cu with sel := true }, cu.yOut)
  else ({ vu with sel := true }, { cu with y1 := vu.yOut - (cu.ffVin + cu.ffAnt), resid := 0, sel := false }, vu.yOut)

/-- EVA grants an engine's report of its saturation bits (R311), with the trace record of R648. -/
def Chip.satGrant (e : Engine) (hi lo : Bool) (out : Int) (rose : Bool) (c : Chip) : Chip :=
  let c := c.grantAs (24 + e.val)
    { kind := .sat, src := e.val, info := (bit hi * 2 + bit lo).toNat, data := packWord [(0, 26, out)] }
  if rose then c.count 10 1 else c

/-- ENG_SAT and ENG_UNSAT (R311), where a bit changed: granted at once, or behind what the engine's source has yet to report (R62). -/
def Chip.satEvent (e : Engine) (before after : EngineUnit) (c : Chip) : Chip :=
  if before.satHi = after.satHi ∧ before.satLo = after.satLo then c
  else
    let rose := (after.satHi && !before.satHi) || (after.satLo && !before.satLo)
    if (c.le[e]).reqs.isEmpty then c.satGrant e after.satHi after.satLo after.yOut rose
    else c.modLe e (fun u => { u with reqs := u.reqs ++ [.sat after.satHi after.satLo after.yOut rose] })

/-- The first request of an engine's source. -/
def Chip.firstReq (c : Chip) (e : Engine) : Option EngReq := (c.le[e]).reqs.head?

/-- The first request has been granted; the reports behind it that have no row of their own follow it. -/
def Chip.nextReqs (e : Engine) : List EngReq → Chip → Chip
  | .sat hi lo out rose :: rest, c => Chip.nextReqs e rest (c.satGrant e hi lo out rose)
  | rest, c => c.modLe e (fun u => { u with reqs := rest })

/-- RAMP_DONE is requested at the first evaluation of the outermost engine at which REF is REF_TO (R347). -/
def Chip.rampRequest (g : Group) (t : Nat) (c : Chip) : Chip :=
  let en := c.setpt.active[g]
  if c.setpt.armed[g] && refAt en t == en.refTo then
    let c := { c with setpt := { c.setpt with armed := c.setpt.armed.set g false, rampReq := c.setpt.rampReq.set g (some false) } }
    match c.outerEngine g with
    | some e => c.modLe e (fun u => { u with reqs := if u.reqs.contains .ramp then u.reqs else u.reqs ++ [.ramp] })
    | none => c
  else c

/-- The engine of a group whose source has RAMP_DONE to report next. -/
def Chip.rampEngine (c : Chip) (g : Group) : Option Engine := (c.enginesOf g).find? (fun e => c.firstReq e == some .ramp)

/-- The engines' evaluation at an accepted conversion (R312 to R323): the block after it, and the output delivered to the
placers or the rotation, with its kind, if an engine drives them. -/
def Chip.evaluate (g : Group) (t : Nat) (v : Int) (c : Chip) : Chip × Option (OutKind × Int) :=
  let es := (c.enginesOf g).filter c.engineActs
  let mean := c.meanCurrent g
  let new (e : Engine) : EngineUnit := c.evalEngine g e t v mean
  let put (e : Engine) (u : EngineUnit) (d : Chip) : Chip := { d with le := d.le.set e u, draws := d.draws + 1 }
  let finish (d : Chip) : Chip :=
    let d := es.foldl (fun d e => d.satEvent e c.le[e] d.le[e]) d
    let d := (d.count 9 es.length).sweepFlags es t
    if es.any (fun e => c.outerEngine g == some e) then d.rampRequest g t else d
  match es with
  | [] => (c, none)
  | [e] =>
    let u := new e
    (finish (put e u c), if u.cfg.out = .iref then none else some (u.cfg.out, u.yOut))
  | e :: f :: _ =>
    let ue := new e
    let uf := new f
    if ue.cfg.pair = .minSelect then
      let (ue, uf, y) := minSelect (decide (c.law g = .charge)) ue uf
      (finish (put f uf (put e ue c)), some (ue.cfg.out, y))
    else (finish (put f uf (put e ue c)), some (uf.cfg.out, uf.yOut))

/-- R314: the engines skip a result that carries NOTREADY; a sweep's point is flagged (R477). -/
def Chip.skipNotReady (g : Group) (t : Nat) (c : Chip) : Chip :=
  let es := (c.enginesOf g).filter c.engineActs
  let c := es.foldl (fun c e => c.modLe e (fun u => { u with cntNr := satInc 0xFFFFFFFF u.cntNr })) c
  if es.any (fun e => c.inWindow e t) then { c with sweep := { c.sweep with fNr := true } } else c

end Sys2Proof.Machine
end

