-- ==== Sys2Proof/Machine/Setpoint.lean ====
section
/-!
DEFINITION. The set-point file: what Badger writes, the swap request and its grant (R38 to R42, R345 to R349).
-/

namespace Sys2Proof.Machine

/-- Write one field of an entry. -/
def FieldSet.apply (e : Entry) : FieldSet → Entry
  | .refFrom v => { e with refFrom := v }
  | .refTo v => { e with refTo := v }
  | .slew v => { e with slew := v }
  | .pg lo hi => { e with pgLo := lo, pgHi := hi }
  | .set v => { e with set := v }
  | .bank v => { e with bank := v }
  | .prep v => { e with prep := v }
  | .lift v => { e with lift := v }
  | .limits l f k => { e with iLim := l, iFold := f, vKnee := k }
  | .phMin v => { e with phMin := v }
  | .phMax v => { e with phMax := v }
  | .ant gen t amp d => { e with antGen := gen, antAt := t, antAmp := amp, antDecay := d }
  | .antGen v => { e with antGen := v }
  | .antAt v => { e with antAt := v }
  | .chg v i => { e with chgV := v, chgI := i }
  | .preIref v => { e with preIref := v }
  | .chargeLaw v => { e with chargeLaw := v }

/-- Write changes into a copy, the later value of each field winning (R346). -/
def writeChanges (es : Vector Entry 4) (chs : List Change) : Vector Entry 4 :=
  chs.foldl (fun es ch => vmod es ch.g (fun e => ch.sets.foldl FieldSet.apply e)) es

/-- Badger writes SHADOW and requests a swap, or keeps the change while a swap is pending (R39, R42, R346). -/
def Chip.submit (ch : Change) (c : Chip) : Chip :=
  match c.setpt.pending with
  | none => { c with setpt := { c.setpt with pending := some [ch], shadow := writeChanges c.setpt.shadow [ch] } }
  | some _ => { c with setpt := { c.setpt with waiting := c.setpt.waiting ++ [ch] } }

/-- A present-value change of one group (R346). -/
def Chip.present (g : Group) (sets : List FieldSet) (c : Chip) : Chip := c.submit ⟨g, false, sets⟩

/-- One group's entry as it becomes ACTIVE at a grant at tick `t`: RAMP_T0 and, for a present-value swap,
REF_FROM from the old ACTIVE entry (R346); RAMPING sets when the swap arms RAMP_DONE (R347). -/
def swapEntry (old new : Entry) (restart armed : Bool) (t : Nat) : Entry :=
  { new with rampT0 := t
             refFrom := if restart then new.refFrom else refAt old t
             ramping := armed || old.ramping }

/-- The swap arms RAMP_DONE for a group: it changes REF_TO or is a restart swap (R347). -/
def swapArms (old new : Entry) (restart : Bool) : Bool := restart || old.refTo != new.refTo

/-- The set-point file after a swap of `chs` granted at tick `t` with EVSEQ `seq`. -/
def swapFile (u : SetptUnit) (chs : List Change) (t : Nat) (seq : Word) : SetptUnit :=
  let touched (g : Group) : Bool := chs.any (fun ch => ch.g == g)
  let restart (g : Group) : Bool := chs.any (fun ch => ch.g == g && ch.restart)
  let arms (g : Group) : Bool := touched g && swapArms u.active[g] u.shadow[g] (restart g)
  let act : Vector Entry 4 := Vector.ofFn (fun g =>
    if touched g then swapEntry u.active[g] u.shadow[g] (restart g) (arms g) t else u.active[g])
  { u with
    active := act
    shadow := writeChanges act u.waiting
    pending := if u.waiting.isEmpty then none else some u.waiting
    waiting := []
    swaps := u.swaps + 1
    swapSeq := seq
    hold := vmap u.hold (· - 1)
    armed := Vector.ofFn (fun g => decide (u.hold[g] ≤ 1) && arms g || u.armed[g])
    rampReq := Vector.ofFn (fun g => if arms g then (u.rampReq[g]).map (fun _ => true) else u.rampReq[g]) }

/-- A change writes the current limits. -/
def FieldSet.isLimits : FieldSet → Bool
  | .limits _ _ _ => true
  | _ => false

/-- BAL_Gg_STAT.DERATE stands while the limits in force are those written in DERATED (R408). -/
def Chip.derateFlag (c : Chip) (ch : Change) : Chip :=
  if ch.sets.any FieldSet.isLimits then c.modGb ch.g (fun b => { b with derate := (c.grp[ch.g]).mode == .derated }) else c

/-- A swap has been granted: the preparations that it publishes, and those of the next one. -/
def GroupUnit.swapped (u : GroupUnit) : GroupUnit := { u with preps := u.preps.map (fun p => { p with swaps := p.swaps - 1 }) }

/-- SETPOINT_SWAP: EVA grants the pending swap and the copies exchange roles (R39). -/
def Chip.swapGrant (t : Nat) (c : Chip) : Chip :=
  match c.setpt.pending with
  | none => c
  | some chs =>
    let c := (c.elapseTo t).grant 41 1
    let c := c.count 8 1
    let c := chs.foldl Chip.derateFlag c
    let c := { c with grp := vmap c.grp GroupUnit.swapped }
    { c with setpt := swapFile c.setpt chs c.tb.count c.eva.seq }

/-- Badger holds one request at EVA (R62): what it has asked for so far, its swap and the changes kept behind it, is granted before what it
asks for next. -/
def Chip.badgerFirst (c : Chip) : Chip := (c.swapGrant c.tb.count).swapGrant c.tb.count

/-- The changes of one decision of Badger's go out in one swap (R346, R408). -/
def SetptUnit.joined (u : SetptUnit) : SetptUnit :=
  match u.pending with
  | none => u
  | some chs =>
    if u.waiting.isEmpty then u
    else { u with pending := some (chs ++ u.waiting), waiting := [], shadow := writeChanges u.shadow u.waiting, hold := vmap u.hold (min 1) }

/-- SWAP_REQUEST: refused in Badger's domain while one is pending (R42); otherwise SHADOW as it stands is published. -/
def Chip.swapRequest (c : Chip) : Chip :=
  match c.setpt.pending with
  | none => { c with setpt := { c.setpt with pending := some [] } }
  | some _ => c

def execSetpointSwap (t : Nat) (s : State) : Host.Outcome State Fault Refusal := .next (s.onChip (Chip.swapGrant t))

def execSwapRequest (s : State) : Host.Outcome State Fault Refusal := .next (s.onChip Chip.swapRequest)

/-! ### Choosing a set -/

/-- The record of a set for a group. -/
def Chip.setRec (c : Chip) (g : Group) (s : Nat) : SetRec := c.setpt.sets[Fin.ofNat 16 s][g]

/-- The lift's signed value for the sum of the open STEPs (R360, R366). -/
def liftFor (r : SetRec) (steps : Int) : Int :=
  let m : Int := r.lift.natAbs
  if 0 < steps then m else if steps < 0 then -m else 0

/-- The group's open preparations. -/
def GroupUnit.openPreps (u : GroupUnit) : List Prep := u.preps.filter (fun p => !p.closed)

/-- The lift that the open preparations call for: the sign of the sum of their STEPs (R366), where a port among them lifts. -/
def Chip.openLift (c : Chip) (g : Group) (r : SetRec) : Int :=
  let ps := (c.grp[g]).openPreps
  if ps.any (·.liftEn) then liftFor r ((ps.map (·.step)).foldl (· + ·) 0) else 0

/-- The selection in force is applied by a present-value swap (R340); a ramp to zero in progress keeps its end. -/
def Chip.applySelection (g : Group) (c : Chip) : Chip :=
  let set := (c.grp[g]).selSet
  let r := c.setRec g set
  let l := c.openLift g r
  let ramp : List FieldSet := if (c.grp[g]).ramping then [] else [.refTo (r.target + l), .slew r.slew, .lift (l != 0)]
  (c.modGrp g (fun u => { u with selWait := false })).present g (ramp ++ [.pg r.pgLo r.pgHi, .set set])

/-- A selection granted as event `seq` (R338, R341): recorded at once, and applied by its swap; in SWEEP the swap waits for the end of the sweep. -/
def Chip.select (g : Group) (set src : Nat) (seq : Word) (c : Chip) : Chip :=
  let c := c.modGrp g (fun u => { u with selSet := set, selSrc := src, selSeq := seq })
  if (c.grp[g]).mode = .sweep then c.modGrp g (fun u => { u with selWait := true }) else c.applySelection g

end Sys2Proof.Machine
end

