-- ==== Sys2Proof/Machine/Phases.lean ====
section
/-!
DEFINITION. A phase's change of state and its stop (R370 to R373), which mode changes, BAL, the guards and
the periods share, and a flit that a device sends (R423).
-/

namespace Sys2Proof.Machine

/-- The phase's conversions and averages as it stops: the window in progress and its latest values go (R281). -/
def stopConv (v : PhaseConv) : PhaseConv :=
  { v with avgSum := 0, avgN := 0, avgValid := false, sel2 := none, valA := none, valB := none }

/-- The placer as the phase enters a state (R371, R379, R405, R492, R245). -/
def enterPlacer (dtInit : Nat) (s : PState) (pl : Placer) : Placer :=
  let shed := pl.pstate == .shedding
  let pl := { pl with pstate := s, reports := pl.reports ++ [s] }
  match s with
  | .adding => { pl with trim := 0, heldOff := false, switching := false, stopAtEnd := false, periods := 0, addedIn := none, debt := 0
                         adHl := dtInit, adLh := dtInit, maxHl := false, maxLh := false, noLowRun := 0
                         cut := false, tripped := false, interlock := false }
  | .standby => { pl with trim := 0, debt := 0, switching := false, stopAtEnd := false, plan := {}
                          cut := false, fullOn := false, highAtStart := false, tripped := false }
  | .faulted => { pl with trim := 0, debt := 0, switching := false, stopAtEnd := false, plan := {}
                          cut := false, fullOn := false, highAtStart := false, tripped := false, heldOff := true }
  | .shedding => { pl with shedJ := 0 }
  | .active => { pl with returning := shed && pl.switching }

/-- A switching period ends or is broken off at tick `now`: its pulse counts in the pattern of COT and COFF (R223), and the free run of the group
converter counts from the end of one that was not skipped (R285). -/
def Placer.pulseOver (now : Nat) (pl : Placer) : Placer :=
  if pl.switching then
    { pl with switching := false, pulses := if pl.plan.hRise.isSome then pl.pulses + 1 else pl.pulses
              pulseEnd := if pl.plan.skipped then pl.pulseEnd else now }
  else pl

/-- BAL's view of the phase as it enters a state (R402, R405). -/
def enterBal (s : PState) (b : PhaseBal) : PhaseBal :=
  match s with
  | .adding => { b with since := 0, unverified := false, logged := false, stretchWait := none, sum := 0, n := 0, perSum := 0, perN := 0, lastGood := false, has := false }
  | .faulted => { b with verified := false, stretchWait := none, openDue := false }
  | .standby => { b with stretchWait := none, sum := 0, n := 0, perSum := 0, perN := 0, lastGood := false, has := false }
  | _ => b

/-- A group of which no phase runs any more has left its rotation as a whole. -/
def Chip.endRotation (p : Phase) (c : Chip) : Chip :=
  match c.groupOf p with
  | some g =>
    if (c.counting g).isEmpty then (c.phasesOf g).foldl (fun c p => c.modPl p (fun u => { u with inRot := false })) c else c
  | none => c

/-- A phase changes state in its edge placer (R371): the change is reported to EVA as PH_STATE, which its own command grants. A phase that stops
leaves the rotation only at the slot of the lowest ROT value (R232). -/
def Chip.setPstate (p : Phase) (s : PState) (c : Chip) : Chip :=
  let now := c.tb.count
  let stops := s == .standby || s == .faulted
  let c := c.modPh p (fun u =>
    { u with pl := enterPlacer u.cfg.dtInit s (if stops then u.pl.pulseOver now else u.pl)
             bal := enterBal s u.bal
             conv := if stops then stopConv u.conv else u.conv })
  let c := if stops then c.endRotation p else c
  match s with
  | .adding => c.count 15 1
  | .shedding => c.count 16 1
  | _ => c

/-- How a group's phases stop (R371): at the end of their periods; at once with the outputs held off until the next
ADDING, the state following at the period's end (R492); or all at once through the safe-state net (R491). -/
inductive StopKind where
  | atEnd
  | held
  | now
deriving DecidableEq, Repr

/-- One phase stops. -/
def Chip.stopPhase (k : StopKind) (p : Phase) (c : Chip) : Chip :=
  let pl := (c.ph[p]).pl
  if pl.pstate = .standby ∨ pl.pstate = .faulted then c
  else if k = .now ∨ !pl.switching then
    let c := c.setPstate p .standby
    if k = .atEnd then c else c.modPl p (fun pl => { pl with heldOff := true })
  else c.modPl p (fun pl => { pl with stopAtEnd := true, heldOff := pl.heldOff || k == .held })

/-- Every phase of a group stops. -/
def Chip.stopGroup (k : StopKind) (g : Group) (c : Chip) : Chip := (c.phasesOf g).foldl (fun c p => c.stopPhase k p) c

/-- Every phase of the device stops. -/
def Chip.stopAll (k : StopKind) (c : Chip) : Chip := allPhases.foldl (fun c p => c.stopPhase k p) c

/-- BAL rewrites its count of each state from the placers (R373). -/
def Chip.recount (g : Group) (c : Chip) : Chip :=
  let n (s : PState) : Nat := (c.phasesIn g s).length
  c.modGb g (fun b => { b with active := n .active, adding := n .adding, shedding := n .shedding
                               standby := n .standby, faulted := n .faulted })

/-- PH_MAX and PH_MIN as Badger writes them (R388): the phases not FAULTED, and PH_MIN_NOM or an open floor within it. -/
def Chip.phaseBounds (c : Chip) (g : Group) (floor : Nat) : List FieldSet :=
  let h := c.healthy g
  [.phMax h, .phMin (min h (max (max (c.grp[g]).cfg.phMinNom floor) (c.grp[g]).floor))]

/-- A device transmits a flit it originates on both ports that are UP, with the next SEQ of its VC (R421, R423). -/
def Chip.sendFlit (dst : Nat) (b : FlitBody) (c : Chip) : Chip :=
  let vc := b.vc
  let seq := c.sett.seqs[vc]
  let c := { c with sett := { c.sett with seqs := c.sett.seqs.set vc ((seq + 1) % 256) } }
  (List.finRange 2).foldl (fun c p => c.transmit none p ⟨c.sett.addr, dst, 0, seq, b, false⟩) c

/-- Broadcast, DST 0xF. -/
def Chip.broadcast (b : FlitBody) (c : Chip) : Chip := c.sendFlit 15 b

end Sys2Proof.Machine
end

