-- ==== Sys2Proof/Machine/Mode.lean ====
section
/-!
DEFINITION. A mode change of a group or of the device at its grant, with what comes with it: the swap that belongs to it, the
engines' start, the phases' start and stop, and the leader's order to its members (R157 to R201).
-/

namespace Sys2Proof.Machine

/-! ### The changes that go with a mode -/

/-- The group's limits from the LIMITS section (R394). -/
def GroupCfg.limits (u : GroupCfg) : FieldSet := .limits u.iLim u.iFold u.vKnee

/-- The derated limits (R408): a percentage of each, truncated. -/
def GroupCfg.derated (u : GroupCfg) : FieldSet :=
  .limits (u.iLim * u.derIlimPct / 100) (u.iFold * u.derIlimPct / 100) u.vKnee

/-- The entry's change on entry to SOFTSTART: from the measured voltage or the target below it, to the target (R172). -/
def Chip.softstartSets (c : Chip) (g : Group) : List FieldSet :=
  let u := c.grp[g]
  let r := c.setRec g u.selSet
  [.refFrom (min u.conv.v r.target), .refTo r.target, .slew r.slew, .pg r.pgLo r.pgHi, .set u.selSet]

/-- The swap of R408, with bank 2 for a member that lost its leader (R325). -/
def Chip.deratedSets (c : Chip) (g : Group) (lost : Bool) : List FieldSet :=
  let u := (c.grp[g]).cfg
  [.bank (if lost then 2 else if c.hasBank1 g then 1 else 0), u.derated, .phMax (c.healthy g), .chargeLaw (c.grp[g]).runSel]

/-- A preparation's or a lift's traces leave the entry: the target without lift, no term, no mark (R366 to R368). -/
def Chip.closedSets (c : Chip) (g : Group) : List FieldSet :=
  let r := c.setRec g (c.grp[g]).selSet
  let lifted := !(c.grp[g]).ramping && (c.grp[g]).openPreps.any (·.liftEn)
  (if lifted then [.refTo r.target, .lift false] else []) ++ [.prep false, .antGen 0] ++ c.phaseBounds g 0

/-- A device's share of a floor: in proportion to its healthy phases, limited to them (R442). -/
def floorShare (floor own total : Nat) : Nat := if total = 0 then 0 else min own ((floor * own + total - 1) / total)

/-- The leader sends each device that counts its share (R442). -/
def Chip.sendFloors (g : Group) (floor : Nat) (c : Chip) : Chip :=
  if c.isLeader g then
    let total := c.healthyAll g
    (List.finRange 8).foldl (fun c d =>
      let p := c.sett.peers[d]
      if c.deviceCounts g d ∧ 0 < (p.reports[g]).healthy then
        c.sendFlit d.val (.phFloor g (floorShare floor (p.reports[g]).healthy total))
      else c) c
  else c

/-- Every open preparation of a group closes without a count (R368), its phase floor on the members too (R442). -/
def Chip.closePreps (g : Group) (c : Chip) : Chip :=
  if (c.grp[g]).preps.isEmpty then c
  else
    let s := c.closedSets g
    ((c.modGrp g (fun u => { u with preps := [] })).present g s).sendFloors g 0

/-- A new ramp is about to be submitted: what the entry armed or requested so far no longer ends anything, nor what a swap still to be granted
before the ramp's own arms (R172, R184, R190, R347). -/
def Chip.disarm (g : Group) (c : Chip) : Chip :=
  { c with setpt := { c.setpt with
    armed := c.setpt.armed.set g false
    rampReq := vmod c.setpt.rampReq g (fun r => r.map (fun _ => true))
    hold := c.setpt.hold.set g (if c.setpt.pending.isSome then 2 else 1) } }

/-! ### The parts of a group's mode change -/

/-- The mode fields at the grant (R160), PG (R349) and the timers of the mode. -/
def GroupUnit.moved (u : GroupUnit) (m : Mode) (cause : Cause) (seq : Word) (now : Nat) : GroupUnit :=
  { u with
    prev := u.mode, mode := m, cause := cause, modeSeq := seq, since := now
    runSince := if isRunning m then (if isRunning u.mode then u.runSince else some now) else none
    ramping := u.ramping && (m == .softstart || isRunning m)
    stopping := u.stopping && (m == .softstart || isRunning m)
    preHold := none, llSince := none, preReq := false
    preDone := u.preDone && m == .softstart
    pg := u.pg && isRunning m
    conv := if isRunning m && isRunning u.mode then u.conv else { u.conv with pgIn := 0, pgOut := 0 } }

/-- The firing interval that a started engine delivers: YMAX in COT, YMIN in COFF, so that the first slots deliver the least
energy (R318). -/
def Chip.startTi (c : Chip) (g : Group) : Nat :=
  match (c.enginesOf g).find? (fun e => (c.le[e]).cfg.out == .ti) with
  | some e => (if (c.grp[g]).cfg.mod = .coff then (c.le[e]).cfg.yMin else (c.le[e]).cfg.yMax).toNat
  | none => 0

/-- The group's phases and engines at its start from STANDBY (R318, R387): period 0 is yet to come (R229), and the placers
hold no demand of an earlier run. -/
def Chip.startGroup (g : Group) (c : Chip) : Chip :=
  let c := c.modEngines g (EngineUnit.start (c.grp[g]).cfg.mod)
  let c := (c.phasesOf g).foldl (fun c p => c.modPl p (fun u => { u with demand := 0, on := 0 })) c
  let ps := c.phasesIn g .standby
  let c := ps.foldl (fun c p => c.setPstate p .adding) c
  let ti := c.startTi g
  let now := c.tb.count
  c.modGrp g (fun u =>
    { u with started := false, startAt := now, rotCount := 0, rotNext := 0, ti := ti
             conv := { u.conv with events := 0, sub := 0, slotEv := false }
             bal := { u.bal with dwell := 0, passSum := 0, passN := 0, perSum := 0, perN := 0
                                 shedNext := [], addAfter := 0, passDue := false, rotating := false, rotOut := none, rotIn := none } })

/-- What ends with the mode that is left (R329, R330, R333, R341, R368, R409). -/
def Chip.leaveMode (g : Group) (old m : Mode) (c : Chip) : Chip :=
  let c := if isRunning old && !isRunning m then (c.closePreps g).modEngines g EngineUnit.endTerm else c
  let c := if old = .sweep ∧ m ≠ .sweep then c.modEngines g EngineUnit.endInjection else c
  let c := if old = .sweep ∧ m ≠ .sweep ∧ (c.grp[g]).selWait then c.applySelection g else c
  let c := if old = .derated ∧ m ≠ .derated then
      (c.modSg g (fun s => { s with droop := false })).present g [.bank 0, (c.grp[g]).cfg.limits]
    else c
  if old = .lightload ∧ m ≠ .lightload then c.present g [.bank 0] else c

/-- What begins with the mode that is entered; the law of CHARGE comes and goes with a swap (R176). -/
def Chip.beginMode (g : Group) (old m : Mode) (cause : Cause) (c : Chip) : Chip :=
  match m with
  | .precharge =>
    let c := c.startGroup g
    c.present g ([.preIref (c.preIref g), .bank 0, .chargeLaw false, (c.grp[g]).cfg.limits] ++ c.phaseBounds g 0)
  | .softstart =>
    if old = .precharge then
      let pre := match c.currEngine g with
        | some e => (c.le[e]).ref
        | none => 0
      let c := if c.pairing g = .cascade then
          (match c.voltEngine g with
            | some e => c.modLe e (EngineUnit.handOver pre)
            | none => c)
        else c
      (c.disarm g).submit ⟨g, true, c.softstartSets g⟩
    else
      let c := c.startGroup g
      (c.disarm g).submit ⟨g, true, c.softstartSets g ++ [.bank 0, .chargeLaw false, (c.grp[g]).cfg.limits] ++ c.phaseBounds g 0⟩
  | .lightload => if c.hasBank1 g then c.present g [.bank 1] else c
  | .derated => c.present g (c.deratedSets g (decide (cause = .leaderLost)))
  | .standby => if old = .safe then c else c.stopGroup .atEnd g
  | .safe => c.stopGroup .held g
  | .off => c
  | .boot => c
  | .regulate => if old = .charge ∨ old = .derated then c.present g [.chargeLaw false] else c
  | .charge => c.present g [.chargeLaw true]
  | .sweep => c
  | .shutdown => c

/-- Chain-time ticks in one local tick, as SETT_RATE gives it (R432, R484). -/
def SettUnit.ratio (u : SettUnit) : Rat := if u.rate = -1000000000 then 1 else 1 / (1 + (u.rate : Rat) / 1000000000)

/-- What the rate and the slope add to chain time from the tick they extrapolate from to tick `t`, in 1/128 TK (R432). -/
def SettUnit.extrapolate (u : SettUnit) (t : Nat) : Int :=
  match u.baseAt with
  | none => 0
  | some t0 =>
    let d : Rat := (t : Rat) - (t0 : Rat)
    (128 * d * (u.ratio - 1 + (u.slope : Rat) / 1000000000 * (d / 4800))).floor

/-- Chain time at tick `t`, in 1/128 TK (R429, R432). -/
def Chip.chainAt128 (c : Chip) (t : Nat) : Int := (t : Int) * 128 + c.sett.ctOfs + c.sett.extrapolate t

/-- The present chain time in 1/128 TK. -/
def Chip.chainTime128 (c : Chip) : Int := c.chainAt128 c.tb.count

/-- Chain time at tick `t`, in whole TK. -/
def Chip.chainAt (c : Chip) (t : Nat) : Nat := (c.chainAt128 t / 128).toNat

/-- The local tick of a chain time, rounded up (R484). -/
def Chip.localOf (c : Chip) (ct : Nat) : Nat :=
  ((c.tb.count : Int) + ceilRat (((ct : Int) * 128 - c.chainTime128 : Int) / (128 * c.sett.ratio))).toNat

/-- Where a chain time in 1/16 FS lies in FS of the local timebase, rounded up (R435, R436). -/
def Chip.localFs (c : Chip) (ct16 : Int) : Nat :=
  ((c.tb.count * 8 : Nat) + ceilRat ((ct16 - c.chainTime128 : Int) / (16 * c.sett.ratio))).toNat

/-- The start that a leader gives: a multiple of 24 000 TK, at least 24 000 TK ahead, in chain time (R437); a fraction of a tick counts as a whole one. -/
def Chip.startSlot (c : Chip) : Nat := (((c.chainTime128 + 127) / 128).toNat + 24000 + 23999) / 24000 * 24000

/-- A leader sends its members every mode of a spanning group that it enters (R197). -/
def Chip.orderMembers (g : Group) (old m : Mode) (cause : Cause) (c : Chip) : Chip :=
  if c.isLeader g then
    let c := if old = .standby ∧ isSwitchingMode m then c.modSg g (fun s => { s with s0 := c.startSlot, ordered := true }) else c
    c.broadcast (.modeOrder g m cause (c.sett.groups[g]).s0)
  else c

/-- The input of a request for SHDN_START (R686): the supply monitor's, or Badger's. -/
def shdnInput (k : ShdnCause) : Nat := if k = .ride ∨ k = .powerLoss then 44 else 41

/-- Badger has asked for SHDN_START and holds no other request until its grant (R62), after which the device's mode is every group's. -/
def Chip.shdnAsked (c : Chip) : Bool := c.sys.shdnReq.any (fun k => shdnInput k == 41)

/-- MODE_CHANGE of a group at its grant, after what Badger asked for before it (R62), with all that comes with it in one swap (R408). -/
def Chip.enterMode (g : Group) (m : Mode) (cause : Cause) (c : Chip) : Chip :=
  if c.shdnAsked then c
  else
    let old := (c.grp[g]).mode
    let c := c.badgerFirst
    let c := c.modeGrant g.val (modeCode old) (modeCode m) (causeCode cause) g.val
    let c := c.modGrp g (fun u => u.moved m cause c.eva.seq c.tb.count)
    let c := c.leaveMode g old m
    let c := c.beginMode g old m cause
    { c with setpt := c.setpt.joined }.orderMembers g old m cause

/-! ### The device's mode -/

/-- Code of SYS_MODE.DEV (R157, R194). -/
def devCode : DevMode → Nat
  | .off => 0
  | .boot => 1
  | .standbyHeld => 2
  | .shutdown => 10
  | .safe => 11
  | .perGroup => 15

/-- The mode that every group reads in a device mode (R159); STANDBY where the groups have modes of their own. -/
def devGroupMode : DevMode → Mode
  | .off => .off
  | .boot => .boot
  | .standbyHeld => .standby
  | .shutdown => .shutdown
  | .safe => .safe
  | .perGroup => .standby

/-- MODE_CHANGE of the device at its grant (R160); every group's mode fields follow (R159), with no grant of their own. Its record gives per-group the code
0xF as the mode left and STANDBY's, 2, as the mode entered at the end of BOOT (DESIGN CHOICE, log 138). -/
def Chip.enterDevice (d : DevMode) (cause : Cause) (c : Chip) : Chip :=
  let c := c.badgerFirst
  let c := c.modeGrant 15 (devCode c.sys.dev) (if d = .perGroup then 2 else devCode d) (causeCode cause) 0xFF
  let m := devGroupMode d
  let c := { c with sys := { c.sys with dev := d, modeSeq := c.eva.seq } }
  allGroups.foldl (fun c g =>
    let old := (c.grp[g]).mode
    let c := c.modGrp g (fun u => u.moved m cause c.eva.seq c.tb.count)
    let c := if isRunning old then (c.closePreps g).modEngines g EngineUnit.endTerm else c
    if old = .sweep then c.modEngines g EngineUnit.endInjection else c) c

/-! ### What Badger decides -/

/-- The running mode that RUN_SEL names (R174, R181). -/
def Chip.runMode (c : Chip) (g : Group) : Mode := if (c.grp[g]).runSel then .charge else .regulate

/-- A ramp to zero begins (R184, R348). Where the target is zero already, its swap arms nothing, and the RAMP_DONE armed before stands (R347). -/
def Chip.rampDown (g : Group) (c : Chip) : Chip :=
  let en := c.setpt.active[g]
  let r := refAt en c.tb.count
  let t := max 1 (c.grp[g]).cfg.shdnRampT
  let slew := (r.natAbs * 1024 + t * 1000 - 1) / (t * 1000)
  let coming := (writeChanges c.setpt.shadow c.setpt.waiting)[g]
  let c := if coming.refTo = 0 then c else c.disarm g
  (c.modGrp g (fun u => { u with ramping := true })).present g [.refTo 0, .slew (min 0xFFFFF slew)]

/-- A stop needs no ramp: bit n of SHDN_CUT is set, or the reference is at zero (R184). -/
def Chip.cutsAtOnce (c : Chip) (g : Group) : Bool :=
  let en := c.setpt.active[g]
  c.sys.shdnCut.testBit g.val || (en.refTo == 0 && refAt en c.tb.count == 0)

/-- A stop begins (R184): by bit n of SHDN_CUT, the phases stop at the end of their periods, or the reference ramps to zero. -/
def Chip.beginStop (g : Group) (c : Chip) : Chip :=
  if c.cutsAtOnce g then c.enterMode g .standby .disable
  else (c.modGrp g (fun u => { u with stopping := true })).rampDown g

/-- The group starts if the conditions of R165 hold (R166). -/
def Chip.tryStart (g : Group) (c : Chip) : Chip :=
  if (c.grp[g]).mode = .standby ∧ c.mayStart g then
    c.enterMode g (if (c.grp[g]).cfg.preEn then .precharge else .softstart) .enable
  else c

/-- Every group whose conditions have come to hold starts (R165, R166). -/
def Chip.tryStarts (c : Chip) : Chip := allGroups.foldl (fun c g => c.tryStart g) c

end Sys2Proof.Machine
end

