-- ==== Sys2Proof/Machine/Store.lean ====
section
/-!
DEFINITION. What the NV store, the counters and the log hold, as Owl reads them (R570, R571, R586, R600).
-/

namespace Sys2Proof.Machine

/-! ### CRC-16 -/

/-- One byte of CRC-16/CCITT-FALSE: polynomial 0x1021, no reflection (R352). -/
def crc16Byte (crc : BitVec 16) (b : Byte) : BitVec 16 :=
  let bitStep (c : BitVec 16) (_ : Nat) : BitVec 16 := if c.msb then (c <<< 1) ^^^ 0x1021 else c <<< 1
  (List.range 8).foldl bitStep (crc ^^^ (b.setWidth 16 <<< 8))

/-- CRC-16/CCITT-FALSE of a byte list, initial value 0xFFFF (R352). -/
def crc16 (bs : List Byte) : BitVec 16 := bs.foldl crc16Byte 0xFFFF

/-! ### Records -/

/-- `a` is newer than `b` by serial arithmetic (R570). -/
def serialNewer (a b : BitVec 16) : Bool := a != b && decide ((a - b).toNat < 32768)

/-- An index entry: key, version and payload. -/
abbrev IndexEntry := Nat × BitVec 16 × List Byte

/-- A committed record takes its place in an index if it is the newest of its key. -/
def indexAdd (ix : List IndexEntry) (key : Nat) (seq : BitVec 16) (pay : List Byte) : List IndexEntry :=
  match ix with
  | [] => [(key, seq, pay)]
  | e :: rest =>
    if e.1 = key then (if serialNewer seq e.2.1 then (key, seq, pay) :: rest else e :: rest)
    else e :: indexAdd rest key seq pay

/-- Pages of a sector, and bytes of a page (R565). -/
def sectorPages : Nat := 16
def pageBytes : Nat := 256

/-- Bytes 0 to 7 of a sector header (R569). -/
def NvSector.headerBytes (s : NvSector) : List Byte := leBytes 4 s.magic.toNat ++ leBytes 4 s.erases

/-- A sector header is valid: its MAGIC and its CRC (R569, R580). -/
def NvSector.headerOk (s : NvSector) : Bool := s.magic == 0x5253564E && s.crc == crc16 s.headerBytes

/-- The 16 bytes of a sector header as the flash holds them (R569). -/
def NvSector.header (s : NvSector) : List Byte := s.headerBytes ++ leBytes 2 s.crc.toNat ++ [0, 0] ++ leBytes 4 (s.order.getD 0xFFFFFFFF)

/-- What a record's CRC covers: bytes 0 to 5 with COMMIT as 0xFF, and the payload (R569). -/
def crcCover (key : Nat) (seq : BitVec 16) (pay : List Byte) : List Byte :=
  leBytes 2 key ++ [BitVec.ofNat 8 pay.length, 0xFF] ++ leBytes 2 seq.toNat ++ pay

/-- A record as it is programmed at an offset, with COMMIT 0xFF (R569, R572). -/
def NvRecord.new (key : Nat) (seq : BitVec 16) (pay : List Byte) (off : Nat) : NvRecord :=
  { key := key, seq := seq, payload := pay, committed := false, crc := crc16 (crcCover key seq pay), off := off }

/-- A record may be visible: it is committed and its CRC is right (R570). -/
def NvRecord.good (r : NvRecord) : Bool := r.committed && r.crc == crc16 (crcCover r.key r.seq r.payload)

/-- The bytes of a record as the flash holds them (R569). -/
def NvRecord.bytes (r : NvRecord) : List Byte :=
  leBytes 2 r.key ++ [BitVec.ofNat 8 r.payload.length, if r.committed then 0 else 0xFF] ++ leBytes 2 r.seq.toNat ++ leBytes 2 r.crc.toNat ++ r.payload

/-- The pages that `n` bytes from an offset lie in. -/
def pagesOf (off n : Nat) : List Nat := (List.range sectorPages).filter (fun p => decide (off < (p + 1) * pageBytes) && decide (p * pageBytes < off + n))

/-- The pages of a record. -/
def NvRecord.pages (r : NvRecord) : List Nat := pagesOf r.off (8 + r.payload.length)

/-- A sector is half-erased (R580): an erase has not ended, or records stand under no valid header. -/
def NvSector.broken (s : NvSector) : Bool := s.half || (!s.records.isEmpty && !s.headerOk)

/-- One sector's committed records with a right CRC enter the index (R570); a half-erased sector holds none (R580). -/
def indexSector (ix : List IndexEntry) (s : NvSector) : List IndexEntry :=
  if s.broken then ix
  else s.records.foldl (fun ix r => if r.good then indexAdd ix r.key r.seq r.payload else ix) ix

/-- The index of every visible record, as BOOT builds it (R571). -/
def NvUnit.buildIndex (u : NvUnit) : List IndexEntry := u.sectors.toList.foldl indexSector []

/-- The version and payload of a key's visible record. -/
def NvUnit.lookup (u : NvUnit) (key : Nat) : Option (BitVec 16 × List Byte) := (u.index.find? (·.1 == key)).map (·.2)

/-- What a read of a key returns (R570): NOT_FOUND without a visible record, or with one of LEN 0. -/
def NvUnit.find (u : NvUnit) (key : Nat) : Option (List Byte) :=
  match u.lookup key with
  | some (_, pay) => if pay.isEmpty then none else some pay
  | none => none

/-- The keys of the device's own records (R575). -/
def keyLog : Nat := 0x0001
def keyCarry : Nat := 0x0010
def keyStamp : Nat := 0x0020
def keyMark : Nat := 0x0021
def keyGauge : Nat := 0x0100

/-- The value of a hardware counter (R586). -/
def NvUnit.counter (u : NvUnit) (k : Counter) : Nat := u.base[k] + u.stripe[k] + u.pending[k]

/-- A sector is blank and may be opened. -/
def NvSector.blank (s : NvSector) : Bool := s.order.isNone && s.records.isEmpty && !s.retired && !s.spare && !s.half

/-- Number of sectors with a property. -/
def NvUnit.tally (u : NvUnit) (p : NvSector → Bool) : Nat := (u.sectors.toList.filter p).length

/-! ### The log -/

/-- The 32 bytes of a log entry (R598). -/
def LogEntry.bytes (e : LogEntry) : List Byte :=
  leBytes 4 e.seq.toNat ++ leBytes 5 e.calS ++
  [BitVec.ofNat 8 ((1 + 2 * bit e.calSet + 4 * bit e.inj + 8 * bit e.coarse).toNat)] ++ leBytes 2 e.wrap.toNat ++
  [BitVec.ofNat 8 e.block, BitVec.ofNat 8 e.code, BitVec.ofNat 8 e.kind, BitVec.ofNat 8 e.unit] ++ bytesAt e.data 0 16

/-- The entries not yet stored, oldest first. -/
def LogUnit.unstored (l : LogUnit) : List (Nat × LogEntry) := l.entries.drop (l.entries.length - l.waiting)

/-- Log entries that an operation stores. -/
def NvKind.logs : NvKind → Nat
  | .record key pay _ => if key = keyLog then (pay.length - 4) / 32 else 0
  | .copy .. | .eraseRecord _ | .eraseJournal | .eraseStripe _ | .counterBit _ | .carry _ | .retire _ => 0

/-- Log entries that the operation in progress stores. -/
def Chip.logsInOp (c : Chip) : Nat :=
  match c.nv.op with
  | some o => if o.aborted then 0 else o.kind.logs
  | none => 0

/-- The log as a BOOT finds it after Owl's SRAM has gone: stored entries (R102, R584), and the `n` that a write in progress still stores (R120). -/
def LogUnit.stored (n : Nat) (l : LogUnit) : LogUnit :=
  let es := l.entries.take (l.entries.length - (l.waiting - n))
  { l with entries := es
           next := match es.getLast? with
             | some e => (e.1 + 1) % 2 ^ 32
             | none => 0
           waiting := min n l.waiting, urgent := false, oldest := 0, rateN := 0, dropped := 0 }

/-- The payload of a LOG record over up to seven entries (R600). -/
def logRecord (es : List (Nat × LogEntry)) : List Byte :=
  match es with
  | [] => []
  | e :: _ => leBytes 4 e.1 ++ es.flatMap (fun x => x.2.bytes)

end Sys2Proof.Machine
end

