-- ==== Sys2Proof/Machine/NvQueue.lean ====
section
/-!
DEFINITION. The NV queue and what the device writes for itself (R587, R588, R597, R600), and the steps of SHUTDOWN, which wait for it (R190, R100).
-/

namespace Sys2Proof.Machine

/-! ### The queue -/

/-- Operations join the queue; a read-only store takes none (R584). -/
def Chip.nvQueue (ks : List NvKind) (c : Chip) : Chip :=
  if c.nv.readOnly then c else { c with nv := { c.nv with queue := c.nv.queue ++ ks } }

/-- The increments that one program operation records: bits of one 8-byte block of the stripe (R566, R585). -/
def NvUnit.burst (u : NvUnit) (k : Counter) : Nat := min u.pending[k] (min (64 - u.stripe[k] % 64) (8192 - u.stripe[k]))

/-- The operation at the head has nothing to do: no increment to program, or no room in its stripe. -/
def NvUnit.idleOp (u : NvUnit) : NvKind → Bool
  | .counterBit k => u.carryOnly || u.burst k == 0
  | .carry sw => sw && (u.carryOnly || !u.stale.isEmpty)
  | .record .. | .copy .. | .eraseRecord _ | .eraseJournal | .eraseStripe _ | .retire _ => false

/-! ### What the device writes for itself -/

/-- Log entries in LOG records that wait or are being written. -/
def Chip.logsQueued (c : Chip) : Nat := c.nv.queue.foldl (fun a k => a + k.logs) 0 + c.logsInOp

/-- The waiting entries that no queued LOG record carries, oldest first. -/
def Chip.logsLeft (c : Chip) : List (Nat × LogEntry) := c.log.unstored.drop c.logsQueued

/-- The next LOG record joins the queue (R600). -/
def Chip.queueLog (c : Chip) : Chip :=
  match c.logsLeft with
  | [] => c
  | l :: ls =>
    let c := if ls.length < 7 then { c with log := { c.log with urgent := false } } else c
    c.nvQueue [.record keyLog (logRecord ((l :: ls).take 7)) none]

/-- CAL_STAMP (R575, R597). -/
def Chip.calStampRecord (c : Chip) : NvKind :=
  .record keyStamp (leBytes 8 c.cal.sec ++ [BitVec.ofNat 8 ((bit c.cal.set).toNat)]) none

/-- The calendar is stamped, and the next hour counts from here (R597). -/
def Chip.stampCal (c : Chip) : Chip :=
  let c := c.nvQueue [c.calStampRecord]
  { c with cal := { c.cal with stampAt := c.cal.up } }

/-- In carry-only mode the counters are written, and the next 10 minutes count from here (R588). -/
def Chip.queueCarry (c : Chip) : Chip :=
  let c := c.nvQueue [.carry false]
  { c with nv := { c.nv with carryAt := c.tb.count } }

/-- Some stripe is full with an increment to come (R587). -/
def NvUnit.stripeFull (u : NvUnit) : Bool := (List.finRange 16).any (fun k => u.stripe[k] == 8192 && u.pending[k] != 0)

/-! ### The steps of SHUTDOWN -/

/-- A group still ramps in SHUTDOWN. -/
def Chip.ramps (c : Chip) : Bool := c.grp.toList.any (·.ramping)

/-- The programs that record every pending increment (R585, R589). -/
def Chip.counterBits (c : Chip) : List NvKind :=
  (List.finRange 16).flatMap (fun k => List.replicate ((c.nv.pending[k] + 63) / 64 + 1) (.counterBit k))

/-- A stripe has filled while step 4 programmed its increments: the set is switched in step 4 too, where the other one is blank and no write of the
sequence was skipped (R587, R589). -/
def Chip.setSwitchLeft (c : Chip) : Bool :=
  c.nv.stripeFull && !c.nv.carryOnly && c.nv.stale.isEmpty && !c.nv.readOnly && !c.sys.shdnSkip

/-- Step 4: every waiting log entry, the calendar stamp, and the counters (R589, R597, R600, R588). -/
def Chip.queueCommits (c : Chip) : Chip :=
  let c := { c with nv := { c.nv with pending := vmod (vmod c.nv.pending 5 (· + c.nv.runMin)) 6 (· + c.nv.onMin), runMin := 0, onMin := 0 } }
  let n := (c.logsLeft.length + 6) / 7
  let c := (List.range n).foldl (fun c _ => c.queueLog) c
  let c := c.stampCal
  if c.nv.carryOnly then c.queueCarry
  else if c.nv.stripeFull then c.nvQueue (.carry true :: c.counterBits)
  else c.nvQueue c.counterBits

/-- Step 5: the clean-shutdown marker (R575). -/
def Chip.markRecord (c : Chip) : NvKind := .record keyMark (leBytes 4 (c.nv.counter 0) ++ leBytes 4 c.eva.seq.toNat) none

/-- Operations at the head of the queue that have nothing to do leave it. -/
def NvUnit.trim (u : NvUnit) : NvUnit := { u with queue := u.queue.dropWhile u.idleOp }

/-- Nothing waits or runs in the NV store. -/
def Chip.nvIdle (c : Chip) : Bool := c.nv.trim.queue.isEmpty && c.nv.op.isNone

/-- Step 4 begins. -/
def Chip.enterCommits (c : Chip) : Chip := { c with sys := { c.sys with shdn := .commits } }.queueCommits

/-- Step 5 begins, unless an earlier write of the sequence was skipped (R101). -/
def Chip.enterMarker (c : Chip) : Chip :=
  let c := { c with sys := { c.sys with shdn := .marker } }
  if c.sys.shdnSkip then c else c.nvQueue [c.markRecord]

/-- Each step starts when the one before it has ended (R190); a store that becomes read-only ends the wait for the gauge's record (R191, R584). -/
def Chip.shdnAdvance (c : Chip) : Chip :=
  if c.sys.dev != .shutdown then c
  else
    let c := if c.sys.shdn == .ramps && !c.ramps then
        (if c.gauge.cfg.en && c.gauge.started && !c.nv.readOnly then { c with sys := { c.sys with shdn := .gauge } } else c.enterCommits)
      else c
    let c := if c.sys.shdn == .gauge && c.nv.readOnly then c.enterCommits else c
    let c := if c.sys.shdn == .commits && c.nvIdle then (if c.setSwitchLeft then c.nvQueue (.carry true :: c.counterBits) else c.enterMarker) else c
    if c.sys.shdn == .marker && c.nvIdle then { c with sys := { c.sys with shdn := .over } } else c

end Sys2Proof.Machine
end

