-- ==== Sys2Proof/Machine/Guard.lean ====
section
/-!
DEFINITION. The guard blocks (chapter 11 of the spec): raising a fault or warning with its reactions, the disappearance of a
condition, retries and clearing, and the FAULT frames.
-/

namespace Sys2Proof.Machine

/-! ### The catalogue -/

/-- A Class B fault whose condition counts as gone at once (R502). -/
def goneAtOnce (code : Nat) : Bool := code == 0x11 || code == 0x24 || code == 0x25

/-- Boot faults 0x31 to 0x37 (R145, R502). -/
def isBootFault (code : Nat) : Bool := decide (0x31 ≤ code) && decide (code ≤ 0x37)

/-- A group by number. -/
def groupAt (n : Nat) : Option Group := if h : n < 4 then some ⟨n, h⟩ else none

/-- Groups with phases on this device (R502, "every group"). -/
def Chip.ownGroups (c : Chip) : List Group := allGroups.filter (fun g => !(c.phasesOf g).isEmpty)

/-- The groups that a Class B fault takes to SAFE (R502). -/
def Chip.faultGroups (c : Chip) (code unit : Nat) : List Group :=
  if code = 0x20 ∨ code = 0x21 ∨ code = 0x22 ∨ code = 0x23 ∨ code = 0x24 ∨ code = 0x25 ∨ code = 0x26 ∨ code = 0x2A then
    (groupAt unit).toList
  else if code = 0x27 ∨ code = 0x28 ∨ code = 0x2C ∨ code = 0x2D then c.ownGroups
  else if code = 0x2E then c.ownGroups.filter (fun g => (c.grp[g]).mode == .charge)
  else []

/-- The phase that a Class B fault takes to FAULTED (R502). -/
def faultPhase (b : Block) (code : Nat) : Option Phase :=
  if h : b.val < 24 then (if code = 0x10 ∨ code = 0x11 then some ⟨b.val, h⟩ else none) else none

/-- The URGENT input of a raise, or the block's own input (R64, R686). -/
def raiseInput (b : Block) (cl : Cls) (code unit : Nat) : Nat :=
  match cl with
  | .a => if code = 1 then 68 else if code = 2 then 69 else if code = 3 then 70 else 71
  | .b => if code = 0x20 then 64 + unit % 4 else b.val
  | .c => b.val

/-! ### Work in flight -/

/-- A sweep of this device is aborted for a cause (R486, R487): a chain-wide participant stops injecting, for good, and tells the
originator, once; otherwise ABORT is requested. -/
def Chip.abortSweep (cause : Nat) (c : Chip) : Chip :=
  if c.sweep.st = .idle then c
  else if c.sweep.chain && !c.sweep.orig then
    if c.sweep.left then c
    else
      let c := match c.sweep.engine with
        | some e => c.modLe e EngineUnit.endInjection
        | none => c
      let c := { c with sweep := { c.sweep with left := true } }
      c.sendFlit c.sweep.origAddr.val (.swAbort c.sweep.tag c.sweep.origAddr c.sweep.group cause)
  else { c with sweep := { c.sweep with abortReq := c.sweep.abortReq ++ [cause] } }

/-- The same for a sweep that names the group. -/
def Chip.abortSweepOf (g : Group) (cause : Nat) (c : Chip) : Chip := if c.sweep.group = g then c.abortSweep cause else c

/-- Is a user write. -/
def NvKind.isUser : NvKind → Bool
  | .record _ _ u => u.isSome
  | _ => false

/-- R517: commands not yet answered, sweeps and queued user writes are discarded. -/
def Chip.discard (c : Chip) : Chip :=
  let c := c.abortSweep 4
  { c with
    host := { c.host with rx := [], pending := [], reads := [], answers := [], aborts := c.host.aborts.map (fun a => (a.1, none))
                          commitReq := if c.host.commitDone then c.host.commitReq else none }
    nv := { c.nv with queue := c.nv.queue.filter (fun k => !k.isUser)
                      op := c.nv.op.map (fun o => if o.kind.isUser then { o with mute := true } else o) } }

/-! ### Host answers -/

/-- Owl has the result of a command that was taken: the answer awaits HOST_ANS (R618, R622); one whose
command has been discarded (R621) is not given. -/
def Chip.answer (h : HostCmd) (r : Result) (body : List Byte) (c : Chip) : Chip :=
  if c.host.pending.contains h then
    { c with host := { c.host with pending := c.host.pending.erase h, answers := c.host.answers ++ [(h, r, body)] } }
  else c

/-- The word of DONE: the tag and the result (R651). -/
def doneWords (tag : Nat) (code : Nat) : List Word := messageWords 0x20 (tag % 2 ^ 16 * 256 + code) []

/-- Badger has carried a command out and tells Owl with DONE over MBX_BO, and Owl answers; while that mailbox is full the command waits for the
row DONE (log 117). With Badger's core held in reset Owl gives the result itself. -/
def Chip.done (h : HostCmd) (r : Result) (body : List Byte) (c : Chip) : Chip :=
  if !c.isUp .badger || c.sys.result != .ok then c.answer h r body
  else if c.canPass .bo (doneWords h.ref.tag (resultCode r)) then (c.pass .bo (doneWords h.ref.tag (resultCode r))).answer h r body
  else c

/-! ### FAULT frames -/

/-- The 16 bytes of R519. -/
def Chip.faultFrame (c : Chip) (b : Block) (cl : Cls) (code unit : Nat) (d0 : Word) (disc : Bool) (gs : List Group) : List Byte :=
  [BitVec.ofNat 8 (clsCode cl), BitVec.ofNat 8 b.val, BitVec.ofNat 8 code, BitVec.ofNat 8 unit] ++
  leBytes 4 c.eva.seq.toNat ++ leBytes 2 c.host.last ++
  [BitVec.ofNat 8 ((bit c.host.lastValid + 2 * bit disc).toNat), BitVec.ofNat 8 (gs.foldl (fun a g => a + 2 ^ g.val) 0)] ++
  leBytes 4 d0.toNat

/-- The groups that a fault takes to SAFE now (R185, R187): none while the device is in a mode of its own, and none that stands in STANDBY. -/
def Chip.takenB (c : Chip) (gs : List Group) : List Group :=
  if c.sys.dev = .perGroup then gs.filter (fun g => (c.grp[g]).mode != .standby && (c.grp[g]).mode != .safe) else []

/-- The groups that a Class A fault takes to SAFE with the device (R187): none where SHUTDOWN comes first (R62). -/
def Chip.takenA (c : Chip) : List Group :=
  if c.shdnAsked then []
  else if c.sys.dev = .perGroup ∨ c.sys.dev = .standbyHeld then c.ownGroups.filter (fun g => (c.grp[g]).mode != .safe)
  else []

/-- Owl queues a FAULT frame on each port that is not bus-off; past 16 the oldest is dropped (R519, R520). Before the end of BOOT the frames wait for the
ports to join; no Owl firmware runs after CODE_CORRUPT (R142). -/
def Chip.queueFrame (f : List Byte) (c : Chip) : Chip :=
  (List.finRange 2).foldl (fun c p =>
    let u := c.host.ports[p]
    if u.st = .busOff ∨ c.sys.result = .codeCorrupt ∨ (u.st = .off ∧ !u.en ∧ c.sys.dev ≠ .boot) then c
    else c.modCan p (fun u =>
      let q := u.faults ++ [f]
      { u with faults := q.drop (q.length - 16), overflow := u.overflow || decide (16 < q.length) })) c

/-! ### Conditions -/

/-- The condition of an uncleared fault has gone, as the state shows it (R502). BADGER_STALL and ECC_DED end only
with the next BOOT, which writes their GONE entries itself. -/
def Chip.condGone (c : Chip) (b : Block) (f : FaultRec) : Bool :=
  let grp (k : Group → Bool) : Bool := match groupAt f.unit with
    | some g => k g
    | none => false
  match f.code with
  | 0x10 => if h : b.val < 24 then !(c.ph[(⟨b.val, h⟩ : Phase)]).pl.tripIn && (c.ph[(⟨b.val, h⟩ : Phase)]).conv.belowOc else false
  | 0x20 => grp (fun g => decide (16 ≤ (c.grp[g]).conv.ovClrRun))
  | 0x21 => grp (fun g => !(c.grp[g]).conv.lost || (c.grp[g]).conv.lostInj)
  | 0x22 => grp (fun g => c.refReady (c.grp[g]).cfg.refSel && c.refReady c.refs.refPh)
  | 0x23 => grp (fun g => decide ((c.grp[g]).conv.tMax * 10 < ((c.grp[g]).cfg.otClr : Rat)))
  | 0x26 => grp (fun g => decide ((c.grp[g]).cfg.derMin ≤ c.healthyAll g))
  | 0x27 => !c.sys.vinHigh
  | 0x28 => c.sys.die.toList.all (fun t => decide (t * 10 < (c.sys.dieClr : Rat)))
  | 0x29 => c.tb.st == .locked
  | 0x2A => grp (fun g => !(c.sett.groups[g]).segShort)
  | 0x2B => grp (fun g => !(c.sett.groups[g]).mismatch)
  | 0x2E => !c.gauge.lost
  | _ => false

/-- The real condition of an injected fault is present too (R528). -/
def Chip.realCond (c : Chip) (b : Block) (code unit : Nat) : Bool :=
  if code = 0x20 then
    match groupAt unit with
    | some g => (c.grp[g]).conv.vValid && decide ((c.grp[g]).cfg.ovClr ≤ (c.grp[g]).conv.v)
    | none => false
  else if code = 0x10 || code == 0x21 || code == 0x22 || code == 0x23 || (decide (0x26 ≤ code) && decide (code ≤ 0x2E) && code != 0x2C && code != 0x2D) then
    !c.condGone b ⟨code, unit, 0, 0, true, true⟩
  else false

/-! ### Raising -/

/-- The groups named ramp no more; in SHUTDOWN its step 2 may end with that (R190, R191). -/
def Chip.endRamps (gs : List Group) (c : Chip) : Chip :=
  (gs.foldl (fun c g => c.modGrp g (fun u => { u with ramping := false })) c).shdnAdvance

/-- The reaction of one group to a fault (R185, R491): group-off at the grant, then SAFE; a member tells its leader (R443). -/
def Chip.groupToSafe (g : Group) (c : Chip) : Chip :=
  let m := (c.grp[g]).mode
  let c := c.stopGroup .held g
  if c.sys.dev = .perGroup then
    if m = .standby ∨ m = .safe then c
    else
      let c := if m = .sweep then c.abortSweepOf g 4 else c
      let c := c.enterMode g .safe .faultB
      if c.isMember g then c.sendFlit (c.sett.groups[g]).leaderAddr.val (.phaseLost g) else c
  else c.endRamps [g]

/-- The device's reaction to a Class A fault (R187, R191, R443); a SHDN_START that Badger has asked for comes before its mode change (R62). -/
def Chip.deviceToSafe (c : Chip) : Chip :=
  let c := c.stopAll .now
  if c.shdnAsked then c.endRamps allGroups
  else if c.sys.dev = .perGroup ∨ c.sys.dev = .standbyHeld then
    let c := c.enterDevice .safe .faultA
    if c.sett.safeSent then c
    else (c.broadcast .deviceSafe).onSett (fun u => { u with safeSent := true })
  else c.endRamps allGroups

/-- The raise of a warning at its grant (R498, R500): history, STATUS and counters; nothing stops. -/
def Chip.raiseC (b : Block) (code unit : Nat) (d0 : Word) (inj : Bool) (c : Chip) : Chip :=
  let c := (c.grantAs b (guardInfo b .warn .c code d0 inj)).writeHist b .warn .c code unit d0 inj
  let c := (c.modGuard b (fun g => { g with c := true, cCode := code, cUnit := unit })).count 19 1
  if inj then c else c.bump 4 1

/-- The block holds the fault already. -/
def Chip.stands (c : Chip) (b : Block) (code unit : Nat) : Bool := (c.guards[b]).faults.any (fun f => f.code == code && f.unit == unit)

/-- A detection's condition is there, and an injection's only where the real one is (R502, R528). -/
def Chip.hereNow (c : Chip) (b : Block) (code unit : Nat) (inj : Bool) : Bool :=
  if inj then c.realCond b code unit else !goneAtOnce code

/-- A fault that stands already writes nothing more (R63, R498). -/
def Chip.againB (b : Block) (code unit : Nat) (inj : Bool) (c : Chip) : Chip :=
  let here := c.hereNow b code unit inj
  c.modGuard b (fun g => { g with faults := g.faults.map (fun f =>
    if f.code = code ∧ f.unit = unit then { f with present := f.present || here } else f) })

/-- The groups whose switching a Class B fault concerns (R511): those that it stops, or all that it names where none of them runs. -/
def Chip.concerns (c : Chip) (b : Block) (code unit : Nat) : List Group :=
  let gs := if h : b.val < 24 then (c.groupOf ⟨b.val, h⟩).toList else c.faultGroups code unit
  let ran := gs.filter (fun g => isRunning (c.grp[g]).mode)
  if ran.isEmpty then gs else ran

/-- The grant of a Class B raise (R498, R499, R517, R519): history, STATUS, counters, work in flight and FAULT frames. -/
def Chip.recordB (b : Block) (code unit : Nat) (d0 : Word) (inj : Bool) (c : Chip) : Chip :=
  let here := c.hereNow b code unit inj
  let c := (c.grantAs (raiseInput b .b code unit) (guardInfo b .raise .b code d0 inj)).writeHist b .raise .b code unit d0 inj
  let c := (c.modGuard b (fun g => { g with
    lastB := c.tb.count
    concerned := g.concerned ++ (c.concerns b code unit).filter (fun x => !g.concerned.contains x)
    faults := g.faults ++ [⟨code, unit, c.eva.seq, c.tb.count, here, inj⟩] })).count 18 1
  let c := if inj then c else c.bump 3 1
  let gs := c.faultGroups code unit
  let c := if gs.isEmpty then c else c.discard
  c.queueFrame (c.faultFrame b .b code unit d0 (!gs.isEmpty) (c.takenB gs))

/-- The reaction to a Class B raise (R502): its phase to FAULTED, if it belongs to a group (R370), its groups to SAFE. -/
def Chip.reactB (b : Block) (code unit : Nat) (c : Chip) : Chip :=
  let gs := c.faultGroups code unit
  let c := match faultPhase b code with
    | some p => if (c.groupOf p).isNone || c.pstate p == PState.faulted then c else c.setPstate p .faulted
    | none => c
  gs.foldl (fun c g => c.groupToSafe g) c

/-- The groups whose OV requests wait. -/
def Chip.ovWaiting (c : Chip) : List Group := allGroups.filter (fun g => (c.grp[g]).conv.ovReq.isSome)

/-- The record of one group's OV at the URGENT grant cycle. -/
def Chip.ovRecord (g : Group) (c : Chip) : Chip :=
  match (c.grp[g]).conv.ovReq with
  | some (w, inj) =>
    let c := c.modGv g (fun k => { k with ovReq := none, ovClrRun := if inj then k.ovClrRun else 0 })
    if c.stands (grpBlock g) 0x20 g.val then c.againB (grpBlock g) 0x20 g.val inj else c.recordB (grpBlock g) 0x20 g.val w inj
  | none => c

/-- One URGENT grant cycle (R65): every OV request that waits is granted in the order of its input, then `last`, whose inputs lie above them; the
cycle counts as one. The reactions to the OV requests follow. -/
def Chip.urgentCycle (last : Chip → Chip) (c : Chip) : Chip :=
  let gs := c.ovWaiting
  let raised := gs.filter (fun g => !c.stands (grpBlock g) 0x20 g.val)
  let u := c.eva.urgent
  let c := last (gs.foldl (fun c g => c.ovRecord g) c)
  let c := { c with eva := { c.eva with urgent := if c.eva.urgent = u then u else u + 1 } }
  raised.foldl (fun c g => c.reactB (grpBlock g) 0x20 g.val) c

/-- The raise of a Class B fault at its grant, and its reaction; an OV's grant is its URGENT cycle's. -/
def Chip.raiseB (b : Block) (code unit : Nat) (d0 : Word) (inj : Bool) (c : Chip) : Chip :=
  if code = 0x20 then
    match groupAt unit with
    | some g => (c.modGv g (fun k => { k with ovReq := some (d0, inj) })).urgentCycle id
    | none => c
  else if c.stands b code unit then c.againB b code unit inj
  else (c.recordB b code unit d0 inj).reactB b code unit

/-- The raise of a Class A fault: every output goes off at once, then as for Class B at its grant (R191, R498, R517, R519). -/
def Chip.raiseA (b : Block) (code unit : Nat) (d0 : Word) (inj : Bool) (c : Chip) : Chip :=
  let stands := decide ((c.guards[b]).aCode = code)
  let c := c.stopAll .now
  if stands then c
  else
    let c := c.urgentCycle (fun c =>
      (c.grantAs (raiseInput b .a code unit) (guardInfo b .raise .a code d0 inj)).writeHist b .raise .a code unit d0 inj)
    let c := c.modGuard b (fun g => { g with aCode := code })
    let c := if inj then c else c.bump 2 1
    let c := c.discard
    let c := c.queueFrame (c.faultFrame b .a code unit d0 true c.takenA)
    c.deviceToSafe

/-- The raise of a fault or warning of a class. -/
def Chip.raise (b : Block) (cl : Cls) (code unit : Nat) (d0 : Word) (inj : Bool) (c : Chip) : Chip :=
  match cl with
  | .a => c.raiseA b code unit d0 inj
  | .b => c.raiseB b code unit d0 inj
  | .c => c.raiseC b code unit d0 inj

/-- A warning without detail (R500). -/
def Chip.warn (b : Block) (code unit : Nat) (c : Chip) : Chip := c.raiseC b code unit 0 false

/-- A Class B fault without detail. -/
def Chip.faultB (b : Block) (code unit : Nat) (c : Chip) : Chip := c.raiseB b code unit 0 false

/-- Entry to CHARGE with the gauge input lost raises GAUGE_INPUT_LOST (R539); every other mode change is `enterMode`. -/
def Chip.changeMode (g : Group) (m : Mode) (cause : Cause) (c : Chip) : Chip :=
  let c := c.enterMode g m cause
  if m = .charge && c.gauge.lost then c.faultB gaugeBlock 0x2E 0xFF else c

/-! ### Clearing -/

/-- The groups that a cleared fault may release: those it had taken to SAFE. -/
def Chip.heldGroups (c : Chip) (b : Block) (f : FaultRec) : List Group :=
  if f.code = 0x2E then (groupAt c.gauge.cfg.chgGroup).toList
  else if b = tbBlock then c.ownGroups
  else if f.code = 0x2B then (groupAt f.unit).toList
  else c.faultGroups f.code f.unit

/-- A group whose last fault was cleared leaves SAFE for STANDBY and starts again where it may (R186). -/
def Chip.releaseGroup (g : Group) (c : Chip) : Chip :=
  let c := if (c.grp[g]).mode = .safe && c.sys.dev == .perGroup && !c.groupFaulted g then c.changeMode g .standby .cleared else c
  c.tryStart g

/-- What follows the clearing of a fault: the phase to STANDBY (R371, R512), the groups released. -/
def Chip.released (b : Block) (f : FaultRec) (c : Chip) : Chip :=
  let c := match faultPhase b f.code with
    | some p =>
      if c.pstate p = PState.faulted ∧ !((c.guards[b]).faults.any (fun x => (faultPhase b x.code).isSome)) then
        c.setPstate p .standby
      else c
    | none => c
  (c.heldGroups b f).foldl (fun c g => c.releaseGroup g) c

/-- A fault leaves its block with a history entry, at the last grant. -/
def Chip.dropFault (b : Block) (f : FaultRec) (k : HistKind) (c : Chip) : Chip :=
  (c.modGuard b (fun g => { g with faults := g.faults.filter (fun x => !(x.code == f.code && x.unit == f.unit)) })).writeHist
    b k .b f.code f.unit 0 f.inj

/-- A fault clears by itself, at the grant of a clearing event of its block (R498, R507). -/
def Chip.autoClear (b : Block) (code : Nat) (c : Chip) : Chip :=
  ((c.guards[b]).faults.filter (fun f => f.code == code)).foldl (fun c f =>
    ((c.grantAs b (guardInfo b .auto .b f.code 0 f.inj)).dropFault b f .auto).released b f) c

/-- The condition of a standing warning is still there: the warning forms of two faults have one (R291, R508). -/
def Chip.warnPresent (c : Chip) (b : Block) (code : Nat) : Bool :=
  if code = 0x21 then (if h : 28 ≤ b.val ∧ b.val < 32 then (c.grp[(⟨b.val - 28, by omega⟩ : Group)]).conv.lost else false)
  else if code = 0x2E then decide (b = gaugeBlock) && c.gauge.lost
  else false

/-- CONDITION_GONE: a GONE entry at a grant of the block (R498). -/
def Chip.goneFault (b : Block) (code unit : Nat) (c : Chip) : Chip :=
  match (c.guards[b]).faults.find? (fun f => f.code == code && f.unit == unit) with
  | some f =>
    if f.present && c.condGone b f then
      let c := c.modGuard b (fun g => { g with faults := g.faults.map (fun x =>
        if x.code = code ∧ x.unit = unit then { x with present := false } else x) })
      (c.grantAs b (guardInfo b .gone .b code 0 f.inj)).writeHist b .gone .b code unit 0 f.inj
    else c
  | none => c

/-! ### Retries (R510 to R512) -/

/-- The retry record of a fault: whether its code's mask bit is set, RETRY_N and RETRY_MS. -/
def Chip.retryRecord (c : Chip) (b : Block) (code unit : Nat) : Option (Bool × Nat × Nat) :=
  let ofGroup (g : Option Group) (k : Nat) : Option (Bool × Nat × Nat) :=
    g.map (fun g => let u := (c.grp[g]).cfg; (u.retryMask.testBit k, u.retryN, u.retryMs))
  let dev (k : Nat) : Option (Bool × Nat × Nat) := some (c.sys.retryMask.testBit k, c.sys.retryN, c.sys.retryMs)
  if h : b.val < 24 then
    (if code = 0x10 then ofGroup (c.groupOf ⟨b.val, h⟩) 0 else if code = 0x11 then ofGroup (c.groupOf ⟨b.val, h⟩) 1 else none)
  else if 28 ≤ b.val ∧ b.val < 32 then
    let g := groupAt (b.val - 28)
    match code with
    | 0x20 => ofGroup g 2
    | 0x21 => ofGroup g 3
    | 0x23 => ofGroup g 5
    | 0x24 => ofGroup g 6
    | 0x25 => ofGroup g 7
    | 0x26 => ofGroup g 8
    | _ => none
  else if b = adcBlock then (if code = 0x22 then ofGroup (groupAt unit) 4 else none)
  else if b = sysBlock then (if code = 0x27 then dev 9 else if code = 0x28 then dev 10 else none)
  else if b = gaugeBlock then (if code = 0x2E then dev 11 else none)
  else none

/-- RETRY: cleared as a FAULT_CLEAR would, once RETRY_MS has passed with the condition gone and retries are left. -/
def Chip.retryFault (b : Block) (code unit : Nat) (c : Chip) : Chip :=
  match (c.guards[b]).faults.find? (fun f => f.code == code && f.unit == unit), c.retryRecord b code unit with
  | some f, some (mask, n, ms) =>
    if mask && !f.present && decide ((c.guards[b]).retries < n) && decide (f.at_ + ms * tkMs ≤ c.tb.count) then
      let c := c.grantAs b (guardInfo b .retry .b code 0 f.inj)
      let c := c.modGuard b (fun g => { g with retries := satInc 15 g.retries })
      (c.dropFault b f .retry).released b f
    else c
  | _, _ => c

/-- RETRIES_RESET: 64 × RETRY_MS of running, by the phase or by every group that the block's faults concern, without a new Class B fault of the block
(R511). -/
def Chip.retriesReset (b : Block) (c : Chip) : Chip :=
  let long (begun : Nat) (g : Group) : Bool :=
    let ms := if b = sysBlock ∨ b = gaugeBlock then c.sys.retryMs else (c.grp[g]).cfg.retryMs
    match (c.grp[g]).runSince with
    | some t => decide (max (max t begun) (c.guards[b]).lastB + 64 * ms * tkMs ≤ c.tb.count)
    | none => false
  let phaseOn : Bool := if h : b.val < 24 then (c.ph[(⟨b.val, h⟩ : Phase)]).pl.switching else true
  let begun : Nat := if h : b.val < 24 then (c.ph[(⟨b.val, h⟩ : Phase)]).pl.switchedAt else 0
  let gs := (c.guards[b]).concerned
  if phaseOn && !gs.isEmpty && gs.all (long begun) then
    c.modGuard b (fun g => { g with retries := 0, concerned := if g.faults.isEmpty then [] else g.concerned })
  else c

/-! ### FAULT_CLEAR and W1C -/

/-- The held warning of a block clears at the last grant (R498, R626). -/
def Chip.dropWarning (b : Block) (c : Chip) : Chip :=
  let g := c.guards[b]
  (c.modGuard b (fun g => { g with c := false })).writeHist b .clear .c g.cCode g.cUnit 0 false

/-- What FAULT_CLEAR may clear in a block now: the faults named whose condition has gone. -/
def Chip.clearable (c : Chip) (b : Block) (code : Nat) : List FaultRec :=
  (c.guards[b]).faults.filter (fun f => (code == 0xFF || f.code == code) && !f.present && !isBootFault f.code && f.code != 0x38)

/-- Whether the held warning of a block is named, and may clear. -/
def Chip.warnNamed (c : Chip) (b : Block) (code : Nat) : Bool :=
  let g := c.guards[b]
  g.c && (code == 0xFF || g.cCode == code)

/-- One block's part of a FAULT_CLEAR at its grant (R508); what the clearing releases follows it. -/
def Chip.clearBlock (code : Nat) (c : Chip) (b : Block) : Chip :=
  let named := (c.guards[b]).faults.any (fun f => code == 0xFF || f.code == code) || c.warnNamed b code
  let fs := c.clearable b code
  let c := fs.foldl (fun c f => c.dropFault b f .clear) c
  let c := if c.warnNamed b code && !c.warnPresent b (c.guards[b]).cCode then c.dropWarning b else c
  if named then c.modGuard b (fun g => { g with retries := 0, concerned := if g.faults.isEmpty then [] else g.concerned }) else c

/-- The blocks that a FAULT_CLEAR names. -/
def blocksNamed (block : Nat) : List Block := (List.finRange 45).filter (fun b => block == 0xFF || b.val == block)

/-- Something named by a FAULT_CLEAR is held in a block. -/
def Chip.holds (c : Chip) (code : Nat) (b : Block) : Bool :=
  (c.guards[b]).faults.any (fun f => code == 0xFF || f.code == code) || c.warnNamed b code

/-- FAULT_CLEAR at its grant, and its answer (R506, R508). The grant's one record is that of its first history entry (log 22). -/
def Chip.faultClear (block code : Nat) (c : Chip) : Chip × Result :=
  let bs := blocksNamed block
  if 1 ≤ code ∧ code ≤ 4 ∧ bs.any (fun b => (c.guards[b]).aCode == code) then (c, .classALatched)
  else
    let held := bs.any (c.holds code)
    let first : Option GrantInfo := (bs.flatMap (fun b =>
      (c.clearable b code).map (fun f => guardInfo b .clear .b f.code 0 f.inj) ++
      (if c.warnNamed b code && !c.warnPresent b (c.guards[b]).cCode
       then [guardInfo b .clear .c (c.guards[b]).cCode 0 false] else []))).head?
    let c := c.badgerFirst.grantAs 41 (first.getD { src := 41, info := 1 })
    let cleared := bs.flatMap (fun b => (c.clearable b code).map (fun f => (b, f)))
    let c := bs.foldl (Chip.clearBlock code) c
    let active := bs.any (c.holds code)
    let c := cleared.foldl (fun c bf => c.released bf.1 bf.2) c
    (c, if !held then .noFault else if active then .faultActive else .ok)

end Sys2Proof.Machine
end

