-- ==== Sys2Proof/Machine/NvStore.lean ====
section
/-!
DEFINITION. The NV store's operations (R565 to R592): the queue, the start of an operation and its end, wear, reclaim, the erase journal,
and the counters' stripes.
-/

namespace Sys2Proof.Machine

/-! ### The queue -/

/-- Operations that go before those waiting. -/
def Chip.nvFirst (ks : List NvKind) (c : Chip) : Chip :=
  if c.nv.readOnly then c else { c with nv := { c.nv with queue := ks ++ c.nv.queue } }

/-- An operation waits or is in progress. -/
def NvUnit.holds (p : NvKind → Bool) (u : NvUnit) : Bool :=
  u.queue.any p || match u.op with
    | some o => p o.kind
    | none => false

/-- What an operation outside a power-loss SHUTDOWN needs to start (R567). -/
def Chip.nvAllowed (c : Chip) : Bool := c.sys.vholdOk && !c.sys.ride && c.outOfBoot && !c.nv.readOnly

/-- NVS_STAT.DEFERRED. -/
def Chip.nvDeferred (c : Chip) : Bool := c.nv.op.isNone && !c.nv.queue.isEmpty && !c.nvAllowed

/-- The command that a queued user write answers. -/
def Chip.writeCmdOf (c : Chip) (tag : Nat) : Option HostCmd := c.host.pending.find? (fun h => h.type == 0x09 && h.ref.tag == tag)

/-- A user write is answered. -/
def Chip.answerWrite (tag : Nat) (r : Result) (body : List Byte) (c : Chip) : Chip :=
  match c.writeCmdOf tag with
  | some h => c.answer h r body
  | none => c

/-- The tag of a user write. -/
def NvKind.userTag : NvKind → Option Nat
  | .record _ _ u => u
  | .copy .. | .eraseRecord _ | .eraseJournal | .eraseStripe _ | .counterBit _ | .carry _ | .retire _ => none

/-- Every user write that waits leaves the queue with a result (R189, R584). -/
def Chip.dropUser (r : Result) (c : Chip) : Chip :=
  let tags := c.nv.queue.filterMap NvKind.userTag
  let c := { c with nv := { c.nv with queue := c.nv.queue.filter (fun k => !k.isUser) } }
  tags.foldl (fun c t => c.answerWrite t r []) c

/-! ### The record area -/

/-- The record-area sector of a sector number. -/
def recordIdx (s : Sector) : Option (Fin 54) := if h : 10 ≤ s.val then some ⟨s.val - 10, by omega⟩ else none

/-- The sector number of a record-area sector. -/
def sectorNo (i : Fin 54) : Sector := ⟨i.val + 10, by omega⟩

/-- Bytes that a record takes (R569). -/
def recordSize (pay : List Byte) : Nat := (8 + pay.length + 7) / 8 * 8

/-- The lowest-numbered blank usable sector (DESIGN CHOICE, log 41: the spec says "the next"). -/
def NvUnit.nextBlank (u : NvUnit) : Option (Fin 54) := (List.finRange 54).find? (fun i => (u.sectors[i]).blank)

/-- The place of a record: the open sector if it fits there, else the next blank sector, opened (R571). -/
def NvUnit.place (u : NvUnit) (size : Nat) : Option (Fin 54 × NvUnit) :=
  let fresh : Option (Fin 54 × NvUnit) := match u.nextBlank with
    | some i => some (i, { u with open_ := some i, nextOrder := u.nextOrder + 1
                                  sectors := vmod u.sectors i (fun s => { s with order := some u.nextOrder, used := 16 }) })
    | none => none
  match u.open_ with
  | some i => if (u.sectors[i]).used + size ≤ 4096 then some (i, u) else fresh
  | none => fresh

/-- A record is programmed with COMMIT 0xFF at the lowest free offset (R571, R572). -/
def NvUnit.append (i : Fin 54) (key : Nat) (seq : BitVec 16) (pay : List Byte) (u : NvUnit) : NvUnit :=
  { u with sectors := vmod u.sectors i (fun s =>
    { s with used := s.used + recordSize pay, records := s.records ++ [NvRecord.new key seq pay s.used] }) }

/-- The last record programmed in a sector is committed. -/
def NvUnit.commit (i : Fin 54) (u : NvUnit) : NvUnit :=
  { u with sectors := vmod u.sectors i (fun s =>
    match s.records.getLast? with
    | some r => { s with records := s.records.dropLast ++ [{ r with committed := true }] }
    | none => s) }

/-- The version that a new record of a key takes; the first is 0 (DESIGN CHOICE, log 41). -/
def NvUnit.nextSeq (u : NvUnit) (key : Nat) : BitVec 16 :=
  match u.lookup key with
  | some (v, _) => v + 1
  | none => 0

/-- The index names a record. -/
def indexSet (ix : List IndexEntry) (key : Nat) (seq : BitVec 16) (pay : List Byte) : List IndexEntry :=
  match ix with
  | [] => [(key, seq, pay)]
  | e :: rest => if e.1 = key then (key, seq, pay) :: rest else e :: indexSet rest key seq pay

/-- Visible user records with content (R593): how many, and their bytes. -/
def NvUnit.userRecords (u : NvUnit) : List IndexEntry := u.index.filter (fun e => decide (0x1000 ≤ e.1) && !e.2.2.isEmpty)
def NvUnit.userBytes (u : NvUnit) : Nat := u.userRecords.foldl (fun n e => n + recordSize e.2.2) 0

/-- A record is still needed (R577). -/
def Chip.needed (c : Chip) (r : NvRecord) : Bool :=
  r.good &&
  if r.key = keyLog then decide (c.log.next < numAt r.payload 0 4 + (r.payload.length - 4) / 32 + 2048)
  else !r.payload.isEmpty && c.nv.lookup r.key == some (r.seq, r.payload)

/-- The copies of a sector's needed records. -/
def Chip.copiesOf (c : Chip) (i : Fin 54) : List NvKind :=
  ((c.nv.sectors[i]).records.filter c.needed).map (fun r => .copy r.key r.seq.toNat r.payload)

/-! ### The erase journal (R578 to R581) -/

/-- Bytes 0 to 11 of an entry (R578). -/
def journalBytes (type sector pulses jseq : Nat) (data : Word) : List Byte :=
  [BitVec.ofNat 8 type, BitVec.ofNat 8 sector, BitVec.ofNat 8 pulses, 0] ++ leBytes 4 jseq ++ leBytes 4 data.toNat

/-- An entry as the flash holds it. -/
def JournalEntry.bytes (e : JournalEntry) : List Byte := journalBytes e.type e.sector e.pulses e.jseq e.data ++ leBytes 2 e.crc.toNat ++ [0, 0]

/-- An entry whose CRC is right. -/
def JournalEntry.good (e : JournalEntry) : Bool := e.crc == crc16 (journalBytes e.type e.sector e.pulses e.jseq e.data)

/-- JSEQ of a journal sector's first entry. -/
def NvUnit.firstJseq (u : NvUnit) (k : Fin 2) : Option Nat := ((u.journals[k]).find? JournalEntry.good).map (·.jseq)

/-- Sector 1 is the active journal sector: its first entry carries the higher JSEQ by serial arithmetic (R578). -/
def NvUnit.journalB (u : NvUnit) : Bool :=
  match u.firstJseq 0, u.firstJseq 1 with
  | some a, some b => a != b && decide ((b + 2 ^ 32 - a) % 2 ^ 32 < 2 ^ 31)
  | none, some _ => true
  | _, none => false

/-- The active journal sector, and the other one. -/
def NvUnit.activeJournal (u : NvUnit) : Fin 2 := if u.journalB then 1 else 0
def NvUnit.idleJournal (u : NvUnit) : Fin 2 := if u.journalB then 0 else 1

/-- The entries of the active journal sector. -/
def NvUnit.journal (u : NvUnit) : List JournalEntry := u.journals[u.activeJournal]

/-- Entries of the active journal sector still free. -/
def NvUnit.journalFree (u : NvUnit) : Nat := 256 - u.journal.length

/-- An entry is programmed in a journal sector (R578). -/
def NvUnit.noteIn (k : Fin 2) (type sector pulses : Nat) (data : Word) (u : NvUnit) : NvUnit :=
  if (u.journals[k]).length < 256 then
    { u with journals := vmod u.journals k (· ++ [⟨type, sector, pulses, u.jseq, data, crc16 (journalBytes type sector pulses u.jseq data)⟩])
             jseq := (u.jseq + 1) % 2 ^ 32 }
  else u

/-- An entry joins the active journal sector. -/
def NvUnit.note (type sector pulses : Nat) (data : Word) (u : NvUnit) : NvUnit := u.noteIn u.activeJournal type sector pulses data

/-- The journal sectors by number. -/
def journalSector (k : Fin 2) : Sector := ⟨k.val, by omega⟩

/-- The sector of the journal that is not active. -/
def NvUnit.otherJournal (u : NvUnit) : Sector := journalSector u.idleJournal

/-- The last journal entry of a sector is ERASE_START without ERASE_DONE (R580). -/
def NvUnit.eraseOpen (u : NvUnit) (s : Nat) : Bool :=
  match ((u.journals[u.idleJournal] ++ u.journal).filter (fun e => e.good && e.sector == s && (e.type == 1 || e.type == 2))).getLast? with
  | some e => e.type == 1
  | none => false

/-- A sector is retired. -/
def NvUnit.isRetired (u : NvUnit) (s : Sector) : Bool :=
  match recordIdx s with
  | some i => (u.sectors[i]).retired
  | none => false

/-- The retired sectors as a mask. -/
def NvUnit.retiredMask (u : NvUnit) : Nat := (List.finRange 64).foldl (fun n s => if u.isRetired s then n + 2 ^ s.val else n) 0

/-- The half-erased sectors that a BOOT finds (R580). -/
def NvUnit.halfErased (u : NvUnit) : List Sector :=
  (List.finRange 64).filter (fun s => !u.isRetired s && (u.eraseOpen s.val || match recordIdx s with
    | some i => (u.sectors[i]).broken
    | none => false))

/-- The erase that a half-erased sector gets after BOOT. -/
def NvUnit.eraseOf (u : NvUnit) (s : Sector) : List NvKind :=
  if 10 ≤ s.val then [.eraseRecord s] else if 2 ≤ s.val then [.eraseStripe s] else if s = u.otherJournal then [.eraseJournal] else []

/-! ### The counters' carry record (R586) -/

/-- The four stripe sectors of a set (R565). -/
def stripeSectors (b : Bool) : List Sector := if b then [6, 7, 8, 9] else [2, 3, 4, 5]

/-- A base as the next CNT_CARRY gives it. -/
def NvUnit.nextBase (u : NvUnit) (sw : Bool) (k : Counter) : Nat :=
  u.base[k] + (if sw then u.stripe[k] else 0) + (if u.carryOnly then u.pending[k] else 0)

/-- The payload of CNT_CARRY. -/
def NvUnit.carryPayload (u : NvUnit) (sw : Bool) : List Byte :=
  leBytes 4 (u.carryGen + 1) ++ [BitVec.ofNat 8 ((bit (u.setB != sw)).toNat), BitVec.ofNat 8 ((bit u.carryOnly).toNat), 0, 0] ++
  (List.finRange 16).flatMap (fun k => leBytes 8 (u.nextBase sw k))

/-- A CNT_CARRY record takes effect as it commits: no counter changes its value. -/
def NvUnit.applyCarry (pay : List Byte) (u : NvUnit) : NvUnit :=
  let b := decide (numAt pay 4 1 = 1)
  let sw := b != u.setB
  let newBase (k : Counter) : Nat := numAt pay (8 + 8 * k.val) 8
  { u with
    carryGen := numAt pay 0 4
    setB := b
    stale := if sw then stripeSectors u.setB else u.stale
    pending := Vector.ofFn (fun k => u.pending[k] - (newBase k - u.base[k] - if sw then u.stripe[k] else 0))
    stripe := if sw then Vector.replicate 16 0 else u.stripe
    base := Vector.ofFn newBase }

/-! ### Wear (R582 to R584) -/

/-- The store becomes read-only: NV_WORN, and nothing more starts (R584). -/
def Chip.nvWorn (c : Chip) : Chip :=
  let c := c.dropUser .nvReadonly
  ({ c with nv := { c.nv with readOnly := true, queue := [], gc := false } }).faultB nvsBlock 0x38 0xFF

/-- The erase's pulses are counted, and a slow erase is logged (R582). -/
def Chip.erasePulses (s : Sector) (pulses : Nat) (c : Chip) : Chip :=
  let c := c.count 29 pulses
  if 4 < pulses then (c.raiseC nvsBlock 0x5C s.val (BitVec.ofNat 32 pulses) false).bump 12 1 else c

/-- A retirement (R583): the entry, the count, the warning, and a spare in its place. -/
def Chip.retireSector (s : Sector) (c : Chip) : Chip :=
  match recordIdx s with
  | none => c
  | some i =>
    let c := { c with nv := { c.nv.note 3 s.val 0 0 with
      sectors := vmod c.nv.sectors i (fun x => { x with retired := true })
      open_ := if c.nv.open_ == some i then none else c.nv.open_ } }
    let c := (c.raiseC nvsBlock 0x5D s.val 0 false).bump 11 1
    match (List.finRange 54).find? (fun j => (c.nv.sectors[j]).spare && !(c.nv.sectors[j]).retired) with
    | some j => { c with nv := { c.nv with sectors := vmod c.nv.sectors j (fun x => { x with spare := false }) } }
    | none => c.nvWorn

/-- A program to a record sector failed its verify: the sector closes, its needed records are copied, then it is retired (R583). -/
def Chip.programFailed (i : Fin 54) (c : Chip) : Chip :=
  let c := { c with nv := { c.nv with open_ := if c.nv.open_ == some i then none else c.nv.open_ } }
  c.nvFirst (c.copiesOf i ++ [.retire (sectorNo i)])

/-! ### The start of an operation -/

/-- An operation is in progress, with the pages that it makes busy (R568). -/
def Chip.nvOpen (k : NvKind) (s : Sector) (pages : List Nat) (c : Chip) : Chip :=
  { c with nv := { c.nv with op := some { kind := k, sector := s.val, pages := pages } } }

/-- A record's first program (R572). -/
def Chip.beginRecord (k : NvKind) (key : Nat) (seq : BitVec 16) (pay : List Byte) (c : Chip) : Option Chip :=
  match c.nv.place (recordSize pay) with
  | some (i, u) =>
    let pages := pagesOf (u.sectors[i]).used (8 + pay.length)
    some (({ c with nv := u.append i key seq pay }.nvOpen k (sectorNo i) pages).count 28 1)
  | none => none

/-- The operation starts; none where it cannot: no blank sector for a record, or no room in the journal for an erase. An erase makes its whole sector
busy; of the other programs, a stripe's makes the page of its bits busy, and a retirement's that of its journal entry (R568). -/
def Chip.nvBegin (k : NvKind) (c : Chip) : Option Chip :=
  let erase (s : Sector) (c : Chip) : Option Chip :=
    if c.nv.journalFree < (if k = .eraseJournal then 2 else 4) then none
    else some (({ c with nv := c.nv.note 1 s.val 0 0 }).nvOpen k s (List.range sectorPages))
  match k with
  | .record key pay _ => c.beginRecord k key (c.nv.nextSeq key) pay
  | .copy key seq pay => c.beginRecord k key (BitVec.ofNat 16 seq) pay
  | .carry sw => let pay := c.nv.carryPayload sw; c.beginRecord (.record keyCarry pay none) keyCarry (c.nv.nextSeq keyCarry) pay
  | .eraseRecord s =>
    match recordIdx s with
    | some i => erase s { c with nv := { c.nv with sectors := vmod c.nv.sectors i (fun x => { x with half := true }) } }
    | none => none
  | .eraseJournal =>
    (erase c.nv.otherJournal c).map (fun d => { d with nv := { d.nv with journals := vmod d.nv.journals c.nv.idleJournal (fun _ => []) } })
  | .eraseStripe s => erase s c
  | .counterBit n =>
    let s : Sector := Fin.ofNat 64 ((if c.nv.setB then 6 else 2) + n.val / 4)
    some ((c.nvOpen k s (pagesOf (1024 * (n.val % 4) + c.nv.stripe[n] / 8) 1)).count 28 1)
  | .retire _ => some ((c.nvOpen k (journalSector c.nv.activeJournal) (pagesOf (16 * c.nv.journal.length) 16)).count 28 1)

/-! ### The end of an operation -/

/-- `n` waiting entries have been stored: the next one is the oldest now (R600). -/
def LogUnit.shorter (n : Nat) (l : LogUnit) : LogUnit :=
  let l := { l with waiting := l.waiting - n }
  { l with oldest := match l.unstored with
    | e :: _ => e.2.at_
    | [] => l.oldest }

/-- What follows a device record's commit. -/
def Chip.recordStored (key : Nat) (pay : List Byte) (c : Chip) : Chip :=
  if key = keyLog then { c with log := c.log.shorter ((pay.length - 4) / 32) }
  else if key = keyCarry then
    let sw := decide (numAt pay 4 1 = 1) != c.nv.setB
    let old := c.nv.setB
    let c := { c with nv := c.nv.applyCarry pay }
    if sw && c.sys.dev != .shutdown then c.nvQueue ((stripeSectors old).map .eraseStripe) else c
  else c

/-- A write whose answer is discarded goes on as the device's own (R574). -/
def NvKind.ownerless : NvKind → NvKind
  | .record key pay _ => .record key pay none
  | .copy key seq pay => .copy key seq pay
  | .eraseRecord s => .eraseRecord s
  | .eraseJournal => .eraseJournal
  | .eraseStripe s => .eraseStripe s
  | .counterBit k => .counterBit k
  | .carry sw => .carry sw
  | .retire s => .retire s

/-- A record write ends (R572, R573, R583). -/
def Chip.endRecord (o : NvOp) (i : Fin 54) (verified : Bool) (key : Nat) (pay : List Byte) (c : Chip) : Chip :=
  let done := { c with nv := { c.nv with op := none } }
  if o.aborted then (if verified then done else done.programFailed i)
  else if o.complete then
    let c := { done with nv := done.nv.commit i }
    let c := match o.kind with
      | .record _ _ u =>
        let c := c.recordStored key pay
        (match u with
          | some tag => if o.mute then c else c.answerWrite tag .ok (leBytes 2 key ++ leBytes 2 (((c.nv.lookup key).map (fun x => x.1.toNat)).getD 0))
          | none => c)
      | .copy .. | .eraseRecord _ | .eraseJournal | .eraseStripe _ | .counterBit _ | .carry _ | .retire _ => c
    if verified then c else c.programFailed i
  else if verified then c
  else (done.nvFirst [if o.mute then o.kind.ownerless else o.kind]).programFailed i

/-- A sector erase ends (R579, R582 to R588). -/
def Chip.endErase (k : NvKind) (s : Sector) (cells : NvCells) (c : Chip) : Chip :=
  let c := ({ c with nv := { c.nv with op := none } }).erasePulses s cells.pulses
  let c := if cells.verified then { c with nv := c.nv.note 2 s.val cells.pulses 0 } else c
  match k with
  | .eraseRecord s =>
    match recordIdx s with
    | some i =>
      let c := { c with nv := { c.nv with gc := false } }
      if cells.verified then
        { c with nv := { c.nv with sectors := vmod c.nv.sectors i (fun x =>
          { x with erases := x.erases + 1, magic := 0x5253564E, crc := crc16 (leBytes 4 0x5253564E ++ leBytes 4 (x.erases + 1))
                   order := none, used := 16, records := [], half := false }) } }
      else c.nvFirst [.retire s]
    | none => c
  | .eraseJournal =>
    if cells.verified then
      let u := c.nv
      let m := u.retiredMask
      let k := u.idleJournal
      { c with nv := (u.noteIn k 4 0 0 (BitVec.ofNat 32 m)).noteIn k 5 0 0 (BitVec.ofNat 32 (m / 2 ^ 32)) }
    else c.nvWorn
  | .eraseStripe s =>
    if cells.verified then { c with nv := { c.nv with stale := c.nv.stale.erase s } }
    else
      let c := if c.nv.carryOnly then c else ({ c with nv := { c.nv with carryOnly := true } }).queueCarry
      c.raiseC nvsBlock 0x5D s.val 0 false
  | .record .. | .copy .. | .counterBit _ | .carry _ | .retire _ => c

/-- The operation in progress ends, as its cells went. -/
def Chip.nvEnd (cells : NvCells) (c : Chip) : Chip :=
  match c.nv.op with
  | none => c
  | some o =>
    let s : Sector := Fin.ofNat 64 o.sector
    match o.kind with
    | .record key pay _ | .copy key _ pay =>
      match recordIdx s with
      | some i => c.endRecord o i cells.verified key pay
      | none => c
    | .eraseRecord _ | .eraseJournal | .eraseStripe _ => c.endErase o.kind s cells
    | .counterBit k =>
      let n := if cells.verified then c.nv.burst k else 0
      { c with nv := { c.nv with op := none, stripe := vmod c.nv.stripe k (· + n), pending := vmod c.nv.pending k (· - n) } }
    | .retire s => ({ c with nv := { c.nv with op := none } }).retireSector s
    | .carry _ => c

/-! ### Reads (R568) -/

/-- A read of records meets a page that the operation in progress keeps busy. Erasing a sector, nothing visible is left in it (R577, R580). -/
def NvUnit.readBusy (u : NvUnit) (p : NvRecord → Bool) : Bool :=
  match u.op with
  | none => false
  | some o =>
    match recordIdx (Fin.ofNat 64 o.sector) with
    | none => false
    | some i =>
      let s := u.sectors[i]
      !s.half && s.records.any (fun r => p r && (r.committed || o.complete) && r.pages.any (o.pages.contains ·))

/-- The answer to a read, or its wait for the end of the operation, with what it was granted. -/
def Chip.answerRead (h : HostCmd) (busy : Bool) (body : List Byte) (c : Chip) : Chip :=
  if busy then { c with host := { c.host with reads := c.host.reads ++ [(h, body)] } } else c.answer h .ok body

/-- The reads that have waited are answered. -/
def Chip.answerReads (c : Chip) : Chip :=
  c.host.reads.foldl (fun c r => c.answer r.1 .ok r.2) { c with host := { c.host with reads := [] } }

/-! ### Reclaim -/

/-- An erase of record space is worth starting: the full sector with the lowest ORDER (R577). -/
def NvUnit.oldestFull (u : NvUnit) : Option (Fin 54) :=
  (List.finRange 54).foldl (fun best i =>
    let s := u.sectors[i]
    if s.order.isSome && u.open_ != some i && !s.retired && !s.half then
      match best with
      | some b => if (s.order.getD 0) < ((u.sectors[b]).order.getD 0) then some i else best
      | none => some i
    else best) none

end Sys2Proof.Machine
end

