-- ==== Sys2Proof/Machine/Shutdown.lean ====
section
/-!
DEFINITION. The SHUTDOWN sequence (R188 to R191, R100, R101): its start, its steps, and what loss of VIN changes in it.
-/

namespace Sys2Proof.Machine

/-- A gauge record of the SHUTDOWN has been stored or skipped: step 3 ends. -/
def Chip.gaugeStored (k : NvKind) (c : Chip) : Chip :=
  match k with
  | .record key pay _ =>
    if c.sys.shdn == .gauge && key == keyGauge && ((bytesAt pay 1 1).headD 0).getLsbD 2 then c.enterCommits else c
  | .copy .. | .eraseRecord _ | .eraseJournal | .eraseStripe _ | .counterBit _ | .carry _ | .retire _ => c

/-- A write that the sequence of a power-loss SHUTDOWN makes (R97). -/
def Chip.inSequence (c : Chip) (k : NvKind) : Bool :=
  match k with
  | .record key pay u =>
    u.isNone && (if key = keyGauge then ((bytesAt pay 1 1).headD 0).getLsbD 2 else c.sys.shdn == .commits || c.sys.shdn == .marker)
  | .carry _ | .counterBit _ => c.sys.shdn == .commits || c.sys.shdn == .marker
  | .copy .. | .eraseRecord _ | .eraseJournal | .eraseStripe _ | .retire _ => false

/-- SHUTDOWN with hold-up active: every group is cut, and no operation but the sequence's own starts (R97, R109). -/
def Chip.shdnOnHold (c : Chip) : Chip :=
  let c := c.stopAll .now
  let c := { c with
    grp := vmap c.grp (fun u : GroupUnit => { u with ramping := false })
    sys := { c.sys with shdnHold := true }
    nv := { c.nv with queue := c.nv.queue.filter c.inSequence } }
  c.shdnAdvance

/-- A group at step 2: cut by its SHDN_CUT bit, or its ramp begun (R190); one that a fault has stopped ramps nothing. The spec gives no ramp for a
group in PRECHARGE whose bit is clear: the model ramps its entry's reference from its present value as any other's (DESIGN CHOICE, log 136). -/
def Chip.shdnGroup (was : Mode) (g : Group) (c : Chip) : Chip :=
  if !isSwitchingMode was then c
  else if c.cutsAtOnce g || c.groupFaulted g || c.latched then c.stopGroup .held g
  else c.rampDown g

/-- The request is the first that its source holds (R62). -/
def Chip.firstShdn (c : Chip) (k : ShdnCause) : Bool := c.sys.shdnReq.find? (fun x => shdnInput x == shdnInput k) == some k

/-- SHDN_START at its grant (R189, R190). -/
def Chip.shdnBegin (k : ShdnCause) (c : Chip) : Chip :=
  if c.outOfBoot && c.sys.dev != .shutdown && c.firstShdn k then
    let c := if shdnInput k = 41 then c.badgerFirst else c
    let c := c.grant (shdnInput k) 1
    let c := (c.abortSweep 8).dropUser .shuttingDown
    let was := vmap c.grp (·.mode)
    let c := (c.enterDevice .shutdown .shdn).bump 8 1
    let c := { c with sys := { c.sys with shdnReq := [], shdn := .ramps, shdnSkip := false } }
    if c.sys.holdup then c.shdnOnHold else (allGroups.foldl (fun c g => c.shdnGroup was[g] g) c).shdnAdvance
  else c

end Sys2Proof.Machine
end

