-- ==== Sys2Proof/Machine/ModeCmd.lean ====
section
/-!
DEFINITION. The commands of the mode machine (chapter 3 of the spec): mode changes, the group start, PRECHARGE and SOFTSTART,
LIGHTLOAD, the PG filter, RAMP_DONE and the ENABLE pin.
-/

namespace Sys2Proof.Machine

/-! ### Phase counts and modes -/

/-- Badger of a device decides a group's mode: the leader of a spanning group, or the group's only device (R197). -/
def Chip.decides (c : Chip) (g : Group) : Bool := !c.isMember g

/-- Phases are short and enough remain: DERATED (R180, R407). -/
def Chip.isShort (c : Chip) (g : Group) : Bool :=
  c.fewer g && decide ((c.grp[g]).cfg.derMin ≤ c.healthyAll g)

/-- LL_ENTER or LL_EXIT, a percentage of the rating of the group's minimum phases, in amperes (R177, R179). -/
def Chip.llAmps (c : Chip) (g : Group) (pct : Nat) : Rat :=
  (pct : Rat) / 100 * c.rate g * ((c.setpt.active[g]).phMin : Rat)

/-- The conditions of R177 have held for LL_DWELL. -/
def Chip.llReady (c : Chip) (g : Group) : Bool :=
  let u := c.grp[g]
  u.mode == .regulate && u.cfg.llEn && !u.ramping && match u.llSince with
  | some t => decide (t + u.cfg.llDwell * tkMs ≤ c.tb.count)
  | none => false

/-- Every transition of a group's mode that R201 lists and whose trigger the state shows; those of a spanning group are its leader's to make
(R197). SAFE ends with the command that clears the fault (R186). -/
def Chip.mayChange (c : Chip) (g : Group) (m : Mode) (k : Cause) : Bool :=
  let u := c.grp[g]
  let run := isRunning u.mode
  match k with
  | .enable => u.mode == .standby && c.mayStart g && m == (if u.cfg.preEn then .precharge else .softstart)
  | .preDone => c.decides g && u.mode == .precharge && u.preDone && m == .softstart
  | .runSel => c.decides g && (u.mode == .regulate || u.mode == .charge) && m == c.runMode g && m != u.mode
  | .loadLow => c.decides g && c.llReady g && m == .lightload
  | .loadHigh => c.decides g && u.mode == .lightload && m == .regulate && decide (c.llAmps g u.cfg.llExit < absRat (c.groupCurrent g))
  | .phaseLost => c.decides g && (u.mode == .regulate || u.mode == .charge || u.mode == .lightload || u.mode == .sweep) &&
      m == .derated && c.isShort g
  | .phaseBack => c.decides g && u.mode == .derated && u.cause != .leaderLost && m == c.runMode g && !c.fewer g
  | .sweepEnd => c.decides g && u.mode == .sweep && m == .regulate && c.sweep.st == .idle
  | .disable => c.decides g && (u.mode == .softstart || run) && !u.enable && !u.ramping && c.cutsAtOnce g && m == .standby
  | .faultB => u.mode != .standby && u.mode != .safe && m == .safe && c.groupFaulted g
  | .cleared => false
  | .none => false
  | .bootEnd => false
  | .ssDone => false
  | .forecast => false
  | .leaderLost => false
  | .sweepStart => false
  | .faultA => false
  | .shdn => false

/-- MODE_CHANGE of the device or of a group, where R201 lists the transition and its trigger holds. -/
def Chip.modeChange (t : Target) (m : Mode) (k : Cause) (c : Chip) : Chip :=
  match t with
  | .group g => if c.sys.dev = .perGroup && c.mayChange g m k then c.changeMode g m k else c
  | .device => if m = .safe ∧ k = .faultA ∧ c.latched then c.deviceToSafe else c

def execModeChange (target : Target) (m : Mode) (c : Cause) (s : State) : Host.Outcome State Fault Refusal :=
  .next (s.onChip (Chip.modeChange target m c))

def execGroupStart (g : Group) (s : State) : Host.Outcome State Fault Refusal := .next (s.onChip (Chip.tryStart g))

/-! ### PRECHARGE and SOFTSTART -/

/-- PRECHARGE_COMPLETE: PRE_VEND has been held for 24 000 TK, and the group reports COMPLETE (R169). -/
def Chip.prechargeComplete (g : Group) (c : Chip) : Chip :=
  let u := c.grp[g]
  match u.preHold with
  | some t => if u.mode = .precharge ∧ !u.preDone ∧ t + 24000 ≤ c.tb.count then c.modGrp g (fun u => { u with preReq := true }) else c
  | none => c

def execPrechargeComplete (g : Group) (s : State) : Host.Outcome State Fault Refusal :=
  .next (s.onChip (Chip.prechargeComplete g))

/-- PRECHARGE_TIMEOUT: not complete PRE_TMAX after entry (R170). -/
def Chip.prechargeTimeout (g : Group) (c : Chip) : Chip :=
  let u := c.grp[g]
  if u.mode = .precharge ∧ !u.preDone ∧ u.since + u.cfg.preTmax * tkMs ≤ c.tb.count then c.faultB (grpBlock g) 0x24 g.val else c

def execPrechargeTimeout (g : Group) (s : State) : Host.Outcome State Fault Refusal :=
  .next (s.onChip (Chip.prechargeTimeout g))

/-- SOFTSTART_TIMEOUT: not ended SS_TMAX after entry (R175). -/
def Chip.softstartTimeout (g : Group) (c : Chip) : Chip :=
  let u := c.grp[g]
  if u.mode = .softstart ∧ u.since + u.cfg.ssTmax * tkMs ≤ c.tb.count then c.faultB (grpBlock g) 0x25 g.val else c

def execSoftstartTimeout (g : Group) (s : State) : Host.Outcome State Fault Refusal :=
  .next (s.onChip (Chip.softstartTimeout g))

/-- The end of SOFTSTART (R174, R199, R447): DERATED where healthy phases are short of the assigned count. -/
def Chip.endSoftstart (g : Group) (c : Chip) : Chip :=
  if c.fewer g then c.changeMode g .derated .phaseLost else c.changeMode g (c.runMode g) .ssDone

/-- A member that its leader took through the start modes while the group ran joins it there (R465): in REGULATE or CHARGE, or in DERATED with it
(R199), and in LIGHTLOAD after REGULATE. -/
def Chip.joinLeader (g : Group) (c : Chip) : Chip :=
  match (c.sett.groups[g]).leadMode with
  | .derated => c.changeMode g .derated .phaseLost
  | .charge => c.changeMode g .charge .ssDone
  | .lightload => (c.changeMode g .regulate .ssDone).changeMode g .lightload .loadLow
  | .regulate => c.changeMode g .regulate .ssDone
  | .sweep => c.changeMode g .regulate .ssDone
  | .off => c
  | .boot => c
  | .standby => c
  | .precharge => c
  | .softstart => c
  | .shutdown => c
  | .safe => c

/-- A member whose start has ended takes its leader's mode, once that is known to be past the start modes (R465). -/
def Chip.joinStarted (g : Group) (c : Chip) : Chip :=
  if (c.sett.groups[g]).startDone && (c.grp[g]).mode == .softstart && c.sys.dev == .perGroup && isRunning (c.sett.groups[g]).leadMode then
    (c.modSg g (fun s => { s with startDone := false })).joinLeader g
  else c

/-- RAMP_DONE at its grant (R347): RAMPING clears and SOFTSTART ends, a ramped stop ends (R184), or a group's SHUTDOWN ramp
ends in a cut (R190); overtaken by a later armed swap it does nothing. -/
def Chip.rampDone (g : Group) (c : Chip) : Chip :=
  match c.setpt.rampReq[g], c.rampEngine g with
  | none, _ => c
  | _, none => c
  | some overtaken, some e =>
    let c := c.grant (24 + e.val) 1
    let c := Chip.nextReqs e (c.le[e]).reqs.tail c
    let c := { c with setpt := { c.setpt with rampReq := c.setpt.rampReq.set g none } }
    if overtaken then c
    else
      let c := { c with setpt := { c.setpt with active := vmod c.setpt.active g (fun e => { e with ramping := false }) } }
      let u := c.grp[g]
      if c.sys.dev == .shutdown then
        (if u.ramping then (c.modGrp g (fun u => { u with ramping := false })).stopGroup .held g else c).shdnAdvance
      else if c.sys.dev != .perGroup then c
      else if u.stopping then c.changeMode g .standby .disable
      else if u.mode = .softstart && c.decides g then c.endSoftstart g
      else if u.mode = .softstart then (c.modSg g (fun s => { s with startDone := true })).joinStarted g
      else c

def execRampDone (g : Group) (s : State) : Host.Outcome State Fault Refusal := .next (s.onChip (Chip.rampDone g))

/-- LIGHTLOAD_ENTRY (R177). -/
def Chip.lightloadEntry (g : Group) (c : Chip) : Chip :=
  if c.llReady g && c.decides g then c.changeMode g .lightload .loadLow else c

def execLightloadEntry (g : Group) (s : State) : Host.Outcome State Fault Refusal := .next (s.onChip (Chip.lightloadEntry g))

/-- PG_FILTER: PGn after sixteen conversions inside or outside the limits (R349). -/
def GroupUnit.pgFilter (u : GroupUnit) : GroupUnit :=
  if isRunning u.mode then
    { u with pg := if 16 ≤ u.conv.pgIn then true else if 16 ≤ u.conv.pgOut then false else u.pg }
  else u

def execPgFilter (g : Group) (s : State) : Host.Outcome State Fault Refusal :=
  .next (s.onChip (Chip.modGrp g GroupUnit.pgFilter))

/-! ### The ENABLE pin (R167, R188) -/

/-- ENABLE counts as rising: the groups whose ENABLE bit is set may start. -/
def Chip.enableRising (c : Chip) : Chip :=
  let c := { c with sys := { c.sys with enable := c.powered } }
  if c.sys.dev = .perGroup then allGroups.foldl (fun c g => c.tryStart g) c else c

def execEnableRising (s : State) : Host.Outcome State Fault Refusal := .next (s.onChip Chip.enableRising)

/-- A request for SHDN_START (R188): without effect in BOOT, and in SHUTDOWN (R191). -/
def Chip.requestShdn (k : ShdnCause) (c : Chip) : Chip :=
  if c.outOfBoot && c.sys.dev != .shutdown then { c with sys := { c.sys with shdnReq := c.sys.shdnReq ++ [k] } } else c

/-- ENABLE counts as falling: SHDN_START is requested (R188). -/
def Chip.enableFalling (c : Chip) : Chip :=
  if c.sys.enable then { c with sys := { c.sys with enable := false } }.requestShdn .enable else c

def execEnableFalling (s : State) : Host.Outcome State Fault Refusal := .next (s.onChip Chip.enableFalling)

end Sys2Proof.Machine
end

