-- ==== Sys2Proof/Machine/Forecast.lean ====
section
/-!
DEFINITION. Set selections by event (R338 to R343) and the handling of a forecast: its preparation, the term's generations,
arrival, miss and lapse (R360 to R368).
-/

namespace Sys2Proof.Machine

/-! ### Selections -/

/-- A selection by a source at the event granted last: forwarded by a member, refused where the set is undefined, else in
force; a sweep of the group is aborted first (R339 to R342). -/
def Chip.selection (g : Group) (set src : Nat) (c : Chip) : Chip × Bool :=
  let seq := c.eva.seq
  if !(c.setRec g set).defined then (c, false)
  else if c.isMember g then (c.sendFlit (c.sett.groups[g]).leaderAddr.val (.selFwd g set src), true)
  else
    let c := if (c.grp[g]).mode = .sweep then c.abortSweepOf g 6 else c
    let c := c.select g set src seq
    (if c.isLeader g then c.broadcast (.setOrder g set) else c, true)

/-- A VSEL selection of one group: its own pins do not count on a member (R342), an undefined set is a warning (R339). -/
def Chip.vselSelect (v : Fin 16) (c : Chip) (g : Group) : Chip :=
  if !(c.grp[g]).cfg.vselEn || c.isMember g || ((c.phasesOf g).isEmpty && !(c.sett.groups[g]).span) then c
  else
    let r := c.selection g v.val 1
    if r.2 then r.1 else r.1.warn (grpBlock g) 0x52 g.val

/-- VSEL_CHANGE: a value held for 48 000 samples is adopted (R343); in BOOT, where the samples count from step 2, it decides only at BOOT_DONE (R344). The
row says that the samples have passed: where the timebase has not yet come to the last of them since the last change, it does so with the row. RAW shows the
levels that BOOT or the last row gave (DEDUCED, log 58). -/
def Chip.vselChange (v : Fin 16) (c : Chip) : Chip :=
  if !c.ctrlUp then c
  else if c.setpt.adopted && c.setpt.value == v then { c with setpt := { c.setpt with raw := v } }
  else
    let c := c.elapseTo (c.setpt.vselAt + 48000)
    let c := { c with setpt := { c.setpt with raw := v, value := v, adopted := true, cnt := c.setpt.cnt + 1, vselAt := c.tb.count } }
    let c := c.grant 56 0
    let c := { c with setpt := { c.setpt with vselSeq := c.eva.seq } }
    if c.outOfBoot then allGroups.foldl (Chip.vselSelect v) c else c

def execVselChange (v : Fin 16) (s : State) : Host.Outcome State Fault Refusal := .next (s.onChip (Chip.vselChange v))

/-! ### What the open preparations ask for (R360, R361, R366) -/

/-- The phase floor of the open preparations, at present power P0 in kW. -/
def Chip.prepFloor (c : Chip) (g : Group) : Nat :=
  let ps := (c.grp[g]).openPreps
  if ps.isEmpty then 0
  else
    let p := absRat (c.groupPower g / 1000 + (((ps.map (·.step)).foldl (· + ·) 0 : Int) : Rat))
    let per := c.phasePower g * ((c.grp[g]).cfg.prepLoad : Rat) / 100
    let h := c.healthyAll g
    if per = 0 then (if p = 0 then 0 else h) else min h (ceilRat (p / per)).toNat

/-- What the open preparations write: lift, marks and the phase floor. -/
def Chip.prepSets (c : Chip) (g : Group) : List FieldSet :=
  let u := c.grp[g]
  let r := c.setRec g u.selSet
  let l := c.openLift g r
  let floor := c.prepFloor g
  let own := if c.isLeader g then floorShare floor (c.healthy g) (c.healthyAll g) else floor
  (if u.ramping then [] else [.refTo (r.target + l), .lift (l != 0)]) ++ [.prep (!u.openPreps.isEmpty)] ++ c.phaseBounds g own

/-- Badger publishes the preparations as they stand, with the term's fields where they change. -/
def Chip.publishPreps (g : Group) (term : List FieldSet) (c : Chip) : Chip :=
  (c.present g (c.prepSets g ++ term)).sendFloors g (c.prepFloor g)

/-! ### The term's generations (R361, R366) -/

/-- The next ANT_GEN: 1 to 0xFFFF, skipping 0. -/
def nextGen (n : Nat) : Nat := n % 0xFFFF + 1

/-- A preparation's term is armed and waits to fire. -/
def Chip.waits (c : Chip) (g : Group) (p : Prep) : Bool :=
  p.hasTerm && p.armed && !p.fired && !(match c.outerEngine g with
    | some e => (c.le[e]).antGen == p.gen
    | none => false)

/-- The group's outermost engine has fired a term and ANT_FIRED awaits its grant. -/
def Chip.firedUngranted (c : Chip) (g : Group) : Bool :=
  match c.outerEngine g with
  | some e => (c.le[e]).antReq
  | none => false

/-- Arm the oldest queued term in its own generation, where none waits to fire or for the grant of its firing (R366); and what that writes. -/
def Chip.armNext (g : Group) (c : Chip) : Chip × List FieldSet :=
  let u := c.grp[g]
  if u.preps.any (c.waits g) || c.firedUngranted g then (c, [])
  else match u.preps.findIdx? (fun p => p.hasTerm && !p.armed) with
  | none => (c, [])
  | some i =>
    match u.preps[i]? with
    | none => (c, [])
    | some p =>
      let gen := nextGen u.antGen
      (c.modGrp g (fun u => { u with antGen := gen, preps := setNth u.preps i { p with armed := true, gen := gen } }),
        [.ant gen p.at_ p.amp p.decay])

/-- Preparations that are closed and have no term left to fire are forgotten. -/
def Chip.prunePreps (g : Group) (c : Chip) : Chip :=
  let keep := (c.grp[g]).preps.filter (fun p => !p.closed || (p.hasTerm && !p.armed) || c.waits g p)
  c.modGrp g (fun u => { u with preps := keep })

/-- A preparation is taken away with its unfired term: ANT_GEN = 0 where it was armed, and the next queued term is armed. -/
def Chip.dropPrep (g : Group) (which : Prep → Bool) (c : Chip) : Chip × List FieldSet :=
  let gone := (c.grp[g]).preps.filter which
  let armed := gone.any (c.waits g)
  let c := c.modGrp g (fun u => { u with preps := u.preps.filter (fun p => !which p) })
  let r := c.armNext g
  (r.1, if r.2.isEmpty && armed then [.antGen 0] else r.2)

/-! ### Acting on a forecast -/

/-- A FORECAST's fields (R353). -/
def frameStep (f : List Byte) : Int := signedOf 16 (numAt f 4 2)
def frameLead (f : List Byte) : Nat := numAt f 6 2
def frameRamp (f : List Byte) : Nat := numAt f 8 2
def frameGroup (f : List Byte) : Fin 4 := Fin.ofNat 4 (numAt f 3 1 / 64)
def frameType (f : List Byte) : Nat := numAt f 3 1 % 16

/-- The preparation of an accepted forecast (R360). -/
def Chip.prepOf (c : Chip) (g : Group) (p : LcmdPort) (src : Address) (f : List Byte) (te : Nat) : Prep :=
  let u := (c.lcmd[p]).cfg
  let k := (c.grp[g]).cfg
  let step := frameStep f
  let ts := te + frameLead f * tkMs
  { port := p, src := src, step := step, ts := ts, windowEnd := ts + (frameRamp f + u.tol) * tkMs
    arrival := c.groupPower g / 1000 + (step : Rat) * (k.arrivePct : Rat) / 100
    at_ := ts, amp := clampInt (-(2 ^ 25 - 1)) (2 ^ 25 - 1) (step * k.antK)
    decay := min 1048575 (k.antBase + 1000 * frameRamp f), hasTerm := u.antEn, liftEn := u.liftEn
    swaps := if c.setpt.pending.isSome then 2 else 1 }

/-- Badger acts on a FORECAST: the mode effects of R179 and R183, then the preparation, which replaces the port's open one for
the group (R360, R361, R365). -/
def Chip.actForecast (g : Group) (p : LcmdPort) (src : Address) (f : List Byte) (te : Nat) (c : Chip) : Chip :=
  let c := if (c.grp[g]).mode = .lightload then c.changeMode g .regulate .forecast else c
  let c := if (c.grp[g]).mode = .sweep then c.abortSweepOf g 5 else c
  let new := c.prepOf g p src f te
  let mine (q : Prep) : Bool := q.port == p && q.src == src && !q.closed
  let dropped := (c.grp[g]).preps.any (fun q => mine q && c.waits g q)
  let c := c.modGrp g (fun u => { u with preps := u.preps.filter (fun q => !mine q) ++ [new] })
  let r := c.armNext g
  r.1.publishPreps g (if r.2.isEmpty && dropped then [.antGen 0] else r.2)

/-- Modes in which a FORECAST is acted on (R157). -/
def actsOnForecast (m : Mode) : Bool := m == .regulate || m == .lightload || m == .derated || m == .sweep

/-- Count an arrival or a miss at a port. -/
def LcmdUnit.countEnd (hit : Bool) (u : LcmdUnit) : LcmdUnit :=
  if hit then { u with arrived := satInc 0xFFFF u.arrived } else { u with miss := satInc 0xFFFF u.miss }

/-- The open preparations whose arrival level a group power sample has reached, in the direction of STEP, from its swap
to its window end (R363). -/
def arrivedBy (kw : Rat) (now : Nat) (p : Prep) : Bool :=
  !p.closed && p.swaps == 0 && decide (now ≤ p.windowEnd) && (if 0 ≤ p.step then decide (p.arrival ≤ kw) else decide (kw ≤ p.arrival))

/-- Arrivals at a group power sample (R363): a term not yet fired fires at the next evaluation, the lift and the floor go. -/
def Chip.checkArrival (g : Group) (kw : Rat) (c : Chip) : Chip :=
  let now := c.tb.count
  let hits := (c.grp[g]).preps.filter (arrivedBy kw now)
  if hits.isEmpty then c
  else
    let move := hits.any (c.waits g)
    let c := hits.foldl (fun c p => c.modLcmd p.port (LcmdUnit.countEnd true)) c
    let c := c.modGrp g (fun u => { u with preps := u.preps.map (fun p =>
      if arrivedBy kw now p then { p with closed := true, at_ := min p.at_ now } else p) })
    let c := c.prunePreps g
    c.publishPreps g (if move then [.antAt now] else [])

/-- FCAST_MISS (R364): the window has ended without arrival. An armed term stays to fire; a queued one goes with its
preparation. -/
def Chip.fcastMiss (p : LcmdPort) (g : Group) (c : Chip) : Chip :=
  let now := c.tb.count
  let late (q : Prep) : Bool := !q.closed && q.port == p && decide (q.windowEnd < now)
  let misses := (c.grp[g]).preps.filter late
  if misses.isEmpty then c
  else
    let c := misses.foldl (fun c q => c.modLcmd q.port (LcmdUnit.countEnd false)) c
    let c := c.modGrp g (fun u => { u with preps :=
      (u.preps.filter (fun q => !(late q && q.hasTerm && !q.armed))).map (fun q => if late q then { q with closed := true } else q) })
    let c := (c.prunePreps g).publishPreps g []
    c.warn lcmdBlock 0x54 p.val

def execFcastMiss (p : LcmdPort) (g : Group) (s : State) : Host.Outcome State Fault Refusal :=
  .next (s.onChip (Chip.fcastMiss p g))

/-- ANT_FIRED at its grant (R366): the term that fired is done, and the next queued one is armed in its own generation. -/
def Chip.antFired (g : Group) (c : Chip) : Chip :=
  match c.outerEngine g with
  | none => c
  | some e =>
    let u := c.le[e]
    if !u.antReq || c.firstReq e != some .ant then c
    else
      let c := (c.grant (24 + e.val) 1).modLe e (fun u => { u with antReq := false })
      let c := Chip.nextReqs e u.reqs.tail c
      let c := c.modGrp g (fun k => { k with preps := k.preps.map (fun p =>
        if p.armed ∧ p.gen = u.antGen then { p with fired := true } else p) })
      let c := c.prunePreps g
      let r := c.armNext g
      if r.2.isEmpty then r.1 else r.1.present g r.2

def execAntFiredGrant (g : Group) (s : State) : Host.Outcome State Fault Refusal := .next (s.onChip (Chip.antFired g))

/-- The lapse of a port cancels its open preparations of a group (R367). -/
def Chip.cancelPort (p : LcmdPort) (c : Chip) (g : Group) : Chip :=
  let mine (q : Prep) : Bool := q.port == p && q.src == c.sett.addr && !q.closed
  if (c.grp[g]).preps.any mine then
    let r := c.dropPrep g mine
    r.1.publishPreps g r.2
  else c

end Sys2Proof.Machine
end

