-- ==== Sys2Proof/Machine/Placer.lean ====
section
/-!
DEFINITION. The edge placer of one phase (chapter 4 of the spec): the plan of a period by the precedence of R259, a new demand
inside a period, the trip cut, the adaptive dead times, and the open-phase diagnosis that rides on a period (R395 to R402).
Positions in a plan are FS from the start of the phase's period, which is itself held in FS of the timebase.
-/

namespace Sys2Proof.Machine

/-- The least pulse and the least gap of PWMHn and PWMLn (R236, R238). -/
def minPulse : Nat := 384

/-- The on-time of a stretch, and of a period eligible for diagnosis (R260, R396). -/
def stretchOn : Nat := 2688

/-- The dither step of a fraction at a pattern position (R222). -/
def ditherStep (p frac : Nat) : Nat := if bitReverse4 (p % 16) < frac then 1 else 0

/-- A demand in sixteenths after the balance trim, limited to ±floor(D/16) FS of the integer D (R378). -/
def trimmed16 (d16 limit : Nat) (trim : Int) : Nat :=
  ((d16 : Int) + 16 * clampInt (-(limit / 16 : Nat)) (limit / 16 : Nat) trim).toNat

/-- What places the edges of one period. -/
structure PlanIn where
  mod : Modulation
  period : Nat
  /-- the on-time after trim and dither, FS -/
  due : Nat
  hl : Nat
  lh : Nat
  debt : Nat
  stretch : Bool := false
  refreshDue : Bool
  /-- BOOT_W in FS -/
  bootW : Nat
  fullEn : Bool
  light : Bool

/-- Rank 5 (R260): the on-time with a stretch or a repayment, and the debt repaid. -/
def PlanIn.repayOn (i : PlanIn) : Nat × Nat :=
  if i.stretch then (stretchOn, 0)
  else if i.debt = 0 ∨ i.due = 0 then (i.due, 0)
  else if minPulse + i.debt ≤ i.due then (i.due - i.debt, i.debt)
  else if i.due ≤ i.debt then (0, i.due)
  else (minPulse, i.due - minPulse)

/-- Rank 4 (R250): the on-time with a refresh, and whether the period is a refresh period. -/
def PlanIn.refreshOn (i : PlanIn) (on : Nat) : Nat × Bool :=
  let tr := i.hl + i.bootW + i.lh
  if i.refreshDue ∧ i.period - tr < on then (i.period - tr, true) else (on, false)

/-- Rank 3 (R236 to R238): the on-time, whether the period is skipped and whether it is full-on. -/
def PlanIn.limitOn (i : PlanIn) (on : Nat) : Nat × Bool × Bool :=
  if 0 < on ∧ on < minPulse then (if i.light then (on, true, false) else (minPulse, false, false))
  else if isFixed i.mod ∧ i.period - minPulse < on then
    (if i.fullEn then (on, false, true) else (i.period - minPulse, false, false))
  else (on, false, false)

/-- The four edges of the table of R229, of R230 and of R231. -/
def PlanIn.edges (i : PlanIn) (on : Nat) : Plan :=
  let t : Int := i.period
  let o : Int := on
  let pulse := decide (0 < on)
  match i.mod with
  | .fixedTe => { hRise := if pulse then some 0 else none, hFall := if pulse then some o else none
                  lRise := some (o + i.hl), lFall := some (t - i.lh) }
  | .fixedLe => { hRise := if pulse then some (t - o) else none, hFall := if pulse then some t else none
                  lRise := some i.hl, lFall := some (t - o - i.lh) }
  | .cot => { hRise := if pulse then some 0 else none, hFall := if pulse then some o else none
              lRise := some (o + i.hl), lFall := none }
  | .coff => { hRise := if pulse then some (t - o) else none, hFall := none
               lRise := some i.hl, lFall := some (t - o - i.lh) }

/-- A PWMLn pulse that the edges make shorter than 384 FS is omitted (R239). -/
def Plan.dropLow (p : Plan) : Plan :=
  match p.lRise, p.lFall with
  | some a, some b => if b - a < minPulse then { p with lRise := none, lFall := none, noLow := true } else p
  | _, _ => p

/-- The plan of one period (R259). The second value says that the period is full-on; NO_LOW does not count such a period, whose missing PWMLn pulse the
spec ascribes to full-on (DESIGN CHOICE, log 139). -/
def PlanIn.plan (i : PlanIn) : Plan × Bool :=
  let (on, repay) := i.repayOn
  let (on, refresh) := i.refreshOn on
  let (on, skip, full) := i.limitOn on
  let e : Plan := if full then { hRise := some 0 } else if skip then {} else (i.edges on).dropLow
  ({ e with period := i.period, onTime := on, due := i.due, refresh := refresh, stretch := i.stretch, skipped := skip
            repay := repay }, full)

/-! ### The end of a period -/

/-- One edge's adaptive dead time after a period in which the edge occurred (R242, R243): DT_ADAPT, whether the next period
uses DT_MAX, the seen commutation time, and whether the edge counts as without commutation. -/
structure DtResult where
  adapt : Nat
  useMax : Bool
  seen : Option Nat
  missed : Bool

/-- R240 to R243: `gap` is the time from the edge to the rise of the complementary output, `used` the dead time in use, `wasMax` that it was DT_MAX. A dead
time that is DT_ADAPT and has DT_MAX's value counts as DT_MAX in R243's count (DESIGN CHOICE, log 141). -/
def dtEdge (f : PhaseCfg) (adapt used gap : Nat) (wasMax : Bool) (tc : Option Nat) : DtResult :=
  match tc with
  | some t =>
    if t < gap then
      let a := if adapt < t + f.dtMargin then adapt + 1 else if t + f.dtMargin < adapt then adapt - 1 else adapt
      ⟨max f.dtMin (min f.dtMax a), false, some t, false⟩
    else ⟨min (adapt + 1) f.dtMax, true, none, wasMax || decide (f.dtMax ≤ used)⟩
  | none => ⟨min (adapt + 1) f.dtMax, true, none, wasMax || decide (f.dtMax ≤ used)⟩

/-- The time from PWMLn's fall to PWMHn's rise: the dead time in use, but where the two edges of one period lie further apart (R226). -/
def Placer.gapLh (u : Placer) : Nat :=
  match u.plan.lFall, u.plan.hRise with
  | some b, some r => max u.dtLh (r - b).toNat
  | _, _ => u.dtLh

/-- The dead times after a period: an edge that did not occur, or was cut, keeps its value (R245). PHn_TCOMM keeps the last commutation seen through edges
without one and through a new start (DESIGN CHOICE, log 140). -/
def Placer.adaptDt (f : PhaseCfg) (hl lh : Bool) (o : PeriodObs) (u : Placer) : Placer × Nat :=
  let a := dtEdge f u.adHl u.dtHl u.dtHl u.nowMaxHl o.hl
  let b := dtEdge f u.adLh u.dtLh u.gapLh u.nowMaxLh o.lh
  let n := (if hl && a.missed then 1 else 0) + (if lh && b.missed then 1 else 0)
  let u := if hl then { u with adHl := a.adapt, maxHl := a.useMax, tcHl := a.seen.getD u.tcHl
                               noCommHl := if a.missed then satInc 0xFFFF u.noCommHl else u.noCommHl } else u
  let u := if lh then { u with adLh := b.adapt, maxLh := b.useMax, tcLh := b.seen.getD u.tcLh
                               noCommLh := if b.missed then satInc 0xFFFF u.noCommLh else u.noCommLh } else u
  (u, n)

/-- The debt after a period (R260, R261). -/
def Placer.nextDebt (u : Placer) : Nat :=
  let p := u.plan
  if u.tripped then (if p.stretch then u.debt + (u.cutOn - p.due) else u.debt)
  else u.debt - p.repay + (if p.stretch then stretchOn - p.due else 0)

/-- The placer's own counts at the end of a period (R237, R239, R249, R251, R255). -/
def Placer.countPeriod (u : Placer) : Placer :=
  let p := u.plan
  let low := p.lRise.isSome
  { u with
    periods := u.periods + 1
    debt := u.nextDebt
    tripRun := if u.tripped then u.tripRun else 0
    noLowRun := if low && !p.refresh then 0 else u.noLowRun + 1
    cntBoot := if p.refresh then u.cntBoot + 1 else u.cntBoot
    skip := if p.skipped then satInc 0xFFFF u.skip else u.skip
    noLow := if p.noLow then satInc 0xFFFF u.noLow else u.noLow
    highAtStart := u.fullOn || (p.hRise.isSome && !u.cut && (p.hFall.isNone || p.hFall == some (p.period : Int))) }

/-- BAL judges a diagnosis by the rise of the corrected counts (R399, R400). -/
def PhaseBal.judge (g : GroupCfg) (rise : Int) (b : PhaseBal) : PhaseBal :=
  let r := if g.balPol then -rise else rise
  let b := { b with rise := rise, stretchWait := none }
  if (g.diagMin : Int) ≤ r then
    { b with verified := true, fails := 0, since := 0, unverified := false, diagDue := false, passed := satInc 0xFFFF b.passed }
  else { b with fails := satInc 3 b.fails, failed := satInc 0xFFFF b.failed, verified := false, diagDue := true, openDue := decide (2 ≤ b.fails) }

/-- The values of the period join the pass unless it was cut, skipped or used for diagnosis (R375), and SINCE counts it
(R402). -/
def PhaseBal.closePeriod (good : Bool) (b : PhaseBal) : PhaseBal :=
  { b with
    sum := if good then b.sum + b.perSum else b.sum
    n := if good then b.n + b.perN else b.n
    perSum := 0, perN := 0, lastGood := good
    since := satInc 8191 b.since }

/-- At least 150 TK after the trigger tick of the last accepted conversion (R266). -/
def accepts (last : Option Nat) (t : Nat) : Bool :=
  match last with
  | some l => decide (l + 150 ≤ t)
  | none => true

/-- The first tick at or after a position in FS. -/
def tickOf (fs : Nat) : Nat := (fs + 7) / 8

/-- The ticks of a diagnosis's two triggers: the rise of PWMHn and the middle of the on-time (R395). -/
def Placer.diagTicks (u : Placer) : Nat × Nat :=
  let r := u.start + (u.plan.hRise.getD 0).toNat
  (tickOf r, tickOf (r + u.plan.onTime / 2))

/-- The conversions that a diagnosis makes, those too close to an accepted one being dropped (R266, R278, R395), and the trigger tick of the last
accepted one. -/
def PhaseUnit.diagTaken (o : PeriodObs) (u : PhaseUnit) : Option Int × Option Int × Option Nat :=
  let t := u.pl.diagTicks
  let rise := if accepts u.conv.lastTrig t.1 then o.rise else none
  let last := if rise.isSome then some t.1 else u.conv.lastTrig
  let mid := if accepts last t.2 then o.mid else none
  (rise, mid, if mid.isSome then some t.2 else last)

/-- How many conversions the diagnosis of the period that ends has made. -/
def PhaseUnit.diagMade (o : PeriodObs) (u : PhaseUnit) : Nat :=
  let r := u.diagTaken o
  if u.pl.plan.diag then (if r.1.isSome then 1 else 0) + (if r.2.1.isSome then 1 else 0) else 0

/-- The diagnosis conversions of the period that ends (R395, R398): made ones are counted, a missing one was dropped, and
without both, or cut by a trip, or without REF_RDY, the diagnosis is void, so that the phase stays due (R397). -/
def PhaseUnit.diagnose (g : GroupCfg) (refOk : Bool) (o : PeriodObs) (u : PhaseUnit) : PhaseUnit :=
  if !u.pl.plan.diag then u
  else
    let r := u.diagTaken o
    let made := u.diagMade o
    let u := { u with conv := { u.conv with
      cnt := u.conv.cnt + BitVec.ofNat 32 made
      seq := u.conv.seq + BitVec.ofNat 8 made
      drop := if u.pl.tripped then u.conv.drop else min 0xFFFFFFFF (u.conv.drop + (2 - made))
      lastTrig := r.2.2 } }
    match r.1, r.2.1 with
    | some a, some b =>
      if u.pl.tripped || !refOk then { u with bal := { u.bal with donePass := false } } else { u with bal := u.bal.judge g (b - a) }
    | _, _ => { u with bal := { u.bal with donePass := false } }

/-- In COT PWMLn falls DT_LH before the phase's next slot, which lies at `next` FS of the timebase (R230); a PWMLn pulse that this makes
shorter than 384 FS is omitted (R236, R239). -/
def Placer.closeLow (m : Modulation) (next : Nat) (u : Placer) : Placer :=
  if m = .cot ∧ u.plan.lRise.isSome ∧ !u.cut then
    { u with plan := { u.plan with lFall := some ((next : Int) - u.start - u.dtLh) }.dropLow }
  else u

/-- The end at `next` FS of the period in progress, before any change of state; and how many edges went without commutation. -/
def PhaseUnit.endPeriod (g : GroupCfg) (refOk : Bool) (next : Nat) (o : PeriodObs) (u : PhaseUnit) : PhaseUnit × Nat :=
  let u := { u with pl := u.pl.closeLow g.mod next }
  let fell := if g.mod = .fixedTe ∨ g.mod = .cot then u.pl.plan.hFall.isSome else u.pl.highAtStart
  let (pl, n) := u.pl.adaptDt u.cfg (fell && u.pl.plan.lRise.isSome && !u.pl.cut) (u.pl.plan.lFall.isSome && !u.pl.cut) o
  let good := !pl.tripped && !pl.plan.skipped && !pl.plan.diag
  let u := { u with bal := u.bal.closePeriod good }.diagnose g refOk o
  ({ u with pl := pl.countPeriod.pulseOver (tickOf next) }, n)

/-! ### The start of a period -/

/-- The demand of a phase before the trim, sixteenths of FS: the engine's, CONST in COT, what CONST leaves of the period in
COFF, ramped down while the phase sheds and to the end of the period in which it returns (R385, R386, R378; COFF DEDUCED, log 27). -/
def Placer.demand16 (g : GroupCfg) (period : Nat) (u : Placer) : Nat :=
  let base := match g.mod with
    | .fixedTe => u.demand
    | .fixedLe => u.demand
    | .cot => g.const * 16
    | .coff => (period - g.const) * 16
  if u.pstate = .shedding ∨ u.returning then base * (g.shedRamp - u.shedJ) / g.shedRamp else base

/-- The demand after the trim (R378); the last period of a shed has none (R385). -/
def Placer.on16 (g : GroupCfg) (period : Nat) (u : Placer) : Nat :=
  let d := u.demand16 g period
  if (u.pstate = .shedding ∨ u.returning) ∧ g.shedRamp ≤ u.shedJ then 0
  else trimmed16 d (if g.mod = .coff then g.const else d / 16) u.trim

/-- A refresh falls due (R249). -/
def Placer.refreshDue (f : PhaseCfg) (m : Modulation) (u : Placer) : Bool :=
  f.bootEn && isFixed m && decide (f.bootN ≤ u.noLowRun) && decide ((u.noLowRun - f.bootN) % f.bootM = 0)

/-- What the plan of the present period is made from; `p` is the pattern position (R223). -/
def PhaseUnit.planIn (g : GroupCfg) (light : Bool) (period p : Nat) (u : PhaseUnit) : PlanIn :=
  let on := u.pl.on16 g period
  { mod := g.mod, period := period, due := on / 16 + ditherStep p (on % 16), hl := u.pl.dtHl, lh := u.pl.dtLh
    debt := u.pl.debt, stretch := false, refreshDue := u.pl.refreshDue u.cfg g.mod, bootW := u.cfg.bootW * 8
    fullEn := g.fullEn, light := light }

/-- BAL wants a stretched diagnosis of the phase (R401, R402), none being made in SWEEP (R406). -/
def PhaseBal.wantsStretch (g : GroupCfg) (sweep : Bool) (b : PhaseBal) : Bool :=
  g.stretchEn && !sweep && g.diagEn && (b.diagDue || b.stretchWait.isSome)

/-- The plan with the diagnosis that the period carries, if any (R261, R396, R397, R401); the last period of a shed ramp has no pulse (R385). -/
def PhaseUnit.choose (g : GroupCfg) (sweep : Bool) (i : PlanIn) (u : PhaseUnit) : Plan × Bool :=
  let (p, full) := i.plan
  let running := u.pl.pstate == .active || (u.pl.pstate == .shedding && decide (u.pl.shedJ < g.shedRamp))
  if running && g.diagEn && !full && !p.skipped && decide (stretchOn ≤ p.onTime) && (!u.bal.donePass || u.bal.diagDue) then
    ({ p with diag := true }, full)
  else if running && u.bal.wantsStretch g sweep && !p.refresh && !full && decide (u.pl.debt = 0) && decide (p.onTime < stretchOn) then
    let (q, fullQ) := { i with stretch := true }.plan
    if q.refresh || fullQ then (p, full) else ({ q with diag := true }, fullQ)
  else (p, full)

/-- The dead times in use, fixed as the off interval begins (R243, R244). -/
def Placer.fixDt (f : PhaseCfg) (u : Placer) : Placer :=
  { u with dtHl := if u.maxHl then f.dtMax else u.adHl
           dtLh := if u.maxLh then f.dtMax else u.adLh
           nowMaxHl := u.maxHl, nowMaxLh := u.maxLh }

/-- The start of a period at `at_` FS of the timebase (R229 to R239, R254, R259): `period` in FS with its dither, `p` the pattern position. -/
def Placer.begin (g : GroupCfg) (at_ period p : Nat) (pl : Placer) : Placer :=
  { pl with
    switching := true, switchedAt := if pl.switching then pl.switchedAt else at_ / 8, start := at_, pat := p, addedIn := none, returning := false, reAt := 0, moves := [], firedA := false, firedB := false, gvDone := false
    shedJ := if pl.pstate == PState.shedding then pl.shedJ + 1 else pl.shedJ
    per := if isFixed g.mod then (g.period + ((period : Int) - (g.period / 16 + ditherStep p (g.period % 16) : Nat)) * 16).toNat else period * 16
    cut := pl.tripIn, tripped := pl.tripIn, cutOn := 0
    tripTotal := if pl.tripIn then satInc 0xFFFFFF pl.tripTotal else pl.tripTotal
    tripRun := if pl.tripIn then satInc 255 pl.tripRun else pl.tripRun }

/-- An edge of PWMHn at the boundary of a fixed period, its rise in FIXED_TE and its fall in FIXED_LE, is committed 2 TK before it, so a demand that came
later does not place or remove it (R225). -/
def Placer.lateDemand (m : Modulation) (u : Placer) : Bool := isFixed m && decide (u.start < u.demandAt * 8 + 16)

/-- In COT the pulse of a slot rises no earlier than 384 FS after the phase's last fall (R238). -/
def Plan.gapHigh (m : Modulation) (sinceFall : Option Int) (p : Plan) : Plan :=
  match m, sinceFall, p.hRise, p.hFall, p.lRise with
  | .cot, some s, some r, some f, some l =>
    let d := max 0 (minPulse - s)
    { p with hRise := some (r + d), hFall := some (f + d), lRise := some (l + d) }
  | _, _, _, _, _ => p

/-- BAL's counts of a period that starts: a diagnosis is the one of its pass (R397), a stretch is counted, and every period counts towards the 16 of
R402, but in SWEEP (R406). -/
def PhaseBal.opened (m : Mode) (plan : Plan) (b : PhaseBal) : PhaseBal :=
  { b with
    donePass := b.donePass || plan.diag
    strCnt := if plan.stretch then b.strCnt + 1 else b.strCnt
    stretchWait := if plan.stretch || m == Mode.sweep then b.stretchWait else b.stretchWait.map (· - 1) }

/-! ### A new demand inside a period (R225, R226) -/

/-- An edge at `x` is committed: 2 TK before its position, or past (R225). -/
def committed (now x : Int) : Bool := decide (x ≤ now + 16)

/-- FIXED_TE: the fall of PWMHn moves if it is not committed; the pulse that began at 0 stands (R226). -/
def Plan.moveTe (now : Int) (i : PlanIn) (old : Plan) : Plan × Bool :=
  let (new, full) := i.plan
  let new := { new with diag := old.diag }
  if full then ({ new with hRise := some 0 }, true)
  else
    let hf : Int := if new.skipped then 0 else new.onTime
    let hf := if committed now hf then now + 16 else hf
    let hf := max hf minPulse
    let t : Int := i.period
    if t - hf < minPulse then
      ({ new with hRise := some 0, hFall := none, lRise := none, lFall := none, onTime := i.period, skipped := false
                  noLow := false, repay := 0 }, true)
    else
      let on := hf.toNat
      let q := { new with hRise := some 0, hFall := some hf, lRise := some (hf + i.hl), lFall := some (t - i.lh)
                          onTime := on, skipped := false, noLow := false, repay := min new.repay (new.due - on) }
      (q.dropLow, false)

/-- FIXED_LE: the rise of PWMHn and the fall of PWMLn move if they are not committed; a pulse that would be shorter than
384 FS before the fall at T is not placed (R226). R244 gives a dead time no edge of PWMHn; where PWMLn's fall is committed or is itself
placed late, the rise follows it by DT_LH, which "precedes its rise" in the table of R229 (DEDUCED, log 126). -/
def Plan.moveLe (now : Int) (i : PlanIn) (old : Plan) : Plan × Bool :=
  let (new, full) := i.plan
  let t : Int := i.period
  let on : Int := if new.skipped then 0 else if full then t - minPulse else new.onTime
  let lowRisen := match old.lRise with
    | some a => committed now a
    | none => false
  let lowFallen := lowRisen && match old.lFall with
    | some b => committed now b
    | none => false
  let skip := new.skipped && !lowRisen
  let (lr, lf, noLow) : Option Int × Option Int × Bool :=
    if lowRisen then
      let a := old.lRise.getD 0
      let b := if lowFallen then old.lFall.getD 0 else
        let b := max (t - on - i.lh) (a + minPulse)
        if committed now b then now + 16 else b
      (some a, some b, false)
    else if skip then (none, none, false)
    else if committed now i.hl || decide (t - on - i.lh - i.hl < minPulse) then (none, none, true)
    else (some (i.hl : Int), some (t - on - i.lh), false)
  let hr : Option Int :=
    if on = 0 then none
    else
      let r := max (t - on) minPulse
      let r := if committed now r then now + 16 else r
      let r := match lf with
        | some b => max r (b + i.lh)
        | none => r
      if t - r < minPulse then none else some r
  let placed : Nat := match hr with
    | some r => (t - r).toNat
    | none => 0
  ({ new with hRise := hr, hFall := hr.map (fun _ => t), lRise := lr, lFall := lf, onTime := placed
              skipped := skip, noLow := noLow, diag := old.diag
              repay := min new.repay (new.due - placed) }, false)

/-- The plan of a period that starts; `gap` is how far PWMHn's last fall lies behind, FS. In FIXED_LE a demand that comes too late for the boundary neither
makes the period full-on, so it is placed as inside the period, nor ends a full-on one (R225, R226). -/
def PhaseUnit.firstPlan (g : GroupCfg) (m : Mode) (period p : Nat) (gap : Option Int) (u : PhaseUnit) : Plan × Bool :=
  if u.pl.cut then ({ period := period, void := true }, false)
  else
    let sweep := m == Mode.sweep
    let light := m == Mode.lightload
    let new := u.choose g sweep (u.planIn g light period p)
    if u.pl.lateDemand g.mod then
      let old : PhaseUnit := { u with pl := { u.pl with demand := u.pl.demandWas } }
      let r := old.choose g sweep (old.planIn g light period p)
      let x : Int := (u.pl.demandAt * 8 : Nat) - (u.pl.start : Int)
      let i : PlanIn := { u.planIn g light period p with stretch := r.1.stretch }
      match g.mod with
      | .fixedLe => if r.2 = new.2 then new else if r.2 then r else r.1.moveLe x i
      | .fixedTe => if r.1.hRise.isNone then r else r.1.moveTe x i
      | .cot => new
      | .coff => new
    else (new.1.gapHigh g.mod gap, new.2)

/-- A period starts. -/
def PhaseUnit.startPeriod (g : GroupCfg) (m : Mode) (at_ period p : Nat) (u : PhaseUnit) : PhaseUnit :=
  let gap : Option Int := u.pl.plan.hFall.map (fun f => (at_ : Int) - (u.pl.start : Int) - f)
  let pl := (u.pl.fixDt u.cfg).begin g at_ period p
  let u := { u with pl := { pl with on := pl.on16 g period } }
  let r := u.firstPlan g m period p gap
  { u with pl := { u.pl with plan := r.1, fullOn := r.2, wasFull := r.2, onFirst := r.1.onTime }, bal := u.bal.opened m r.1 }

/-- A phase takes a new demand (R225, R226, R309): PHn_ON at once, and the edges that it positions and that are not yet
committed. In a fixed-period mode only; in COT and COFF the engine sets the interval. -/
def PhaseUnit.takeDemand (g : GroupCfg) (m : Mode) (now : Nat) (d16 : Nat) (u : PhaseUnit) : PhaseUnit :=
  let old := u.pl.plan
  let pl := { u.pl with demand := d16, demandWas := u.pl.demand, demandAt := now }
  let u := { u with pl := { pl with on := pl.on16 g old.period } }
  if !pl.switching || pl.cut || !isFixed g.mod then u
  else
    let x : Int := (now * 8 : Nat) - (pl.start : Int)
    let i := { u.planIn g (m == .lightload) old.period pl.pat with stretch := old.stretch }
    match g.mod with
    | .fixedTe =>
      let fallen := match old.hFall with
        | some f => committed x f
        | none => false
      if old.hRise.isNone || fallen then u
      else
        let (q, full) := old.moveTe x i
        { u with pl := { u.pl with plan := q, fullOn := full, wasFull := full, reAt := x, moves := pl.moves ++ [(x, q.onTime)] } }
    | .fixedLe =>
      let risen := match old.hRise with
        | some r => committed x r
        | none => false
      if pl.fullOn || risen then u
      else
        let q := (old.moveLe x i).1
        { u with pl := { u.pl with plan := q, reAt := x, moves := pl.moves ++ [(x, q.onTime)] } }
    | .cot => u
    | .coff => u

/-! ### The trip cut -/

/-- What a cut at position `x` leaves of the plan: both outputs low from there on (R253). -/
def Plan.cutAt (x : Int) (p : Plan) : Plan :=
  let keep (e : Option Int) : Option Int := e.filter (fun a => decide (a < x))
  { p with
    cutHigh := p.cutHigh || (p.hRise.isSome && p.hFall.all (fun f => decide (x ≤ f)))
    hRise := keep p.hRise
    hFall := if (keep p.hRise).isSome then some (match p.hFall with
      | some f => min f x
      | none => x) else none
    lRise := keep p.lRise
    lFall := if (keep p.lRise).isSome then some (match p.lFall with
      | some f => min f x
      | none => x) else none }

/-- The on-time held before a cut (R261). -/
def Plan.held (x : Int) (p : Plan) : Nat :=
  match p.hRise with
  | some r => (min x (p.hFall.getD x) - r).toNat
  | none => 0

/-- Both outputs low for the rest of the period (R253, R494); the period is a tripped one (R255). -/
def Placer.cutNow (now : Nat) (u : Placer) : Placer :=
  if !u.switching then u
  else
    let x : Int := (now * 8 : Nat) - (u.start : Int)
    let u := if u.cut then u else { u with cut := true, cutOn := u.plan.held x, plan := u.plan.cutAt x, fullOn := false, reAt := x }
    if u.tripped then u
    else { u with tripped := true, tripTotal := satInc 0xFFFFFF u.tripTotal, tripRun := satInc 255 u.tripRun }

end Sys2Proof.Machine
end

