-- ==== Sys2Proof/Machine/Periods.lean ====
section
/-!
DEFINITION. The commands of the edge placers: period starts, firing slots, trips and the interlock (R229 to R261), and those of
the open-phase diagnosis that follow a period (R400, R402).
-/

namespace Sys2Proof.Machine

/-! ### Periods -/

/-- A rotation's shed follows its add (R403): the added phase is ACTIVE, so the other sheds at the next group period. -/
def GroupBal.addedActive (p : Phase) (b : GroupBal) : GroupBal :=
  if b.rotIn = some p then { b with shedNext := b.shedNext ++ b.rotOut.toList, rotIn := none } else b

/-- A rotation ends with its shed, or where the phase that it adds stops before it is ACTIVE, so that no shed follows (R403). -/
def GroupBal.shedEnded (p : Phase) (b : GroupBal) : GroupBal :=
  if b.rotOut = some p ∨ b.rotIn = some p then { b with rotating := false, rotOut := none, rotIn := none } else b

/-- A phase stops at the end of a period: its stop is due, or its shed ramp has ended (R184, R371, R385). -/
def Placer.ends (g : GroupCfg) (u : Placer) : Bool :=
  u.stopAtEnd || (u.pstate == .shedding && decide (g.shedRamp ≤ u.shedJ))

/-- The run of tripped periods has reached TRIP_K, so the phase is held off until PH_TRIP is granted (R255, R502). -/
def Placer.tripHeld (f : PhaseCfg) (u : Placer) : Bool := u.tripped && decide (0 < f.tripK) && decide (f.tripK ≤ u.tripRun)

/-- The period in progress ends at `next` FS, with the change of state that falls due (R371). A phase held off by its trips makes no conversion and
has no value from then on (R281). -/
def Chip.closePeriod (p : Phase) (g : Group) (next : Nat) (o : PeriodObs) (c : Chip) : Chip :=
  let cfg := (c.grp[g]).cfg
  let made := (c.ph[p]).diagMade o
  let r := (c.ph[p]).endPeriod cfg (c.refReady c.refs.refPh) next o
  let c := { c with ph := c.ph.set p r.1 }
  let c := (c.count 14 r.2).count 11 made
  let u := c.ph[p]
  if u.pl.tripHeld u.cfg then c.modPh p (fun u => { u with pl := { u.pl with heldOff := true, plan := {} }, conv := stopConv u.conv })
  else if u.pl.ends cfg then (c.setPstate p .standby).modGb g (GroupBal.shedEnded p)
  else if u.pl.pstate = .adding then (c.setPstate p .active).modGb g (GroupBal.addedActive p)
  else c

/-- A phase may start a period. -/
def Placer.maySwitch (u : Placer) : Bool :=
  (u.pstate == .adding || u.pstate == .active || u.pstate == .shedding) && !u.heldOff && !u.stopAtEnd

/-- The length in FS of the group period in progress in the fixed-period modes: GRPn_PERIOD with its dither (R222, R224), and the chain's correction
of it (R433). -/
def GroupUnit.periodLen (u : GroupUnit) : Nat :=
  ((u.cfg.period / 16 + ditherStep (u.pcnt % 16) (u.cfg.period % 16) : Nat) + u.adj).toNat

/-- The group switches, so that its periods run (R283, R371). -/
def Chip.groupRuns (c : Chip) (g : Group) : Bool :=
  (isSwitchingMode (c.grp[g]).mode || (c.sys.dev == .shutdown && (c.grp[g]).ramping)) && !(c.counting g).isEmpty

/-- A period starts at `at_` FS, where the phase switches and its group has started. -/
def Chip.openPeriod (p : Phase) (g : Group) (at_ period pat : Nat) (c : Chip) : Chip :=
  let u := c.grp[g]
  if u.started && (c.ph[p]).pl.maySwitch && !c.outputsHeld && (c.ph[p]).pl.addedIn != some u.pcnt then
    let c := if (c.ph[p]).pl.tripIn then c.count 13 1 else c
    c.modPh p (fun x => x.startPeriod u.cfg u.mode at_ period pat)
  else c

/-- The phase's period of the group period in progress is due by tick `t`: it starts PHn_OFS after the group period (R229), and only once. -/
def Chip.startDue (c : Chip) (p : Phase) (g : Group) (t : Nat) : Bool :=
  let u := c.grp[g]
  let x := c.ph[p]
  u.started && x.pl.maySwitch && decide (u.perStart + x.cfg.ofs ≤ t * 8) && (!x.pl.switching || decide (x.pl.start < u.perStart + x.cfg.ofs))

/-- The period of a phase that is to stop is over by tick `t`. -/
def Placer.stopDue (t : Nat) (u : Placer) : Bool := u.switching && !u.maySwitch && decide (u.start + u.plan.period ≤ t * 8)

/-- PHASE_PERIOD_START in the fixed-period modes (R229): the position is the schedule's, and `t` a tick at or after it (DEDUCED, log 126). -/
def Chip.phasePeriodStart (p : Phase) (t : Nat) (o : PeriodObs) (c : Chip) : Chip :=
  match c.groupOf p with
  | none => c
  | some g =>
    let u := c.grp[g]
    if !c.ctrlUp || !isFixed u.cfg.mod then c
    else
      let c := c.elapseTo t
      let due := u.perStart + (c.ph[p]).cfg.ofs
      if c.startDue p g t then
        let c := if (c.ph[p]).pl.switching then c.closePeriod p g due o else c
        c.openPeriod p g due u.periodLen (u.pcnt % 16)
      else if (c.ph[p]).pl.stopDue t then c.closePeriod p g ((c.ph[p]).pl.start + (c.ph[p]).pl.plan.period) o
      else c

def execPhasePeriodStart (p : Phase) (t : Nat) (o : PeriodObs) (s : State) : Host.Outcome State Fault Refusal :=
  .next (s.onChip (Chip.phasePeriodStart p t o))

/-! ### The rotation of COT and COFF -/

/-- TI clamped so that N × TI lies within PER_MIN to PER_MAX (R234). -/
def clampTi (g : GroupCfg) (n ti : Nat) : Nat := if n = 0 then ti else max ((g.perMin + n - 1) / n) (min (g.perMax / n) ti)

/-- An element enters a list before the first one it is not above. -/
def insertBy {α : Type} (le : α → α → Bool) (x : α) : List α → List α
  | [] => [x]
  | y :: ys => if le x y then x :: y :: ys else y :: insertBy le x ys

/-- A list in order; elements of equal rank keep theirs. -/
def sortBy {α : Type} (le : α → α → Bool) (xs : List α) : List α := xs.foldr (insertBy le) []

/-- The rotating phases of a group, in ascending ROT (R232). -/
def Chip.rotation (c : Chip) (g : Group) : List Phase :=
  sortBy (fun p q => decide ((c.ph[p]).cfg.rot ≤ (c.ph[q]).cfg.rot)) ((c.phasesOf g).filter (fun p => (c.ph[p]).pl.inRot))

/-- The next slot is that of the lowest ROT value, which begins a pass of the rotation. -/
def Chip.passNext (c : Chip) (g : Group) : Bool := (c.rotation g).head?.all (fun p => p.val == (c.grp[g]).rotNext)

/-- At the slot of the lowest ROT value phases leave and join the rotation (R232, R371). -/
def Chip.turnRotation (g : Group) (next : Nat) (o : PeriodObs) (c : Chip) : Chip :=
  let cfg := (c.grp[g]).cfg
  let c := (c.rotation g).foldl (fun c p =>
    if (c.ph[p]).pl.ends cfg && (c.ph[p]).pl.switching then c.closePeriod p g next o else c) c
  (c.phasesOf g).foldl (fun c p => c.modPl p (fun u => { u with inRot := u.maySwitch && u.addedIn != some (c.grp[g]).pcnt })) c

/-- The phase whose turn it is. -/
def turnOf (low : Phase) (isFirst : Bool) (next : Nat) (rot : List Phase) : Phase :=
  if isFirst then low else (rot.find? (fun p => p.val == next)).getD low

/-- The slot of a rotation: the phase whose turn it is ends its period and starts the next, the turn passes on, and the next slot lies TI later (R230
to R232). -/
def Chip.fireTurn (g : Group) (o : PeriodObs) (isFirst : Bool) (u : GroupUnit) (rot : List Phase) (c : Chip) : Chip :=
  match rot with
  | [] => c
  | low :: _ =>
    let turn := turnOf low isFirst u.rotNext rot
    let n := rot.length
    let ti := clampTi u.cfg n u.ti
    let c := if (c.ph[turn]).pl.switching then c.closePeriod turn g u.slotAt o else c
    let c := c.openPeriod turn g u.slotAt (n * ti) ((c.ph[turn]).pl.pulses % 16)
    let next := (rot.dropWhile (fun p => p != turn)).drop 1
    c.modGrp g (fun u => { u with
      rotCount := n, ti := ti, rotNext := ((next.head?).getD low).val, slotLast := u.slotAt, slotAt := u.slotAt + ti
      conv := { u.conv with slotEv := true } })

/-- In COFF a pulse that the next slot would leave shorter than 384 FS (R236, R259): PWMHn rises earlier while that edge is not committed, behind PWMLn's fall
where that one is, and the slot comes no sooner than 384 FS after the rise. -/
def Placer.widen (x : Int) (slot : Nat) (u : Placer) : Placer × Nat :=
  match u.plan.hRise with
  | none => (u, slot)
  | some r =>
    let room : Int := (slot : Int) - u.start - minPulse
    if !u.switching || u.cut || decide (r ≤ room) then (u, slot)
    else if committed x r then (u, (u.start + r + minPulse).toNat)
    else
      let low := u.plan.lFall.filter (committed x)
      let r' := max room (x + 16)
      let r' := match low with
        | some b => max r' (b + u.dtLh)
        | none => r'
      let r' := min r r'
      let p := { u.plan with hRise := some r', lFall := if low.isSome then u.plan.lFall else u.plan.lFall.map (fun _ => r' - u.dtLh) }.dropLow
      ({ u with plan := p }, max slot (u.start + r' + minPulse).toNat)

/-- The same for the phase whose slot comes next. -/
def Chip.widenNext (g : Group) (c : Chip) : Chip :=
  let u := c.grp[g]
  if u.cfg.mod != .coff then c
  else match (c.rotation g).find? (fun p => p.val == u.rotNext) with
    | none => c
    | some p =>
      let pl := (c.ph[p]).pl
      let r := pl.widen ((c.tb.count * 8 : Nat) - (pl.start : Int)) u.slotAt
      (c.modPl p (fun _ => r.1)).modGrp g (fun u => { u with slotAt := r.2 })

/-- A slot of the lowest ROT value follows the start of its group period, which lies at the same position. -/
def Chip.slotReady (c : Chip) (g : Group) : Bool :=
  !c.passNext g || !c.groupRuns g || decide ((c.grp[g]).perStart = (c.grp[g]).slotAt)

/-- FIRING_SLOT (R230 to R234): the phase whose turn it is ends its period and starts the next. -/
def Chip.firingSlot (g : Group) (t : Nat) (o : PeriodObs) (c : Chip) : Chip :=
  let u := c.grp[g]
  if !c.ctrlUp || isFixed u.cfg.mod || !u.started || decide (t * 8 < u.slotAt) || !c.slotReady g then c
  else
    let c := c.elapseTo t
    let isFirst := c.passNext g
    let c := if isFirst then c.turnRotation g u.slotAt o else c
    (c.fireTurn g o isFirst u (c.rotation g)).widenNext g

def execFiringSlot (g : Group) (t : Nat) (o : PeriodObs) (s : State) : Host.Outcome State Fault Refusal :=
  .next (s.onChip (Chip.firingSlot g t o))

/-- Where a phase's period in COT or COFF ends: its own next slot, at the interval in force (R230, R231). -/
def Chip.nextSlotOf (c : Chip) (g : Group) (p : Phase) : Nat :=
  let u := c.grp[g]
  let rot := c.rotation g
  let from_ := rot.dropWhile (fun q => q.val != u.rotNext) ++ rot.takeWhile (fun q => q.val != u.rotNext)
  u.slotAt + (from_.takeWhile (fun q => q != p)).length * u.ti

/-- A new firing interval (R233): it moves the next slot unless that is committed, DT_LH + 2 TK before its position; a slot that it would put at or
before that point follows the new value as closely as its commit allows (R226). A committed slot stands, and the interval applies from the following
one. -/
def GroupUnit.takeTi (now lh ti : Nat) (u : GroupUnit) : GroupUnit :=
  let ti := clampTi u.cfg u.rotCount ti
  if u.rotCount = 0 ∨ u.slotAt ≤ now * 8 + lh + 16 then { u with ti := ti }
  else { u with ti := ti, slotAt := max (u.slotLast + ti) (now * 8 + lh + 16) }

/-! ### Trips -/

/-- A cut of a phase, counted once in its period (R253, R255, R494). -/
def Chip.cutPhase (p : Phase) (c : Chip) : Chip :=
  let fresh := (c.ph[p]).pl.switching && !(c.ph[p]).pl.tripped
  let now := c.tb.count
  let c := c.modPl p (Placer.cutNow now)
  if fresh then c.count 13 1 else c

/-- The tick at which the filtered level of a trip input can next change: TRIP_FILT samples of the other level after its last change (R252). With
TRIP_FILT 0 that is at once. -/
def PhaseUnit.tripNext (u : PhaseUnit) : Nat := u.pl.tripAt + u.cfg.tripFilt

/-- The filtered level of a trip input changes. The row says that TRIP_FILT samples have passed: where the timebase has not yet come to the last of them, it
does so with the row (log 106). -/
def Chip.tripLevel (p : Phase) (low : Bool) (c : Chip) : Chip :=
  let c := c.elapseTo (c.ph[p]).tripNext
  let now := c.tb.count
  c.modPl p (fun u => { u with tripIn := low, tripAt := now })

/-- TRIP_ASSERT (R252, R253, R256). -/
def Chip.tripAssert (p : Phase) (c : Chip) : Chip :=
  if c.ctrlUp && !(c.ph[p]).pl.tripIn then ((c.tripLevel p true).condBack (phBlock p) 0x10 p.val).cutPhase p else c

def execTripAssert (p : Phase) (s : State) : Host.Outcome State Fault Refusal := .next (s.onChip (Chip.tripAssert p))

/-- TRIP_DEASSERT (R252): the filtered level; a cut lasts to the end of the period. -/
def Chip.tripDeassert (p : Phase) (c : Chip) : Chip :=
  if c.ctrlUp && (c.ph[p]).pl.tripIn then c.tripLevel p false else c

def execTripDeassert (p : Phase) (s : State) : Host.Outcome State Fault Refusal := .next (s.onChip (Chip.tripDeassert p))

/-- PH_TRIP (R255): RUN has reached TRIP_K. -/
def Chip.phTrip (p : Phase) (c : Chip) : Chip :=
  let u := c.ph[p]
  if (c.groupOf p).isSome && u.pl.tripHeld u.cfg && u.pl.pstate != PState.faulted then
    c.raiseB (phBlock p) 0x10 p.val (BitVec.ofNat 32 u.pl.tripRun) false
  else c

def execPhTrip (p : Phase) (s : State) : Host.Outcome State Fault Refusal := .next (s.onChip (Chip.phTrip p))

/-- SHOOT_REQ (R248, R500): both outputs of the cell go low and the Class A fault is raised. -/
def Chip.shootReq (p : Phase) (high : Bool) (c : Chip) : Chip :=
  if c.ctrlUp then
    (c.modPl p (fun u => { u with interlock := true })).raiseA (phBlock p) 0x01 p.val (if high then 1 else 0) false
  else c

def execShootReq (p : Phase) (high : Bool) (s : State) : Host.Outcome State Fault Refusal :=
  .next (s.onChip (Chip.shootReq p high))

/-! ### Diagnosis -/

/-- PH_OPEN (R400): FAILS has reached 3. -/
def Chip.phOpen (p : Phase) (c : Chip) : Chip :=
  let u := c.ph[p]
  if (c.groupOf p).isSome && u.bal.openDue && u.pl.pstate != PState.faulted then
    c.raiseB (phBlock p) 0x11 p.val (BitVec.ofNat 32 u.bal.fails) false
  else c

def execPhOpen (p : Phase) (s : State) : Host.Outcome State Fault Refusal := .next (s.onChip (Chip.phOpen p))

/-- DIAG_WINDOW_LAPSE (R402): a stretch is asked for, or the phase is marked UNVERIFIED, with one warning a start. -/
def Chip.diagWindowLapse (p : Phase) (c : Chip) : Chip :=
  match c.groupOf p with
  | none => c
  | some g =>
    let cfg := (c.grp[g]).cfg
    let b := (c.ph[p]).bal
    let running := (c.counting g).contains p
    if !running || decide (b.since < cfg.window) || b.unverified then c
    else if cfg.stretchEn && b.stretchWait.isNone then c.modBal p (fun b => { b with stretchWait := some 16 })
    else if !cfg.stretchEn || b.stretchWait == some 0 then
      let logged := b.logged
      let c := c.modBal p (fun b => { b with unverified := true, verified := false, logged := true, stretchWait := none })
      if logged then c else c.warn (phBlock p) 0x51 p.val
    else c

def execDiagWindowLapse (p : Phase) (s : State) : Host.Outcome State Fault Refusal := .next (s.onChip (Chip.diagWindowLapse p))

end Sys2Proof.Machine
end

