-- ==== Sys2Proof/Machine/Balance.lean ====
section
/-!
DEFINITION. BAL (chapter 8 of the spec): group periods, adds, passes with their trims, sheds and rotations, and what a change of a
phase's state makes Badger do.
-/

namespace Sys2Proof.Machine

/-! ### Choosing phases (R389) -/

/-- The phase of a list with the least key. -/
def leastBy (f : Phase → Nat) : List Phase → Option Phase
  | [] => none
  | p :: ps => some (ps.foldl (fun a b => if f b < f a then b else a) p)

/-- The STANDBY phase with the lowest PRIO among the verified ones. -/
def Chip.verifiedStandby (c : Chip) (g : Group) : Option Phase :=
  leastBy (fun p => (c.ph[p]).cfg.prio) ((c.phasesIn g .standby).filter (fun p => (c.ph[p]).bal.verified))

/-- The phase that an add takes. -/
def Chip.addChoice (c : Chip) (g : Group) : Option Phase :=
  (c.verifiedStandby g).or (leastBy (fun p => (c.ph[p]).cfg.prio) (c.phasesIn g .standby))

/-- The phase that a shed takes: ACTIVE, of the highest PRIO. -/
def Chip.shedChoice (c : Chip) (g : Group) : Option Phase :=
  leastBy (fun p => 255 - (c.ph[p]).cfg.prio) (c.phasesIn g .active)

/-! ### Adds (R382, R383, R386) -/

/-- One STANDBY phase enters ADDING, up to PH_MAX (R388). -/
def Chip.addOne (g : Group) (pick : Chip → Option Phase) (c : Chip) : Chip :=
  match pick c with
  | some p =>
    if (c.counting g).length < (c.setpt.active[g]).phMax then
      let now := (c.grp[g]).pcnt
      let c := (c.setPstate p .adding).modPl p (fun u => { u with addedIn := some now })
      c.modGb g (fun b => { b with adds := b.adds + 1, addAfter := 2 })
    else c
  | none => c

/-- Up to `n` phases enter ADDING. -/
def Chip.addMany (g : Group) : Nat → Chip → Chip
  | 0, c => c
  | n + 1, c => Chip.addMany g n (c.addOne g (fun c => c.addChoice g))

/-- A phase in SHEDDING returns to ACTIVE; the return counts as the add (R386). -/
def Chip.reverseShed (g : Group) (p : Phase) (c : Chip) : Chip :=
  (c.setPstate p .active).modGb g (fun b =>
    { b with adds := b.adds + 1, reversals := b.reversals + 1, addAfter := 2
             rotating := b.rotating && b.rotOut != some p, rotOut := if b.rotOut = some p then none else b.rotOut })

/-- The phases that one decision adds: a burst brings L below ADD_PCT at the present current (R383). -/
def burstSize (g : GroupCfg) (load : Rat) (n : Nat) : Nat :=
  if (g.addFastPct : Rat) < load ∧ 0 < g.addPct then
    max 1 (min g.addBurst ((load * (n : Rat) / (g.addPct : Rat)).floor.toNat + 1 - n))
  else 1

/-- An add decision. -/
def Chip.addDecision (g : Group) (load : Rat) (c : Chip) : Chip :=
  match leastBy (fun p => (c.ph[p]).cfg.prio) (c.phasesIn g .shedding) with
  | some p => c.reverseShed g p
  | none => c.addMany g (burstSize (c.grp[g]).cfg load (c.counting g).length)

/-- BAL's decision to add at a group period start (R382, R387), `load` being L over the period just ended, if it had a sample. -/
def Chip.decideAdd (g : Group) (load : Option Rat) (c : Chip) : Chip :=
  let u := c.grp[g]
  let few := decide ((c.phasesIn g .adding).length + (c.phasesIn g .active).length < (c.setpt.active[g]).phMin)
  let high := match load with
    | some l => decide ((u.cfg.addPct : Rat) < l)
    | none => false
  if !c.frozen g && decide (u.bal.addAfter = 0) && (few || high) then c.addDecision g (load.getD 0) else c

/-- BAL never sheds below PH_MIN (R388). -/
def Chip.mayShed (c : Chip) (g : Group) : Bool :=
  decide ((c.setpt.active[g]).phMin < (c.phasesIn g .adding).length + (c.phasesIn g .active).length)

/-- A phase decided to be shed enters SHEDDING, if it is still ACTIVE and PH_MIN allows it (R373, R385, R388). A rotation's shed that PH_MIN holds back waits,
any other is dropped, and BAL decides again. -/
def Chip.shedOne (g : Group) (c : Chip) (p : Phase) : Chip :=
  if c.pstate p != PState.active then c
  else if c.mayShed g then (c.setPstate p .shedding).modGb g (fun b => { b with sheds := b.sheds + 1 })
  else c.modGb g (fun b => if b.rotOut = some p then { b with shedNext := b.shedNext ++ [p] } else b)

/-- The sheds decided are made at the group period start (R385); those that fall due while the count is frozen wait (R387, R406). -/
def Chip.startShed (g : Group) (c : Chip) : Chip :=
  if c.frozen g then c
  else
    let ps := (c.grp[g]).bal.shedNext
    ps.foldl (Chip.shedOne g) (c.modGb g (fun b => { b with shedNext := [] }))

/-! ### Group periods -/

/-- One step of the correction of a spanning group's schedule: at most 1 FS, or 16 FS until a large error is below 4 FS (R433). -/
def SettGroup.slewStep (s : SettGroup) : SettGroup :=
  let lim : Int := if s.fast then 16 else 1
  let left := s.slew - 16 * clampInt (-lim) lim (truncRat ((s.slew : Rat) / 16))
  { s with slew := left, fast := s.fast && decide (64 ≤ left.natAbs) }

/-- A group's period of place `k` in the dither pattern, in FS (R222, R224). -/
def GroupCfg.ditherLen (u : GroupCfg) (k : Nat) : Nat := u.period / 16 + ditherStep (k % 16) (u.period % 16)

/-- A period of a spanning group starts at `at_`, at chain time `next` (R435, R436): the next one starts a dithered period of chain time later, less the
correction still to be made, and `adj` is what this makes the local period longer than GRPn_PERIOD with its dither. -/
def Chip.spanPeriod (g : Group) (k at_ : Nat) (next : Int) (c : Chip) : Chip :=
  let len := (c.grp[g]).cfg.ditherLen k
  let r := (c.sett.groups[g]).slewStep
  let next := next + 16 * (len : Int)
  let adj : Int := (c.localFs (next + r.slew) : Int) - at_ - len
  (c.modSg g (fun _ => { r with chainNext := next })).modGrp g (fun u => { u with adj := adj })

/-- The group's period count, where the period starts, and on the chain its length (R435). -/
def Chip.countGroupPeriod (g : Group) (at_ : Nat) (c : Chip) : Chip :=
  let c := c.modGrp g (fun u =>
    let n := (u.pcnt + 1) % 2 ^ 28
    { u with pcnt := n, perStart := at_, adj := 0, conv := { u.conv with sub := 0 }
             bal := { u.bal with addAfter := u.bal.addAfter - 1, passDue := u.bal.passDue || decide (n % 16 = 0) } })
  if (c.sett.groups[g]).span then c.spanPeriod g (c.grp[g]).pcnt at_ (c.sett.groups[g]).chainNext else c

/-- B(k): the first k periods of a fixed-period group with their dither, FS (R224, R436). -/
def boundaryOf (period k : Nat) : Nat :=
  k / 16 * period + ((List.range (k % 16)).map (fun p => period / 16 + ditherStep p (period % 16))).sum

/-- The first group period that starts at or after `late` FS beyond S0 (R436): period 0, but for a device that joins a run in progress (R465). -/
def firstPeriod (period late : Nat) : Nat :=
  let q := late / max 1 period
  16 * q + ((List.range 16).find? (fun r => decide (late ≤ boundaryOf period (16 * q + r)))).getD 16

/-- Where period `k` of a spanning group starts on this device, in 1/16 FS of chain time: S0 + B(k) + OFS (R436). -/
def Chip.chainPos (c : Chip) (g : Group) (k : Nat) : Int :=
  let s := c.sett.groups[g]
  (s.s0 : Int) * 128 + 16 * (boundaryOf (c.grp[g]).cfg.period k : Int) + s.ofs

/-- The number of the first group period: 0, or on the chain the first that starts once the group has left STANDBY (R436, R465). -/
def Chip.startIndex (c : Chip) (g : Group) : Nat :=
  if (c.sett.groups[g]).span then firstPeriod (c.grp[g]).cfg.period ((c.grp[g]).startAt * 8 - c.localFs (c.chainPos g 0)) else 0

/-- The position of the first group period in FS: at the grant that took the group out of STANDBY (R229), or on the chain's schedule (R436). -/
def Chip.startPoint (c : Chip) (g : Group) : Nat :=
  if (c.sett.groups[g]).span then c.localFs (c.chainPos g (c.startIndex g)) else (c.grp[g]).startAt * 8

/-- Where the next group period starts (R229, R374): a period after the last one, or at the next slot of the lowest ROT value; none while that slot is
not the next, or has its period. -/
def Chip.nextGroupPeriod (c : Chip) (g : Group) : Option Nat :=
  let u := c.grp[g]
  if isFixed u.cfg.mod then some (u.perStart + u.periodLen)
  else if c.passNext g ∧ u.perStart < u.slotAt then some u.slotAt
  else none

/-- The first period starts, number `k`: the counts begin (R229, R374), and the first firing slot lies at the same position. Chain time counts whole from
here on (R433). -/
def Chip.firstGroupPeriod (g : Group) (k at_ : Nat) (c : Chip) : Chip :=
  let c := c.modGrp g (fun u =>
    { u with started := true, pcnt := k % 2 ^ 28, perStart := at_, slotAt := at_, slotLast := at_, adj := 0, conv := { u.conv with sub := 0 } })
  let c := if (c.sett.groups[g]).span then
      (c.modSg g (fun s => { s with slew := 0, fast := false })).spanPeriod g k at_ (c.chainPos g k)
    else c
  let c := (c.phasesOf g).foldl (fun c p => c.modBal p (fun b => { b with donePass := false })) c
  c.recount g

/-- A later group period starts at `at_`: it counts, recounts (R373), sheds and adds. -/
def Chip.laterGroupPeriod (g : Group) (at_ : Nat) (c : Chip) : Chip :=
  let b := (c.grp[g]).bal
  let n := (c.counting g).length
  let load := if b.perN = 0 then none else some (c.loadPct g (b.perSum / (b.perN : Rat)) n)
  let c := c.countGroupPeriod g at_
  let c := c.modGb g (fun b => { b with perSum := 0, perN := 0 })
  let c := (c.startShed g).decideAdd g load
  c.recount g

/-- GROUP_PERIOD_START: the position is the schedule's, and `t` a tick at or after it (DEDUCED, log 126). -/
def Chip.groupPeriodStart (g : Group) (t : Nat) (c : Chip) : Chip :=
  if !c.ctrlUp || !c.groupRuns g then c
  else if !(c.grp[g]).started then
    if c.startPoint g ≤ t * 8 then (c.elapseTo t).firstGroupPeriod g (c.startIndex g) (c.startPoint g) else c
  else
    match c.nextGroupPeriod g with
    | some x => if x ≤ t * 8 then (c.elapseTo t).laterGroupPeriod g x else c
    | none => c

def execGroupPeriodStart (g : Group) (t : Nat) (s : State) : Host.Outcome State Fault Refusal :=
  .next (s.onChip (Chip.groupPeriodStart g t))

/-! ### Passes (R374 to R380, R384, R403) -/

/-- The averages of a pass close: a phase needs 12 values (R375). -/
def PhaseBal.closePass (b : PhaseBal) : PhaseBal :=
  { b with has := decide (12 ≤ b.n), avg := if 12 ≤ b.n then b.sum / (b.n : Rat) else b.avg, sum := 0, n := 0, donePass := false }

/-- The limit of a trim: floor(D/16) FS of the phase's integer demand (R377, R378). -/
def Placer.trimLimit (g : GroupCfg) (u : Placer) : Nat :=
  if g.mod = .coff then g.const / 16 else u.demand16 g u.plan.period / 16 / 16

/-- The trim of one ACTIVE phase after a pass (R377). -/
def trimAfter (g : GroupCfg) (trim : Int) (limit : Nat) (d : Rat) : Int :=
  if absRat d ≤ f32 g.balDb then clampInt (-(limit : Int)) limit trim
  else
    let k := roundAway (f32 g.balKi * d)
    let delta := clampInt (-(g.trimStep : Int)) g.trimStep (if g.balPol then k else -k)
    clampInt (-(limit : Int)) limit (trim + delta)

/-- A pass that changes no trim of the phase: its run ends, and IMBAL with a trim inside the limit (R380). -/
def PhaseUnit.unjudged (limit : Nat) (u : PhaseUnit) : PhaseUnit :=
  { u with bal := { u.bal with imbalRun := 0, imbal := u.bal.imbal && decide (0 < limit) && decide (limit ≤ u.pl.trim.natAbs) } }

/-- Trim and imbalance of one phase (R377, R380); the second value asks for PH_IMBAL. -/
def PhaseUnit.balance (g : GroupCfg) (mean : Option Rat) (u : PhaseUnit) : PhaseUnit × Bool :=
  let limit := u.pl.trimLimit g
  match mean with
  | some a =>
    if u.bal.has ∧ u.pl.pstate = .active then
      let d := u.bal.avg - a
      let trim := trimAfter g u.pl.trim limit d
      let held := decide (0 < limit) && decide (limit ≤ trim.natAbs)
      let run := if held && decide (f32 g.balDb < absRat d) then satInc 64 u.bal.imbalRun else 0
      let log := decide (run = 64) && !u.bal.imbal
      ({ u with pl := { u.pl with trim := trim }
                bal := { u.bal with imbalRun := run, imbal := log || (u.bal.imbal && held) } }, log)
    else (u.unjudged limit, false)
  | none => (u.unjudged limit, false)

/-- The mean A_g of the averages of the ACTIVE phases, with at least two of them (R376). -/
def Chip.passMean (c : Chip) (g : Group) : Option Rat :=
  let as := ((c.phasesIn g .active).filter (fun p => (c.ph[p]).bal.has)).map (fun p => (c.ph[p]).bal.avg)
  if as.length < 2 then none else some (as.foldl (· + ·) 0 / (as.length : Rat))

/-- The trims of a group's phases after a pass (R374). -/
def Chip.balancePhase (g : Group) (mean : Option Rat) (c : Chip) (p : Phase) : Chip :=
  let r := (c.ph[p]).balance (c.grp[g]).cfg mean
  let c := { c with ph := c.ph.set p r.1 }
  if r.2 then c.warn (phBlock p) 0x50 p.val else c

/-- The pass is a shed candidate (R384). -/
def Chip.shedCandidate (c : Chip) (g : Group) (load : Option Rat) : Bool :=
  let u := c.grp[g]
  let n := (c.counting g).length
  match load with
  | none => false
  | some l =>
    allowsSheds u.mode && !c.frozen g && decide (2 ≤ n) && decide ((c.setpt.active[g]).phMin < n) &&
    (c.phasesIn g .adding).isEmpty && (c.phasesIn g .shedding).isEmpty &&
    decide (l < (u.cfg.shedPct : Rat)) && decide (l * (n : Rat) / ((n - 1 : Nat) : Rat) ≤ (u.cfg.addPct : Rat) - (u.cfg.hystPct : Rat))

/-- Candidate passes count, and SHED_DWELL of them decide a shed (R384). -/
def Chip.countCandidate (g : Group) (load : Option Rat) (c : Chip) : Chip :=
  if c.shedCandidate g load then
    let n := (c.grp[g]).bal.dwell + 1
    if (c.grp[g]).cfg.shedDwell ≤ n then c.modGb g (fun b => { b with dwell := 0, shedNext := b.shedNext ++ (c.shedChoice g).toList })
    else c.modGb g (fun b => { b with dwell := n })
  else c.modGb g (fun b => { b with dwell := 0 })

/-- The add of a rotation (R382): the phase named, or the return of a phase that sheds (R386), which is ACTIVE at once. -/
def Chip.rotationAdd (g : Group) (i o : Phase) (c : Chip) : Chip :=
  match leastBy (fun p => (c.ph[p]).cfg.prio) (c.phasesIn g .shedding) with
  | some p =>
    (c.reverseShed g p).modGb g (fun b =>
      { b with rotating := true, rotIn := none, rotOut := some o, shedNext := b.shedNext ++ [o], rotations := b.rotations + 1 })
  | none =>
    if (c.counting g).length < (c.setpt.active[g]).phMax then
      (c.addOne g (fun _ => some i)).modGb g (fun b =>
        { b with rotating := true, rotIn := some i, rotOut := some o, rotations := b.rotations + 1 })
    else c

/-- ROTATION (R403): an UNVERIFIED phase is replaced by a verified STANDBY phase, one rotation at a time, once an add may be decided (R383). -/
def Chip.rotate (g : Group) (c : Chip) : Chip :=
  let u := c.grp[g]
  let out := leastBy (fun p => (c.ph[p]).cfg.prio) ((c.phasesIn g .active).filter (fun p => (c.ph[p]).bal.unverified))
  match out, c.verifiedStandby g with
  | some o, some i =>
    if !u.bal.rotating && decide (u.bal.addAfter = 0) && allowsSheds u.mode && !c.frozen g then c.rotationAdd g i o else c
  | _, _ => c

/-- BAL_PASS: the end of a pass. -/
def Chip.balPass (g : Group) (c : Chip) : Chip :=
  if !(c.grp[g]).bal.passDue || !c.groupRuns g then c
  else
    let b := (c.grp[g]).bal
    let load := if b.passN = 0 then none
      else some (c.loadPct g (b.passSum / (b.passN : Rat)) (c.counting g).length)
    let c := c.modGb g (fun b => { b with passDue := false, passSum := 0, passN := 0, load := load.getD b.load })
    let c := (c.phasesOf g).foldl (fun c p => c.modBal p PhaseBal.closePass) c
    let mean := c.passMean g
    let c := if (c.grp[g]).cfg.balEn then (c.phasesOf g).foldl (Chip.balancePhase g mean) c else c
    (c.countCandidate g load).rotate g

def execBalPass (g : Group) (s : State) : Host.Outcome State Fault Refusal := .next (s.onChip (Chip.balPass g))

/-! ### PH_STATE -/

/-- What the healthy count makes of a group's mode (R180, R181, R407): too few phases, a loss, or all back. -/
def Chip.judgeHealth (g : Group) (c : Chip) : Chip :=
  let u := c.grp[g]
  let n := c.healthyAll g
  let c := if n < u.cfg.derMin then c.condBack (grpBlock g) 0x26 g.val else c
  if !c.decides g || c.sys.dev != .perGroup || !isSwitchingMode u.mode then c
  else if n < u.cfg.derMin then c.raiseB (grpBlock g) 0x26 g.val (BitVec.ofNat 32 n) false
  else if c.mayChange g .derated .phaseLost then
    let c := if u.mode = .sweep then c.abortSweepOf g 3 else c
    c.changeMode g .derated .phaseLost
  else if c.mayChange g (c.runMode g) .phaseBack then c.changeMode g (c.runMode g) .phaseBack
  else c

/-- Badger rewrites the phase-count bounds where they have changed (R388). -/
def Chip.refreshBounds (g : Group) (c : Chip) : Chip :=
  let coming := (writeChanges c.setpt.shadow c.setpt.waiting)[g]
  let floor := c.prepFloor g
  let own := if c.isLeader g then floorShare floor (c.healthy g) (c.healthyAll g) else floor
  let sets := c.phaseBounds g own
  if sets.foldl FieldSet.apply coming = coming then c else c.present g sets

/-- A value of the charge limits that the field cannot hold is open; the count of values drawn is advanced. -/
def Chip.chargeField (x : Option Rat) (c : Chip) : Nat × Chip :=
  match x with
  | some q =>
    let n := roundAway q
    if 0 ≤ n ∧ n ≤ 65535 then (n.toNat, c) else let r := c.draw 2; (r.1 % 65536, r.2)
  | none => let r := c.draw 2; (r.1 % 65536, r.2)

/-- CHG_V and CHG_I from the charge limits, in one swap (R553); `iLim` in 0.1 A and `vLim` in 10 mV (R552). -/
def Chip.chargeSwap (g : Group) (iLim vLim : Nat) (c : Chip) : Chip :=
  let n := (c.counting g).length
  let vs := c.vScale g
  let s := c.grpScale g
  let v := c.chargeField (if vs = 0 then none else some ((vLim : Rat) / 100 / vs))
  let i := v.2.chargeField (if s = 0 ∨ n = 0 then none else some (16 * ((iLim : Rat) / 10) / ((n : Rat) * s)))
  i.2.present g [.chg v.1 i.1]

/-- Badger repeats the swap of R553 at a change of N in CHARGE, with the limits it last received. -/
def Chip.chargeRepeat (g : Group) (c : Chip) : Chip :=
  if (c.grp[g]).mode = .charge && c.gauge.cfg.en && c.gauge.cfg.chgGroup == g.val && c.gauge.limAt.isSome && !c.gauge.limZero then c.chargeSwap g c.gauge.limI c.gauge.limV
  else c

/-- PH_STATE at its grant (R371, R373, R388, R407): a change of mode and the bounds that go with it are one swap (R408). N changes with ADDING, STANDBY and
FAULTED (R553). -/
def Chip.phState (p : Phase) (c : Chip) : Chip :=
  match c.groupOf p with
  | none => c
  | some g =>
    match (c.ph[p]).pl.reports with
    | [] => c
    | s :: rest =>
      let c := (c.grant p.val 1).modPl p (fun u => { u with reports := rest })
      let c := if c.anySwitching g then c else c.recount g
      let c := if s = PState.faulted then c.modGb g (GroupBal.shedEnded p) else c
      let was := (c.grp[g]).mode
      let c := (c.judgeHealth g).refreshBounds g
      let c := if (c.grp[g]).mode = was then c else { c with setpt := c.setpt.joined }
      if s = PState.active ∨ s = PState.shedding then c else c.chargeRepeat g

def execPhState (p : Phase) (s : State) : Host.Outcome State Fault Refusal := .next (s.onChip (Chip.phState p))

end Sys2Proof.Machine
end

