-- ==== Sys2Proof/Machine/Digest.lean ====
section
/-!
DEFINITION. The two checks of stored content: CRC-32/ISO-HDLC (R131) and SHA-256 (R140, R635), over lists of bytes.
-/

namespace Sys2Proof.Machine

/-! ### CRC-32/ISO-HDLC -/

/-- One bit of the reflected CRC with the constant 0xEDB8_8320. -/
def crcBit (r : Word) : Word := if r.getLsbD 0 then (r >>> 1) ^^^ 0xEDB88320 else r >>> 1

/-- One byte of it. -/
def crcByte (r : Word) (b : Byte) : Word :=
  crcBit (crcBit (crcBit (crcBit (crcBit (crcBit (crcBit (crcBit (r ^^^ b.setWidth 32))))))))

/-- CRC-32/ISO-HDLC of a byte list (R131). -/
def crc32 (bs : List Byte) : Word := (bs.foldl crcByte 0xFFFFFFFF) ^^^ 0xFFFFFFFF

/-! ### SHA-256

FIPS 180-4 takes as its constants the first 32 bits of the fractional parts of square and cube roots of the first primes; they are computed here
from that. -/

/-- The largest number whose `k`-th power is at most `n`, from its lowest `i` bits on with the higher ones in `r`. -/
def rootFrom (k n : Nat) : Nat → Nat → Nat
  | 0, r => r
  | i + 1, r => rootFrom k n i (if (r + 2 ^ i) ^ k ≤ n then r + 2 ^ i else r)

/-- The first 32 bits after the point of the `k`-th root of `p`. -/
def rootBits (k p : Nat) : Word := BitVec.ofNat 32 (rootFrom k (p * 2 ^ (32 * k)) 40 0)

/-- No number from 2 up to `n` − 1 divides `n`. -/
def isPrimeNumber (n : Nat) : Bool := decide (2 ≤ n) && (List.range n).all (fun d => decide (d < 2) || n % d != 0)

/-- The first 64 primes: those up to 311. -/
def firstPrimes : List Nat := (List.range 312).filter isPrimeNumber

/-- The sum of three rotations of a word, without carry. -/
def mix (i j k : Nat) (x : Word) : Word := x.rotateRight i ^^^ x.rotateRight j ^^^ x.rotateRight k

/-- The same of two rotations and a shift. -/
def mixShift (i j k : Nat) (x : Word) : Word := x.rotateRight i ^^^ x.rotateRight j ^^^ (x >>> k)

/-- The hash value in progress: two halves of four words, each moved down by one word a round. -/
structure HashHalves where
  upper : Vector Word 4
  lower : Vector Word 4
deriving DecidableEq, Repr

/-- A half moved down by one word, with a new first word. -/
def shiftIn (x : Word) (v : Vector Word 4) : Vector Word 4 := #v[x, v[0], v[1], v[2]]

/-- One round with the sum of its constant and its schedule word. -/
def hashRound (h : HashHalves) (kw : Word) : HashHalves :=
  let u := h.upper
  let l := h.lower
  let choice := l[2] ^^^ (l[0] &&& (l[1] ^^^ l[2]))
  let majority := (u[0] &&& (u[1] ||| u[2])) ||| (u[1] &&& u[2])
  let t := l[3] + mix 6 11 25 l[0] + choice + kw
  ⟨shiftIn (t + mix 2 13 22 u[0] + majority) u, shiftIn (u[3] + t) l⟩

/-- The rounds of a block: one for each constant, with the sixteen schedule words that come next, oldest first. -/
def hashRounds : List Word → List Word → HashHalves → HashHalves
  | k :: ks, w :: ws, h =>
    let next := w + mixShift 7 18 3 (ws.getD 0 0) + ws.getD 8 0 + mixShift 17 19 10 (ws.getD 13 0)
    hashRounds ks (ws ++ [next]) (hashRound h (k + w))
  | _, _, h => h

/-- The word of four bytes, most significant first. -/
def bigWord (bs : List Byte) : Word := BitVec.ofNat 32 (numAt bs.reverse 0 4)

/-- One block of 64 bytes. -/
def hashBlock (ks : List Word) (h : HashHalves) (bs : List Byte) : HashHalves :=
  let r := hashRounds ks ((List.range 16).map (fun i => bigWord (bytesAt bs (4 * i) 4))) h
  ⟨Vector.zipWith (· + ·) h.upper r.upper, Vector.zipWith (· + ·) h.lower r.lower⟩

/-- SHA-256 of a byte list. -/
def sha256 (bs : List Byte) : List Byte :=
  let bits := (leBytes 8 (8 * bs.length)).reverse
  let msg := bs ++ [0x80] ++ List.replicate ((119 - bs.length % 64) % 64) 0 ++ bits
  let start := firstPrimes.map (rootBits 2)
  let first : HashHalves := ⟨Vector.ofFn (fun i : Fin 4 => start.getD i.val 0), Vector.ofFn (fun i : Fin 4 => start.getD (i.val + 4) 0)⟩
  let ks := firstPrimes.map (rootBits 3)
  let h := (List.range (msg.length / 64)).foldl (fun h i => hashBlock ks h (bytesAt msg (64 * i) 64)) first
  (h.upper.toList ++ h.lower.toList).flatMap (fun w => (leBytes 4 w.toNat).reverse)

end Sys2Proof.Machine
end

