-- ==== Sys2Proof/Machine/Bank.lean ====
section
/-!
DEFINITION. The code banks: the three firmware images of a bank (R140, R635, R636), and the choice of a bank at step 4 of BOOT (R146 to
R151).
-/

namespace Sys2Proof.Machine

/-! ### Images -/

/-- A byte of a bank; erased bytes read 0xFF (R74). -/
def erased : Byte := 0xFF

/-- The content of a bank. -/
def CodeUnit.bankMem (u : CodeUnit) (b : Bool) : Memory := if b then u.bank1 else u.bank0

/-- The bank state of a bank (R152). -/
def CodeUnit.info (u : CodeUnit) (b : Bool) : BankInfo := if b then u.info1 else u.info0

/-- The bank state with one bank's changed. -/
def CodeUnit.setInfo (u : CodeUnit) (b : Bool) (i : BankInfo) : CodeUnit := if b then { u with info1 := i } else { u with info0 := i }

/-- Bytes of a bank (1 MiB). -/
def bankSize : Nat := 0x100000

/-- One image: its offset in the bank and its 128-byte header (R140). -/
structure FwImage where
  off : Nat
  hdr : List Byte
deriving DecidableEq, Repr

def FwImage.setId (f : FwImage) : Nat := numAt f.hdr 8 4
def FwImage.revMask (f : FwImage) : Nat := numAt f.hdr 12 8
def FwImage.verMin (f : FwImage) : Nat := numAt f.hdr 20 2
def FwImage.verMax (f : FwImage) : Nat := numAt f.hdr 22 2
def FwImage.length (f : FwImage) : Nat := numAt f.hdr 24 4
def FwImage.digest (f : FwImage) : List Byte := bytesAt f.hdr 32 32

/-- An image padded to a multiple of 256 bytes. -/
def FwImage.size (f : FwImage) : Nat := (128 + f.length + 255) / 256 * 256

/-- The header of an image of a KIND is valid, and the image lies in the bank (R140, R635). -/
def FwImage.valid (f : FwImage) (kind : Nat) : Bool :=
  f.hdr.take 4 == [0x4E, 0x44, 0x46, 0x57] && numAt f.hdr 4 1 == kind && numAt f.hdr 5 1 == 1 && decide (f.off + f.size ≤ bankSize)

/-- The image at an offset. -/
def fwAt (m : Memory) (off : Nat) : FwImage := ⟨off, memReadBytes erased m off 128⟩

/-- The code of a valid image has its digest. -/
def FwImage.digestOk (m : Memory) (f : FwImage) : Bool := sha256 (memReadBytes erased m (f.off + 128) f.length) == f.digest

/-- The three images of a bank, one after another; none where a header is not valid. -/
def bankImages (m : Memory) : Option (List FwImage) :=
  let a := fwAt m 0
  if !a.valid 1 then none
  else
    let b := fwAt m a.size
    if !b.valid 2 then none
    else
      let c := fwAt m (b.off + b.size)
      if c.valid 3 then some [a, b, c] else none

/-- The bank passes its digest check: the digest of each of the three images (R124 step 4, R149). -/
def bankOk (m : Memory) : Bool :=
  match bankImages m with
  | some fs => fs.all (FwImage.digestOk m)
  | none => false

/-- The bit of a revision in REVMASK (R140). -/
def revBit (rev : Nat) : Nat := 10 * (rev / 256 - 0x41) + rev % 256

/-- The three images agree in SETID (R141). -/
def sameSet : List FwImage → Bool
  | [] => true
  | f :: fs => fs.all (fun g => g.setId == f.setId)

/-- Every image allows the silicon revision (R141). -/
def runsOn (fs : List FwImage) (rev : Nat) : Bool := fs.all (fun f => f.revMask.testBit (revBit rev))

/-- The configuration's format lies in every image's range (R141). -/
def takesCfgVer (fs : List FwImage) (cfgVer : Nat) : Bool := fs.all (fun f => decide (f.verMin ≤ cfgVer) && decide (cfgVer ≤ f.verMax))

/-- The compatibility check of R141. -/
def compatible (fs : List FwImage) (rev cfgVer : Nat) : Bool :=
  sameSet fs && runsOn fs rev && takesCfgVer fs cfgVer

/-- SETID of a bank; 0 where it holds no image set. -/
def CodeUnit.setIdOf (u : CodeUnit) (b : Bool) : Nat :=
  match bankImages (u.bankMem b) with
  | some (f :: _) => f.setId
  | _ => 0

/-! ### The bank state in flash (R152) -/

/-- The entry in force: the valid one with the highest sequence number. -/
def CodeUnit.inForce (u : CodeUnit) : Option BankEntry :=
  ((u.stateOther ++ u.stateNow).filter (·.good)).foldl (fun best e =>
    match best with
    | some b => if b.seq < e.seq then some e else best
    | none => some e) none

/-- What a BOOT reads as the bank state. -/
def CodeUnit.readState (u : CodeUnit) : CodeUnit :=
  match u.inForce with
  | some e => { u with info0 := e.info0, info1 := e.info1, swap := e.swap }
  | none => u

/-- The last write of the bank state was cut: its entry fails its CRC. -/
def CodeUnit.cutWrite (u : CodeUnit) : CodeUnit :=
  { u with stateNow := match u.stateNow.getLast? with
    | some e => u.stateNow.dropLast ++ [{ e with good := false }]
    | none => [] }

/-- A bank-state write programs the next blank entry; a sector that is full is followed by the other one, erased by then. Where the sector has been
filled in a BOOT that never reached BOOT_DONE, the erase outside BOOT has not come about: the spec gives no rule for the next write at step 4, and the
model takes the other sector as erased (DESIGN CHOICE, log 133). -/
def CodeUnit.writeState (u : CodeUnit) : CodeUnit :=
  let seq := match u.inForce with
    | some e => e.seq + 1
    | none => 0
  let e : BankEntry := ⟨seq, u.info0, u.info1, u.swap, true⟩
  if u.stateNow.length < 64 then { u with stateNow := u.stateNow ++ [e] }
  else { u with stateNow := [e], stateOther := u.stateNow, stateSecond := !u.stateSecond }

/-- Outside BOOT the other sector is erased once a sector has been filled. -/
def CodeUnit.eraseOther (u : CodeUnit) : CodeUnit := if u.stateNow.length < 64 then u else { u with stateOther := [] }

/-- A change of the bank state is written. -/
def CodeUnit.changeState (u v : CodeUnit) : CodeUnit := if v.info0 = u.info0 ∧ v.info1 = u.info1 ∧ v.swap = u.swap then v else v.writeState

/-! ### The choice of a bank -/

/-- What step 4 decides: the bank to run, if any, and whether it fell back. -/
structure BankPick where
  code : CodeUnit
  bank : Option Bool
  fallback : Bool

/-- A pending swap takes effect at the first BOOT after a power cycle: the new bank runs on trial (R146). -/
def CodeUnit.takeSwap (u : CodeUnit) (power : Bool) : CodeUnit :=
  match u.swap with
  | some b => if power then { u.setInfo b { trial := true } with swap := none, last := b } else u
  | none => u

/-- A BOOT from a trial bank counts an attempt (R147). -/
def CodeUnit.attempt (u : CodeUnit) (b : Bool) : CodeUnit :=
  let i := u.info b
  if i.trial then u.setInfo b { i with attempts := i.attempts + 1 } else u

/-- A bank on trial with its 3 attempts counted is rejected (R148). -/
def BankInfo.spent (i : BankInfo) : Bool := i.trial && decide (3 ≤ i.attempts)

/-- The other bank is booted in place of `b`, if it is not rejected, has no 3 attempts counted and passes its own check (R147 to R150). Where it is
not, no bank boots: the spec gives no result for a bank that passes its digest and may not boot, and the model ends with CODE_CORRUPT
(DESIGN CHOICE, log 123). -/
def CodeUnit.fallBack (u : CodeUnit) (b : Bool) : BankPick :=
  let i := u.info (!b)
  if i.rejected then ⟨u, none, false⟩
  else if i.spent then ⟨u.setInfo (!b) { rejected := true, attempts := i.attempts }, none, false⟩
  else if bankOk (u.bankMem (!b)) then ⟨{ u.attempt (!b) with last := !b }, some (!b), true⟩
  else ⟨if i.trial then u.setInfo (!b) { rejected := true, attempts := i.attempts } else u, none, false⟩

/-- The bank of a BOOT (R146 to R151). -/
def CodeUnit.chooseBank (u : CodeUnit) (power : Bool) : BankPick :=
  let u := u.takeSwap power
  let b := u.last
  let i := u.info b
  if i.rejected then u.fallBack b
  else if i.spent then (u.setInfo b { rejected := true, attempts := i.attempts }).fallBack b
  else if bankOk (u.bankMem b) then ⟨u.attempt b, some b, false⟩
  else (if i.trial then u.setInfo b { rejected := true, attempts := i.attempts } else u).fallBack b

/-- Step 4 of BOOT: the bank state is read, the bank chosen, and what that changes written at once (R152). -/
def CodeUnit.pick (u : CodeUnit) (power : Bool) : BankPick :=
  let u := u.readState
  let p := u.chooseBank power
  let v := u.changeState p.code
  { p with code := { v with stepWrite := decide (v.info0 ≠ u.info0 ∨ v.info1 ≠ u.info1 ∨ v.swap ≠ u.swap) } }

/-- A trial bank whose BOOT ends with RESULT OK is confirmed (R148). -/
def CodeUnit.confirm (u : CodeUnit) (b : Bool) : CodeUnit := (u.changeState (u.setInfo b { confirmed := true })).eraseOther

end Sys2Proof.Machine
end

