-- ==== Sys2Proof/Machine/Den.lean ====
section
/-!
DEFINITION. What the host port sends: the frames of a message (R611 to R614) and unsolicited messages (R633).
-/

namespace Sys2Proof.Machine

/-- The frames that carry a body (R612): 4 bytes of it in each classical frame, 60 in each FD frame; an empty body takes one. -/
def framesOf (fd : Bool) (n : Nat) : Nat := max 1 ((n + (if fd then 60 else 4) - 1) / (if fd then 60 else 4))

/-! ### Frames (R608, R610 to R612) -/

/-- The data field that holds `n` bytes (R612): CAN FD has 12, 16, 20, 24, 32, 48 and 64 above 8. -/
def dataField (n : Nat) : Nat :=
  if n ≤ 8 then n else if n ≤ 12 then 12 else if n ≤ 16 then 16 else if n ≤ 20 then 20 else if n ≤ 24 then 24 else if n ≤ 32 then 32
  else if n ≤ 48 then 48 else 64

/-- The 29-bit identifier of a frame of the device's: DIR 1, and the device's own ADDR (R608, R610). -/
def Message.ident (m : Message) : Nat := m.prio * 2 ^ 26 + 2 ^ 25 + m.type * 2 ^ 17 + m.addr * 8192 + m.net

/-- Fragment `i` of a message: the frame header with LAST and FRAG, its part of the body, and zero padding to the shortest data field (R611, R612). -/
def Message.fragment (m : Message) (i : Nat) : CanFrame :=
  let per := if m.fd then 60 else 4
  let part := (m.body.drop (per * i)).take per
  let ctrl := i + (if i + 1 = framesOf m.fd m.body.length then 128 else 0)
  let data := leBytes 2 m.tag ++ [BitVec.ofNat 8 ctrl, BitVec.ofNat 8 (resultCode m.result)] ++ part
  { port := m.port, ident := m.ident, extended := true, fd := m.fd, brs := m.brs
    data := data ++ List.replicate (dataField data.length - data.length) 0 }

/-- The frames of a message, in order. -/
def Message.frames (m : Message) : List CanFrame := (List.range (framesOf m.fd m.body.length)).map m.fragment

/-! ### The ports -/

/-- A port is on the bus (R604, R606). -/
def CanUnit.onBus (u : CanUnit) : Bool := u.st == .active || u.st == .passive

/-- Error-passive at 128 of either counter, error-active below (R601, ISO 11898-1; log 99). -/
def CanUnit.confine (u : CanUnit) : CanUnit :=
  if u.onBus then { u with st := if 128 ≤ u.tec ∨ 128 ≤ u.rec_ then .passive else .active } else u

/-- A message leaves on a port, which counts its frames; a port off the bus sends nothing (R606). Each frame sent takes 1 from TEC (R601). -/
def CanUnit.emit (m : Message) (u : CanUnit) : CanUnit :=
  if u.onBus then
    { u with out := u.out ++ [m], tx := u.tx + BitVec.ofNat 32 m.frames.length, tec := u.tec - m.frames.length }.confine
  else u

/-- An unsolicited message on one port (R614, R633): TAG 0, RESULT 0. -/
def Chip.unsolicited (p : CanPort) (prio type : Nat) (body : List Byte) (c : Chip) : Chip :=
  let a := c.sett.addr.val
  let n := c.host.netId
  c.modCan p (fun u => u.emit ⟨p, prio, type, 0, .ok, body, u.fd, u.fd && u.brs, a, n⟩)

/-- FAULT_FRAME: the oldest waiting FAULT frame is sent on a port (R519, R520); after an overflow it carries OVERFLOW and the
LAST_TAG of the newest raise. -/
def Chip.faultFrameOut (p : CanPort) (c : Chip) : Chip :=
  let u := c.host.ports[p]
  match u.faults with
  | [] => c
  | f :: rest =>
    if c.isUp .owl && u.onBus then
      let newest := (f :: rest).getLastD f
      let f := if u.overflow then
          f.take 8 ++ (newest.drop 8).take 2 ++ [(f.getD 10 0) ||| 4] ++ f.drop 11
        else f
      (c.modCan p (fun u => { u with faults := rest, overflow := false })).unsolicited p 0 0x41 f
    else c

def execFaultFrame (p : CanPort) (s : State) : Host.Outcome State Fault Refusal := .next (s.onChip (Chip.faultFrameOut p))

end Sys2Proof.Machine
end

