-- ==== Sys2Proof/Machine/Fabric.lean ====
section
/-!
DEFINITION. The rows of the mailboxes, the doorbells and the cores' domains (R28 to R34, R56 to R58), the snapshot buffers (R44 to R49), memory
errors (R72, R501, R505) and the watchdogs (R504).
-/

namespace Sys2Proof.Machine

/-! ### Mailboxes -/

def execMailboxWrite (m : Mailbox) (w : Word) (s : State) : Host.Outcome State Fault Refusal :=
  .next (s.onChip (Chip.mailboxWrite m w))

def execMailboxRead (m : Mailbox) (s : State) : Host.Outcome State Fault Refusal := .next (s.onChip (Chip.mailboxRead m))

/-! ### Doorbells and domains -/

/-- Member of a ring within the receiver's input: the two other cores, in the order Badger, Owl, Hedgehog (R686). -/
def ringMember (receiver sender : Core) : Nat :=
  if (coreIdx sender).val < (coreIdx receiver).val then (coreIdx sender).val else (coreIdx sender).val - 1

/-- DOORBELL_RING (R56): a receiver that is down begins to power up; one that is up stays up. -/
def Chip.doorbellRing (receiver sender : Core) (c : Chip) : Chip :=
  if receiver = sender ∨ !c.isUp sender then c
  else
    let r := coreIdx receiver
    ((c.mbxGrant (51 + r.val) (6 + r.val) 4 0).modDom r (fun d =>
      { d with rings := d.rings + 1
               ringSince := d.up
               waking := d.waking || !d.up
               rung := d.rung || !d.up })).count 5 1

def execDoorbellRing (receiver sender : Core) (s : State) : Host.Outcome State Fault Refusal :=
  .next (s.onChip (Chip.doorbellRing receiver sender))

/-- A core's domain starts to power up without a ring: a frame on CAN (R32) or a gauge event (R30). -/
def Chip.wake (k : Core) (c : Chip) : Chip :=
  c.modDom (coreIdx k) (fun d => { d with waking := d.waking || !d.up })

/-- DOMAIN_UP (R56, R57): UP sets, and after a ring the wake-hold. A domain in a watchdog restart comes up at its end. -/
def Chip.domainUp (k : Core) (c : Chip) : Chip :=
  let d := c.dom[coreIdx k]
  if d.waking && !d.up && !d.restart then
    let c := c.modDom (coreIdx k) (fun d => { d with up := true, hold := d.rung, waking := false, rung := false, ringSince := false })
    if k = .badger then c else c.count 6 1
  else c

def execDomainUp (c : Core) (s : State) : Host.Outcome State Fault Refusal := .next (s.onChip (Chip.domainUp c))

/-- WAKE_HOLD_LAPSE: eight calendar periods after UP (R57). -/
def Chip.wakeHoldLapse (k : Core) (c : Chip) : Chip := c.modDom (coreIdx k) (fun d => { d with hold := false })

def execWakeHoldLapse (c : Core) (s : State) : Host.Outcome State Fault Refusal :=
  .next (s.onChip (Chip.wakeHoldLapse c))

/-- A core has cause to ask for its power-down (R28 to R30): Owl in STANDBY, with every group in STANDBY or SAFE, nothing
unanswered, no NV operation and no frame for OWL_IDLE; Hedgehog with no gauge work pending: no second to work on, no message still to be taken. -/
def Chip.mayPowerDown (k : Core) (c : Chip) : Bool :=
  match k with
  | .badger => false
  | .owl =>
    c.isUp .owl && (c.sys.dev == .standbyHeld ||
      (c.sys.dev == .perGroup && c.grp.toList.all (fun u => u.mode == .standby || u.mode == .safe))) &&
    c.host.rx.isEmpty && c.host.pending.isEmpty && c.host.answers.isEmpty &&
    c.nv.op.isNone && c.nv.queue.isEmpty && decide (c.host.frameAt + c.sys.owlIdle * tkMs ≤ c.tb.count)
  | .hedgehog => c.isUp .hedgehog && !c.gauge.secReq && c.gauge.out.isEmpty

/-- A ring granted since the core last read a message, which its power-down request may find granted before it (R31, R56): whether the core
asked before the ring was granted is free (log 13). -/
def Chip.rungFirst (k : Core) (c : Chip) : Bool := (c.dom[coreIdx k]).ringSince && Config.openBool 31 c.draws

/-- POWER_DOWN_REQUEST of a core's own domain (R31): refused while an incoming mailbox is FULL or the wake-hold is set, and where a ring was
granted before it. The words of the core's incoming mailboxes stand (DESIGN CHOICE, log 119). -/
def Chip.powerDown (k : Core) (c : Chip) : Chip :=
  if c.mayPowerDown k then
    let r := coreIdx k
    if (c.dom[r]).hold || c.rungFirst k || (incoming k).any (fun m => (c.mbx[mbxIdx m]).full) then
      ((c.mbxGrant (51 + r.val) (6 + r.val) 6 0).modDom r (fun d => { d with pdRefused := true, ringSince := false }))
    else (c.mbxGrant (51 + r.val) (6 + r.val) 5 0).modDom r (fun d => { d with up := false, pdRefused := false, ringSince := false })
  else c

def execPowerDownRequest (c : Core) (s : State) : Host.Outcome State Fault Refusal :=
  .next (s.onChip (Chip.powerDown c))

/-! ### Snapshots -/

/-- ADC_GVn_STAT [2:0]: CHECKING, LOCAL, LOST. -/
def GroupConv.stat (v : GroupConv) : Nat := (bit v.lost + 2 * bit v.onLocal + 4 * bit v.checking).toNat

/-- ADC_GVn_TEL_STAT [4:0]. -/
def GroupConv.telStat (v : GroupConv) : Nat :=
  (bit v.vAvg.valid + 2 * bit v.iAvg.valid + 4 * bit v.pAvg.valid + 8 * bit v.tValid + 16 * bit v.pkValid).toNat

/-- GAUGE_STAT [15:0]. -/
def GaugeUnit.stat (u : GaugeUnit) : Nat :=
  (bit u.socValid + 2 * bit u.rest + 4 * bit u.chgInhibit + 8 * bit u.full + 16 * bit u.chop + 32 * bit u.lost +
    64 * bit u.hold + 128 * bit u.sat + 256 * bit u.unclean).toNat

/-- The telemetry as it stands (R44, R301); filling re-arms no peak. -/
def Chip.snapshotNow (c : Chip) : Snapshot :=
  { valid := true
    groups := Vector.ofFn (fun g =>
      let v := (c.grp[g]).conv
      { vAvg := v.vAvg.avg, iAvg := v.iAvg.avg, pAvg := v.pAvg.avg, tMax := v.tMax, vPk := v.vPk, iPk := v.iPk, pPk := v.pPk
        tel := v.telStat, gv := v.stat })
    phases := Vector.ofFn (fun p =>
      let u := c.ph[p]
      (u.conv.avg, (match u.pl.pstate with | .standby => 0 | .adding => 1 | .active => 2 | .shedding => 3 | .faulted => 4), u.conv.avgValid))
    aux := vmap c.aux.slots (fun a => (a.val, a.res))
    gvRes := vmap c.grp (fun u => u.conv.res)
    phRes := vmap c.ph (fun u => (u.conv.resA, u.conv.resB))
    gauge := { soc := c.gauge.soc, soh := c.gauge.soh, rc := c.gauge.rc, fcc := c.gauge.fcc, i := c.gauge.i
               v := c.gauge.v, t := c.gauge.t, stat := c.gauge.stat } }

/-- A tick at which a fill starts: a multiple of SNAP_PERIOD from the end of BOOT, not the end itself, that is not past and has not been served (R45,
R47). -/
def Chip.fillTick (c : Chip) (t : Nat) : Bool :=
  let p := c.snap.period * tkUs
  c.outOfBoot && decide (0 < p) && decide (c.tb.count ≤ t) && decide (max c.sett.bootAt c.snap.lastAt < t) && (t - c.sett.bootAt) % p == 0

/-- A reader holds a buffer open (R46). -/
def SnapUnit.held (u : SnapUnit) (b : Bool) : Bool := u.open_.toList.any (fun h => (h.map (·.buf)) == some b)

/-- SNAP_FILL: the unpublished buffer is filled and PUBLISH requested, or the fill is skipped while a reader holds it and tried again at the next
multiple (R45, R47). -/
def Chip.snapFill (t : Nat) (c : Chip) : Chip :=
  if c.fillTick t then
    let c := c.elapseTo t
    let u := { c.snap with lastAt := t }
    let target := !u.pub
    if u.held target then { c with snap := { u with skips := u.skips + 1 } }
    else
      let x := c.snapshotNow
      { c with snap := { u with bufA := if target then u.bufA else x, bufB := if target then x else u.bufB, filled := true } }
  else c

def execSnapFill (t : Nat) (s : State) : Host.Outcome State Fault Refusal := .next (s.onChip (Chip.snapFill t))

/-- PUBLISH (R44, R45). -/
def Chip.publish (c : Chip) : Chip :=
  if c.snap.filled then
    let c := (c.grant 32 1).count 7 1
    { c with snap := { c.snap with pub := !c.snap.pub, gen := c.snap.gen + 1, filled := false } }
  else c

def execPublish (s : State) : Host.Outcome State Fault Refusal := .next (s.onChip Chip.publish)

/-- OPEN by a reader (R46): the index and SNAP_GEN of the buffer then published. A reader that holds a buffer already holds the one it is
given now in its place, from this grant (DESIGN CHOICE, log 118). -/
def Chip.openSnap (k : Core) (c : Chip) : Chip :=
  if c.isUp k then
    let i := coreIdx k
    let c := c.grant 54 i.val
    let u := c.snap
    { c with snap := { u with open_ := u.open_.set i (some ⟨u.pub, c.tb.count, u.gen⟩), answer := u.answer.set i (u.pub, u.gen, false) } }
  else c

def execOpenSnap (c : Core) (s : State) : Host.Outcome State Fault Refusal := .next (s.onChip (Chip.openSnap c))

/-- CLOSE by a reader that holds a buffer, or whose buffer the device has closed (R46, R48). -/
def Chip.closeSnap (k : Core) (c : Chip) : Chip :=
  let i := coreIdx k
  if c.isUp k && ((c.snap.open_[i]).isSome || c.snap.stale[i]) then
    let c := c.grant 54 i.val
    let u := c.snap
    let a := u.answer[i]
    { c with snap := { u with open_ := u.open_.set i none, stale := u.stale.set i false, answer := u.answer.set i (a.1, a.2.1, u.stale[i]) } }
  else c

def execCloseSnap (c : Core) (s : State) : Host.Outcome State Fault Refusal := .next (s.onChip (Chip.closeSnap c))

/-- SNAP_HELD: a buffer held longer than 1 ms is closed by the device (R48). -/
def Chip.snapHeld (k : Core) (c : Chip) : Chip :=
  let i := coreIdx k
  match c.snap.open_[i] with
  | some h =>
    if h.since + tkMs < c.tb.count then
      { c with snap := { c.snap with open_ := c.snap.open_.set i none, stale := c.snap.stale.set i true } }.warn adcBlock 0x4A 0xFF
    else c
  | none => c

def execSnapHeld (c : Core) (s : State) : Host.Outcome State Fault Refusal := .next (s.onChip (Chip.snapHeld c))

/-! ### Watchdogs and memory errors -/

/-- Owl's restart begins (R504, R621): commands received and not answered are discarded, and every subscription ends. -/
def HostUnit.restart (u : HostUnit) : HostUnit :=
  { u with rx := [], pending := [], reads := [], answers := [], aborts := u.aborts.map (fun a => (a.1, none))
           commitReq := if u.commitDone then u.commitReq else none
           streams := Vector.replicate 8 none }

/-- A domain is reset and restarts from its image (R504), by itself or by an injection (R528). -/
def Chip.restartAs (k : Core) (inj : Bool) (c : Chip) : Chip :=
  let c := c.modDom (coreIdx k) (fun d => { d with up := false, restart := true, inj := inj, waking := false, rung := false, hold := false, ringSince := false })
  if k = .owl then { c with host := c.host.restart } else c

def Chip.restartDomain (k : Core) (c : Chip) : Chip := c.restartAs k false

/-- WATCHDOG_EXPIRY (R504). -/
def Chip.watchdog (k : Core) (c : Chip) : Chip :=
  if c.isUp k then
    if k = .badger then c.faultB badgerBlock 0x2C 0xFF else c.restartDomain k
  else c

def execWatchdogExpiry (c : Core) (s : State) : Host.Outcome State Fault Refusal := .next (s.onChip (Chip.watchdog c))

/-- DOMAIN_RESTART_END (R504, R519): the domain is up again; OWL_RESTART goes to the host in a FAULT frame. -/
def Chip.restartEnd (k : Core) (c : Chip) : Chip :=
  let i := coreIdx k
  let inj := (c.dom[i]).inj
  if (c.dom[i]).restart then
    let c := (c.modDom i (fun d => { d with up := true, restart := false, inj := false, hold := d.rung, waking := false, rung := false })).count 6 1
    match k with
    | .badger => c
    | .hedgehog => c.raiseC hhBlock 0x60 0xFF 0 inj
    | .owl =>
      let c := { c with host := { c.host with lastValid := false } }.raiseC owlBlock 0x5F 0xFF 0 inj
      c.queueFrame (c.faultFrame owlBlock .c 0x5F 0xFF 0 true [])
  else c

def execDomainRestartEnd (c : Core) (s : State) : Host.Outcome State Fault Refusal := .next (s.onChip (Chip.restartEnd c))

/-- ECC_CRIT: a double-bit error in a coefficient or in a set-point entry (R43, R501). -/
def Chip.eccCrit (w : CritPlace) (c : Chip) : Chip :=
  if c.ctrlUp then
    match w with
    | .coefficient e => c.raiseA (leBlock e) 0x03 0xFF 0 false
    | .setpoint g => c.raiseA (grpBlock g) 0x03 g.val 0 false
  else c

def execEccCrit (w : CritPlace) (s : State) : Host.Outcome State Fault Refusal := .next (s.onChip (Chip.eccCrit w))

/-- The capture entry that holds a byte (R480); none in the header. -/
def captureEntry (offset : Nat) : Option Nat := if 0x100 ≤ offset ∧ offset < 0x4100 then some ((offset - 0x100) / 64) else none

/-- The entry reads VALID = 0 (R505): bit 31 of its STATUS. -/
def Chip.voidEntry (i : Nat) (c : Chip) : Chip :=
  let a := 0x100 + 64 * i + 3
  { c with cap := memWrite 0 c.cap a (memRead 0 c.cap a &&& 0x7F) }

/-- The unit that a guard block's fault names: its phase, group or port; 0xFF where it has none. -/
def blockUnit (b : Block) : Nat :=
  if b.val < 24 then b.val
  else if 28 ≤ b.val ∧ b.val < 32 then b.val - 28
  else if b.val = 34 ∨ b.val = 35 then b.val - 34
  else 0xFF

/-- ECC_DED: a double-bit error elsewhere (R72, R505). -/
def Chip.eccDed (w : EccPlace) (c : Chip) : Chip :=
  if !c.ctrlUp then c
  else match w with
  | .badgerSram => c.faultB badgerBlock 0x2D 0xFF
  | .cfgRegister b => if blockOnTimebase b then c.faultB b 0x2D (blockUnit b) else c
  | .owlSram => if c.isUp .owl then (c.warn owlBlock 0x61 0xFF).restartDomain .owl else c
  | .hedgehogSram => if c.isUp .hedgehog then (c.warn hhBlock 0x61 0xFF).restartDomain .hedgehog else c
  | .capture off =>
    if off < 0x80000 then
      let c := c.warn adcBlock 0x61 0xFF
      match captureEntry off with
      | some i => c.voidEntry i
      | none => c
    else c
  | .snapshot =>
    let c := c.warn adcBlock 0x61 0xFF
    { c with snap := { c.snap with filled := false, skips := c.snap.skips + 1 } }

def execEccDed (w : EccPlace) (s : State) : Host.Outcome State Fault Refusal := .next (s.onChip (Chip.eccDed w))

end Sys2Proof.Machine
end

