-- ==== Sys2Proof/Machine/Image.lean ====
section
/-!
DEFINITION. The XOTH configuration image: its header and sections (R131 to R134), the records of each section as settings, and
the header and structure checks (R136, R137). Offsets are those of the spec's tables.
-/

namespace Sys2Proof.Machine

/-! ### Header and sections -/

/-- "XOTH". -/
def xothMagic : List Byte := [0x58, 0x4F, 0x54, 0x48]

/-- Whether a 64-byte header carries MAGIC. -/
def hasMagic (h : List Byte) : Bool := h.take 4 == xothMagic

/-- One section as read: its header's fields, the image offset of its payload, the payload and its padding. -/
structure Section_ where
  type : Nat
  sver : Nat
  sflags : Nat
  off : Nat
  slen : Nat
  pay : List Byte
  pad : List Byte
deriving DecidableEq, Repr

/-- The sections from image offset `off` on; the second part is the offset at which the bytes no longer form a section. -/
def sectionsFrom : Nat → Nat → List Byte → List Section_ × Option Nat
  | 0, off, bs => ([], if bs.isEmpty then none else some off)
  | fuel + 1, off, bs =>
    if bs.isEmpty then ([], none)
    else if bs.length < 8 then ([], some off)
    else
      let slen := numAt bs 4 4
      let padded := (slen + 3) / 4 * 4
      let body := bs.drop 8
      if body.length < padded then ([], some off)
      else
        let s : Section_ := ⟨numAt bs 0 2, numAt bs 2 1, numAt bs 3 1, off + 8, slen, body.take slen, (body.take padded).drop slen⟩
        let (rest, e) := sectionsFrom fuel (off + 8 + padded) (body.drop padded)
        (s :: rest, e)

/-- The payload length of a known section (R134 and its full descriptions). -/
def knownLength (type : Nat) : Option Nat :=
  match type with
  | 0x0001 => some 8
  | 0x0002 => some 980
  | 0x0003 => some 1008
  | 0x0004 => some 416
  | 0x0005 => some 772
  | 0x0006 => some 240
  | 0x0007 => some 192
  | 0x0008 => some 76
  | 0x0009 => some 112
  | 0x000A => some 288
  | 0x000B => some 8
  | 0x000C => some 32
  | _ => none

/-- An image with its sections. -/
structure Image where
  hdr : List Byte
  sects : List Section_
deriving DecidableEq, Repr

/-- The payload of a section, empty where the image has none. -/
def Image.pay (im : Image) (type : Nat) : List Byte := ((im.sects.find? (·.type == type)).map (·.pay)).getD []

/-- The image has a section. -/
def Image.has (im : Image) (type : Nat) : Bool := im.sects.any (·.type == type)

/-- Image offset of a section's payload. -/
def Image.off (im : Image) (type : Nat) : Nat := ((im.sects.find? (·.type == type)).map (·.off)).getD 0

def Image.cfgVer (im : Image) : Nat := numAt im.hdr 4 2
def Image.flags (im : Image) : Nat := numAt im.hdr 6 2
def Image.target (im : Image) : Nat := numAt im.hdr 16 1
def Image.chainSize (im : Image) : Nat := numAt im.hdr 17 1

/-! ### Field helpers -/

/-- `lo ≤ x ≤ hi`. -/
def inRange (lo hi x : Nat) : Bool := decide (lo ≤ x) && decide (x ≤ hi)

/-- Only the given (lowest bit, width) fields may be set. -/
def onlyBits (w : Nat) (fs : List (Nat × Nat)) : Bool :=
  w &&& (fs.foldl (fun m f => m ||| ((2 ^ f.2 - 1) * 2 ^ f.1)) 0) == w

/-- A field of a number. -/
def bitsOf (w lsb width : Nat) : Nat := w / 2 ^ lsb % 2 ^ width

/-- One bit of a number. -/
def flagOf (w k : Nat) : Bool := w.testBit k

/-- The signed 16-bit number at an offset. -/
def s16At (bs : List Byte) (off : Nat) : Int := signedOf 16 (numAt bs off 2)

/-- A single that is finite and not zero. -/
def f32Nonzero (w : Word) : Bool := f32Finite w && f32 w != 0

/-- A single that is finite and positive. -/
def f32Positive (w : Word) : Bool := f32Finite w && decide (0 < f32 w)

/-- A single that is finite and not negative. -/
def f32NonNeg (w : Word) : Bool := f32Finite w && decide (0 ≤ f32 w)

/-! ### Records -/

/-- A record of `n` bytes. -/
def recAt (pay : List Byte) (off n : Nat) : List Byte := bytesAt pay off n

/-- The phase record of PHASE_MAP, with LIMITS' OC_LEVEL and SHEDDING's PRIO. -/
def Image.phaseRec (im : Image) (n : Nat) : List Byte := recAt (im.pay 2) (20 + 40 * n) 40

/-- A trigger register (R257). -/
def trigOf (w : Nat) : TrigCfg := ⟨bitsOf w 30 2, bitsOf w 0 22⟩

def Image.phaseCfg (im : Image) (n : Nat) : PhaseCfg :=
  let r := im.phaseRec n
  { group := numAt r 0 1, rot := numAt r 1 1, bootEn := flagOf (numAt r 2 1) 0, ofs := numAt r 4 4
    dtMin := numAt r 8 2, dtMax := numAt r 10 2, dtInit := numAt r 12 2, dtMargin := numAt r 14 2
    bootW := numAt r 16 2, bootN := numAt r 18 1, bootM := numAt r 19 1, tripFilt := numAt r 20 1, tripK := numAt r 21 1
    avgK := numAt r 22 1, curSel := numAt r 23 1, trigA := trigOf (numAt r 24 4), trigB := trigOf (numAt r 28 4)
    scale := wordAt r 32, offs := s16At r 36
    prio := numAt (im.pay 7) (96 + 4 * n) 1, ocLevel := numAt (im.pay 6) (144 + 4 * n) 2 }

/-- Phases of a group on the device. -/
def Image.phasesOf (im : Image) (g : Nat) : List Nat := (List.range 24).filter (fun n => numAt (im.phaseRec n) 0 1 == g)

/-- The group has phases on the device. -/
def Image.used (im : Image) (g : Nat) : Bool := !(im.phasesOf g).isEmpty

/-- MOD's code. -/
def modOf (w : Nat) : Modulation :=
  match w % 4 with
  | 0 => .fixedTe
  | 1 => .fixedLe
  | 2 => .cot
  | _ => .coff

def Image.groupRec (im : Image) (g : Nat) : List Byte := recAt (im.pay 3) (68 * g) 68
def Image.limitRec (im : Image) (g : Nat) : List Byte := recAt (im.pay 6) (32 * g) 32
def Image.shedRec (im : Image) (g : Nat) : List Byte := recAt (im.pay 7) (24 * g) 24
def Image.lcmdGroupRec (im : Image) (g : Nat) : List Byte := recAt (im.pay 9) (64 + 12 * g) 12

def Image.groupCfg (im : Image) (g : Nat) : GroupCfg :=
  let r := im.groupRec g
  let l := im.limitRec g
  let s := im.shedRec g
  let a := im.lcmdGroupRec g
  let w (o : Nat) : Nat := numAt r o 4
  let sel := numAt (im.pay 5) g 1
  let fl := numAt s 10 1
  { mod := modOf (w 0), fullEn := flagOf (w 0) 2, span := flagOf (w 0) 3, period := w 4, const := w 8, perMin := w 12, perMax := w 16
    llEn := flagOf (w 20) 4, preEn := flagOf (w 20) 3, chargeOk := flagOf (w 20) 2, runDefault := flagOf (w 20) 1
    autoStart := flagOf (w 20) 0
    preTmax := bitsOf (w 24) 16 16, preIlim := bitsOf (w 24) 0 10, preVend := bitsOf (w 28) 0 10
    ssTmax := bitsOf (w 32) 16 16, ssIneg := bitsOf (w 32) 0 10, shdnRampT := bitsOf (w 36) 0 10
    llEnter := bitsOf (w 40) 24 8, llExit := bitsOf (w 40) 16 8, llDwell := bitsOf (w 40) 0 16
    src := bitsOf (w 44) 0 2, sub := bitsOf (w 44) 8 4, dec := bitsOf (w 44) 12 4
    lossWarn := flagOf (w 48) 7, refSel := bitsOf (w 48) 5 2, diff := flagOf (w 48) 4
    offs := signedOf 16 (w 52), vslGain := bitsOf (w 56) 16 16, vslOffs := bitsOf (w 56) 0 16, vScale := wordAt r 60
    avgK := bitsOf (w 64) 16 5, ntcMask := bitsOf (w 64) 0 16
    iLim := numAt l 0 2, iFold := numAt l 2 2, vKnee := numAt l 4 2, ovLevel := s16At l 6, ovClr := s16At l 8, ovWarn := s16At l 10
    otLevel := s16At l 12, otClr := s16At l 14, otWarn := s16At l 16, retryN := numAt l 18 1, retryMs := numAt l 20 2
    retryMask := numAt l 22 2
    addPct := numAt s 0 1, shedPct := numAt s 1 1, hystPct := numAt s 2 1, addFastPct := numAt s 3 1, shedDwell := numAt s 4 1
    shedRamp := numAt s 5 1, addBurst := numAt s 6 1, phMinNom := numAt s 7 1, derMin := numAt s 8 1, derIlimPct := numAt s 9 1
    balEn := flagOf fl 0, balPol := flagOf fl 1, stretchEn := flagOf fl 2, diagEn := flagOf fl 3, trimStep := numAt s 11 1
    window := numAt s 12 2, diagMin := numAt s 14 2, balKi := wordAt s 16, balDb := wordAt s 20, rate := wordAt (im.pay 2) (4 * g)
    vselEn := flagOf sel 0, hostEn := flagOf sel 1, vreqEn := flagOf sel 2, defaultSet := bitsOf sel 4 4
    antK := signedOf 32 (numAt a 0 4), antBase := numAt a 4 4, prepLoad := numAt a 8 1, arrivePct := numAt a 9 1 }

/-- The set record of a set for a group (R336). -/
def Image.setRec (im : Image) (s g : Nat) : SetRec :=
  let r := recAt (im.pay 5) (4 + 12 * (4 * s + g)) 12
  { target := s16At r 0, pgLo := s16At r 2, pgHi := s16At r 4, lift := s16At r 6, slew := numAt r 8 3, defined := flagOf (numAt r 11 1) 0 }

/-- OUT's code (R309). -/
def outOf (n : Nat) : OutKind :=
  match n with
  | 0 => .on
  | 1 => .duty
  | 2 => .ti
  | _ => .iref

/-- PAIR's code (R321). -/
def pairOf (n : Nat) : PairKind :=
  match n with
  | 0 => .none
  | 1 => .cascade
  | _ => .minSelect

def Image.engineRec (im : Image) (e : Nat) : List Byte := recAt (im.pay 4) (104 * e) 104

/-- One bank at an offset of an engine record. -/
def bankOf (r : List Byte) (o : Nat) : Bank :=
  let q (k : Nat) : Int := signedOf 24 (numAt r (o + 4 * k) 4)
  ⟨q 0, q 1, q 2, q 3, q 4, q 5, q 6⟩

def Image.engineCfg (im : Image) (e : Nat) : EngineCfg :=
  let r := im.engineRec e
  let c := numAt r 0 4
  let out := outOf (bitsOf c 4 3)
  let lim (o : Nat) : Int := if out = .iref then signedOf 21 (numAt r o 4) else ((numAt r o 4 : Nat) : Int)
  { en := flagOf c 0, order := flagOf c 1, measI := flagOf c 2, out := out, pair := pairOf (bitsOf c 8 2), refSrc := bitsOf c 10 2
    group := bitsOf c 12 3, vffSrc := bitsOf c 16 5, vffMode := bitsOf c 24 3, yMin := lim 4, yMax := lim 8
    vffK := signedOf 24 (numAt r 12 4), droop := signedOf 24 (numAt r 16 4)
    banks := #v[bankOf r 20, bankOf r 48, bankOf r 76] }

/-- The port record of LCMD (R369); a disabled port where there is no section. -/
def Image.lcmdCfg (im : Image) (p : Nat) : LcmdCfg :=
  let r := recAt (im.pay 9) (16 * p) 16
  let fl := numAt r 0 1
  { en := flagOf fl 0, antEn := flagOf fl 1, liftEn := flagOf fl 2, driveId := numAt r 1 1, groups := numAt r 2 1
    hbTimeout := numAt r 4 2, tol := numAt r 6 2, vreqMask := numAt r 8 2 }

def Image.chainGroupRec (im : Image) (g : Nat) : List Byte := recAt (im.pay 8) (12 + 16 * g) 16

/-! ### Header and structure (R136, R137) -/

/-- A decision on an image: the RESULT's kind with the section type and the image offset of the first failure. -/
inductive Verdict where
  | ok
  | blank
  | crc
  | format (type off : Nat)
  | invalid (type off : Nat)
  | addr (off : Nat)
  /-- a required section is not there: no field of the image has failed -/
  | missing (type : Nat)
deriving DecidableEq, Repr

/-- The header read that found MAGIC, with the ADDR4 it stands for (R128). -/
def headerRead (f : FlashReads) : Option (Bool × List Byte) :=
  if hasMagic (flashAt f.hdr3 0 64) then some (false, flashAt f.hdr3 0 64)
  else if hasMagic (flashAt f.hdr4 0 64) then some (true, flashAt f.hdr4 0 64)
  else none

/-- A header read of 64 bytes of 0xFF. -/
def blankRead (bs : List Byte) : Bool := flashAt bs 0 64 == List.replicate 64 0xFF

/-- The read command of the image's transfer, by IOMODE and ADDR4 (R129). IOMODE 11 is reserved and selects none: the model reads such an image in
single mode, so that its field check gives CFG_INVALID (DESIGN CHOICE, log 123). -/
def readCommand (iomode : Nat) (addr4 : Bool) : Nat :=
  match iomode with
  | 1 => if addr4 then 0x3C else 0x3B
  | 2 => if addr4 then 0x6C else 0x6B
  | _ => if addr4 then 0x0C else 0x0B

/-- What the flash returns to a read command; nothing where it does not support it (R127). -/
def flashAnswer (f : FlashReads) (cmd : Nat) : List Byte := ((f.reads.find? (fun r => r.1 == cmd)).map (·.2)).getD []

/-- The image as read: the header read that found MAGIC, then bytes 64 to LENGTH − 1 (R129). -/
def imageBytes (hdr : List Byte) (f : FlashReads) : List Byte :=
  hdr ++ flashAt (flashAnswer f (readCommand (numAt hdr 6 2 / 2 % 4) (flagOf (numAt hdr 6 2) 0))) 64 (numAt hdr 8 4 - 64)

/-- The CRC field taken as zero (R131). -/
def crcInput (bs : List Byte) : List Byte := bs.take 12 ++ [0, 0, 0, 0] ++ bs.drop 16

/-- R136 with R128's ADDR4: the header's verdict, and the bytes to go on with. R136 has no place for the mismatch of ADDR4: the model judges it
once MAGIC is found, before LENGTH and CRC, since it decides how the rest is read (DESIGN CHOICE, log 123). -/
def judgeHeader (f : FlashReads) : Verdict × List Byte :=
  match headerRead f with
  | none => (if blankRead f.hdr3 && blankRead f.hdr4 then .blank else .format 0 0, [])
  | some (a4, h) =>
    let len := numAt h 8 4
    if flagOf (numAt h 6 2) 0 != a4 then (.format 0 6, [])
    else if !(inRange 64 262144 len) || len % 4 != 0 then (.format 0 8, [])
    else
      let bs := imageBytes h f
      if crc32 (crcInput bs) = wordAt h 12 then (.ok, bs) else (.crc, [])

/-- One section's own structure (R133, R134, R137), with the type of the section before it. -/
def sectionFault (prev : Nat) (s : Section_) : Option (Nat × Nat) :=
  if s.type < prev ∨ (s.type = prev ∧ (knownLength s.type).isSome) then some (s.type, s.off - 8)
  else if s.sflags / 2 != 0 then some (s.type, s.off - 5)
  else
    match knownLength s.type with
    | none => if s.sflags % 2 = 0 then some (s.type, s.off - 8) else if allZero s.pad then none else some (s.type, s.off + s.slen)
    | some n =>
      if s.sver ≠ 1 then some (s.type, s.off - 6)
      else if s.slen ≠ n then some (s.type, s.off - 4)
      else if allZero s.pad then none else some (s.type, s.off + s.slen)

/-- The first section out of order or broken; only an unknown type may appear more than once (R133). -/
def firstSectionFault : Nat → List Section_ → Option (Nat × Nat)
  | _, [] => none
  | prev, s :: rest =>
    match sectionFault prev s with
    | some e => some e
    | none => firstSectionFault s.type rest

/-- The required sections (R134). -/
def requiredTypes : List Nat := [1, 2, 3, 4, 5, 6, 7, 8, 11, 12]

/-- R137: the section structure. Where fewer than 8 bytes remain after the last section, no TYPE can be read: SECT_TYPE shows 0, and the offset is that of the
bytes that remain (DESIGN CHOICE, log 137). -/
def judgeStructure (bs : List Byte) : Verdict × Image :=
  let (ss, err) := sectionsFrom (bs.length / 8 + 1) 64 (bs.drop 64)
  let im : Image := ⟨bs.take 64, ss⟩
  match firstSectionFault 0 ss, err with
  | some (t, o), _ => (.format t o, im)
  | none, some o => (if o + 8 ≤ bs.length then .format (numAt bs o 2) (o + 4) else .format 0 o, im)
  | none, none =>
    if ss.length ≠ numAt im.hdr 18 2 then (.format 0 18, im)
    else match requiredTypes.find? (fun t => !im.has t) with
      | some t => (.missing t, im)
      | none => (.ok, im)

end Sys2Proof.Machine
end

