-- ==== Sys2Proof/Machine/Validate.lean ====
section
/-!
DEFINITION. The field and address checks of a configuration image (R135, R138, R139, R246, R262, R302, R321, R335 to R337, R369, R394,
R411, R412, R457, R466, R467, R523, R524, R562, R563, R641, R642, R688).
-/

namespace Sys2Proof.Machine

/-- A check: the payload offset of the field it is about, and whether it holds. -/
abbrev Check := Nat × Bool

/-- Checks of a record at an offset. -/
def checksAt (base : Nat) (cs : List Check) : List Check := cs.map (fun c => (base + c.1, c.2))

/-- The least offset of a failed check. -/
def firstFailed (cs : List Check) : Option Nat :=
  cs.foldl (fun a c => if c.2 then a else match a with
    | none => some c.1
    | some o => some (min o c.1)) none

/-- Fields of the given widths from an offset on must be zero: one check per field. -/
def zeroFields (r : List Byte) : Nat → List Nat → List Check
  | _, [] => []
  | o, w :: ws => (o, allZero (bytesAt r o w)) :: zeroFields r (o + w) ws

/-- A record of four-byte fields that must be zero. -/
def zeroWords (r : List Byte) : List Check := zeroFields r 0 (List.replicate (r.length / 4) 4)

/-- Bytes `o` to `o + n − 1` are zero. -/
def zeroBytes (r : List Byte) (o n : Nat) : Check := (o, allZero (bytesAt r o n))

/-- Groups of the device. -/
def groupNumbers : List Nat := [0, 1, 2, 3]

/-! ### DEVICE (R135) and the header's fields -/

/-- A text field: ASCII, and nothing but zeros after its first zero (R131). -/
def textOk (bs : List Byte) : Bool := bs.all (fun b => decide (b.toNat < 128)) && (bs.dropWhile (fun b => b != 0)).all (fun b => b == 0)

def Image.headerChecks (im : Image) : List Check :=
  [(6, im.flags < 16 && bitsOf im.flags 1 2 != 3), (18, inRange 1 64 (numAt im.hdr 18 2)), (32, textOk (bytesAt im.hdr 32 16)), zeroBytes im.hdr 48 16]

def Image.deviceChecks (im : Image) : List Check :=
  let r := im.pay 1
  [(0, numAt r 0 1 ≤ 1), (1, numAt r 1 1 < 16), (2, inRange 10 10000 (numAt r 2 2)), (4, inRange 10 1000 (numAt r 4 2)),
   (6, numAt r 6 1 ≤ 1), (7, numAt r 7 1 == 0)]

/-! ### PHASE_MAP (R262, R246) -/

/-- A trigger register's content (R257, R262). -/
def trigOk (w : Nat) : Bool :=
  let pos := bitsOf w 0 22
  onlyBits w [(30, 2), (0, 22)] &&
  (match bitsOf w 30 2 with
   | 0 => pos == 0
   | 1 => true
   | _ => pos < 256)

/-- One phase's record. T in R246 carries the dither fraction, so PHn_OFS may equal PERIOD where FRAC is above 0 (DESIGN CHOICE, log 142). -/
def Image.phaseChecks (im : Image) (n : Nat) : List Check :=
  let r := im.phaseRec n
  let g := numAt r 0 1
  if g = 7 then zeroFields r 1 [1, 1, 1, 4, 2, 2, 2, 2, 2, 1, 1, 1, 1, 1, 1, 4, 4, 4, 2, 2]
  else if 3 < g then [(0, false)]
  else
    let u := im.groupCfg g
    let c := im.phaseCfg n
    let fixed := u.mod == .fixedTe || u.mod == .fixedLe
    let t := u.period / 16
    [(1, c.rot < 24 && !((List.range n).any (fun m => numAt (im.phaseRec m) 0 1 == g && numAt (im.phaseRec m) 1 1 == c.rot))),
     (2, numAt r 2 1 ≤ 1 && (fixed || !c.bootEn)),
     (3, numAt r 3 1 == 0),
     (4, c.ofs < 2 ^ 22 && (!fixed || decide (c.ofs * 16 < u.period))),
     (8, inRange 77 4800 c.dtMin),
     (10, decide (c.dtInit ≤ c.dtMax) && decide (c.dtMax ≤ 4800) && (!fixed || decide (2 * c.dtMax + 768 ≤ t))),
     (12, decide (c.dtMin ≤ c.dtInit) && c.dtInit < 2 ^ 13),
     (14, inRange 39 384 c.dtMargin),
     (16, if c.bootEn then inRange 96 1200 c.bootW && (!fixed || decide (8 * c.bootW + 2 * c.dtMax + 384 ≤ t)) else c.bootW == 0),
     (18, if c.bootEn then inRange 1 255 c.bootN else c.bootN == 0),
     (19, if c.bootEn then inRange 1 64 c.bootM else c.bootM == 0),
     (21, inRange 1 255 c.tripK),
     (22, c.avgK ≤ 16),
     (23, c.curSel ≤ 2),
     (24, trigOk (numAt r 24 4)),
     (28, trigOk (numAt r 28 4)),
     (32, f32Nonzero c.scale),
     (36, decide (-256 ≤ c.offs) && decide (c.offs ≤ 255)),
     zeroBytes r 38 2]

def Image.phaseMapChecks (im : Image) : List Check :=
  let h := im.pay 2
  groupNumbers.map (fun g => (4 * g, if im.used g then f32Positive (wordAt h (4 * g)) else numAt h (4 * g) 4 == 0)) ++
  [(16, onlyBits (numAt h 16 4) [(8, 2), (0, 2)] && bitsOf (numAt h 16 4) 8 2 != 3)] ++
  (List.range 24).flatMap (fun n => checksAt (20 + 40 * n) (im.phaseChecks n))

/-! ### GROUPS (R302, R246, R283, R296, R321) -/

/-- The longest dead time of the group's phases. -/
def Image.dtMaxOf (im : Image) (g : Nat) : Nat := (im.phasesOf g).foldl (fun a n => max a (im.phaseCfg n).dtMax) 0

/-- One group's record. T in R246 carries the dither fraction, so a PERIOD of 1 920 000 FS with FRAC above 0 is refused (DESIGN CHOICE, log 142). -/
def Image.groupChecks (im : Image) (g : Nat) : List Check :=
  let r := im.groupRec g
  if !im.used g then zeroWords r
  else
    let u := im.groupCfg g
    let w (o : Nat) : Nat := numAt r o 4
    let fixed := u.mod == .fixedTe || u.mod == .fixedLe
    let dt := im.dtMaxOf g
    [(0, onlyBits (w 0) [(0, 4)] && (fixed || !u.span)),
     (4, if fixed then inRange (9600 * 16) (1920000 * 16) (w 4) else w 4 == 0),
     (8, if fixed then w 8 == 0
         else if u.mod = .cot then decide (384 ≤ w 8) && decide (w 8 + 2 * dt + 384 ≤ u.perMin)
         else decide (2 * dt + 384 ≤ w 8) && decide (w 8 + 384 ≤ u.perMin)),
     (12, if fixed then w 12 == 0 else decide (9600 ≤ w 12) && decide (w 12 ≤ w 16)),
     (16, if fixed then w 16 == 0 else decide (w 16 ≤ 1920000)),
     (20, onlyBits (w 20) [(0, 5)] && (im.has 10 || !u.chargeOk)),
     (24, onlyBits (w 24) [(16, 16), (0, 10)] && inRange 10 10000 u.preTmax && inRange 1 1000 u.preIlim),
     (28, onlyBits (w 28) [(0, 10)] && inRange 500 1000 u.preVend),
     (32, onlyBits (w 32) [(16, 16), (0, 10)] && inRange 1 10000 u.ssTmax && decide (u.ssIneg ≤ 1000)),
     (36, onlyBits (w 36) [(0, 10)] && inRange 1 1000 u.shdnRampT),
     (40, inRange 1 100 u.llEnter && decide (u.llEnter < u.llExit) && inRange 1 60000 u.llDwell),
     (44, onlyBits (w 44) [(8, 8), (0, 2)] && (match u.src with
        | 2 => fixed
        | 3 => !fixed
        | _ => true)),
     (48, onlyBits (w 48) [(4, 4)] && u.refSel != 3),
     (52, decide (w 52 < 65536) && decide (-512 ≤ u.offs) && decide (u.offs ≤ 511)),
     (56, decide (1 ≤ u.vslGain)),
     (60, f32Nonzero u.vScale),
     (64, onlyBits (w 64) [(0, 21)] && decide (u.avgK ≤ 16))]

/-- One auxiliary slot's record (R295 to R297). -/
def Image.slotChecks (im : Image) (s : Nat) : List Check :=
  let r := recAt (im.pay 3) (272 + 8 * s) 8
  let w := numAt r 0 4
  if !flagOf w 15 then zeroWords r
  else
    [(0, onlyBits w [(15, 5), (13, 2), (8, 3), (0, 5)] && decide (bitsOf w 16 4 ≤ 8) && bitsOf w 13 2 != 3 &&
        decide (bitsOf w 8 3 ≤ 4) && decide (bitsOf w 0 5 ≤ 23)),
     (4, bitsOf w 8 3 == 0 || numAt r 4 4 == 0)]

/-- A slot uses a linearisation table. -/
def Image.tableUsed (im : Image) (t : Nat) : Bool :=
  (List.range 24).any (fun s => let w := numAt (im.pay 3) (272 + 8 * s) 4; flagOf w 15 && bitsOf w 8 3 == t)

/-- One table's points: codes strictly ascend (R296). -/
def Image.tableChecks (im : Image) (t : Nat) : List Check :=
  let r := recAt (im.pay 3) (464 + 136 * (t - 1)) 136
  if !im.tableUsed t then zeroWords r
  else (List.range 17).map (fun k =>
    (8 * k, decide (numAt r (8 * k) 4 < 65536) && (k == 0 || decide (numAt r (8 * (k - 1)) 4 < numAt r (8 * k) 4))))

def Image.groupsChecks (im : Image) : List Check :=
  groupNumbers.flatMap (fun g => checksAt (68 * g) (im.groupChecks g)) ++
  (List.range 24).flatMap (fun s => checksAt (272 + 8 * s) (im.slotChecks s)) ++
  [1, 2, 3, 4].flatMap (fun t => checksAt (464 + 136 * (t - 1)) (im.tableChecks t))

/-! ### ENGINES (R304, R321, R326, R335) -/

/-- This device is a member, not the leader, of the spanning group. -/
def Image.memberOf (im : Image) (g : Nat) : Bool := (im.groupCfg g).span && !flagOf (numAt (im.chainGroupRec g) 0 1) 1

/-- The engines that name a group. -/
def Image.enginesOf (im : Image) (g : Nat) : List Nat :=
  [0, 1, 2, 3].filter (fun e => (im.engineCfg e).en && (im.engineCfg e).group == g)

/-- The output kind of an engine that drives the phases (R321). -/
def driverOut (m : Modulation) (o : OutKind) : Bool :=
  if m = .cot ∨ m = .coff then o == .ti else o == .on || o == .duty

/-- The phases of the group carry one ADC_PHn_SCALE (R321). -/
def Image.oneScale (im : Image) (g : Nat) : Bool :=
  match im.phasesOf g with
  | [] => true
  | n :: rest => rest.all (fun m => (im.phaseCfg m).scale == (im.phaseCfg n).scale)

/-- The group's engines form one of R321's arrangements. -/
def Image.arrangementOk (im : Image) (g : Nat) : Bool :=
  let u := im.groupCfg g
  match im.enginesOf g with
  | [e] =>
    let c := im.engineCfg e
    if im.memberOf g then
      c.measI && c.pair == .none && c.refSrc == 2 && !bankEmpty2 c && (c.out == .on || c.out == .duty) && !u.chargeOk && im.oneScale g
    else !c.measI && c.pair == .none && c.refSrc == 0 && !u.preEn && !u.chargeOk && !u.span && driverOut u.mod c.out
  | [a, b] =>
    let v := im.engineCfg a
    let i := im.engineCfg b
    (a % 2 == 0) && (b == a + 1) && !v.measI && i.measI && v.refSrc == 0 && im.oneScale g && !im.memberOf g &&
    ((v.pair == .cascade && i.pair == .cascade && v.out == .iref && i.refSrc == 1 && driverOut u.mod i.out && !u.chargeOk) ||
     (v.pair == .minSelect && i.pair == .minSelect && i.refSrc == 0 && i.vffMode == 0 && v.out == i.out &&
      (v.out == .on || v.out == .duty) && driverOut u.mod v.out && !u.span))
  | _ => false
where bankEmpty2 (c : EngineCfg) : Bool := c.banks[(2 : Fin 3)] == {}

/-- One coefficient bank at an offset: the top bytes zero, and a3 and b3 zero with ORDER = 0 (R304). -/
def bankChecks (r : List Byte) (o : Nat) (order : Bool) : List Check :=
  (List.range 7).map (fun k => (o + 4 * k, numAt r (o + 4 * k + 3) 1 == 0 && (order || !(k == 2 || k == 6) || numAt r (o + 4 * k) 4 == 0)))

/-- One engine's record. -/
def Image.engineChecks (im : Image) (e : Nat) : List Check :=
  let r := im.engineRec e
  let w := numAt r 0 4
  if !flagOf w 0 then zeroWords r
  else
    let c := im.engineCfg e
    let member := decide (c.group < 4) && im.memberOf c.group
    [(0, onlyBits w [(24, 3), (16, 5), (8, 7), (0, 7)] && decide (bitsOf w 24 3 ≤ 2) && decide (c.vffSrc ≤ 27) &&
        decide (c.group < 4) && im.used c.group && decide (c.refSrc ≤ 2) && decide (bitsOf w 8 2 ≤ 2) && decide (bitsOf w 4 3 ≤ 3) &&
        !flagOf w 3 && (c.vffMode == 0 || c.out == .on || c.out == .duty) && im.arrangementOk c.group),
     (4, decide (numAt r 4 4 < 2 ^ 21) && decide (c.yMin ≤ c.yMax) && (c.out != .iref || decide (-32767 ≤ c.yMin))),
     (8, decide (numAt r 8 4 < 2 ^ 21) && (c.out != .iref || decide (c.yMax ≤ 32767))),
     (12, numAt r 15 1 == 0),
     (16, numAt r 19 1 == 0 && (member || numAt r 16 4 == 0))] ++
    bankChecks r 20 c.order ++ bankChecks r 48 c.order ++ bankChecks r 76 c.order ++
    (if member then [] else (List.range 7).map (fun k => zeroBytes r (76 + 4 * k) 4))

def Image.enginesChecks (im : Image) : List Check :=
  [0, 1, 2, 3].flatMap (fun e => checksAt (104 * e) (im.engineChecks e)) ++
  (groupNumbers.filter (fun g => im.used g && (im.enginesOf g).isEmpty)).map (fun _ => (0, false))

/-! ### SETPOINTS (R336, R337) -/

/-- One set's record for a group. -/
def Image.setChecks (im : Image) (s g : Nat) : List Check :=
  let r := recAt (im.pay 5) (4 + 12 * (4 * s + g)) 12
  let k := im.setRec s g
  let must := im.used g && s == 0
  if k.defined then
    [(0, decide (k.pgLo ≤ k.target - k.lift.natAbs) && decide (k.target + k.lift.natAbs ≤ k.pgHi) &&
        decide (k.target + k.lift.natAbs < (im.groupCfg g).ovLevel)),
     (8, inRange 1 1048575 k.slew), (11, numAt r 11 1 ≤ 1)]
  else zeroFields r 0 [2, 2, 2, 2, 3, 1] ++ [(11, !must)]

def Image.setpointChecks (im : Image) : List Check :=
  groupNumbers.map (fun g => (g, !flagOf (numAt (im.pay 5) g 1) 3 && (!im.used g || (im.setRec (im.groupCfg g).defaultSet g).defined))) ++
  (List.range 16).flatMap (fun s => groupNumbers.flatMap (fun g => checksAt (4 + 12 * (4 * s + g)) (im.setChecks s g)))

/-! ### LIMITS (R394, R523, R524) -/

def Image.limitGroupChecks (im : Image) (g : Nat) : List Check :=
  let r := im.limitRec g
  if !im.used g then zeroFields r 0 [2, 2, 2, 2, 2, 2, 2, 2, 2, 1, 1, 2, 2, 8]
  else
    let u := im.groupCfg g
    [(0, decide (u.iLim ≤ 32767)), (2, decide (u.iFold ≤ u.iLim)), (4, decide (u.vKnee ≤ 32767)), (8, decide (u.ovClr < u.ovLevel)), (10, decide (u.ovWarn ≤ u.ovLevel)),
     (14, decide (u.otClr < u.otLevel)), (16, decide (u.otWarn ≤ u.otLevel)), (18, u.retryN ≤ 15), (19, numAt r 19 1 == 0),
     (20, inRange 1 60000 u.retryMs), (22, u.retryMask < 512), zeroBytes r 24 8]

def Image.limitChecks (im : Image) : List Check :=
  let d := recAt (im.pay 6) 128 16
  groupNumbers.flatMap (fun g => checksAt (32 * g) (im.limitGroupChecks g)) ++
  checksAt 128 [(0, decide (s16At d 0 ≤ 1250)), (2, decide (s16At d 2 < s16At d 0)), (4, decide (s16At d 4 ≤ s16At d 0)),
    (6, numAt d 6 1 ≤ 1), (7, numAt d 7 1 ≤ 15), (8, inRange 1 60000 (numAt d 8 2)), (10, onlyBits (numAt d 10 2) [(9, 3)]),
    zeroBytes d 12 4] ++
  (List.range 24).flatMap (fun n => let r := recAt (im.pay 6) (144 + 4 * n) 4
    checksAt (144 + 4 * n) [(0, numAt r 0 2 ≤ 2047), zeroBytes r 2 2])

/-! ### SHEDDING (R411, R412) -/

def Image.shedGroupChecks (im : Image) (g : Nat) : List Check :=
  let r := im.shedRec g
  if !im.used g then zeroFields r 0 [1, 1, 1, 1, 1, 1, 1, 1, 1, 1, 1, 1, 2, 2, 4, 4]
  else
    let u := im.groupCfg g
    let n := (im.phasesOf g).length
    [(0, inRange 1 200 u.addPct), (1, decide (u.shedPct ≤ 199) && decide (u.shedPct + u.hystPct < u.addPct)), (2, u.hystPct ≤ 50),
     (3, decide (u.addPct ≤ u.addFastPct)), (4, inRange 1 255 u.shedDwell), (5, inRange 1 255 u.shedRamp), (6, inRange 1 24 u.addBurst),
     (7, inRange 1 n u.phMinNom), (8, inRange 1 192 u.derMin && (u.span || decide (u.derMin ≤ n))), (9, inRange 50 100 u.derIlimPct),
     (10, numAt r 10 1 < 16), (11, inRange 1 255 u.trimStep), (12, inRange 1 4096 u.window), (14, inRange 1 2047 u.diagMin),
     (16, f32NonNeg u.balKi), (20, f32NonNeg u.balDb)]

def Image.shedPhaseChecks (im : Image) (n : Nat) : List Check :=
  let r := recAt (im.pay 7) (96 + 4 * n) 4
  let g := numAt (im.phaseRec n) 0 1
  let prio (m : Nat) : Nat := numAt (im.pay 7) (96 + 4 * m) 1
  [(0, if g = 7 then prio n == 0
       else prio n < 24 && !((List.range n).any (fun m => numAt (im.phaseRec m) 0 1 == g && prio m == prio n))), zeroBytes r 1 3]

def Image.shedChecks (im : Image) : List Check :=
  groupNumbers.flatMap (fun g => checksAt (24 * g) (im.shedGroupChecks g)) ++
  (List.range 24).flatMap (fun n => checksAt (96 + 4 * n) (im.shedPhaseChecks n))

/-! ### CHAIN (R457, R466, R467) -/

/-- The longest interval between the group's voltage conversions, in TK (R457): each trigger comes once in a period of the phase
that still switches, or SUB times, and every DEC-th counts. -/
def conversionInterval (u : GroupCfg) : Rat :=
  let t : Rat := (u.period : Rat) / 128
  if u.src = 2 then t / (u.sub + 1) * (u.dec + 1) else t * (u.dec + 1)

def Image.chainGroupChecks (im : Image) (g : Nat) : List Check :=
  let r := im.chainGroupRec g
  let u := im.groupCfg g
  if !u.span then zeroFields r 0 [1, 1, 1, 1, 4, 1, 7]
  else
    let leader := flagOf (numAt r 0 1) 1
    let eng := numAt r 3 1
    [(0, numAt r 0 1 < 4 && flagOf (numAt r 0 1) 0 && leader == (numAt r 1 1 == im.target) && im.target != 0xFF),
     (1, numAt r 1 1 < im.chainSize), (2, inRange 1 8 (numAt r 2 1)),
     (3, if leader then eng == 0xFF else eng < 4 && (im.enginesOf g).contains eng),
     (4, numAt r 4 4 < 2 ^ 26 && decide (numAt r 4 4 < u.period) && decide (conversionInterval u ≤ 96000)),
     zeroBytes r 9 7]

/-- The distinct leaders of the spanning groups. -/
def Image.leaders (im : Image) : Nat :=
  ((groupNumbers.filter (fun g => (im.groupCfg g).span)).map (fun g => numAt (im.chainGroupRec g) 1 1)).eraseDups.length

/-- The link load of R467. -/
def Image.linkLoad (im : Image) : Rat :=
  640 * ((im.leaders : Rat) / (numAt (im.pay 8) 2 2 : Rat) + ((im.chainSize : Rat) + 1) / 24000)

def Image.chainChecks (im : Image) : List Check :=
  let r := im.pay 8
  [(0, numAt r 0 1 == (if im.chainSize = 1 then 0 else 3)), (1, numAt r 1 1 == 0),
   (2, inRange 1200 24000 (numAt r 2 2) && decide (im.linkLoad ≤ 3 / 5)), (8, inRange 100 10000 (numAt r 8 2)), zeroBytes r 10 2] ++
  groupNumbers.flatMap (fun g => checksAt (12 + 16 * g) (im.chainGroupChecks g))

/-! ### LCMD (R369) -/

def Image.lcmdChecks (im : Image) : List Check :=
  [0, 1, 2, 3].flatMap (fun p => let r := recAt (im.pay 9) (16 * p) 16
    checksAt (16 * p) [(0, numAt r 0 1 < 8), (2, numAt r 2 1 < 16), (3, numAt r 3 1 == 0), (4, inRange 1 1000 (numAt r 4 2)),
      (6, numAt r 6 2 ≤ 1000), zeroBytes r 10 6]) ++
  groupNumbers.flatMap (fun g => let r := im.lcmdGroupRec g
    checksAt (64 + 12 * g) [(4, numAt r 4 4 < 2 ^ 20), (8, inRange 10 100 (numAt r 8 1)), (9, inRange 10 100 (numAt r 9 1)),
      zeroBytes r 10 2])

/-! ### GAUGE (R530, R531, R562, R563) -/

/-- BM_DIV fits the input (R220, R530, R531). -/
def bmDivOk (ext : Bool) (d : Nat) : Bool :=
  if ext then inRange 96 480 d && d % 2 == 0 && 600000 % d == 0 else d == 0

/-- The 21 voltages of a temperature ascend. -/
def ocvRowChecks (r : List Byte) (k : Nat) : List Check :=
  (List.range 21).map (fun j => let o := 76 + 42 * k + 2 * j; (o, j == 0 || decide (numAt r (o - 2) 2 < numAt r o 2)))

def Image.gaugeChecks (im : Image) : List Check :=
  let r := im.pay 10
  let chg := numAt r 3 1
  let chargeOk (g : Nat) : Bool := (im.groupCfg g).chargeOk
  ([(0, decide (numAt r 0 1 ≤ 1)), (1, decide (numAt r 1 1 ≤ 1)), (2, decide (numAt r 2 1 ≤ 27)),
   (3, (chg < 4 || chg == 0xFF) && groupNumbers.all (fun g => !chargeOk g || g == chg) && (chg == 0xFF || chargeOk chg)),
   (4, chg == 0xFF || numAt r 4 2 != 0), (6, inRange 1 255 (numAt r 6 1)), (7, inRange 50 100 (numAt r 7 1)),
   (8, f32Nonzero (wordAt r 8)), (12, decide (-65536 ≤ signedOf 32 (numAt r 12 4)) && decide (signedOf 32 (numAt r 12 4) ≤ 65535)),
   (16, f32Positive (wordAt r 16)), (20, f32Positive (wordAt r 20)), (24, f32Positive (wordAt r 24)), (28, f32Positive (wordAt r 28)),
   (32, f32Positive (wordAt r 32)), (36, f32Positive (wordAt r 36) && decide (f32 (wordAt r 36) ≤ 16777215 / 100)),
   (40, f32Positive (wordAt r 40)), (44, f32Positive (wordAt r 44)), (48, f32Positive (wordAt r 48)),
   (52, inRange 60 7200 (numAt r 52 2)), (54, inRange 10 3600 (numAt r 54 2)), (56, decide (s16At r 56 < s16At r 58)),
   (60, decide (numAt r 60 2 ≤ 1000)), (62, decide (numAt r 62 2 < 512) && bmDivOk (numAt r 0 1 == 1) (numAt r 62 2)),
   zeroBytes r 74 2, zeroBytes r 286 2] : List Check) ++
  (List.range 5).map (fun k => (64 + 2 * k, k == 0 || decide (s16At r (62 + 2 * k) < s16At r (64 + 2 * k)))) ++
  (List.range 5).flatMap (ocvRowChecks r)

/-! ### HOST_IDS (R602, R641, R642) -/

/-- Data bit timing (R602), by DBR: the range of DTSEG1, the limit of DSJW, and quanta of a bit less 1. -/
def dataRange : Nat → Nat × Nat × Nat × Nat
  | 0 => (23, 37, 16, 39)
  | 1 => (11, 17, 8, 19)
  | 2 => (9, 13, 8, 15)
  | _ => (5, 7, 4, 9)

/-- One port's record (R602, R642). -/
def portChecks (r : List Byte) : List Check :=
  let b (o : Nat) : Nat := numAt r o 1
  let en := flagOf (b 0) 0
  let fd := flagOf (b 0) 1
  let brs := flagOf (b 0) 2
  let (lo, hi, sj, q) := dataRange (b 4)
  [(0, decide (b 0 < 8) && (fd || !brs)),
   (1, b 1 < 4),
   (2, !en || inRange 47 77 (b 2)),
   (3, if en then inRange 1 32 (b 3) && decide (b 3 ≤ 79 - b 2) else b 3 < 64),
   (4, if brs then b 4 < 4 else b 4 == 0),
   (5, if brs then !en || inRange lo hi (b 5) else b 5 == 0),
   (6, if brs then (if en then inRange 1 sj (b 6) && decide (b 6 ≤ q - b 5) else b 6 < 32) else b 6 == 0),
   (7, if brs then b 7 < 64 else b 7 == 0)]

def Image.hostChecks (im : Image) : List Check :=
  let r := im.pay 12
  ([(0, decide (numAt r 0 2 < 2 ^ 13)), (2, inRange 10 1000 (numAt r 2 2)), (4, decide (numAt r 4 1 ≤ 8)), (5, numAt r 5 1 == 0),
   (6, inRange 1 60000 (numAt r 6 2)), (8, decide (numAt r 8 4 ≤ 1000000)), zeroBytes r 12 4,
   (16, flagOf (numAt r 16 1) 0 || flagOf (numAt r 24 1) 0)] : List Check) ++
  checksAt 16 (portChecks (recAt r 16 8)) ++ checksAt 24 (portChecks (recAt r 24 8))

/-! ### The verdict -/

/-- The checks of a section, by type. -/
def Image.checksOf (im : Image) (type : Nat) : List Check :=
  match type with
  | 0 => im.headerChecks
  | 1 => im.deviceChecks
  | 2 => im.phaseMapChecks
  | 3 => im.groupsChecks
  | 4 => im.enginesChecks
  | 5 => im.setpointChecks
  | 6 => im.limitChecks
  | 7 => im.shedChecks
  | 8 => im.chainChecks
  | 9 => im.lcmdChecks
  | 10 => im.gaugeChecks
  | 12 => im.hostChecks
  | _ => []

/-- The address step (R139, R688), with the straps. Of the two conditions on CHAIN_HEAD, where a strap and no field of the image is wrong, the
offset is TARGET_ADDR's for a head that is not at address 0 and CHAIN_SIZE's for a missing head (DESIGN CHOICE, log 123). -/
def Image.judgeAddress (im : Image) (addr : Address) (head : Bool) : Verdict :=
  let t := im.target
  if 8 ≤ t ∧ t ≠ 0xFF then .invalid 0 16
  else if !(inRange 1 8 im.chainSize) then .invalid 0 17
  else if t ≠ 0xFF ∧ t ≠ addr.val then .addr 16
  else if im.chainSize ≤ addr.val then .addr 17
  else if head ∧ addr ≠ 0 then .addr 16
  else if !head ∧ addr = 0 ∧ im.chainSize = 1 then .addr 17
  else .ok

/-- The first section, in ascending type, with a failed check. -/
def Image.judgeFields (im : Image) : List Nat → Verdict
  | [] => .ok
  | t :: ts =>
    if t = 0 ∨ im.has t then
      match firstFailed (im.checksOf t) with
      | some o => .invalid t (if t = 0 then o else im.off t + o)
      | none => im.judgeFields ts
    else im.judgeFields ts

/-- The configuration results in R688's order: header, structure, address, fields. -/
def judgeImage (f : FlashReads) (addr : Address) (head : Bool) : Verdict × Image :=
  match judgeHeader f with
  | (.ok, bs) =>
    match judgeStructure bs with
    | (.ok, im) =>
      match im.judgeAddress addr head with
      | .ok => (im.judgeFields [0, 1, 2, 3, 4, 5, 6, 7, 8, 9, 10, 12], im)
      | v => (v, im)
    | (v, im) => (v, im)
  | (v, _) => (v, ⟨[], []⟩)

end Sys2Proof.Machine
end

