-- ==== Sys2Proof/Machine/ImageLoad.lean ====
section
/-!
DEFINITION. The configuration load (R22, R134, R135, R262, R302, R335, R336, R369, R411, R466, R523, R562, R590, R641): the CFG fields of
every block take the image's values.
-/

namespace Sys2Proof.Machine

/-- One auxiliary slot (R302). -/
def Image.auxSlot (im : Image) (s : Nat) : AuxSlot :=
  let r := recAt (im.pay 3) (272 + 8 * s) 8
  let w := numAt r 0 4
  { en := flagOf w 15, avgK := bitsOf w 16 4, ref := bitsOf w 13 2, lin := bitsOf w 8 3, src := bitsOf w 0 5, scale := wordAt r 4 }

/-- One linearisation table (R296). -/
def Image.table (im : Image) (t : Nat) : Vector (Nat × Word) 17 :=
  Vector.ofFn (fun k : Fin 17 => let r := recAt (im.pay 3) (464 + 136 * t + 8 * k.val) 8; (numAt r 0 4, wordAt r 4))

/-- The settings of the GAUGE section (R562); GAUGE_CFG.EN shows that the image has one. -/
def Image.gaugeCfg (im : Image) : GaugeCfg :=
  let r := im.pay 10
  if !im.has 10 then {}
  else
    { en := true, ext := numAt r 0 1 == 1, learn := flagOf (numAt r 1 1) 0, vbatSrc := numAt r 2 1, chgGroup := numAt r 3 1 % 8
      tmask := numAt r 4 2, cells := numAt r 6 1, cyclePct := numAt r 7 1, scale := wordAt r 8, offs := signedOf 32 (numAt r 12 4)
      designAh := wordAt r 16, restI := wordAt r 20, stepI := wordAt r 24, termI := wordAt r 28, chgI := wordAt r 32, chgV := wordAt r 36
      zohm0 := wordAt r 40, zpol0 := wordAt r 44, taupol0 := wordAt r 48, restT := numAt r 52 2, termT := numAt r 54 2
      chgTMin := s16At r 56, chgTMax := s16At r 58, selfDis := numAt r 60 2
      ocvT := (List.range 5).map (fun k => s16At r (64 + 2 * k))
      ocv := (List.range 5).map (fun k => (List.range 21).map (fun j => numAt r (76 + 42 * k + 2 * j) 2)) }

/-- A CAN port's settings (R641). -/
def Image.loadPort (im : Image) (p : Nat) (u : CanUnit) : CanUnit :=
  let r := recAt (im.pay 12) (16 + 8 * p) 8
  let b (o : Nat) : Nat := numAt r o 1
  { u with en := flagOf (b 0) 0, fd := flagOf (b 0) 1, brs := flagOf (b 0) 2, nbr := b 1, ntseg1 := b 2, nsjw := b 3, dbr := b 4
           dtseg1 := b 5, dsjw := b 6, tdco := b 7 }

/-- HOST_IDS. -/
def Image.loadHost (im : Image) (u : HostUnit) : HostUnit :=
  let r := im.pay 12
  { u with netId := numAt r 0 2, dupMs := numAt r 2 2, streamMax := numAt r 4 1, streamMin := numAt r 6 2, streamBps := numAt r 8 4
           defaults := false
           ports := Vector.ofFn (fun p : Fin 2 => im.loadPort p.val u.ports[p]) }

/-- The default timing of R607: 500 kbit/s, TSEG1 63, SJW 16, FD without bit-rate switching. -/
def defaultPort (u : CanUnit) : CanUnit :=
  { u with en := true, fd := true, brs := false, nbr := 2, ntseg1 := 63, nsjw := 16, dbr := 0, dtseg1 := 0, dsjw := 0, tdco := 0 }

/-- The host port with the defaults of R607. -/
def HostUnit.defaultCfg (u : HostUnit) : HostUnit :=
  { u with netId := 0, dupMs := 100, streamMax := 0, streamMin := 0, streamBps := 0, defaults := true, ports := u.ports.map defaultPort }

/-- The chain's settings (R466). -/
def Image.loadSett (im : Image) (u : SettUnit) : SettUnit :=
  let r := im.pay 8
  { u with
    upEn := flagOf (numAt r 0 1) 0, dnEn := flagOf (numAt r 0 1) 1, shareInt := numAt r 2 2, build := wordAt r 4, formTmax := numAt r 8 2
    chainSize := im.chainSize
    groups := Vector.ofFn (fun g : Fin 4 =>
      let k := im.chainGroupRec g.val
      { u.groups[g] with
        span := flagOf (numAt k 0 1) 0, leader := flagOf (numAt k 0 1) 1, leaderAddr := Fin.ofNat 8 (numAt k 1 1), segMin := numAt k 2 1
        droopEng := numAt k 3 1, ofs := numAt k 4 4, devMask := numAt k 8 1 }) }

/-- DEVICE and the device record of LIMITS. A REFSEL of 1 disables the crystal amplifier; 0 changes nothing (R203). -/
def Image.loadSys (im : Image) (u : SysUnit) : SysUnit :=
  let d := im.pay 1
  let l := recAt (im.pay 6) 128 16
  { u with
    loaded := true, cfgVer := im.cfgVer, relHold := flagOf im.flags 3, shdnCut := numAt d 1 1, owlIdle := numAt d 2 2
    holdupCheck := numAt d 6 1 == 1, xoutOff := u.xoutOff || numAt d 0 1 == 1
    dieOt := s16At l 0, dieClr := s16At l 2, dieWarn := s16At l 4, alertEn := flagOf (numAt l 6 1) 0, retryN := numAt l 7 1
    retryMs := numAt l 8 2, retryMask := numAt l 10 2 }

/-- The configuration load of an image that passed every check. -/
def Chip.loadImage (im : Image) (c : Chip) : Chip :=
  let adc := numAt (im.pay 2) 16 4
  { c with
    sys := im.loadSys c.sys
    tb := { c.tb with refSel := numAt (im.pay 1) 0 1 == 1, bmDiv := if im.has 10 then numAt (im.pay 10) 62 2 else 0 }
    ph := Vector.ofFn (fun p : Fin 24 => { c.ph[p] with cfg := im.phaseCfg p.val })
    grp := Vector.ofFn (fun g : Fin 4 => { c.grp[g] with cfg := im.groupCfg g.val })
    le := Vector.ofFn (fun e : Fin 4 => { c.le[e] with cfg := im.engineCfg e.val })
    setpt := { c.setpt with sets := Vector.ofFn (fun s : Fin 16 => Vector.ofFn (fun g : Fin 4 => im.setRec s.val g.val)) }
    lcmd := Vector.ofFn (fun p : Fin 4 => { c.lcmd[p] with cfg := im.lcmdCfg p.val })
    refs := { c.refs with refPh := bitsOf adc 8 2, alignGv := flagOf adc 1, alignPh := flagOf adc 0 }
    aux := { c.aux with slots := Vector.ofFn (fun s : Fin 24 => im.auxSlot s.val), tables := Vector.ofFn (fun t : Fin 4 => im.table t.val) }
    snap := { c.snap with period := numAt (im.pay 1) 4 2 }
    sett := im.loadSett c.sett
    gauge := { c.gauge with cfg := im.gaugeCfg }
    nv := { c.nv with readPw := wordAt (im.pay 11) 0, writePw := wordAt (im.pay 11) 4 }
    host := im.loadHost c.host }

end Sys2Proof.Machine
end

