-- ==== Sys2Proof/Machine/Boot.lean ====
section
/-!
DEFINITION. Reset and BOOT (R112 to R156): what a reset leaves, and BOOT's seven steps. Steps 1 to 6 are the effect of the command that
starts a BOOT (power-on reset release, release of RST_N, the end of a SHUTDOWN); step 7 is BOOT_DONE.
-/

namespace Sys2Proof.Machine

/-! ### What a reset leaves -/

/-- The increments that the counter operation in progress records (R120). -/
def NvUnit.pendingInOp (u : NvUnit) : Vector Nat 16 :=
  match u.op with
  | some ⟨.counterBit k, _, _, _, _, _⟩ => (Vector.replicate 16 0).set k (u.burst k)
  | _ => Vector.replicate 16 0

/-- The NV store without Owl's SRAM: the data flash, and what AON holds (R116, R589, R592). An operation in progress completes (R120), its
answer lost. -/
def NvUnit.kept (u : NvUnit) : NvUnit :=
  { u with index := [], queue := [], op := u.op.map (fun o => { o with mute := true }), gc := false, carryAt := 0, fails := 0, readPw := 0, writePw := 0
           pending := u.pendingInOp }

/-- The data flash alone, after a loss of all power: an operation that has not ended leaves nothing visible. -/
def NvUnit.unpowered (u : NvUnit) : NvUnit := { u.kept with op := none, pending := Vector.replicate 16 0, locked := false, runMin := 0, onMin := 0, minSec := 0 }

/-- Commands, messages in reassembly, streams and the update session go with Owl's SRAM; both ports leave the bus (R115). -/
def HostUnit.kept (u : HostUnit) : HostUnit :=
  { u with
    rx := [], pending := [], aborts := [], reads := [], answers := [], recent := [], answered := [], lastValid := false, streams := Vector.replicate 8 none
    updOpen := false, updDone := false, updLen := 0, updBytes := 0, updMap := [], commitReq := none, commitDone := false, frameAt := 0
    ports := vmap u.ports (fun p => { p with st := .off, reasm := [], faults := [], overflow := false, rec_ := 0, tec := 0 }) }

/-- The CFG fields of a phase and of a group that lie in the AON domain: their values stand until the next load (R22, R116). -/
def PhaseCfg.aon (f : PhaseCfg) : PhaseCfg := { ocLevel := f.ocLevel }

def GroupCfg.aon (f : GroupCfg) : GroupCfg :=
  { iLim := f.iLim, iFold := f.iFold, vKnee := f.vKnee, ovLevel := f.ovLevel, ovClr := f.ovClr, ovWarn := f.ovWarn
    otLevel := f.otLevel, otClr := f.otClr, otWarn := f.otWarn, retryN := f.retryN, retryMs := f.retryMs, retryMask := f.retryMask }

/-- Every domain except AON is reset (R115, R116); TB_COUNT restarts, so stored ticks do. -/
def Chip.resetDomains (c : Chip) : Chip :=
  { c with
    tb := {}, ph := vmap c.ph (fun u => { cfg := u.cfg.aon }), grp := vmap c.grp (fun u => { cfg := u.cfg.aon })
    le := Vector.replicate 4 {}, setpt := {}
    lcmd := Vector.replicate 4 {}, refs := {}, aux := {}, snap := {}, cap := [], sweep := {}, gauge := {}, latch := Vector.replicate 4 {}
    sett := { addr := c.sett.addr, headStrap := c.sett.headStrap }
    trace := { sent := c.trace.sent }
    guards := vmap c.guards (fun g => { g with lastB := 0, faults := g.faults.map (fun f => { f with at_ := 0 }) })
    mbx := vmap c.mbx (fun m => { m with data := 0, arrive := false, empty := false })
    dom := Vector.ofFn (fun k : Fin 3 => ({ rings := c.dom[k].rings, up := k == coreIdx .owl && c.nv.op.isSome } : DomainUnit))
    nv := c.nv.kept
    log := c.log.stored c.logsInOp
    host := c.host.kept
    code := { c.code with writeReq := none }
    sys := { c.sys with dev := .boot, bootFrom := if c.sys.dev = .boot ∨ c.sys.dev = .off then c.sys.bootFrom else some c.sys.dev
                        enable := false, loaded := false, shdn := .none, shdnReq := [], shdnHold := false, shdnSkip := false, rstSeen := false
                        owlIdle := 0, shdnCut := 0, relHold := false, cfgVer := 0 } }

/-- The code flash as a loss of power finds it: where VIN falls in a BOOT whose step 4 has written the bank state, the loss may have cut that write, whose
entry then fails its CRC (R152). Whether it did is free (log 132). -/
def Chip.codeAtLoss (c : Chip) : CodeUnit :=
  if c.sys.dev = .boot ∧ c.code.stepWrite ∧ Config.openBool 33 c.draws then c.code.cutWrite else c.code

/-- Every domain loses power (R90, R110): the flashes keep their content. RST_N stays at its level, high where it has been released while the OWL
domain's reset waited. -/
def Chip.toOff (c : Chip) : Chip :=
  { nv := c.nv.unpowered, code := { c.codeAtLoss with writeReq := none }, draws := c.draws + 1
    log := { entries := (c.log.stored 0).entries, next := (c.log.stored 0).next }
    sys := { rstLow := c.sys.rstLow && c.sys.bootReq.isNone } }

/-! ### Steps 1 to 6 -/

/-- Why a BOOT runs (R112). -/
inductive BootKind where
  | power
  | pin
  | reboot
deriving DecidableEq, Repr

/-- A BOOT that follows another mode of the device is a mode change (R160, R196), reported as BOOT begins. -/
def Chip.bootChange (c : Chip) : Chip :=
  match c.sys.bootFrom with
  | some m =>
    let c := c.modeGrant 15 (devCode m) (devCode .boot) (causeCode .none) 0xFF
    { c with sys := { c.sys with bootFrom := none, modeSeq := c.eva.seq } }
  | none => c

/-- A VIN below VIN_WARN is always ride-through (R79): where the one before has ended in a SHUTDOWN, another begins with the BOOT (DEDUCED, log 124). -/
def Chip.bootRide (c : Chip) : Chip :=
  if c.sys.vinWarn && !c.sys.ride then ({ c with sys := { c.sys with ride := true } }).warn sysBlock 0x42 0xFF else c

/-- Step 1: straps, SYS_RST_CAUSE [3:1] (R112), and the faults that BOOT clears (R507). -/
def Chip.bootStep1 (k : BootKind) (b : BootInput) (c : Chip) : Chip :=
  let c := c.resetDomains
  let c := { c with
    sett := { c.sett with addr := b.addr, headStrap := b.head }
    sys := { c.sys with power := k == BootKind.power, rstPin := k == BootKind.pin, shdnReboot := k == BootKind.reboot
                        dev := .boot, rstLow := false, result := .ok, sectType := 0, offset := 0, check := 0, bootTime := 0
                        cfgReleased := false } }
  let c := c.bootChange.bootRide
  let c := [0x31, 0x32, 0x33, 0x34, 0x35, 0x36, 0x37].foldl (fun c code => c.autoClear sysBlock code) c
  c.autoClear tbBlock 0x29

/-- Capacitance in µF of a charge of VHOLD by 4.0 V in `ns` (R92). -/
def capOf (ns : Nat) : Nat := min 65535 (roundAway ((55 * ns : Nat) / 4000000 : Rat)).toNat

/-- Step 2: the rails are good, the CTRL, DATA and OWL domains up, the VHOLD charger started (R124, R86, R92), the timebase begun (R691)
and its state reported (R63). -/
def Chip.bootStep2 (b : BootInput) (c : Chip) : Chip :=
  let c := { c with
    sys := { c.sys with
      rails := true, railBad := false, charged := false, vholdCap := 0
      capTiming := b.vholdLow && b.crossing.isNone
      capEst := if b.vholdLow then b.crossing.map capOf else none }
    refs := { c.refs with vdda := true }
    setpt := { c.setpt with raw := b.vsel }
    tb := { c.tb with st := if b.refPresent then .acquire else .freerun, refPresent := b.refPresent } }
  ((c.grant 33 1).modDom (coreIdx .owl) (fun d => { d with up := true })).count 6 1

/-- Step 3: the scrub, the trace port with a SYNC record (R645, R649), and the timebase: it locks, or raises TB_NOREF where it has not by then
(R125, R208). -/
def Chip.bootStep3 (b : BootInput) (c : Chip) : Chip :=
  let c := { c with trace := { c.trace with running := true } }
  let c := c.pushTrace c.syncRecord
  if c.tb.st == .acquire && b.locked then { c with tb := { c.tb with st := .locked } }.grant 33 1 else c.faultB tbBlock 0x29 0xFF

/-- Step 4: the bank (R146 to R151). With no bank to run, BANK shows the last one, TRIAL and ATTEMPTS read 0: the spec gives them no value then
(DESIGN CHOICE, log 123). -/
def Chip.bootStep4 (k : BootKind) (c : Chip) : Chip :=
  let p := c.code.pick (k == BootKind.power)
  let i := match p.bank with
    | some b => p.code.info b
    | none => {}
  { c with
    code := p.code
    sys := { c.sys with bank := p.bank.getD p.code.last, trial := i.trial, attempts := i.attempts, fallback := p.fallback
                        result := if p.bank.isNone then .codeCorrupt else .ok } }

/-- SYS_RST_CAUSE. -/
def Chip.rstCause (c : Chip) : Word :=
  packWord [(5, 1, bit c.latched), (4, 1, bit c.sys.rstStuck), (3, 1, bit c.sys.shdnReboot), (2, 1, bit c.sys.rstPin), (1, 1, bit c.sys.power)]

/-- The code of a RESULT (R145). -/
def bootCode : BootResult → Nat
  | .ok => 0
  | .cfgBlank => 1
  | .cfgCrc => 2
  | .cfgFormat => 3
  | .cfgInvalid => 4
  | .cfgAddr => 5
  | .bootCompat => 6
  | .codeCorrupt => 7

/-- SYS_BOOT_STAT. -/
def Chip.bootStat (c : Chip) : Word :=
  packWord [(16, 16, (c.sys.bootTime : Int)), (13, 1, bit c.sys.cfgReleased), (12, 1, bit c.sys.fallback), (10, 2, (c.sys.attempts : Int)),
    (9, 1, bit c.sys.trial), (8, 1, bit c.sys.bank), (0, 8, (bootCode c.sys.result : Int))]

/-- The clean-shutdown marker of the previous power-on is there (R576). -/
def Chip.cleanMark (c : Chip) : Bool :=
  match c.nv.find keyMark with
  | some pay => numAt pay 0 4 == c.nv.counter 0 % 2 ^ 32
  | none => false

/-- Step 5, Owl's start: the index, the calendar after a power cycle (R597), the marker (R102, R576), the counters (R589), and the warnings
that wait for the log (R121, R148). -/
def Chip.owlStart (k : BootKind) (c : Chip) : Chip :=
  let half := c.nv.halfErased
  let c := { c with nv := { c.nv with index := c.nv.buildIndex, halfFound := half.length } }
  let c := c.nvQueue (half.flatMap c.nv.eraseOf)
  let c := if k = .power then
      let c := match c.nv.find keyStamp with
        | some pay => { c with cal := { c.cal with sec := numAt pay 0 5, stampAt := c.cal.up } }
        | none => c
      let c := if c.nv.readOnly then c.faultB nvsBlock 0x38 0xFF else c
      if c.cleanMark then c else (c.warn sysBlock 0x44 0xFF).bump 10 1
    else c
  let c := c.bump 0 1
  let c := if k = .power then c.bump 1 1 else c
  let c := if c.sys.fallback then (c.warn sysBlock 0x46 0xFF).bump 13 1 else c
  let c := if c.sys.stuckLog then ({ c with sys := { c.sys with stuckLog := false } }).warn sysBlock 0x45 0xFF else c
  match c.sys.lowLog with
  | some e => (({ c with sys := { c.sys with lowLog := none } }).pushLog e false).bump 4 1
  | none => c

/-- RESULT and what SYS_BOOT_DETAIL and SYS_BOOT_OFFSET show of a verdict (R145, R689); `n` is the free offset of a failure that
names no field. -/
def verdictOf (n : Nat) : Verdict → BootResult × Nat × Nat
  | .ok => (.ok, 0, 0)
  | .blank => (.cfgBlank, 0, 0)
  | .crc => (.cfgCrc, 0, 0)
  | .format t o => (.cfgFormat, t, o)
  | .invalid t o => (.cfgInvalid, t, o)
  | .addr o => (.cfgAddr, 0, o)
  | .missing t => (.cfgFormat, t, n % 2 ^ 18)

/-- CHECK of a result (R689): the number is the firmware release's own. -/
def Chip.checkOf (c : Chip) : BootResult → Nat
  | .cfgFormat | .cfgInvalid | .cfgAddr | .bootCompat => (Config.checkNumber c.draws).toNat % 65535 + 1
  | .ok | .cfgBlank | .cfgCrc | .codeCorrupt => 0

/-- The image's structure is sound, so Owl loads it in step 5. R124 loads before it validates and R142 leaves no group configured; the spec does not
say which failed BOOTs leave the CFG fields written: the model loads an image that only a field, an address or the compatibility check fails
(DESIGN CHOICE, log 123). -/
def loadable : BootResult → Bool
  | .ok | .cfgInvalid | .cfgAddr | .bootCompat => true
  | .cfgBlank | .cfgCrc | .cfgFormat | .codeCorrupt => false

/-- The estimate of R92 is written once step 5 has ended and VHOLD has crossed 12.0 V. -/
def Chip.writeCap (c : Chip) : Chip :=
  match c.sys.capEst with
  | some uf =>
    let c := { c with sys := { c.sys with capEst := none } }
    if c.sys.loaded && c.sys.holdupCheck then
      let c := { c with sys := { c.sys with vholdCap := uf } }
      if uf < 220 then c.warn sysBlock 0x43 0xFF else c
    else c
  | none => c

/-- Steps 5 and 6: the configuration load, the checks in R688's order, and the other cores (R28, R142). BOOT_COMPAT names CFGVER, at byte 4 of the
image, where its range is the first check of R141 that fails; the other two fail on no field of the image (R689). -/
def Chip.bootStep56 (k : BootKind) (b : BootInput) (c : Chip) : Chip :=
  if c.sys.result = .codeCorrupt then (c.modDom (coreIdx .badger) (fun d => { d with up := true })).writeCap
  else
    let c := c.owlStart k
    let (v, im) := judgeImage b.flash c.sett.addr c.sett.headStrap
    let (r, t, o) := verdictOf (Config.openNat 3 c.draws) v
    let fs := (bankImages (c.code.bankMem c.sys.bank)).getD []
    let (r, o) := if r = .ok ∧ !compatible fs c.sys.rev im.cfgVer then (BootResult.bootCompat, if sameSet fs && runsOn fs c.sys.rev then 4 else 0) else (r, o)
    let c := if loadable r then c.loadImage im else c
    let c := { c with sys := { c.sys with result := r, sectType := t, offset := o, check := c.checkOf r, loaded := loadable r }, draws := c.draws + 1 }
    let c := c.writeCap
    let c := c.modDom (coreIdx .badger) (fun d => { d with up := true })
    if r = .ok then (c.modDom (coreIdx .hedgehog) (fun d => { d with up := true })).count 6 1 else c

/-- Steps 1 to 6 of a BOOT. -/
def Chip.startBoot (k : BootKind) (b : BootInput) (c : Chip) : Chip :=
  ((((c.bootStep1 k b).bootStep2 b).bootStep3 b).bootStep4 k).bootStep56 k b

/-! ### Step 7 -/

/-- The device's end of BOOT (R194). -/
def Chip.bootEndMode (c : Chip) : DevMode := if c.latched then .safe else if c.sys.result = .ok then .perGroup else .standbyHeld

/-- The set that a group takes at the end of BOOT, its source and the EVSEQ of its selection, and whether an adopted value names an undefined set
(R344). -/
def Chip.startSet (c : Chip) (g : Group) : Nat × Nat × Word × Bool :=
  let u := (c.grp[g]).cfg
  if u.vselEn && c.setpt.adopted && !c.isMember g then
    (if (c.setRec g c.setpt.value.val).defined then (c.setpt.value.val, 1, c.setpt.vselSeq, false) else (u.defaultSet, 0, 0, true))
  else (u.defaultSet, 0, 0, false)

/-- A group at the end of BOOT: ENABLE and RUN_SEL from the image, and its first set. -/
def Chip.bootGroup (c : Chip) (g : Group) : Chip :=
  let (s, src, seq, bad) := c.startSet g
  let c := c.modGrp g (fun u => { u with enable := u.cfg.autoStart, runSel := u.cfg.runDefault })
  if (c.phasesOf g).isEmpty && !(c.sett.groups[g]).span then c
  else
    let c := c.select g s src seq
    if bad && !c.isMember g then c.warn (grpBlock g) 0x52 g.val else c

/-- The chain at the end of BOOT (R415, R444): enabled ports train. -/
def SettUnit.bootEnd (u : SettUnit) (now : Nat) (lead : Nat) : SettUnit :=
  let port (en : Bool) (p : SettPortUnit) : SettPortUnit :=
    { p with st := if en then .training else .disabled, trainEnd := now + u.formTmax * tkMs }
  if u.chainSize ≤ 1 then
    { u with bootAt := now, role := .single, st := .single, head := u.addr, ports := vmap u.ports (port false), formed := true }
  else
    { u with
      bootAt := now, st := .forming, role := if u.addr = 0 ∧ u.headStrap then .head else .member
      ports := #v[port u.upEn u.ports[(0 : Fin 2)], port u.dnEn u.ports[(1 : Fin 2)]]
      peers := vmod u.peers u.addr (fun p => { p with leads := lead }) }

/-- The groups this device leads, as a mask. -/
def Chip.ledGroups (c : Chip) : Nat := allGroups.foldl (fun a g => if c.isLeader g then a + 2 ^ g.val else a) 0

/-- The body of ANNOUNCE (R634), with the EVSEQ of BOOT_DONE. -/
def Chip.announceBody (c : Chip) (seq : Word) : List Byte :=
  leBytes 2 0x2408 ++ leBytes 2 c.sys.rev ++ [BitVec.ofNat 8 (bootCode c.sys.result), BitVec.ofNat 8 ((bit c.sys.bank).toNat),
    BitVec.ofNat 8 ((bit c.sys.trial + 2 * bit c.sys.fallback + 4 * bit c.latched + 8 * bit c.sys.test + 16 * bit c.host.defaults).toNat),
    BitVec.ofNat 8 ((bit c.sys.power + 2 * bit c.sys.rstPin + 4 * bit c.sys.shdnReboot).toNat)] ++
  leBytes 4 (if c.sys.result = .codeCorrupt then 0 else c.code.setIdOf c.sys.bank) ++ leBytes 2 c.sys.cfgVer ++ leBytes 2 0 ++
  leBytes 4 seq.toNat

/-- The enabled ports join the bus, with the FAULT frames that wait for them (R519, R604, R607); a disabled port has none to send. -/
def HostUnit.join (u : HostUnit) : HostUnit :=
  { u with ports := vmap u.ports (fun p => if p.en then { p with st := .active } else { p with faults := [], overflow := false }) }

/-- A GONE entry for what only BOOT ends (R502): BADGER_STALL and ECC_DED. -/
def Chip.bootGone (b : Block) (c : Chip) : Chip :=
  ((c.guards[b]).faults.filter (fun f => f.present && (f.code == 0x2C || f.code == 0x2D))).foldl (fun c f =>
    let c := c.modGuard b (fun g => { g with faults := g.faults.map (fun x =>
      if x.code = f.code ∧ x.unit = f.unit then { x with present := false } else x) })
    (c.grantAs b (guardInfo b .gone .b f.code 0 f.inj)).writeHist b .gone .b f.code f.unit 0 f.inj) c

/-- Slot 0 ends at S, the first multiple of 600 000 TK after BOOT (R534); with the direct input it is a chop slot (R535). -/
def GaugeUnit.bootEnd (u : GaugeUnit) (now : Nat) : GaugeUnit :=
  { u with s := (now / 600000 + 1) * 600000, slot := 0, chop := u.cfg.en && !u.cfg.ext }

/-- The firmware that runs after this BOOT writes the interrupt enables of every guard block (R497): Owl's unless the recovery service runs,
Badger's where its core is not held in reset (R142). Their values are the firmware's: free values. -/
def Chip.firmwareEnables (r : BootResult) (c : Chip) : Chip :=
  if r = .codeCorrupt then c
  else
    let v (b : Block) : BitVec 8 :=
      let x := Config.intEn b.val c.draws
      if r = .ok then x else (x &&& 0xF0) ||| ((c.guards[b]).intEn &&& 0x0F)
    let c := (List.finRange 45).foldl (fun c b => c.modGuard b (fun g => { g with intEn := v b })) c
    { c with draws := c.draws + 1 }

/-- A phase whose fault has outlived the reset (R116) is FAULTED from the end of BOOT on (R371). -/
def Chip.refault (c : Chip) : Chip :=
  (List.finRange 24).foldl (fun c (p : Phase) =>
    if (c.groupOf p).isSome && (c.guards[phBlock p]).faults.any (fun f => (faultPhase (phBlock p) f.code).isSome) then c.setPstate p .faulted
    else c) c

/-- BOOT_DONE (step 7): the mode and the boot fault, the pins, the event and ANNOUNCE. The pins are released after CODE_CORRUPT too, which is no
CFG_* result and has loaded no REL_HOLD (R144, R151; DESIGN CHOICE, log 123). -/
def Chip.bootDone (periods : Nat) (c : Chip) : Chip :=
  if c.sys.dev = .boot && c.sys.rails && !c.sys.rstLow && !c.sys.holdup then
    let r := c.sys.result
    let ok := decide (r = .ok)
    let c := ((List.finRange 45).foldl (fun c b => c.bootGone b) c).firmwareEnables r
    let c := if ok then c else c.faultB sysBlock (0x30 + bootCode r) 0xFF
    let c := c.enterDevice c.bootEndMode .bootEnd
    let c := if ok && c.sys.trial then
        let c := { c with code := c.code.confirm c.sys.bank, sys := { c.sys with trial := false, attempts := 0 } }
        c.bump 14 1
      else { c with code := c.code.eraseOther }
    let release := if ok || decide (r = .bootCompat) then !c.sys.relHold else true
    let c := { c with
      sys := { c.sys with bootTime := min 0xFFFF periods, cfgReleased := release, booted := true }
      host := (if ok ∨ r = .bootCompat then c.host else c.host.defaultCfg).join
      sett := if ok then c.sett.bootEnd c.tb.count c.ledGroups else { c.sett with bootAt := c.tb.count }
      gauge := c.gauge.bootEnd c.tb.count }
    let c := if ok then allGroups.foldl Chip.bootGroup c.refault else c
    let c := c.grant 44 2
    let body := c.announceBody c.eva.seq
    let c := (List.finRange 2).foldl (fun c p => if (c.host.ports[p]).en then c.unsolicited p 2 0x40 body else c) c
    let c := if r = .codeCorrupt then c
      else c.addLog 0x83 (bootCode r) 0 0xFF false false (leBytes 4 c.bootStat.toNat ++ leBytes 4 c.rstCause.toNat)
    let c := if c.sys.rideLimit then ({ c with sys := { c.sys with rideLimit := false, ride := false } }).requestShdn .ride else c
    c.tryStarts
  else c

def execBootDone (periods : Nat) (s : State) : Host.Outcome State Fault Refusal := .next (s.onChip (Chip.bootDone periods))

/-- A VIN that has not recovered at the release counts as fallen below VIN_WARN there (R690): the VIN_LOW entry has the stamps of its own grant, and waits
until Owl's log runs. -/
def Chip.lowAtPower (c : Chip) : Chip :=
  let c := c.warn sysBlock 0x42 0xFF
  { c with sys := { c.sys with lowLog := (c.log.entries.getLast?).map (·.2) } }

/-- POWER_ON_RESET_RELEASE: the calendar starts from 0 (R597), ride-through begins where VIN has not recovered (R690), the unlock window
opens with TMODE high (R525), and BOOT runs, or waits for RST_N (R123). -/
def Chip.powerOn (b : BootInput) (c : Chip) : Chip :=
  if c.sys.dev = .off then
    let c := { c.toOff with
      sys := { c.toOff.sys with dev := .boot, tmode := b.tmode, unlockOpen := b.tmode, ride := !b.vinRecovered, vinWarn := !b.vinRecovered }
      cal := { osc := b.rtc, coarse := !b.rtc }
      sett := { addr := b.addr, headStrap := b.head } }
    let c := if b.vinRecovered then c else c.lowAtPower
    if c.sys.rstLow then c else c.startBoot .power b
  else c

def execPowerOnResetRelease (b : BootInput) (s : State) : Host.Outcome State Fault Refusal :=
  .next (s.onChip (Chip.powerOn b))

/-! ### RST_N -/

/-- RST_N_ASSERT (R115, R119, R120): every domain but AON is reset and held; a SHUTDOWN in progress goes on, its outputs held off by the pads. -/
def Chip.rstAssert (c : Chip) : Chip :=
  if c.sys.rstLow then { c with sys := { c.sys with bootReq := none } }
  else if c.sys.dev = .off ∨ c.sys.dev = .shutdown then
    { c with sys := { c.sys with rstLow := true, rstSeen := true }
             host := { c.host with ports := vmap c.host.ports (fun p => { p with st := .off }) } }
  else { c.resetDomains with sys := { c.resetDomains.sys with rstLow := true } }

def execRstNAssert (s : State) : Host.Outcome State Fault Refusal := .next (s.onChip Chip.rstAssert)

/-- RST_N_RELEASE (R117, R119, R120, R123): BOOT starts once the SHUTDOWN, or the NV operation that holds up the OWL domain's reset,
has ended, and NV_OP_END then starts it; after a power-on reset whose BOOT has waited, it is that power cycle's. With hold-up active in BOOT the device
is on its way to OFF (R195), and the release is the pin's level at the next power-on (R123). -/
def Chip.rstRelease (b : BootInput) (c : Chip) : Chip :=
  if !c.sys.rstLow then c
  else if c.sys.dev = .boot ∧ c.sys.holdup then { c with sys := { c.sys with bootReq := some b } }
  else if c.sys.dev = .off then { c with sys := { c.sys with rstLow := false } }
  else if c.sys.dev = .shutdown then
    { c with sys := { c.sys with rstLow := false }, host := if c.sys.holdup then c.host else c.host.join }
  else if c.nv.op.isSome then { c with sys := { c.sys with bootReq := some b } }
  else c.startBoot (if c.sys.rails then .pin else .power) b

def execRstNRelease (b : BootInput) (s : State) : Host.Outcome State Fault Refusal := .next (s.onChip (Chip.rstRelease b))

/-- RST_STUCK (R121, R122): set once in a low time of RST_N, and logged after the next release. -/
def Chip.rstStuck (c : Chip) : Chip :=
  if c.powered && c.sys.rstLow && c.sys.bootReq.isNone && !c.sys.stuckLog then { c with sys := { c.sys with rstStuck := true, stuckLog := true } } else c

def execRstStuck (s : State) : Host.Outcome State Fault Refusal := .next (s.onChip Chip.rstStuck)

end Sys2Proof.Machine
end

