-- ==== Sys2Proof/Machine/Link.lean ====
section
/-!
DEFINITION. The Sett link as the chain's commands share it: the arrival, delivery and forwarding of a flit (R421 to R428), the credit books,
and what a device knows of the chain (R440, R441).
-/

namespace Sys2Proof.Machine

/-! ### What a device knows of the chain -/

/-- Code of SETT_TOPO.STATE. -/
def topoCode : TopoState → Nat
  | .single => 0
  | .forming => 1
  | .ring => 2
  | .line => 3
  | .island => 4

/-- STATE of SETT_x_STAT. -/
def portCode : PortState → Nat
  | .down => 0
  | .training => 1
  | .up => 2
  | .disabled => 3

/-- CAUSE of SETT_x_STAT. -/
def linkCode : LinkCause → Nat
  | .none => 0
  | .lock => 1
  | .crc => 2
  | .starved => 3
  | .holdup => 4
  | .miswire => 5
  | .build => 6
  | .timeout => 7

/-- Code of SETT_TOPO.ROLE. -/
def roleCode : Role → Nat
  | .member => 0
  | .head => 1
  | .localHead => 2
  | .single => 3

/-- A device counts itself reachable, and another while a flit from it has been delivered within the last 48 000 TK (R440). -/
def Chip.reachable (c : Chip) (a : Address) : Bool :=
  (a == c.sett.addr && c.sys.loaded) || match (c.sett.peers[a]).heard with
  | some t => decide (c.tb.count ≤ t + 48000)
  | none => false

/-- The reachable set, bit a for device a. -/
def Chip.reachNow (c : Chip) : Byte :=
  BitVec.ofNat 8 ((List.finRange 8).foldl (fun n a => if c.reachable a then n + 2 ^ a.val else n) 0)

/-- SETT_TOPO. -/
def Chip.settTopo (c : Chip) : Word :=
  packWord [(24, 8, (c.sett.gen.toNat : Int)), (16, 8, (c.reachNow.toNat : Int)), (9, 3, (c.sett.head.val : Int)), (6, 3, (c.sett.addr.val : Int)),
    (4, 2, (roleCode c.sett.role : Int)), (0, 3, (topoCode c.sett.st : Int))]

/-- The device is part of a chain of several and out of BOOT. -/
def Chip.chained (c : Chip) : Bool := c.ctrlUp && c.outOfBoot && decide (1 < c.sett.chainSize)

/-- A trace record of kind TOPO, made after the registers have changed (R648). -/
def Chip.topoGrant (input src info : Nat) (c : Chip) : Chip :=
  c.grantAs input { kind := .topo, src := src, info := info, data := c.settTopo }

/-- This device has the lowest address among those it counts as reachable (R452). -/
def Chip.lowestHere (c : Chip) : Bool := (List.finRange 8).all (fun a => !c.reachable a || decide (c.sett.addr ≤ a))

/-- Every device of the chain is reachable. -/
def Chip.allReachable (c : Chip) : Bool := (List.finRange 8).all (fun a => decide (c.sett.chainSize ≤ a.val) || c.reachable a)

/-! ### Credits (R427) -/

/-- CREDIT: `n` credits of a VC come back (R427); a sender never holds more than 8 (R428). -/
def Chip.credit (p : SettPort) (vc : Fin 4) (n : Nat) (c : Chip) : Chip :=
  if (c.sett.ports[p]).st = .up ∧ 1 ≤ n ∧ n ≤ 8 then
    (c.modPort p (fun u => { u with txCred := vmod u.txCred vc (fun k => min 8 (k + n)) })).serveNow p
  else c

def execCredit (p : SettPort) (vc : Fin 4) (n : Nat) (s : State) : Host.Outcome State Fault Refusal :=
  .next (s.onChip (Chip.credit p vc n))

/-- A flit of another device that has waited to be forwarded since tick `t` or longer. -/
def Waiting.stale (t : Nat) (w : Waiting) : Bool := w.held.isSome && decide (w.since ≤ t)

/-- FLIT_DROP: a flit that could not be forwarded by a port for 2400 TK is discarded and counted (R426). -/
def Chip.flitDrop (p : SettPort) (c : Chip) : Chip :=
  if c.tb.count < 2400 then c
  else match takeFirst (Waiting.stale (c.tb.count - 2400)) (c.sett.ports[p]).wait with
    | some (w, rest) =>
      (c.modPort p (fun u => { u with wait := rest, drops := satInc 0xFFFFFFFF u.drops })).freeBuffer w.held w.flit.body.vc
    | none => c

def execFlitDrop (p : SettPort) (s : State) : Host.Outcome State Fault Refusal := .next (s.onChip (Chip.flitDrop p))

/-! ### The arrival of a flit (R423, R424, R431) -/

/-- The body as it is forwarded: an EPOCH's CORR grows by the hop delay and the residence time, 1/16 FS (R431). -/
def FlitBody.forwarded (dly residence : Nat) : FlitBody → FlitBody
  | .epoch e => .epoch { e with corr := (e.corr + dly + residence) % 2 ^ 32 }
  | b => b

/-- A flit of the same SRC, VC and SEQ was delivered within the last 24 000 TK (R424). -/
def Chip.duplicate (c : Chip) (f : FlitHdr) (vc : Fin 4) : Bool :=
  (c.sett.peers[f.src]).seen.any (fun s => s.1 == vc.val && s.2.1 == f.seq && decide (c.tb.count ≤ s.2.2 + 24000))

/-- A delivered flit is remembered, and the source heard (R424, R440). -/
def PeerInfo.hear (vc : Fin 4) (seq now : Nat) (u : PeerInfo) : PeerInfo :=
  { u with heard := some now, seen := (vc.val, seq, now) :: u.seen.filter (fun s => decide (now ≤ s.2.2 + 24000)) }

/-- The port other than a given one. -/
def otherPort (p : SettPort) : SettPort := if p = 0 then 1 else 0

/-- A flit is forwarded out of the other port with HOPS incremented, but for the cases of R423. -/
def Chip.forwards (c : Chip) (f : FlitHdr) : Bool := f.dst != c.sett.addr.val && decide (f.hops < 7)

/-- A port sends its next flit without a wait: it is UP and idle, and holds a credit of the VC (R425). -/
def SettPortUnit.cutsThrough (vc : Fin 4) (now : Nat) (u : SettPortUnit) : Bool :=
  u.st == .up && decide (u.busyUntil ≤ now) && decide (0 < u.txCred[vc])

/-- A forwarded flit: HOPS one more, an EPOCH's CORR grown by the hop delay and the residence time. The residence is measured by the device and not given
(R431): a free value. -/
def Chip.forward (f : FlitHdr) (b : FlitBody) (cut : Bool) (c : Chip) : Chip :=
  let r := c.draw 31
  r.2.transmit (some f.port) (otherPort f.port) ⟨f.src, f.dst, f.hops + 1, f.seq, b.forwarded (c.sett.ports[f.port]).dly r.1, cut⟩

/-- A flit that ends badly is discarded (R423, R426): a bad CRC is counted, K30.7 is not one (DEDUCED, log 144). Where its forwarding had begun by then, it
leaves with K30.7 in place of its CRC. -/
def Chip.spoiled (f : FlitHdr) (b : FlitBody) (c : Chip) : Chip :=
  let c := if f.crc = .bad then
      (c.modPort f.port (fun u => { u with crcErr := satInc 0xFFFF u.crcErr, badAt := (c.tb.count :: u.badAt).take 3 })).count 25 1
    else c
  if f.src ≠ c.sett.addr ∧ c.forwards f ∧ (c.sett.ports[otherPort f.port]).cutsThrough b.vc c.tb.count then c.forward f b true
  else c.returnCredit f.port b.vc

/-- A flit arrives at a port (R421 to R426): the block after it, and whether it is delivered to this device. A flit of its own that comes back has gone right
round, so every link is UP (R423, R444). -/
def Chip.receive (f : FlitHdr) (b : FlitBody) (c : Chip) : Chip × Bool :=
  if !c.ctrlUp || c.sys.holdup || (c.sett.ports[f.port]).st != .up then (c, false)
  else if f.crc != .good then (c.spoiled f b, false)
  else
    let c := (c.modPort f.port (fun u => { u with rx := u.rx + 1 })).count 24 1
    if f.src = c.sett.addr then ((c.onSett (fun u => { u with linksUp := true })).returnCredit f.port b.vc, false)
    else
      let c := c.modPeer f.src (fun q => if f.port = 0 then { q with viaUp := true } else { q with viaDn := true })
      if c.duplicate f b.vc then (c.returnCredit f.port b.vc, false)
      else
        let c := if c.forwards f then c.forward f b false else c.returnCredit f.port b.vc
        if f.dst = c.sett.addr.val || f.dst == 15 then (c.modPeer f.src (PeerInfo.hear b.vc f.seq c.tb.count), true)
        else (c, false)

/-- A flit whose delivery is an event of its own (VC2 and VC3): what its delivery does, after the grant. -/
def Chip.deliver3 (f : FlitHdr) (b : FlitBody) (act : Chip → Chip) (c : Chip) : Chip :=
  let r := c.receive f b
  if r.2 then act (r.1.grant 36 1) else r.1

/-- A flit of VC2: one whose TYPE has no name is discarded at its delivery (R482). -/
def Chip.deliver2 (f : FlitHdr) (b : FlitBody) (act : Chip → Chip) (c : Chip) : Chip :=
  match f.unnamed with
  | some x => c.deliver3 f (.unnamed x) id
  | none => c.deliver3 f b act

/-! ### The bytes of a flit (R421, R422, R430, R438, R440, R482) -/

/-- TYPE of a flit. -/
def FlitBody.type : FlitBody → Nat
  | .epoch _ => 0x01
  | .share _ => 0x10
  | .report _ => 0x11
  | .swReq .. => 0x20
  | .swSetup .. => 0x21
  | .swAck .. => 0x22
  | .swDone .. => 0x23
  | .swAbort .. => 0x24
  | .swEnd .. => 0x25
  | .unnamed x => 0x26 + x.val
  | .linkDown .. => 0x30
  | .topo _ => 0x31
  | .headClaim _ => 0x32
  | .modeOrder .. => 0x33
  | .setOrder .. => 0x34
  | .selFwd .. => 0x35
  | .fcastFwd .. => 0x36
  | .phFloor .. => 0x37
  | .phaseLost _ => 0x38
  | .resume _ => 0x39
  | .deviceSafe => 0x3A
  | .leadClaim _ => 0x3B

/-- The descriptor's 32 bytes (R468). -/
def descBytes (d : SweepDesc) : List Byte :=
  [BitVec.ofNat 8 d.group, BitVec.ofNat 8 d.mode] ++ leBytes 2 d.points ++ leBytes 4 d.fStart ++ leBytes 4 d.fStop ++ leBytes 2 d.settle ++
  leBytes 2 d.dwell ++ leBytes 2 d.ampStart ++ leBytes 2 d.ampStop ++ bytesAt d.reserved 0 12

/-- The `n` low bytes of a two's-complement number. -/
def leInt (n : Nat) (x : Int) : List Byte := leBytes n (x % ((2 ^ (8 * n) : Nat) : Int)).toNat

/-- The payload of an EPOCH (R430). -/
def epochBytes (e : EpochPay) : List Byte :=
  leBytes 8 e.tstamp ++ leBytes 4 e.corr ++ leInt 4 e.slope ++ [BitVec.ofNat 8 e.head.val, BitVec.ofNat 8 e.role, BitVec.ofNat 8 e.topoGen]

/-- One group's record of a SHARE (R438); zero where none follows. -/
def shareRecBytes (r : ShareRec) : List Byte :=
  if r.present then
    leInt 2 r.iref ++ [BitVec.ofNat 8 (modeCode r.mode), BitVec.ofNat 8 r.set, BitVec.ofNat 8 r.healthy, BitVec.ofNat 8 (bit r.valid).toNat, 0, 0]
  else List.replicate 8 0

/-- The payload of a SHARE (R438). -/
def shareBytes (r : SharePay) : List Byte :=
  let mask := (List.finRange 4).foldl (fun n g => if (r.recs[g]).present then n + 2 ^ g.val else n) 0
  leBytes 8 r.ct ++ [BitVec.ofNat 8 mask, 0, 0, 0] ++ r.recs.toList.flatMap shareRecBytes

/-- One group's record of a REPORT (R440). -/
def reportRecBytes (r : ReportRec) : List Byte :=
  [BitVec.ofNat 8 r.assigned, BitVec.ofNat 8 r.healthy, BitVec.ofNat 8 r.switching,
    BitVec.ofNat 8 (bit r.onLocal + 2 * bit r.droop + 4 * bit r.safe).toNat] ++ leInt 2 r.iMean ++ [0, 0] ++ leBytes 4 r.pAvg.toNat

/-- The first four bytes of every payload of VC2 (R482). -/
def sweepHead (tag : Nat) (orig : Address) (g : Nat) : List Byte := leBytes 2 tag ++ [BitVec.ofNat 8 orig.val, BitVec.ofNat 8 g]

/-- The bytes of a payload that the spec lays out; those of VC3 and of a TYPE without a name it does not (log 145). -/
def FlitBody.laidOut (src : Address) : FlitBody → Option (List Byte)
  | .epoch e => some (epochBytes e)
  | .share r => some (shareBytes r)
  | .report r => some (r.toList.flatMap reportRecBytes)
  | .swReq tag d => some (sweepHead tag src d.group ++ descBytes d)
  | .swSetup tag orig d t0 => some (sweepHead tag orig d.group ++ descBytes d ++ leBytes 8 t0)
  | .swAck tag orig g answer => some (sweepHead tag orig g.val ++ [BitVec.ofNat 8 answer])
  | .swDone tag orig g written => some (sweepHead tag orig g.val ++ leBytes 2 written)
  | .swAbort tag orig g cause => some (sweepHead tag orig g.val ++ [BitVec.ofNat 8 cause])
  | .swEnd tag orig g aborted cause => some (sweepHead tag orig g.val ++ [BitVec.ofNat 8 (bit aborted).toNat, BitVec.ofNat 8 cause])
  | .unnamed _ | .linkDown .. | .topo _ | .headClaim _ | .modeOrder .. | .setOrder .. | .selFwd .. | .fcastFwd .. | .phFloor .. | .phaseLost _
  | .resume _ | .deviceSafe | .leadClaim _ => none

/-- The 56 bytes of a flit's PAYLOAD (R421), zero past what is laid out; those that the spec does not lay out are free values. -/
def Flit.payload (f : Flit) : List Byte :=
  match f.body.laidOut f.src with
  | some bs => bytesAt bs 0 56
  | none => (List.range 56).map (fun i => BitVec.ofNat 8 (Config.openNat 100 (f.body.type * 64 + i)))

/-- HDR of a flit (R421). -/
def Flit.hdr (f : Flit) : Nat := f.src.val * 2 ^ 21 + f.dst * 2 ^ 17 + f.hops * 2 ^ 14 + f.body.type * 2 ^ 8 + f.seq

/-- The 60 bytes under the CRC: the VC number stands for the start code (R421). -/
def Flit.covered (f : Flit) : List Byte := BitVec.ofNat 8 f.body.vc.val :: leBytes 3 f.hdr ++ f.payload

/-- The 64 code groups of a flit on the line (R417, R421): the start code of its VC, the bytes, and the CRC-32, least significant byte first, or K30.7 in its place
(R426). -/
def Flit.codeGroups (f : Flit) : List CodeGroup :=
  let crc : List CodeGroup := if f.cut then List.replicate 4 .k30 else (leBytes 4 (crc32 f.covered).toNat).map .data
  .k28 (f.body.vc.castLE (by decide)) :: (f.covered.drop 1).map .data ++ crc

end Sys2Proof.Machine
end

