-- ==== Sys2Proof/Machine/Sweep.lean ====
section
/-!
DEFINITION. Frequency-response sweeps (chapter 10 of the spec): the frequency plan, capture memory, the points, how a sweep ends, and the
chain-wide protocol.
-/

namespace Sys2Proof.Machine

/-! ### The frequency plan (R471 to R473) -/

/-- The greatest `m` below `2 ^ n` bits with `m ^ k ≤ x`, found bit by bit. -/
def rootFloor (k x : Nat) : Nat → Nat → Nat
  | 0, m => m
  | n + 1, m => rootFloor k x n (if (m + 2 ^ n) ^ k ≤ x then m + 2 ^ n else m)

/-- The IEEE 754 double nearest the n-th root of `x`, ties to even, for a root of at least 1 and below 2^53. -/
def rootDouble (n x : Nat) : Rat :=
  let e := Nat.log2 (rootFloor n x 53 0)
  let k := 52 - e
  let m := rootFloor n (x * 2 ^ (k * n)) 53 0
  let half := x * 2 ^ ((k + 1) * n)
  let up := decide ((2 * m + 1) ^ n < half) || (decide ((2 * m + 1) ^ n = half) && decide (m % 2 = 1))
  ((if up then m + 1 else m : Nat) : Rat) / ((2 ^ k : Nat) : Rat)

/-- The nearest integer, halves to even. -/
def roundEven (q : Rat) : Int :=
  let f := q.floor
  let r := q - f
  if r < 1 / 2 then f else if 1 / 2 < r then f + 1 else if f % 2 = 0 then f else f + 1

/-- A positive rational rounded to a double, ties to even (R471). -/
def roundDouble (q : Rat) : Rat :=
  if q ≤ 0 then 0 else
    let s := pow2 (52 - log2Rat q)
    (roundEven (q * s) : Rat) / s

/-- f_i in mHz, as a double (R471). -/
def planFreq (d : SweepDesc) (i : Nat) : Rat :=
  if d.points ≤ 1 then (d.fStart : Rat) else rootDouble (d.points - 1) (d.fStart ^ (d.points - 1 - i) * d.fStop ^ i)

/-- INC_i (R471): 2.4 GHz is 2.4 × 10^12 mHz. -/
def planInc (d : SweepDesc) (i : Nat) : Nat :=
  (roundEven (roundDouble (planFreq d i * ((2 ^ 48 : Nat) : Rat) / 2400000000000))).toNat

/-- The amplitude of point i (R472). -/
def planAmp (d : SweepDesc) (i : Nat) : Nat :=
  if d.points ≤ 1 then d.ampStart
  else (roundAway ((d.ampStart : Rat) + ((d.ampStop : Rat) - (d.ampStart : Rat)) * (i : Rat) / ((d.points - 1 : Nat) : Rat))).toNat

/-- ceil(cycles × 2^48 / INC). -/
def cycleTicks (cycles inc : Nat) : Nat := (cycles * 2 ^ 48 + inc - 1) / inc

/-- W_i (R473). -/
def planWindow (d : SweepDesc) (i : Nat) : Nat := cycleTicks (d.settle + d.dwell) (planInc d i)

/-- T_end less T_0 (R473). -/
def planLength (d : SweepDesc) : Nat :=
  (List.range d.points).foldl (fun a i => a + planWindow d i + 24000) 0

/-! ### The checks of a sweep (R469) -/

/-- Every field is in the range of R468. -/
def descOk (d : SweepDesc) : Bool :=
  let point := d.mode % 4
  decide (d.group < 4) && decide (d.mode < 8) && (point == 1 || point == 2) && decide (1 ≤ d.points) && decide (d.points ≤ 256) &&
  decide (10000 ≤ d.fStart) && decide (d.fStart ≤ 500000000) && decide (d.fStart ≤ d.fStop) && decide (d.fStop ≤ 500000000) &&
  (d.points == 1 || decide (d.fStart < d.fStop)) && decide (d.settle < 65536) && decide (4 ≤ d.dwell) && decide (d.dwell < 65536) &&
  decide (1 ≤ d.ampStart) && decide (d.ampStart ≤ 32767) && decide (1 ≤ d.ampStop) && decide (d.ampStop ≤ 32767) && allZero d.reserved

/-- The inner engine is meant (R468). -/
def descInner (d : SweepDesc) : Bool := d.mode / 4 % 2 == 1

/-- The longest interval between accepted conversions at the present phase count, in TK (R283, R284, R469). -/
def Chip.acceptedInterval (c : Chip) (g : Group) : Rat :=
  let u := (c.grp[g]).cfg
  let n := max 1 (c.counting g).length
  let t : Rat := if isFixed u.mod then (u.period : Rat) / 128 else (u.perMax : Rat) / 8
  let cand := t / ((if u.src = 2 then u.sub + 1 else n : Nat) : Rat) * ((u.dec + 1 : Nat) : Rat)
  if cand ≤ 0 then 0 else cand * (max 1 (ceilRat (150 / cand)) : Rat)

/-- R469's conditions on the descriptor, up to the mode. -/
def Chip.sweepParams (c : Chip) (g : Group) (d : SweepDesc) : Bool :=
  let iv := c.acceptedInterval g
  !(descInner d && c.pairing g != .cascade && !c.isMember g) &&
  decide ((d.fStop : Rat) / 1000 * iv ≤ 2 / 5 * 2400000000) && decide ((d.settle + d.dwell) * 1000 ≤ 60 * d.fStart)

/-- The refusal of a sweep by R469, if any. -/
def Chip.sweepRefusal (c : Chip) (d : SweepDesc) : Option Result :=
  if !descOk d then some .paramRange
  else
    let g : Group := Fin.ofNat 4 d.group
    if !c.sweepParams g d then some .paramRange
    else if (c.grp[g]).mode ≠ .regulate then some .wrongMode
    else if c.sweep.st != .idle || c.sweep.cap == .running then some .sweepBusy
    else none

/-- The engine that injects on this device (R468, R483): none on a member with ENGINE = 0. -/
def Chip.sweepEngine (c : Chip) (g : Group) (d : SweepDesc) : Option Engine :=
  if descInner d then c.currEngine g else if c.isMember g then none else c.outerEngine g

/-- A sweep is booked on this device; a completed sweep that owns capture memory is to be released first (R478). -/
def Chip.bookSweep (g : Group) (d : SweepDesc) (tag : Nat) (orig : Address) (chain : Bool) (c : Chip) : Chip :=
  let e := c.sweepEngine g d
  { c with sweep := { c.sweep with
    st := .setup, done := 0, next := 0, left := false, point := 0, chain := chain, orig := orig == c.sett.addr, group := g, tag := tag, origAddr := orig, desc := d
    engine := e, tNext := 0, tStart := 0, inc := 0, t0Known := false, tOpen := 0, tClose := 0, windowOpen := false, fClamp := false
    fTb := false, fNr := false, request := false, abortReq := [], releaseReq := c.sweep.cap == .completed } }

/-! ### Capture memory (R478 to R481) -/

/-- Bytes written to capture memory. -/
def Chip.capWrite (a : Nat) (bs : List Byte) (c : Chip) : Chip := { c with cap := memWriteBytes 0 c.cap a bs }

/-- A number written to capture memory, little-endian. -/
def Chip.capPut (a n v : Nat) (c : Chip) : Chip := c.capWrite a (leBytes n v)

/-- CAP_GRANT: capture memory goes to the booked sweep, the sweep range is cleared and the header written. -/
def Chip.capGrant (c : Chip) : Chip :=
  let u := c.sweep
  if u.st = .setup && u.cap == .nobody then
    let c := c.grant 55 0
    let c := { c with sweep := { u with cap := .running, capTag := u.tag, capOrig := u.origAddr, capChain := u.chain }, cap := memErase c.cap 0 0x40FF }
    (((((c.capPut 0 2 u.tag).capPut 2 1 1).capPut 4 4 c.eva.seq.toNat).capPut 14 1 c.sett.addr.val).capPut 15 1 u.origAddr.val
      |>.capPut 16 8 u.tNext).capPut 24 1 (match u.engine with
        | some e => e.val
        | none => 0xFF)
      |>.capWrite 32 (descBytes u.desc)
  else c

def execCapGrant (s : State) : Host.Outcome State Fault Refusal := .next (s.onChip Chip.capGrant)

/-- CAP_RELEASE: the memory belongs to nobody. -/
def Chip.capRelease (c : Chip) : Chip :=
  if c.sweep.releaseReq && c.sweep.cap != .nobody then
    let c := c.grant 55 0
    { c with sweep := { c.sweep with cap := .nobody, capTag := 0, releaseReq := false } }
  else c

def execCapRelease (s : State) : Host.Outcome State Fault Refusal := .next (s.onChip Chip.capRelease)

/-- Every entry takes VALID = 0 (R488). -/
def Chip.voidEntries : Nat → Chip → Chip
  | 0, c => c
  | n + 1, c =>
    let a := 0x100 + 64 * n + 3
    Chip.voidEntries n { c with cap := memWrite 0 c.cap a (memRead 0 c.cap a &&& 0x7F) }

/-- The header of a sweep that has ended (R488). -/
def Chip.capEnd (aborted : Bool) (cause points : Nat) (c : Chip) : Chip :=
  let c := ((c.capPut 2 1 (if aborted then 3 else 2)).capPut 3 1 cause).capPut 8 4 c.eva.seq.toNat
  if aborted then c.voidEntries points else c

/-! ### The points (R473 to R477, R484) -/

/-- The sweep's time base at the present: TB_COUNT, or chain time. -/
def Chip.sweepLocal (c : Chip) (t : Nat) : Nat := if c.sweep.chain then c.localOf t else t

/-- INJ_INC of a point: scaled to local ticks for a chain-wide sweep (R484). -/
def Chip.sweepInc (c : Chip) (inc : Nat) : Nat :=
  if c.sweep.chain then (roundAway ((inc : Rat) * c.sett.ratio)).toNat else inc

/-- SWEEP_POINT_START at tick `t` = T_i: the sine source is loaded and the accumulators cleared (R474). The T_0 of a sweep of one device, which
the spec does not give, is the tick of its first point. -/
def Chip.pointStart (t : Nat) (c : Chip) : Chip :=
  let u := c.sweep
  let c1 := c.elapseTo t
  let i := u.next
  if (u.st = .setup ∨ u.st = .running) && u.cap == .running && u.capTag == u.tag && !u.windowOpen && decide (i < u.desc.points) && c.ctrlUp &&
      (if u.t0Known then t == c1.sweepLocal u.tNext else !u.chain) then
    let c := c1
    let tOwn := if u.t0Known then u.tNext else t
    let inc := planInc u.desc i
    let w := planWindow u.desc i
    let c := if u.t0Known then c else c.capPut 16 8 t
    let tOpen := c.sweepLocal (tOwn + cycleTicks u.desc.settle inc)
    let tClose := c.sweepLocal (tOwn + w)
    let c := { c with sweep := { u with
      st := .running, point := i, t0 := t, t0Known := true, tStart := tOwn, tNext := tOwn + w + 24000, inc := inc, tOpen := tOpen
      tClose := tClose, windowOpen := true, fClamp := false, fTb := false, fNr := false } }
    match u.engine with
    | some e =>
      if (c.grp[u.group]).mode = .sweep ∧ !u.left then
        let n := c.sweepInc inc
        c.modLe e (fun k => { k with inj :=
          { point := u.desc.mode % 4, amp := planAmp u.desc i, inc := n, t0 := t, clamped := k.inj.clamped } })
      else c
    | none => c
  else c

def execSweepPointStart (t : Nat) (s : State) : Host.Outcome State Fault Refusal := .next (s.onChip (Chip.pointStart t))

/-- At an EPOCH during a point, which lasts until the next one starts or the sweep ends (R474), INJ_T0 and INJ_INC are computed again with the phase at that
tick unchanged, and with them T_i as SWEEP_T0 shows it and a window still open (R484, R490). -/
def Chip.resyncSweep (c : Chip) : Chip :=
  let u := c.sweep
  if u.chain && (u.st == .running || u.st == .ending) && u.inc != 0 then
    let n := c.sweepInc u.inc
    let c := { c with sweep := { u with
      t0 := c.localOf u.tStart
      tOpen := if u.windowOpen then c.localOf (u.tStart + cycleTicks u.desc.settle u.inc) else u.tOpen
      tClose := if u.windowOpen then c.localOf (u.tStart + planWindow u.desc u.point) else u.tClose } }
    match u.engine with
    | some e => c.modLe e (fun k =>
        if k.inj.point = 0 ∨ n = 0 then k
        else
          let turns : Rat := ((k.inj.inc : Int) * ((c.tb.count : Int) - (k.inj.t0 : Int)) : Int)
          { k with inj := { k.inj with inc := n, t0 := ((c.tb.count : Int) - roundAway (turns / (n : Rat))).toNat } })
    | none => c
  else c

/-- T = −P1 / P2 and P2 (R476) from the accumulators; none where P2 is zero, which the spec leaves open. -/
def Injection.gain (i : Injection) : Option (Rat × Rat) :=
  let a := i.x1c
  let b := i.x1s
  let x := i.x2c
  let d := i.x2s
  let q : Rat := ((x * x + d * d : Int) : Rat)
  if q = 0 then none else some (-((a * x + b * d : Int) : Rat) / q, -((a * d - b * x : Int) : Rat) / q)

/-- A phasor component 2 × s / (32 768 × N), none without an evaluation (R476). -/
def Injection.phasor (i : Injection) (s : Int) : Option Rat :=
  if i.n = 0 then none else some (2 * (s : Rat) / (32768 * (i.n.toNat : Rat)))

/-- A value in single precision, or a free word where the spec gives none. -/
def Chip.singleOr (c : Chip) (k : Nat) (x : Option Rat) : Nat :=
  match x with
  | some q => (toF32 q).toNat
  | none => Config.openNat k c.draws % 2 ^ 32

/-- The entry of a point (R477, R479), STATUS written last. -/
def Chip.writeEntry (i : Nat) (inc amp : Nat) (j : Injection) (c : Chip) : Chip :=
  let u := c.sweep
  let a := 0x100 + 64 * i
  let g := j.gain
  let low (x : Int) : Nat := (x % ((2 ^ 64 : Nat) : Int)).toNat
  let body := leBytes 4 (toF32 ((inc : Rat) * 2400000000 / ((2 ^ 48 : Nat) : Rat))).toNat ++ leBytes 4 j.n.toNat ++ leBytes 4 amp ++
    leBytes 4 (c.singleOr 45 (g.map (·.1))) ++ leBytes 4 (c.singleOr 46 (g.map (·.2))) ++
    leBytes 4 (c.singleOr 47 (j.phasor j.x2c)) ++ leBytes 4 (c.singleOr 48 ((j.phasor j.x2s).map (fun x => -x))) ++
    leBytes 8 (low j.x1c) ++ leBytes 8 (low j.x1s) ++ leBytes 8 (low j.x2c) ++ leBytes 8 (low j.x2s)
  let status := packWord [(31, 1, 1), (30, 1, bit j.sat), (29, 1, bit u.fClamp), (28, 1, bit u.fTb), (27, 1, bit u.fNr), (0, 8, (i : Int))]
  (c.capWrite (a + 4) body).capWrite a (leBytes 4 status.toNat)

/-- A participant has written its last entry: COMPLETE is requested, or SW_DONE goes to the originator (R485, R487). -/
def Chip.lastPoint (written : Nat) (c : Chip) : Chip :=
  let u := c.sweep
  if !u.chain then { c with sweep := { u with st := .ending, request := true } }
  else
    let c := { c with sweep := { u with st := .ending } }
    if u.orig then
      let left := u.donesLeft.filter (· != c.sett.addr)
      { c with sweep := { c.sweep with donesLeft := left, request := left.isEmpty } }
    else c.sendFlit u.origAddr.val (.swDone u.tag u.origAddr u.group written)

/-- SWEEP_WINDOW_CLOSE: the point's result is written (R475), on a device that injects. -/
def Chip.windowClose (c : Chip) : Chip :=
  let u := c.sweep
  if u.st = .running && u.windowOpen && decide (u.tClose ≤ c.tb.count) then
    let c := match u.engine with
      | some e =>
        let j := (c.le[e]).inj
        let c := c.writeEntry u.point u.inc (planAmp u.desc u.point) j
        ({ c with draws := c.draws + 1 }.capPut 12 2 (u.done + 1)).modLe e (fun k => { k with inj := { k.inj with run := false } })
      | none => c
    let written := if u.engine.isSome then u.done + 1 else u.done
    let c := { c with sweep := { c.sweep with windowOpen := false, done := written, next := u.next + 1 } }
    if u.desc.points ≤ u.next + 1 then c.lastPoint written else c
  else c

def execSweepWindowClose (s : State) : Host.Outcome State Fault Refusal := .next (s.onChip Chip.windowClose)

/-! ### How a sweep ends (R486 to R489) -/

/-- The group leaves SWEEP where the end's cause takes it to REGULATE; the other causes have moved it already (R486). A member waits for its
leader's order (R197). -/
def Chip.sweepGroupEnd (g : Group) (c : Chip) : Chip :=
  let c := c.modEngines g EngineUnit.endInjection
  if (c.grp[g]).mode = .sweep && c.decides g && c.sys.dev == .perGroup then c.changeMode g .regulate .sweepEnd else c

/-- The result code of an end report (R489). -/
def sweepResult (cause : Nat) : Result := if cause = 0 then .ok else if cause = 2 then .sweepAbortedLink else .sweepAborted

/-- The head or local head of the segment reports a sweep that a broken link has ended (R460, R489). -/
def Chip.reportsLink (c : Chip) (orig : Address) : Bool :=
  c.sett.role == .single || ((c.sett.role == .head || c.sett.role == .localHead) && c.reachable orig)

/-- The end report that this device owes the host (R489). That of a broken link is kept until it is known who reports it: a device of the segment may yet
become its local head (R460). -/
def Chip.oweReport (tag cause points : Nat) (orig : Address) (c : Chip) : Chip :=
  if (if cause = 2 then c.reportsLink orig else orig == c.sett.addr) then
    { c with sweep := { c.sweep with owed := c.sweep.owed ++ [(tag, cause, points, orig, c.eva.seq)] } }
  else if cause = 2 ∧ c.sett.role = .member then
    { c with sweep := { c.sweep with linkOwed := c.sweep.linkOwed ++ [(tag, points, orig, c.eva.seq)] } }
  else c

/-- A new local head takes over the reports of the sweeps whose originating device its segment holds (R460). -/
def Chip.takeLinkOwed (c : Chip) : Chip :=
  let mine := c.sweep.linkOwed.filter (fun o => c.reachable o.2.2.1)
  { c with sweep := { c.sweep with owed := c.sweep.owed ++ mine.map (fun o => (o.1, 2, o.2.1, o.2.2.1, o.2.2.2)), linkOwed := [] } }

/-- A SWEEP_START that still waits for the head (R483) is answered when its sweep ends first: SWEEP_BUSY where the head refused it, else with
the code of the end (DESIGN CHOICE, log 42). -/
def Chip.refuseStart (cause : Nat) (c : Chip) : Chip :=
  match c.host.sweepCmd with
  | some h => ({ c with host := { c.host with sweepCmd := none } }).done h (if cause = 0x0B then .sweepBusy else sweepResult cause) []
  | none => c

/-- A sweep of this device has ended at the last grant. -/
def Chip.endSweep (aborted : Bool) (cause : Nat) (c : Chip) : Chip :=
  let u := c.sweep
  if u.st = .idle then c
  else
    let owns := u.cap == .running && u.capTag == u.tag
    let c := if owns then c.capEnd aborted cause u.desc.points else c
    let c := { c with sweep := { c.sweep with
      st := .idle, request := false, abortReq := [], windowOpen := false, donesLeft := []
      cap := if owns && !aborted then .completed else u.cap
      releaseReq := if owns && aborted then true else if owns then false else u.releaseReq && u.cap == CapState.completed
      aborted := if aborted then u.aborted + 1 else u.aborted
      completed := if aborted then u.completed else u.completed + 1
      completedTags := if aborted || !u.orig then u.completedTags else u.completedTags ++ [u.tag]
      headTag := if u.headTag = some (u.tag, u.origAddr) then none else u.headTag
      lastTag := u.tag, lastCause := cause, endSeq := c.eva.seq } }
    let c := c.oweReport u.tag cause u.done u.origAddr
    let c := c.refuseStart cause
    c.sweepGroupEnd u.group

/-- The tag that an ABORT or SWEEP_ABORT names. -/
def HostCmd.target (h : HostCmd) : Nat := numAt h.body 0 2

/-- A SWEEP_ABORT that waits for the grant of its ABORT, of the sweep with a tag. -/
def abortsSweep (tag : Nat) (a : Operation × Option HostCmd) : Bool :=
  a.1 == .sweep && match a.2 with
    | some h => h.target == tag
    | none => true

/-- The host commands that wait for the ABORT of a sweep are answered at its grant (R70). -/
def Chip.answerSweep (tag : Nat) (r : Result) (c : Chip) : Chip :=
  let mine := c.host.aborts.filter (abortsSweep tag)
  let c := { c with host := { c.host with aborts := c.host.aborts.filter (fun a => !abortsSweep tag a) } }
  mine.foldl (fun c a => match a.2 with
    | some h => c.done h r []
    | none => c) c

/-- COMPLETE of a sweep at its grant (R69, R487): the originator of a chain-wide one broadcasts the outcome. An ABORT that is still to be granted
comes late. -/
def Chip.completeSweep (c : Chip) : Chip :=
  if c.sweep.st != .idle && c.sweep.request then
    let u := c.sweep
    let c := c.grant 55 0
    let c := if u.chain then c.broadcast (.swEnd u.tag u.origAddr u.group false 0) else c
    c.endSweep false 0
  else c

/-- An ABORT granted after COMPLETE changes nothing, and its command is answered ALREADY_DONE (R69). -/
def Chip.lateSweepAbort (c : Chip) : Chip :=
  match c.host.aborts.find? (fun a => a.1 == Operation.sweep) with
  | some a =>
    let c := { (c.grant 55 0) with host := { c.host with aborts := c.host.aborts.erase a } }
    (match a.2 with
      | some h => c.done h .alreadyDone []
      | none => c)
  | none => c

/-- A chain-wide sweep that this device has asked for ends before it has taken it up, at the last grant (R483, R489). -/
def Chip.endAsk (tag cause : Nat) (c : Chip) : Chip :=
  let c := { c with sweep := { c.sweep with
    ask := none, askAbort := [], aborted := c.sweep.aborted + 1, lastTag := tag, lastCause := cause, endSeq := c.eva.seq } }
  ((c.oweReport tag cause 0 c.sett.addr).refuseStart cause).answerSweep tag .ok

/-- An ABORT of a sweep at its grant: for the first cause that stands (R70, R487), of a sweep asked for (R483), or of one that has ended (R69). -/
def Chip.abortSweepGrant (c : Chip) : Chip :=
  match c.sweep.ask, c.sweep.askAbort, c.sweep.abortReq with
  | some tag, cause :: _, _ => (c.grant 55 0).endAsk tag cause
  | _, _, [] => c.lateSweepAbort
  | _, _, cause :: _ =>
    if c.sweep.st = .idle then c.lateSweepAbort
    else
      let u := c.sweep
      let c := c.grant 55 0
      let c := if u.chain && u.orig then c.broadcast (.swEnd u.tag u.origAddr u.group true cause) else c
      (c.endSweep true cause).answerSweep u.tag .ok

/-- A broken link ends every chain-wide sweep of this device, at the last grant, with no SW_END awaited (R460, R489); a head that takes no part in
the sweep still reports it. -/
def Chip.linkAbort (c : Chip) : Chip :=
  let t := c.sweep.headTag
  let c := { c with sweep := { c.sweep with headTag := none, acksLeft := [], ackBad := false } }
  let asked := c.sweep.ask
  let c := match asked with
    | some tag => c.endAsk tag 2
    | none => c
  if c.sweep.st != .idle && c.sweep.chain then (c.endSweep true 2).answerSweep c.sweep.tag .ok
  else match t with
    | some (tag, orig) => if asked = some tag ∧ orig = c.sett.addr then c else c.oweReport tag 2 0 orig
    | none => c

/-! ### The chain-wide protocol (R482 to R487) -/

/-- The devices that carry a group and are reachable, by their last REPORT and this device's own phases (R483). -/
def Chip.participants (c : Chip) (g : Group) : List Address :=
  (List.finRange 8).filter (fun a =>
    if a = c.sett.addr then !(c.phasesOf g).isEmpty && (c.sett.groups[g]).span
    else c.reachable a && (c.sett.peers[a]).reportAt.isSome && decide (0 < ((c.sett.peers[a]).reports[g]).assigned))

/-- The code of a participant's answer in SW_ACK (R482). -/
def ackCode : Option Result → Nat
  | none => 0
  | some .sweepBusy => 1
  | some .wrongMode => 2
  | some _ => 3

/-- The head hears an answer (R483). -/
def Chip.takeAck (src : Address) (tag : Nat) (orig : Address) (answer : Nat) (c : Chip) : Chip :=
  if c.sweep.headTag = some (tag, orig) then
    { c with sweep := { c.sweep with acksLeft := c.sweep.acksLeft.filter (· != src), ackBad := c.sweep.ackBad || answer != 0 } }
  else c

/-- The originator of the running chain-wide sweep of this tag. -/
def Chip.originates (c : Chip) (tag : Nat) : Bool := c.sweep.st != .idle && c.sweep.chain && c.sweep.orig && c.sweep.tag == tag

/-- SW_SETUP at a participant (R483): its checks, its answer, and where it accepts, the booking; the leader moves the group to SWEEP, and the
originator, which asked for it, answers its host. -/
def Chip.setupSweep (tag : Nat) (orig : Address) (d : SweepDesc) (t0 : Nat) (c : Chip) : Chip :=
  let g : Group := Fin.ofNat 4 d.group
  if !(c.sett.groups[g]).span || (c.phasesOf g).isEmpty then c
  else
    let mine := orig == c.sett.addr && c.sweep.ask == some tag
    let r := c.sweepRefusal d
    let c := if mine then
        (match c.host.sweepCmd with
          | some h => ({ c with host := { c.host with sweepCmd := none } }).done h .ok []
          | none => c)
      else c
    let c := if c.sett.head = c.sett.addr then c.takeAck c.sett.addr tag orig (ackCode r)
      else c.sendFlit c.sett.head.val (.swAck tag orig g (ackCode r))
    if r.isSome then c
    else
      let asked := if mine then c.sweep.askAbort else []
      let c := c.bookSweep g d tag orig true
      let c := { c with sweep := { c.sweep with
        ask := if mine then none else c.sweep.ask, askAbort := if mine then [] else c.sweep.askAbort
        abortReq := asked, tNext := t0, t0Known := true, donesLeft := if mine then c.participants g else [], tEnd := t0 + planLength d } }
      if c.decides g then c.changeMode g .sweep .sweepStart else c

/-- An ABORT that the head or a participant sends reaches the originator (R483, R487): of its running sweep, or of the one it has asked for. -/
def Chip.hearAbort (tag cause : Nat) (c : Chip) : Chip :=
  if c.sweep.ask = some tag then { c with sweep := { c.sweep with askAbort := c.sweep.askAbort ++ [cause] } }
  else if c.originates tag then { c with sweep := { c.sweep with abortReq := c.sweep.abortReq ++ [cause] } }
  else c

/-- The head schedules a sweep, or refuses it with BUSY (R483). -/
def Chip.headSweep (src : Address) (tag : Nat) (d : SweepDesc) (c : Chip) : Chip :=
  let g : Group := Fin.ofNat 4 d.group
  if c.sweep.headTag.isSome then
    (if src = c.sett.addr then c.hearAbort tag 0x0B else c.sendFlit src.val (.swAbort tag src g 0x0B))
  else
    let t0 := (((c.chainTime128 + 127) / 128).toNat + 2400000 + 23999) / 24000 * 24000
    let c := { c with sweep := { c.sweep with
      headTag := some (tag, src), headGroup := g, headT0 := t0, acksLeft := c.participants g, ackBad := false } }
    let c := c.broadcast (.swSetup tag src d t0)
    c.setupSweep tag src d t0

/-- The originator asks the head for a chain-wide sweep (R483); it takes it up at the delivery of SW_SETUP. -/
def Chip.askSweep (tag : Nat) (d : SweepDesc) (c : Chip) : Chip :=
  let c := { c with sweep := { c.sweep with ask := some tag, askAbort := [] } }
  if c.sett.head = c.sett.addr then c.headSweep c.sett.addr tag d else c.sendFlit c.sett.head.val (.swReq tag d)

/-- This device schedules the chain's sweeps. -/
def Chip.isHead (c : Chip) : Bool := c.sett.role == .head || c.sett.role == .localHead

/-- The head acts as one: with a port UP and its chain time not yet set it acts as a member (R463). -/
def Chip.actsHead (c : Chip) : Bool := c.isHead && (c.sett.role == .localHead || c.sett.ctSet || c.sett.ports.toList.all (fun p => p.st != .up))

/-- SW_REQ delivered. -/
def Chip.swReqIn (f : FlitHdr) (tag : Nat) (d : SweepDesc) (c : Chip) : Chip :=
  c.deliver2 f (.swReq tag d) (fun c => if c.actsHead then c.headSweep f.src tag d else c)

def execSwReq (f : FlitHdr) (tag : Nat) (d : SweepDesc) (s : State) : Host.Outcome State Fault Refusal :=
  .next (s.onChip (Chip.swReqIn f tag d))

/-- SW_SETUP delivered. -/
def Chip.swSetupIn (f : FlitHdr) (tag : Nat) (orig : Address) (d : SweepDesc) (t0 : Nat) (c : Chip) : Chip :=
  c.deliver2 f (.swSetup tag orig d t0) (Chip.setupSweep tag orig d t0)

def execSwSetup (f : FlitHdr) (tag : Nat) (orig : Address) (d : SweepDesc) (t0 : Nat) (s : State) : Host.Outcome State Fault Refusal :=
  .next (s.onChip (Chip.swSetupIn f tag orig d t0))

/-- SW_ACK delivered. -/
def Chip.swAckIn (f : FlitHdr) (tag : Nat) (orig : Address) (g : Group) (answer : Nat) (c : Chip) : Chip :=
  c.deliver2 f (.swAck tag orig g answer) (Chip.takeAck f.src tag orig answer)

def execSwAck (f : FlitHdr) (tag : Nat) (w : SweepOwner) (answer : Nat) (s : State) : Host.Outcome State Fault Refusal :=
  .next (s.onChip (Chip.swAckIn f tag w.orig w.group answer))

/-- SWEEP_SETUP_TIMEOUT: an answer refused, or absent 240 000 TK before T_0, aborts the sweep with REFUSED (R483). -/
def Chip.setupTimeout (c : Chip) : Chip :=
  match c.sweep.headTag with
  | some (tag, orig) =>
    if c.sweep.ackBad || (!c.sweep.acksLeft.isEmpty && decide (((c.sweep.headT0 - 240000 : Nat) : Int) * 128 ≤ c.chainTime128)) then
      let c := { c with sweep := { c.sweep with acksLeft := [], ackBad := false, headTag := none } }
      if orig = c.sett.addr then c.hearAbort tag 9 else c.sendFlit orig.val (.swAbort tag orig c.sweep.headGroup 9)
    else c
  | none => c

def execSweepSetupTimeout (s : State) : Host.Outcome State Fault Refusal := .next (s.onChip Chip.setupTimeout)

/-- SW_DONE delivered: COMPLETE is requested at the last (R485). -/
def Chip.swDoneIn (f : FlitHdr) (tag : Nat) (orig : Address) (g : Group) (written : Nat) (c : Chip) : Chip :=
  c.deliver2 f (.swDone tag orig g written) (fun c =>
    if c.originates tag && orig == c.sett.addr then
      let left := c.sweep.donesLeft.filter (· != f.src)
      { c with sweep := { c.sweep with donesLeft := left, request := c.sweep.request || left.isEmpty } }
    else c)

def execSwDone (f : FlitHdr) (w : SweepName) (written : Nat) (s : State) : Host.Outcome State Fault Refusal :=
  .next (s.onChip (Chip.swDoneIn f w.tag w.owner.orig w.owner.group written))

/-- SW_DONE_TIMEOUT: an SW_DONE missing 2 400 000 TK after T_end counts as an ABORT (R485). -/
def Chip.doneTimeout (c : Chip) : Chip :=
  if c.originates c.sweep.tag && !c.sweep.request && !c.sweep.donesLeft.isEmpty && c.sweep.t0Known &&
      decide (((c.sweep.tEnd + 2400000 : Nat) : Int) * 128 ≤ c.chainTime128) then
    { c with sweep := { c.sweep with abortReq := c.sweep.abortReq ++ [0x0A] } }
  else c

def execSwDoneTimeout (s : State) : Host.Outcome State Fault Refusal := .next (s.onChip Chip.doneTimeout)

/-- SW_ABORT delivered: an ABORT of the sweep for EVA to decide (R487). -/
def Chip.swAbortIn (f : FlitHdr) (tag : Nat) (orig : Address) (g : Group) (cause : Nat) (c : Chip) : Chip :=
  c.deliver2 f (.swAbort tag orig g cause) (fun c => if orig = c.sett.addr then c.hearAbort tag cause else c)

def execSwAbort (f : FlitHdr) (w : SweepName) (cause : Nat) (s : State) : Host.Outcome State Fault Refusal :=
  .next (s.onChip (Chip.swAbortIn f w.tag w.owner.orig w.owner.group cause))

/-- What SW_END does at a participant (R487, R488): a header that already reads DONE takes ABORTED in the same way. It is matched by tag and originator. -/
def Chip.applyEnd (tag : Nat) (orig : Address) (aborted : Bool) (cause : Nat) (c : Chip) : Chip :=
  let u := c.sweep
  let c := if u.headTag = some (tag, orig) then { c with sweep := { u with headTag := none, acksLeft := [], ackBad := false } } else c
  if u.st != .idle && u.chain && u.tag == tag && u.origAddr == orig then c.endSweep aborted cause
  else if aborted && u.cap == .completed && u.capChain && u.capTag == tag && u.capOrig == orig then
    let c := c.capEnd true cause 256
    { c with sweep := { c.sweep with releaseReq := true, aborted := c.sweep.aborted + 1, lastTag := tag, lastCause := cause, endSeq := c.eva.seq } }
  else c

/-- SW_END delivered. -/
def Chip.swEndIn (f : FlitHdr) (tag : Nat) (orig : Address) (g : Group) (aborted : Bool) (cause : Nat) (c : Chip) : Chip :=
  c.deliver2 f (.swEnd tag orig g aborted cause) (Chip.applyEnd tag orig aborted cause)

def execSwEnd (f : FlitHdr) (w : SweepName) (aborted : Bool) (cause : Nat) (s : State) : Host.Outcome State Fault Refusal :=
  .next (s.onChip (Chip.swEndIn f w.tag w.owner.orig w.owner.group aborted cause))

end Sys2Proof.Machine
end

