-- ==== Sys2Proof/Machine/Chain.lean ====
section
/-!
DEFINITION. The chain (chapter 9 of the spec): training, ports that come up and go down, epochs and chain time, formation, topology, islands
and the head.
-/

namespace Sys2Proof.Machine

/-! ### Topology (R444 to R454, R462, R464) -/

/-- Every link of the ring is UP (R444): this device's own are, every device is reachable, and of the rest the device knows it, from a flit that has gone right
round, from what it learnt at the end of formation, or because copies of every other device's flits arrive by both ports (DEDUCED, log 30). -/
def Chip.ringWhole (c : Chip) : Bool :=
  c.allReachable && c.sett.ports.toList.all (fun p => p.st == .up) && (c.sett.linksUp ||
  (List.finRange 8).all (fun a => decide (c.sett.chainSize ≤ a.val) || a == c.sett.addr || ((c.sett.peers[a]).viaUp && (c.sett.peers[a]).viaDn)))

/-- The device has the lowest address and counts no head reachable (R462). -/
def Chip.lowestAlone (c : Chip) : Bool := c.sett.formed && !c.isHead && !c.reachable c.sett.head && c.lowestHere

/-- The state that the device computes which builds the topology (R444, R450, R452): a segment without the head is an island. -/
def Chip.topoNow (c : Chip) : TopoState := if c.sett.role ≠ .head then .island else if c.ringWhole then .ring else .line

/-- The reachable devices in the order of the wiring, from the one that builds the topology on (R414, R422; DEDUCED, log 146). -/
def Chip.topoOrder (c : Chip) : List Address :=
  ((List.finRange 8).map (fun i => (c.sett.addr + i : Address))).filter c.reachable

/-- What is known of the links is gathered afresh after a break. -/
def Chip.forgetCopies (c : Chip) : Chip :=
  c.onSett (fun u => { u with linksUp := false, peers := vmap u.peers (fun p => { p with viaUp := false, viaDn := false }) })

/-- A device is in the segment and claims to lead the group (R446). -/
def Chip.claims (c : Chip) (g : Group) (a : Address) : Bool :=
  if a = c.sett.addr then c.isLeader g else c.reachable a && (c.sett.peers[a]).leads.testBit g.val

/-- The reachable devices that claim to lead a group (R446). -/
def Chip.claimants (c : Chip) (g : Group) : Nat := ((List.finRange 8).filter (c.claims g)).length

/-- The group's leader is this device, or in the segment. -/
def Chip.leaderInReach (c : Chip) (g : Group) : Bool :=
  c.isLeader g || c.sett.reach.getLsbD ((c.sett.groups[g]).leaderAddr).val

/-- R446: two leaders claim the group, or at the end of formation none is reachable that does. A mismatch ends once one claims it and is there. -/
def Chip.judgeClaims (ending : Bool) (g : Group) (c : Chip) : Chip :=
  let s := c.sett.groups[g]
  if !s.span || (c.phasesOf g).isEmpty then c
  else
    let bad := decide (2 ≤ c.claimants g) || ((ending || s.mismatch) && !(c.leaderInReach g && decide (1 ≤ c.claimants g)))
    let c := c.modSg g (fun s => { s with mismatch := bad })
    if bad && !s.mismatch then c.faultB settBlock 0x2B g.val else c

/-- R454: a segment of fewer devices than SEG_MIN. -/
def Chip.judgeSegment (g : Group) (c : Chip) : Chip :=
  let s := c.sett.groups[g]
  if !s.span || (c.phasesOf g).isEmpty then c
  else
    let n := ((List.range 8).filter (fun a => c.sett.reach.getLsbD a)).length
    let short := decide (n < s.segMin)
    let c := c.modSg g (fun s => { s with segShort := short })
    if short && !s.segShort then c.raiseB settBlock 0x2A g.val (BitVec.ofNat 32 n) false else c

/-- The topology shows a member that its leader is unreachable: LEADER_LOST is requested (R455). -/
def Chip.judgeLeader (g : Group) (c : Chip) : Chip :=
  if c.isMember g && (c.sett.groups[g]).leaderOk && !c.leaderInReach g then
    c.modSg g (fun s => { s with leaderOk := false, lostReq := true })
  else c

/-- The mode that a leader orders with RESUME (R464): its group's, or REGULATE where that has not started yet, so that the members go on regulating while
it starts (DESIGN CHOICE, log 147). -/
def resumeMode (m : Mode) : Mode := if m = .standby ∨ m = .precharge ∨ m = .softstart then .regulate else m

/-- A leader ends its members' droop fallback: its voltage engine's stored outputs take the mean of the I_MEAN values that the switching devices
report, its own among them, and RESUME and the order go out (R464). The mean is rounded to the engine's sixteenths. -/
def Chip.resumeMembers (g : Group) (c : Chip) : Chip :=
  let there (a : Address) : Bool := a != c.sett.addr && c.sett.reach.getLsbD a.val
  let rec_ (a : Address) : ReportRec := (c.sett.peers[a]).reports[g]
  if c.isLeader g && (List.finRange 8).any (fun a => there a && (rec_ a).droop) then
    let own := if (c.counting g).isEmpty then [] else [c.meanCurrent g]
    let ms := own ++ ((List.finRange 8).filter (fun a => there a && decide (0 < (rec_ a).switching))).map (fun a => (rec_ a).iMean)
    let y := if ms.isEmpty then 0 else roundAway (16 * ((ms.foldl (· + ·) 0 : Int) : Rat) / (ms.length : Rat))
    let c := match c.voltEngine g with
      | some e => c.modLe e (fun u => { u with y1 := y, y2 := y, y3 := y, yOut := y })
      | none => c
    let c := c.broadcast (.resume g)
    c.broadcast (.modeOrder g (resumeMode (c.grp[g]).mode) (c.grp[g]).cause (c.sett.groups[g]).s0)
  else c

/-- A topology takes effect on this device (R444, R449, R452, R454, R455, R460, R464), at the last grant. -/
def Chip.applyTopo (r : TopoPay) (c : Chip) : Chip :=
  let old := c.sett.st
  let ending := decide (old = .forming)
  let broken := decide (old = .ring ∧ r.state ≠ .ring) || c.sett.reach &&& ~~~r.reach != 0
  let c := c.onSett (fun u => { u with
    gen := BitVec.ofNat 8 r.gen, reach := r.reach, order := r.order, head := r.head, st := r.state, formed := true })
  let missing := (List.range c.sett.chainSize).any (fun a => !r.reach.getLsbD a)
  let c := if ending && missing && r.state == .line then c.warn settBlock 0x5A 0xFF else c
  let c := if r.state = .line ∧ old ≠ .line ∧ !ending then c.warn settBlock 0x58 0xFF else c
  let c := if r.state = .island ∧ old ≠ .island then c.warn settBlock 0x59 0xFF else c
  let c := if broken then c.linkAbort else c
  let c := allGroups.foldl (fun c g => (((c.judgeLeader g).judgeSegment g).judgeClaims ending g).resumeMembers g) c
  if c.sys.dev = .perGroup then allGroups.foldl (fun c g => if c.isLeader g then c.tryStart g else c) c else c

/-- The head, the local head, or the lowest address where there is none, rebuilds the topology from the reachable set and sends TOPO with a new generation (R449, R462). -/
def Chip.rebuild (c : Chip) : Chip :=
  let r : TopoPay := ⟨(c.sett.gen + 1).toNat, c.reachNow, c.topoOrder, c.sett.addr, c.topoNow⟩
  (c.broadcast (.topo r)).applyTopo r

/-- This device builds the topology: the head or a local head, or since its ports came UP the lowest address where no head is reachable (R449, R462). -/
def Chip.builds (c : Chip) : Bool := c.sett.formed && (c.actsHead || (c.sett.rebuilds && c.lowestAlone))

/-- The topology that this device would compute differs from the last one. -/
def Chip.topoStale (c : Chip) : Bool := c.builds && (c.reachNow != c.sett.reach || c.topoNow != c.sett.st)

/-- The device that builds the topology does so where it has changed. -/
def Chip.refreshTopo (c : Chip) : Chip := if c.topoStale then c.rebuild else c

/-- TOPO delivered: counted, granted, applied. A head whose chain time is set keeps the topology that it computes itself. -/
def Chip.topoIn (f : FlitHdr) (r : TopoPay) (c : Chip) : Chip :=
  let d := c.receive f (.topo r)
  if d.2 && c.sett.role == .head && c.sett.ctSet then (d.1.onSett (fun u => { u with topos := u.topos + 1 })).topoGrant 36 3 0
  else if d.2 then
    let c := d.1.onSett (fun u => { u with topos := u.topos + 1, gen := BitVec.ofNat 8 r.gen, head := r.head, rebuilds := false })
    let c := { c with sweep := { c.sweep with linkOwed := [] } }
    let old := c.sett.st
    let shown := c.onSett (fun u => { u with st := r.state })
    let c := (shown.topoGrant 36 3 0).onSett (fun u => { u with st := old })
    c.applyTopo r
  else d.1

def execTopo (f : FlitHdr) (r : TopoPay) (s : State) : Host.Outcome State Fault Refusal := .next (s.onChip (Chip.topoIn f r))

/-- FORMATION_END: every device is reachable from the head, or FORM_TMAX has passed since its BOOT (R444). Whether the links of other devices are UP is what
the head finds (a free value, log 30). -/
def Chip.formationEnd (c : Chip) : Chip :=
  if c.chained && c.sett.role == .head && c.actsHead && c.sett.st == .forming &&
      (c.allReachable || decide (c.sett.bootAt + c.sett.formTmax * tkMs ≤ c.tb.count)) then
    (({ c with draws := c.draws + 1 }).onSett (fun u => { u with linksUp := u.linksUp || Config.openBool 44 c.draws })).rebuild
  else c

def execFormationEnd (s : State) : Host.Outcome State Fault Refusal := .next (s.onChip Chip.formationEnd)

/-! ### Ports (R418, R419, R448, R461) -/

/-- A JOIN whose window has ended is answered: OK where every port that it started is UP (R461). -/
def Chip.joinCheck (c : Chip) : Chip :=
  let st (p : SettPort) : Byte := BitVec.ofNat 8 (portCode (c.sett.ports[p]).st)
  let up (p : SettPort) : Bool := (c.sett.ports[p]).st == .up
  let over_ := c.host.joinCmds.filter (fun j => decide (j.2.2 ≤ c.tb.count))
  let c := { c with host := { c.host with joinCmds := c.host.joinCmds.filter (fun j => !decide (j.2.2 ≤ c.tb.count)) } }
  over_.foldl (fun c j => c.done j.1 (if j.2.1.all up then .ok else .joinPartial) [st 0, st 1, 0, 0]) c

/-- What R414 asks of the partner of a port. -/
def Chip.partnerOk (c : Chip) (p : SettPort) (i : TrainInput) : Bool :=
  let n := c.sett.chainSize
  let a := c.sett.addr.val
  i.chainSize == n && (i.peerIsUp == (p == 1)) && i.peer.val == (if p = 1 then (a + 1) % n else (a + n - 1) % n)

/-- A port's training ends without coming UP. -/
def Chip.refusePort (p : SettPort) (k : LinkCause) (peer : Option Address) (c : Chip) : Chip :=
  c.modPort p (fun u => { u with st := .down, cause := k, peer := peer.getD u.peer, peerValid := u.peerValid || peer.isSome })

/-- The hop delay in 1/16 FS: half of what a MARK's way there and back takes less the partner's turnaround, the mean over the exchanges (R420), to the
nearest. -/
def hopDelay (xs : List DelayExchange) : Nat :=
  let trip (x : DelayExchange) : Int := (x.t4 : Int) - x.t1 - x.turnaround
  if xs.isEmpty then 0 else (roundAway (16 * (((xs.map trip).sum : Int) : Rat) / (2 * (xs.length : Rat)))).toNat

/-- LINK_UP (R418 to R420, R427): within the port's window a partner that breaks the wiring or the build is refused; else the port is UP with 8 credits on
every VC, and the head rebuilds the topology, as the lowest address does where no head is reachable (R462). A group leader claims its groups (R446). -/
def Chip.linkUp (p : SettPort) (i : TrainInput) (c : Chip) : Chip :=
  if !c.chained || c.sys.holdup || (c.sett.ports[p]).st != .training || c.tb.st == .acquire || c.tb.st == .freerun ||
      decide ((c.sett.ports[p]).trainEnd ≤ c.tb.count) then c
  else if !c.partnerOk p i then (c.warn (settPortBlock p) 0x55 p.val).refusePort p .miswire (some i.peer)
  else if i.build ≠ c.sett.build then (c.warn (settPortBlock p) 0x56 p.val).refusePort p .build (some i.peer)
  else
    let first := !c.sett.ports.toList.any (fun u => u.st == .up)
    let c := c.modPort p (fun u => { u with
      st := .up, peer := i.peer, peerValid := true, dly := hopDelay i.exchanges % 2 ^ 20, txCred := Vector.replicate 4 8, rxFree := Vector.replicate 4 8
      returned := Vector.replicate 4 0, trained := u.trained + 1, wait := [], busyUntil := 0, turn := false, pairs := [], badAt := [] })
    let c := if first then c.onSett (fun u => { u with upAt := some c.tb.count }) else c
    let c := c.topoGrant (34 + p.val) 1 p.val
    let led := allGroups.foldl (fun n g => if c.isLeader g then n + 2 ^ g.val else n) 0
    let c := if led = 0 then c else c.broadcast (.leadClaim led)
    let c := c.onSett (fun u => { u with rebuilds := u.rebuilds || c.lowestAlone })
    if c.builds then c.rebuild else c

def execLinkUp (p : SettPort) (i : TrainInput) (s : State) : Host.Outcome State Fault Refusal := .next (s.onChip (Chip.linkUp p i))

/-- TRAINING_TIMEOUT: the training window has ended (R418): FORM_TMAX from the end of BOOT, or 100 ms after a JOIN, which is answered then (R461). -/
def Chip.trainingTimeout (p : SettPort) (c : Chip) : Chip :=
  let u := c.sett.ports[p]
  (if c.chained && u.st == .training && decide (u.trainEnd ≤ c.tb.count) then c.refusePort p .timeout none else c).joinCheck

def execTrainingTimeout (p : SettPort) (s : State) : Host.Outcome State Fault Refusal :=
  .next (s.onChip (Chip.trainingTimeout p))

/-- A head that waits for the local head of the segment it joined is alone again with no port UP (R463). -/
def Chip.forgetIsland (c : Chip) : Chip :=
  if c.sett.role == .head && !c.sett.ctSet && c.sett.ports.toList.all (fun u => u.st != .up) then
    c.onSett (fun u => { u with st := if u.st = .island then .line else u.st })
  else c

/-- A port goes down (R448): it stops, drops what it holds, and tells the chain by the other port; a head rebuilds the topology (R449) and
chain-wide sweeps end (R460). -/
def Chip.portDown (p : SettPort) (k : LinkCause) (c : Chip) : Chip :=
  let lock := decide (k = .lock)
  let r := c.draw 32
  let c := if lock then r.2 else c
  let gone := (c.sett.ports[p]).wait
  let c := c.modPort p (fun u => { u with
    st := .down, cause := k, downs := u.downs + 1, txCred := Vector.replicate 4 0, rxFree := Vector.replicate 4 8, wait := [], busyUntil := 0
    codeErr := if lock then min 0xFFFF (u.codeErr + r.1 % 5) else u.codeErr })
  let c := gone.foldl (fun c w => c.freeBuffer w.held w.flit.body.vc) c
  let c := (List.finRange 2).foldl (fun c q => c.modPort q (fun u => { u with wait := u.wait.filter (fun w => w.held != some p) })) c
  let c := (c.topoGrant (34 + p.val) 2 p.val).bump 15 1
  let c := c.raiseC (settPortBlock p) 0x57 p.val (BitVec.ofNat 32 (linkCode k)) false
  let c := c.broadcast (.linkDown p k)
  let c := c.linkAbort.forgetCopies.forgetIsland
  if c.builds then c.rebuild else c

/-- A VC has held no credit, with a flit waiting, for 4800 TK (R448). -/
def SettPortUnit.starved (now : Nat) (u : SettPortUnit) : Bool :=
  u.wait.any (fun w => let vc := w.flit.body.vc; u.txCred[vc] == 0 && decide (max w.since u.spentAt[vc] + 4800 ≤ now))

/-- Three flits with a bad CRC within 2400 TK (R448). -/
def SettPortUnit.threeBad (u : SettPortUnit) : Bool :=
  match u.badAt with
  | a :: _ :: b :: _ => decide (a ≤ b + 2400)
  | _ => false

/-- LINK_DOWN for a condition of R448. -/
def Chip.linkDown (p : SettPort) (k : LinkCause) (c : Chip) : Chip :=
  let u := c.sett.ports[p]
  if c.ctrlUp && u.st == .up &&
      (k == .lock || (k == .crc && u.threeBad) || (k == .starved && u.starved c.tb.count) || (k == .holdup && c.sys.holdup)) then c.portDown p k
  else c

def execLinkDown (p : SettPort) (c : LinkCause) (s : State) : Host.Outcome State Fault Refusal := .next (s.onChip (Chip.linkDown p c))

/-- LINK_DOWN_FLIT delivered: chain-wide sweeps end at each device (R460), and the head rebuilds the topology (R449). -/
def Chip.linkDownIn (f : FlitHdr) (p : SettPort) (k : LinkCause) (c : Chip) : Chip :=
  c.deliver3 f (.linkDown p k) (fun c =>
    let c := c.linkAbort.forgetCopies
    if c.builds then c.rebuild else c)

def execLinkDownFlit (f : FlitHdr) (p : SettPort) (c : LinkCause) (s : State) : Host.Outcome State Fault Refusal :=
  .next (s.onChip (Chip.linkDownIn f p c))

/-! ### Chain time (R429 to R433, R463) -/

/-- The head may send an EPOCH at tick `t` (R444, R463): its chain time is set, or it has found no local head, as it forms the chain at BOOT from its first
port UP on, and after that once it has listened for one epoch since its first port came UP. -/
def Chip.headMaySend (t : Nat) (c : Chip) : Bool :=
  let heardOut := match c.sett.upAt with
    | some u => decide (u + 24000 ≤ t)
    | none => false
  c.sett.ctSet || (c.sett.st != .island && (!c.sett.formed || heardOut))

/-- EPOCH_SEND (R430, R452): at a multiple of 24 000 of its TB_COUNT, by the head or local head with a port UP. -/
def Chip.epochSend (t : Nat) (c : Chip) : Chip :=
  if c.chained && c.isHead && t % 24000 == 0 && c.sett.ports.toList.any (fun p => p.st == .up) && c.headMaySend t then
    let c := c.elapseTo t
    let c := c.onSett (fun u => { u with ctSet := true })
    -- SLOPE is 0 except in RELOCK, where the rate of change is the device's own (R430), at most 100 ppm per µs (R212)
    let r := c.draw 33
    let slope : Int := if c.tb.st = .relock then ((r.1 % 200001 : Nat) : Int) - 100000 else 0
    let c := if c.tb.st = .relock then r.2 else c
    c.broadcast (.epoch ⟨c.chainAt t, 0, slope, c.sett.addr, if c.sett.role = .head then 1 else 2, c.sett.gen.toNat⟩)
  else c

def execEpochSend (t : Nat) (s : State) : Host.Outcome State Fault Refusal := .next (s.onChip (Chip.epochSend t))

/-- The rate offset against the head in 0.001 ppm, over the epochs kept (R432). -/
def rateOf (es : List (Nat × Nat)) (old : Int) : Int :=
  match es, es.getLast? with
  | (c1, t1) :: _ :: _, some (c0, t0) =>
    if c1 ≤ c0 then old
    else clampInt (-(2 ^ 31)) (2 ^ 31 - 1) (roundAway ((128 * ((t1 : Rat) - (t0 : Rat)) / ((c1 : Rat) - (c0 : Rat)) - 1) * 1000000000))
  | _, _ => old

/-- Chain time has moved by `err`, in 1/16 FS, and this device's schedule is to follow by the slew of R433. -/
def SettGroup.correct (err : Int) (s : SettGroup) : SettGroup :=
  if s.span then { s with slew := s.slew + err, fast := s.fast || decide (1536 < err.natAbs) } else s

/-- A member takes chain time from an epoch whose capture was at tick `t` (R432, R433). -/
def Chip.takeEpoch (f : FlitHdr) (t : Nat) (e : EpochPay) (c : Chip) : Chip :=
  let ct : Int := (e.tstamp : Int) * 128 + e.corr + (c.sett.ports[f.port]).dly
  let err := ct - c.chainAt128 t
  let set := c.sett.ctSet
  let running := allGroups.any (fun g => (c.sett.groups[g]).span && c.anySwitching g)
  let shown := if set then sat16 err else 0
  let far := set && decide (1536 < err.natAbs) && decide (c.sett.err.natAbs ≤ 1536)
  let es := ((ct.toNat, t) :: c.sett.epochs).take 17
  let c := c.onSett (fun u => { u with
    ctOfs := ct - 128 * (t : Int), ctSet := true, epochs := es, baseAt := some t, rate := rateOf es u.rate, slope := e.slope, err := shown, hops := f.hops
    groups := if set && running then vmap u.groups (SettGroup.correct err) else u.groups })
  let c := if far then c.warn settBlock 0x5B 0xFF else c
  c.resyncSweep

/-- A head that comes back takes chain time from the local head's epoch, to the nearest TK (R463). -/
def Chip.adoptEpoch (f : FlitHdr) (t : Nat) (e : EpochPay) (c : Chip) : Chip :=
  let ct : Int := (e.tstamp : Int) * 128 + e.corr + (c.sett.ports[f.port]).dly
  c.onSett (fun u => { u with ctOfs := 128 * roundAway (((ct - 128 * (t : Int) : Int) : Rat) / 128), ctSet := true, hops := f.hops })

/-- A local head gives up its role (R452), which is a grant of its own kind in the trace. -/
def Chip.yieldHead (head : Address) (c : Chip) : Chip :=
  (c.onSett (fun u => { u with role := .member, head := head })).topoGrant 36 5 0

/-- EPOCH delivered, or forwarded with its CORR (R431, R432, R452). -/
def Chip.epochIn (f : FlitHdr) (t : Nat) (e : EpochPay) (c : Chip) : Chip :=
  if !c.chained then c
  else
    let d := (c.elapseTo t).receive f (.epoch e)
    if !d.2 then d.1
    else
      let c := (d.1.count 26 1).onSett (fun u => { u with
        epochAt := some d.1.tb.count, isSilent := false, claimAt := if e.role = 1 then none else u.claimAt })
      match c.sett.role with
      | .head => if e.role = 2 ∧ !c.sett.ctSet then c.adoptEpoch f t e else c
      | .localHead => if e.role = 1 ∨ e.head < c.sett.addr then (c.yieldHead e.head).takeEpoch f t e else c
      | .member => (c.onSett (fun u => { u with head := e.head })).takeEpoch f t e
      | .single => c

def execEpoch (f : FlitHdr) (t : Nat) (e : EpochPay) (s : State) : Host.Outcome State Fault Refusal := .next (s.onChip (Chip.epochIn f t e))

/-! ### The head's silence (R445, R451, R452) -/

/-- The device of the lowest address sends HEAD_CLAIM, and its 24 000 TK begin. -/
def Chip.claimHead (c : Chip) : Chip :=
  if c.lowestHere then
    let c := c.broadcast (.headClaim c.sett.addr)
    c.onSett (fun u => { u with claimAt := some c.tb.count })
  else c

/-- HEAD_SILENT: no EPOCH delivered for 76 800 TK. -/
def Chip.headSilent (c : Chip) : Chip :=
  match c.sett.epochAt with
  | some t =>
    if c.chained && c.sett.role == .member && !c.sett.isSilent && decide (t + 76800 ≤ c.tb.count) then
      (c.onSett (fun u => { u with isSilent := true, silent := u.silent + 1 })).claimHead
    else c
  | none => c

def execHeadSilent (s : State) : Host.Outcome State Fault Refusal := .next (s.onChip Chip.headSilent)

/-- FORM_TMAX_NO_EPOCH: the same rule within the segment (R445). -/
def Chip.formNoEpoch (c : Chip) : Chip :=
  if c.chained && c.sett.role == .member && c.sett.epochAt.isNone && !c.sett.isSilent &&
      decide (c.sett.bootAt + c.sett.formTmax * tkMs ≤ c.tb.count) then
    (c.onSett (fun u => { u with isSilent := true })).claimHead
  else c

def execFormTmaxNoEpoch (s : State) : Host.Outcome State Fault Refusal := .next (s.onChip Chip.formNoEpoch)

/-- HEAD_CLAIM delivered: one from a lower address defers this device's claim. -/
def Chip.headClaimIn (f : FlitHdr) (a : Address) (c : Chip) : Chip :=
  let d := c.receive f (.headClaim a)
  if d.2 then
    (d.1.topoGrant 36 4 a.val).onSett (fun u => { u with claimAt := if a < u.addr then none else u.claimAt })
  else d.1

def execHeadClaim (f : FlitHdr) (a : Address) (s : State) : Host.Outcome State Fault Refusal := .next (s.onChip (Chip.headClaimIn f a))

/-- LOCAL_HEAD: 24 000 TK after the claim this device is the island's local head; it goes on from its own estimate of chain time, at its own rate
(R453), and sends TOPO. -/
def Chip.becomeLocalHead (c : Chip) : Chip :=
  match c.sett.claimAt with
  | some t =>
    if c.chained && c.sett.role == .member && decide (t + 24000 ≤ c.tb.count) then
      let now := c.chainTime128
      let c := c.onSett (fun u => { u with
        role := .localHead, head := u.addr, claimAt := none, isSilent := false, ctOfs := now - 128 * (c.tb.count : Int), ctSet := true
        epochs := [], baseAt := none, rate := 0, slope := 0, rebuilds := false })
      (c.topoGrant 36 5 0).rebuild.takeLinkOwed
    else c
  | none => c

def execLocalHead (s : State) : Host.Outcome State Fault Refusal := .next (s.onChip Chip.becomeLocalHead)

end Sys2Proof.Machine
end

