-- ==== Sys2Proof/Machine/Convert.lean ====
section
/-!
DEFINITION. The converters (chapter 5 of the spec): triggers, results, sense loss, guard compares, the engines' evaluation and
the demand it delivers, group telemetry, and the auxiliary sequencer.
-/

namespace Sys2Proof.Machine

/-! ### Phase triggers (R257, R258, R277, R278) -/

/-- A trigger's position in FS from the start of the phase's period; none where the trigger does not fire (R257, R258). `room` is where the
period ends in COT and COFF. -/
def PhaseUnit.trigPos (m : Modulation) (k : TrigCfg) (room : Int) (u : PhaseUnit) : Option Rat :=
  let p := u.pl.plan
  let part (lo hi : Int) : Rat := (lo : Rat) + (k.pos : Rat) / 256 * ((hi - lo : Int) : Rat)
  if !u.pl.switching then none
  else if k.mode = 1 then some (k.pos : Rat)
  else if k.mode = 2 then
    if u.pl.wasFull then none
    else match p.hRise, p.hFall with
    | some r, some f => some (part r f)
    | some r, none => if m = .coff then some (part r room) else none
    | none, _ => none
  else if k.mode = 3 then
    match m with
    | .fixedTe => if p.cutHigh then none else p.hFall.map (fun f => part f (f + ((p.period : Int) - p.onTime)))
    | .cot => if p.cutHigh then none else p.hFall.map (fun f => part f room)
    | .fixedLe => if p.skipped || u.pl.wasFull || p.void || !u.pl.highAtStart then none else some (part 0 ((p.period : Int) - p.onTime))
    | .coff => if p.skipped || p.void || !u.pl.highAtStart then none else some (part 0 ((p.period : Int) - p.onTime))
  else none

/-- A position follows each new on-time until it is committed, 2 TK before it (R225, R257). -/
def followMoves (posOf : Nat → Rat) (moves : List (Int × Nat)) (pos : Rat) : Rat :=
  moves.foldl (fun pos m => if pos ≤ ((m.1 + 16 : Int) : Rat) then pos else max (posOf m.2) ((m.1 + 16 : Int) : Rat)) pos

/-- The position of a trigger of mode 11 in FIXED_LE: with the on-time in force at its commit point (R257), whether the period is cut later or not. -/
def PhaseUnit.commitPos (m : Modulation) (k : TrigCfg) (u : PhaseUnit) (pos : Rat) : Rat :=
  if m = .fixedLe ∧ k.mode = 3 then
    let posOf (on : Nat) : Rat := (k.pos : Rat) / 256 * (((u.pl.plan.period : Int) - on : Int) : Rat)
    followMoves posOf u.pl.moves (posOf u.pl.onFirst)
  else pos

/-- The first tick at or after a trigger's position; where the edges that it is computed from have since moved, not before they did. -/
def PhaseUnit.trigTick (m : Modulation) (k : TrigCfg) (room : Int) (u : PhaseUnit) : Option Nat :=
  (u.trigPos m k room).map (fun pos =>
    let fixed := decide (m = .fixedLe ∧ k.mode = 3)
    max (ceilRat (((u.pl.start : Rat) + u.commitPos m k pos) / 8)).toNat (if fixed then 0 else tickOf ((u.pl.start : Int) + u.pl.reAt).toNat))

/-- The register of a trigger. -/
def PhaseCfg.trig (f : PhaseCfg) : Trig → TrigCfg
  | .a => f.trigA
  | .b => f.trigB

/-- The trigger has fired, or was dropped, in the period in progress. -/
def Placer.fired (u : Placer) : Trig → Bool
  | .a => u.firedA
  | .b => u.firedB

def Placer.setFired (k : Trig) (u : Placer) : Placer :=
  match k with
  | .a => { u with firedA := true }
  | .b => { u with firedB := true }

/-- Where the phase's period ends, FS from its start. -/
def Chip.periodOver (c : Chip) (g : Group) (p : Phase) : Int :=
  let u := (c.ph[p]).pl
  if isFixed (c.grp[g]).cfg.mod then u.plan.period else (c.nextSlotOf g p : Int) - u.start

/-- The tick at which TRIGA or TRIGB of a phase falls in the period in progress. -/
def Chip.trigAt (c : Chip) (g : Group) (p : Phase) (k : Trig) : Option Nat :=
  (c.ph[p]).trigTick (c.grp[g]).cfg.mod ((c.ph[p]).cfg.trig k) (c.periodOver g p)

/-- TRIGA has priority over TRIGB on the same tick (R278). -/
def Chip.yieldsToA (c : Chip) (g : Group) (p : Phase) (k : Trig) (t : Nat) : Bool :=
  k == .b && !(c.ph[p]).pl.firedA && c.trigAt g p .a == some t

/-- PHASE_TRIGGER: a conversion starts, or the trigger is dropped (R278). In a diagnosis period the diagnosis has the converter (R395). -/
def Chip.phaseTrigger (p : Phase) (k : Trig) (t : Nat) (c : Chip) : Chip :=
  match c.groupOf p with
  | none => c
  | some g =>
    let c := c.elapseTo t
    let u := c.ph[p]
    if !c.ctrlUp || u.pl.plan.diag || u.pl.fired k || c.trigAt g p k != some t then c
    else
      let yields := c.yieldsToA g p k t
      let c := c.modPl p (Placer.setFired k)
      if accepts u.conv.lastTrig t && !yields then
        let ready := c.refReady c.refs.refPh
        c.modConv p (fun v => { v with
          lastTrig := some t
          flights := v.flights ++ [{ trig := t, per := u.pl.periods, notReady := !ready
                                     purpose := match k with
                                       | .a => .a
                                       | .b => .b }] })
      else c.modConv p (fun v => { v with drop := satInc 0xFFFFFFFF v.drop })

def execPhaseTrigger (p : Phase) (k : Trig) (t : Nat) (s : State) : Host.Outcome State Fault Refusal :=
  .next (s.onChip (Chip.phaseTrigger p k t))

/-! ### Phase results -/

/-- The selected value that a result completes, doubled (R279); the mean of a pair forms with the later of the two. -/
def PhaseConv.select (curSel : Nat) (f : Flight) (count : Int) (v : PhaseConv) : PhaseConv × Option Int :=
  let isA := f.purpose == .a
  let v := if isA then { v with valA := some (f.per, count) } else { v with valB := some (f.per, count) }
  if curSel = 2 then
    match v.valA, v.valB with
    | some a, some b => (v, if a.1 = b.1 then some (a.2 + b.2) else none)
    | _, _ => (v, none)
  else (v, if isA = decide (curSel = 0) then some (2 * count) else none)

/-- ADC_PHn_AVG over 2^AVG_K selected values, in amperes (R281). -/
def PhaseConv.average (k : Nat) (amps : Rat) (v : PhaseConv) : PhaseConv :=
  let s := v.avgSum + amps
  let n := v.avgN + 1
  if 2 ^ k ≤ n then { v with avgSum := 0, avgN := 0, avg := s / (n : Rat), avgValid := true } else { v with avgSum := s, avgN := n }

/-- A selected value joins BAL's pass when its period counts (R375). -/
def PhaseBal.sample (amps : Rat) (current : Bool) (b : PhaseBal) : PhaseBal :=
  if current then { b with perSum := b.perSum + amps, perN := b.perN + 1 }
  else if b.lastGood then { b with sum := b.sum + amps, n := b.n + 1 }
  else b

/-- A selected value reaches BAL and telemetry (R269, R279, R281). -/
def PhaseUnit.take (f : Flight) (count : Int) (u : PhaseUnit) : PhaseUnit :=
  let r := u.conv.select u.cfg.curSel f count
  match r.2 with
  | none => { u with conv := r.1 }
  | some s2 =>
    let amps := (s2 : Rat) / 2 * f32 u.cfg.scale
    { u with conv := ({ r.1 with sel2 := some s2 }).average u.cfg.avgK amps
             bal := u.bal.sample amps (decide (f.per = u.pl.periods)) }

/-- PHASE_CONVERSION_DONE (R264 to R271, R494): the oldest conversion in progress ends with `code`. -/
def Chip.phaseConversionDone (p : Phase) (code : Int) (c : Chip) : Chip :=
  let u := c.ph[p]
  match u.conv.flights with
  | [] => c
  | f :: rest =>
    let code := clampInt (-2048) 2047 code
    let ovr := codeOvr 12 code
    let w := resultWord 12 c.refs.alignPh f.notReady ovr false u.conv.seq code
    let count := code - u.cfg.offs
    let c := c.modConv p (fun v => { v with
      flights := rest, seq := v.seq + 1, cnt := v.cnt + 1
      resA := if f.purpose = .a then w else v.resA
      resB := if f.purpose = .b then w else v.resB })
    let c := c.count 11 1
    if f.notReady then c
    else
      let tooHigh := decide (0 < u.cfg.ocLevel) && (ovr || decide (u.cfg.ocLevel ≤ count.natAbs))
      let c := c.modConv p (fun v => { v with belowOc := !tooHigh })
      let c := if u.pl.switching then c.modPh p (PhaseUnit.take f count) else c
      if tooHigh then (c.condBack (phBlock p) 0x10 p.val).cutPhase p else c

def execPhaseConversionDone (p : Phase) (code : Int) (s : State) : Host.Outcome State Fault Refusal :=
  .next (s.onChip (Chip.phaseConversionDone p code))

/-! ### Group triggers (R283 to R285, R291) -/

/-- A group conversion starts on the remote pair, on VSLn, or in turn on both while CHECKING. -/
def Chip.startGv (g : Group) (t : Nat) (c : Chip) : Chip :=
  let m := (c.grp[g]).mode
  let ready := c.refReady (c.grp[g]).cfg.refSel
  c.modGv g (fun v =>
    let checking := v.lost && (m == .standby || m == .safe)
    let remote := !v.onLocal || (checking && v.remoteNext)
    { v with
      checking := checking
      remoteNext := if checking then !v.remoteNext else true
      lastTrig := some t
      flights := v.flights ++ [{ trig := t, notReady := !ready, local_ := !remote }] })

/-- The phase's trigger falls on tick `t` and has not been an event of the group converter yet (R283). -/
def Chip.isEvent (c : Chip) (g : Group) (k : Trig) (t : Nat) (p : Phase) : Bool :=
  !(c.ph[p]).pl.gvDone && c.trigAt g p k == some t

/-- Positions of source 10: SUB equally spaced ones in each group period, each at its first tick at or after it (R283). -/
def GroupUnit.subTick (u : GroupUnit) (j : Nat) : Nat :=
  (ceilRat (((u.perStart : Rat) + ((j * u.periodLen : Nat) : Rat) / ((u.cfg.sub + 1 : Nat) : Rat)) / 8)).toNat

/-- The event of the group converter at tick `t` from a phase's trigger, taken once. -/
def Chip.takePhaseEvent (g : Group) (k : Trig) (t : Nat) (c : Chip) : Option Chip :=
  ((c.phasesOf g).find? (c.isEvent g k t)).map (fun p => c.modPl p (fun u => { u with gvDone := true }))

/-- The event of the group converter at tick `t`, from the source that SRC selects (R283): the state with the event taken, none where there is none. -/
def Chip.takeEvent (g : Group) (t : Nat) (c : Chip) : Option Chip :=
  let u := c.grp[g]
  if u.cfg.src = 0 then c.takePhaseEvent g .a t
  else if u.cfg.src = 1 then c.takePhaseEvent g .b t
  else if u.cfg.src = 2 then
    if u.started then
      ((List.range (u.cfg.sub + 1)).find? (fun j => decide (u.conv.sub ≤ j) && decide (u.subTick j = t))).map (fun j =>
        c.modGv g (fun v => { v with sub := j + 1 }))
    else none
  else if u.conv.slotEv && decide (tickOf u.slotLast = t) then some (c.modGv g (fun v => { v with slotEv := false }))
  else none

/-- A phase of the group switches, its period not being skipped (R283, R285). -/
def Chip.pulsing (c : Chip) (g : Group) : Bool := (c.phasesOf g).any (fun p => (c.ph[p]).pl.switching && !(c.ph[p]).pl.plan.skipped)

/-- GROUP_VOLTAGE_TRIGGER: every DEC-th event is a candidate, taken or skipped (R283, R284). -/
def Chip.groupVoltageTrigger (g : Group) (t : Nat) (c : Chip) : Chip :=
  if !c.ctrlUp || !c.pulsing g then c
  else
    match (c.elapseTo t).takeEvent g t with
    | none => c.elapseTo t
    | some c =>
      let n := (c.grp[g]).conv.events + 1
      let c := c.modGv g (fun v => { v with events := n })
      if n % ((c.grp[g]).cfg.dec + 1) ≠ 0 then c
      else if accepts (c.grp[g]).conv.lastTrig t then c.startGv g t
      else c.modGv g (fun v => { v with skip := satInc 0xFFFF v.skip })

def execGroupVoltageTrigger (g : Group) (t : Nat) (s : State) : Host.Outcome State Fault Refusal :=
  .next (s.onChip (Chip.groupVoltageTrigger g t))

/-- The tick from which the group's free run counts: the end of its last switching period, or of BOOT (R285). -/
def Chip.freeFrom (c : Chip) (g : Group) : Nat := (c.phasesOf g).foldl (fun n p => max n (c.ph[p]).pl.pulseEnd) c.sett.bootAt

/-- GROUP_FREE_RUN: with no phase switching, from the end of BOOT on, every 2400 TK (R285); not in hold-up, which stops the converters (R94). -/
def Chip.groupFreeRun (g : Group) (t : Nat) (c : Chip) : Chip :=
  if !c.ctrlUp || !c.outOfBoot || c.sys.holdup || c.pulsing g || decide (t ≤ c.freeFrom g) || decide ((t - c.freeFrom g) % 2400 ≠ 0) then c
  else
    let c := c.elapseTo t
    if accepts (c.grp[g]).conv.lastTrig t then c.startGv g t else c

def execGroupFreeRun (g : Group) (t : Nat) (s : State) : Host.Outcome State Fault Refusal :=
  .next (s.onChip (Chip.groupFreeRun g t))

/-! ### Group results -/

/-- The corrected count of a group conversion (R269, R293). -/
def GroupCfg.corrected (u : GroupCfg) (onVsl : Bool) (code : Int) : Int :=
  if onVsl then roundAway (((code - u.vslOffs) * u.vslGain : Int) / (16384 : Rat)) else code - u.offs

/-- The code range of an input (R263): signed 14 bits for the remote differential pair, unsigned otherwise. -/
def gvRange (signed : Bool) : Int × Int := if signed then (-8192, 8191) else (0, 16383)

/-- A remote conversion's part in sense-loss detection (R287, R288, R291). -/
def GroupConv.sense (oor : Bool) (v : GroupConv) : GroupConv :=
  if v.checking then { v with inRun := if oor then 0 else satInc 16 v.inRun }
  else { v with oorRun := if oor then satInc 16 v.oorRun else 0 }

/-- The runs behind the over-voltage compare, its release, its warning and the PG filter (R349, R502, R503). -/
def GroupConv.runs (u : GroupCfg) (pgLo pgHi v : Int) (k : GroupConv) : GroupConv :=
  let inside := decide (pgLo ≤ v) && decide (v ≤ pgHi)
  { k with
    ovClrRun := if v < u.ovClr then satInc 16 k.ovClrRun else 0
    ovwRun := if u.ovWarn ≤ v then satInc 16 k.ovwRun else 0
    ovwDone := k.ovwDone && decide (u.ovWarn ≤ v)
    pgIn := if inside then satInc 16 k.pgIn else 0
    pgOut := if inside then 0 else satInc 16 k.pgOut }

/-- OV_COMPARE (R521, R522): the URGENT request of GRP_OV; where the fault stands its condition is present again. -/
def Chip.ovCompare (g : Group) (v : Int) (w : Word) (c : Chip) : Chip :=
  if (c.phasesOf g).isEmpty || decide (v < (c.grp[g]).cfg.ovLevel) then c
  else if (c.guards[grpBlock g]).faults.any (fun f => f.code == 0x20) then c.raiseB (grpBlock g) 0x20 g.val w false
  else if (c.grp[g]).conv.ovReq.isSome then c
  else c.modGv g (fun k => { k with ovReq := some (w, false) })

/-! ### Group telemetry (R298 to R300) -/

/-- One more value of a block average over 2^K samples (R299). -/
def BlockAvg.add (k : Nat) (x : Rat) (b : BlockAvg) : BlockAvg :=
  let s := b.sum + x
  let n := b.n + 1
  if 2 ^ k ≤ n then { sum := 0, n := 0, avg := s / (n : Rat), valid := true } else { b with sum := s, n := n }

/-- A sample enters a held peak; the first valid one sets both ends (R300). -/
def Peak.add (first : Bool) (x : Rat) (p : Peak) : Peak :=
  if first then ⟨x, x⟩ else ⟨max p.hi x, min p.lo x⟩

/-- The temperatures of the slots whose source is in NTC_MASK (R298). -/
def Chip.ntcTemps (c : Chip) (g : Group) : List Rat :=
  (c.aux.slots.toList.filter (fun s => s.en && s.has && decide (s.src < 16) && (c.grp[g]).cfg.ntcMask.testBit s.src)).map (·.val)

/-- The greatest of a list. -/
def maxRat : List Rat → Option Rat
  | [] => none
  | x :: xs => some (xs.foldl max x)

/-- A sample of voltage, current and power, their product in single precision, in one group's telemetry (R298). -/
def GroupConv.sample (k : Nat) (v i : Rat) (t : Option Rat) (u : GroupConv) : GroupConv :=
  let p := f32 (toF32 (v * i))
  let first := !u.pkValid
  { u with
    vAvg := u.vAvg.add k v, iAvg := u.iAvg.add k i, pAvg := u.pAvg.add k p
    vPk := u.vPk.add first v, iPk := u.iPk.add first i, pPk := u.pPk.add first p
    pkValid := true, vLast := v, iLast := i, pLast := p
    tMax := t.getD u.tMax, tValid := u.tValid || t.isSome }

/-- BAL's group current samples (R381). -/
def GroupBal.sample (i : Rat) (b : GroupBal) : GroupBal :=
  { b with perSum := b.perSum + i, perN := b.perN + 1, passSum := b.passSum + i, passN := b.passN + 1 }

/-- The group timers that a sample feeds: PRE_VEND held (R169) and a load below LL_ENTER at the minimum phases (R177). -/
def Chip.holdTimers (g : Group) (v : Int) (i : Rat) (c : Chip) : Chip :=
  let u := c.grp[g]
  let target := (c.setRec g u.selSet).target
  let now := c.tb.count
  let pre := u.mode == .precharge && decide ((u.cfg.preVend : Int) * target ≤ v * 1000)
  let low := u.mode == .regulate && decide ((c.counting g).length ≤ (c.setpt.active[g]).phMin) &&
    decide (absRat i < c.llAmps g u.cfg.llEnter)
  c.modGrp g (fun u => { u with preHold := if pre then some (u.preHold.getD now) else none
                                llSince := if low then some (u.llSince.getD now) else none })

/-- LIGHTLOAD ends at a group current above LL_EXIT (R179). -/
def Chip.lightloadExit (g : Group) (i : Rat) (c : Chip) : Chip :=
  let u := c.grp[g]
  if u.mode == .lightload && c.decides g && decide (c.llAmps g u.cfg.llExit < absRat i) then c.changeMode g .regulate .loadHigh else c

/-- A temperature in 0.1 °C as a detail word (R500). -/
def tempWord (t : Rat) : Word := BitVec.ofInt 32 (roundAway (t * 10))

/-- OT_GROUP and OT_WARN at a new T_MAX (R502, R503). -/
def Chip.otCompare (g : Group) (c : Chip) : Chip :=
  let u := c.grp[g]
  if u.cfg.ntcMask = 0 ∨ !u.conv.tValid then c
  else
    let t := u.conv.tMax * 10
    let c := if (u.cfg.otLevel : Rat) ≤ t then c.raiseB (grpBlock g) 0x23 g.val (tempWord u.conv.tMax) false else c
    let hot := decide ((u.cfg.otWarn : Rat) ≤ t)
    let fresh := hot && !u.conv.otWarned
    let c := c.modGv g (fun k => { k with otWarned := hot })
    if fresh then c.raiseC (grpBlock g) 0x4D g.val (tempWord u.conv.tMax) false else c

/-- The group power sample that a forecast's arrival is judged by: with the other devices' reports for a leader (R360, R363). -/
def Chip.samplePower (c : Chip) (g : Group) : Rat :=
  c.groupPower g - (c.grp[g]).conv.pAvg.avg + (c.grp[g]).conv.pLast

/-- One group sample (R298). -/
def Chip.telemetry (g : Group) (v : Int) (c : Chip) : Chip :=
  let volts := (v : Rat) * c.vScale g
  let amps := c.groupCurrent g
  let t := maxRat (c.ntcTemps g)
  let c := c.modGrp g (fun u => { u with
    conv := u.conv.sample u.cfg.avgK volts amps t
    bal := u.bal.sample amps })
  let c := (c.holdTimers g v amps).lightloadExit g amps
  let c := c.checkArrival g (c.samplePower g / 1000)
  if t.isSome then c.otCompare g else c

/-! ### The engines' output at the placers (R309, R312 to R320) -/

/-- The demand of an ON or DUTY output in sixteenths of FS (R309). -/
def demandOf (k : OutKind) (per16 : Nat) (y16 : Int) : Nat :=
  if k = .duty then y16.toNat * per16 / (16 * 2 ^ 21) else y16.toNat

/-- The output reaches the placers or the rotation. -/
def Chip.deliver (g : Group) (k : OutKind) (y16 : Int) (c : Chip) : Chip :=
  let u := c.grp[g]
  match k with
  | .iref => c
  | .ti =>
    let lh := match (c.rotation g).find? (fun p => p.val == u.rotNext) with
      | some p => (c.ph[p]).pl.dtLh
      | none => 0
    let now := c.tb.count
    let c := (c.modGrp g (GroupUnit.takeTi now lh (y16 / 16).toNat)).widenNext g
    (c.rotation g).foldl (fun c p => c.modPl p (fun u => { u with reAt := (now * 8 : Nat) - (u.start : Int) })) c
  | .on => (c.phasesOf g).foldl (fun c p =>
      c.modPh p (PhaseUnit.takeDemand u.cfg u.mode c.tb.count (demandOf .on u.cfg.period y16))) c
  | .duty => (c.phasesOf g).foldl (fun c p =>
      c.modPh p (PhaseUnit.takeDemand u.cfg u.mode c.tb.count (demandOf .duty u.cfg.period y16))) c

/-- ENGINE_EVALUATION: the group's engines evaluate at a conversion triggered at `t`. -/
def Chip.runEngines (g : Group) (t : Nat) (v : Int) (c : Chip) : Chip :=
  let r := c.evaluate g t v
  match r.2 with
  | some (k, y) => r.1.deliver g k y
  | none => r.1

/-- What a delivered, ready group result does: guards, engines and telemetry. -/
def Chip.useGv (g : Group) (t : Nat) (v : Int) (w : Word) (c : Chip) : Chip :=
  let en := c.setpt.active[g]
  let c := c.modGrp g (fun u => { u with conv := u.conv.runs u.cfg en.pgLo en.pgHi v })
  let c := c.ovCompare g v w
  let c := c.runEngines g t v
  c.telemetry g v

/-- With source 00 or 01 the result handshake of a group conversion follows the current results triggered on its tick, which it includes (R313). -/
def Chip.awaitsPhase (c : Chip) (g : Group) (f : Flight) : Bool :=
  decide ((c.grp[g]).cfg.src ≤ 1) && (c.phasesOf g).any (fun p => (c.ph[p]).conv.flights.any (fun x => x.trig == f.trig))

/-- GROUP_CONVERSION_DONE: the oldest conversion in progress of Gn ends with `code`. -/
def Chip.groupConversionDone (g : Group) (code : Int) (cm : Bool) (c : Chip) : Chip :=
  let u := c.grp[g]
  match u.conv.flights with
  | [] => c
  | f :: rest =>
    if c.awaitsPhase g f then c else
    let signed := u.cfg.diff && !f.local_
    let r := gvRange signed
    let code := clampInt r.1 r.2 code
    let ovr := decide (code = r.1) || decide (code = r.2)
    let w := resultWord 14 c.refs.alignGv f.notReady ovr f.local_ u.conv.seq code
    let v := u.cfg.corrected f.local_ code
    let c := c.modGv g (fun k => { k with flights := rest, res := w, seq := k.seq + 1 })
    let c := c.count 12 1
    let c := if signed && !f.notReady then c.modGv g (GroupConv.sense (ovr || !cm)) else c
    if u.conv.checking && !f.local_ then c
    else
      let c := c.modGv g (fun k => { k with v := v, vTick := f.trig, vValid := true, vOvr := ovr, vNotReady := f.notReady })
      if f.notReady then c.skipNotReady g f.trig else c.useGv g f.trig v w

def execGroupConversionDone (g : Group) (code : Int) (commonModeOk : Bool) (s : State) : Host.Outcome State Fault Refusal :=
  .next (s.onChip (Chip.groupConversionDone g code commonModeOk))

/-! ### What follows a run of group results -/

/-- GRP_OV at its URGENT grant (R502, R521): the cycle grants every OV request that waits, in the order of their inputs, and counts as one (R65);
the reactions follow. -/
def Chip.grpOv (g : Group) (c : Chip) : Chip :=
  if (c.grp[g]).conv.ovReq.isSome then c.urgentCycle id else c

def execGrpOv (g : Group) (s : State) : Host.Outcome State Fault Refusal := .next (s.onChip (Chip.grpOv g))

/-- GRP_OV_WARN: once per unbroken run (R503). -/
def Chip.grpOvWarn (g : Group) (c : Chip) : Chip :=
  let k := (c.grp[g]).conv
  if 16 ≤ k.ovwRun ∧ !k.ovwDone ∧ !(c.phasesOf g).isEmpty then
    (c.modGv g (fun k => { k with ovwDone := true })).raiseC (grpBlock g) 0x4C g.val k.res false
  else c

def execGrpOvWarn (g : Group) (s : State) : Host.Outcome State Fault Refusal := .next (s.onChip (Chip.grpOvWarn g))

/-- The sense loss of a group, found or injected (R288, R289, R292, R528): it goes on with VSLn, and a sweep on it ends. -/
def Chip.loseSense (g : Group) (inj : Bool) (c : Chip) : Chip :=
  let u := c.grp[g]
  let c := if u.cfg.diff && !u.conv.lost then
      let c := c.modGv g (fun k => { k with
        lost := true, lostInj := inj, onLocal := true, oorRun := 0, inRun := 0, remoteNext := false })
      if u.mode = .sweep then c.abortSweepOf g 7 else c
    else c
  let d0 := if inj then 0 else u.conv.res
  if u.cfg.lossWarn || c.isMember g then
    (if inj then c else c.condBack (grpBlock g) 0x21 g.val).raiseC (grpBlock g) 0x21 g.val d0 inj
  else c.raiseB (grpBlock g) 0x21 g.val d0 inj

/-- SENSE_LOST (R288, R289). -/
def Chip.senseLost (g : Group) (c : Chip) : Chip :=
  let u := c.grp[g]
  if 16 ≤ u.conv.oorRun ∧ !u.conv.lost ∧ u.cfg.diff then c.loseSense g false else c

def execSenseLost (g : Group) (s : State) : Host.Outcome State Fault Refusal := .next (s.onChip (Chip.senseLost g))

/-- SENSE_BACK (R291). -/
def Chip.senseBack (g : Group) (c : Chip) : Chip :=
  let k := (c.grp[g]).conv
  if k.lost && k.checking && decide (16 ≤ k.inRun) then
    (c.modGv g (fun k => { k with lost := false, lostInj := false, onLocal := false, checking := false, oorRun := 0, inRun := 0 })).warn
      (grpBlock g) 0x4B g.val
  else c

def execSenseBack (g : Group) (s : State) : Host.Outcome State Fault Refusal := .next (s.onChip (Chip.senseBack g))

/-- FF_VIN_UPDATE (R326, R327). -/
def Chip.ffVinUpdate (e : Engine) (c : Chip) : Chip :=
  let u := (c.le[e]).cfg
  match groupAt u.group with
  | none => c
  | some g =>
    if !u.en || decide (u.vffMode = 0) || c.law g == .idle then c
    else
      let r := c.ffUpdate g e
      let c := c.modLe e (fun _ => r.1)
      if r.2 then c.warn (leBlock e) 0x4F 0xFF else c

def execFfVinUpdate (e : Engine) (s : State) : Host.Outcome State Fault Refusal := .next (s.onChip (Chip.ffVinUpdate e))

/-! ### The auxiliary converter (R294 to R297) -/

/-- The next enabled slot in ascending order from `from_`, wrapping. -/
def AuxUnit.nextSlot (a : AuxUnit) (from_ : Nat) : Option Slot :=
  let en := (List.finRange 24).filter (fun s => (a.slots[s]).en)
  (en.find? (fun s => decide (from_ ≤ s.val))).or en.head?

/-- The reference of a slot: sources 16 to 23 take the internal one (R295). -/
def AuxSlot.refOf (s : AuxSlot) : Nat := if s.src < 16 then s.ref else 0

/-- AUX_CONVERSION: the sequencer converts its next enabled slot (R294). -/
def Chip.auxConversion (c : Chip) : Chip :=
  if !c.ctrlUp || !c.outOfBoot || c.aux.busy.isSome then c
  else match c.aux.nextSlot c.aux.next with
  | some s =>
    let ready := c.refReady (c.aux.slots[s]).refOf
    { c with aux := { c.aux with busy := some (s.val, !ready), next := s.val + 1 } }
  | none => c

def execAuxConversion (s : State) : Host.Outcome State Fault Refusal := .next (s.onChip Chip.auxConversion)

/-- A code through a table of 17 points, and whether it lies beyond its ends (R296). -/
def linearise (t : Vector (Nat × Word) 17) (code : Nat) : Rat × Bool :=
  let first := t[(0 : Fin 17)]
  let last := t[(16 : Fin 17)]
  if code < first.1 then (f32 first.2, true)
  else if last.1 < code then (f32 last.2, true)
  else
    let seg := (List.finRange 16).find? (fun k =>
      decide ((t[(k.castSucc : Fin 17)]).1 ≤ code) && decide (code ≤ (t[(k.succ : Fin 17)]).1))
    match seg with
    | some k =>
      let a := t[(k.castSucc : Fin 17)]
      let b := t[(k.succ : Fin 17)]
      (f32 a.2 + (f32 b.2 - f32 a.2) * ((code - a.1 : Nat) : Rat) / ((b.1 - a.1 : Nat) : Rat), false)
    | none => (f32 last.2, false)

/-- The engineering value of a slot's code, and whether it sets OVR (R295, R296); a die sensor's is its temperature, given in
0.1 °C. -/
def AuxUnit.value (a : AuxUnit) (s : AuxSlot) (code : Nat) (die : Int) : Rat × Bool :=
  if s.src < 16 then
    if h : 1 ≤ s.lin ∧ s.lin ≤ 4 then linearise a.tables[(⟨s.lin - 1, by omega⟩ : Fin 4)] code
    else ((code : Rat) * f32 s.scale, false)
  else if s.src < 20 then ((die : Rat) / 10, false)
  else
    let full : Rat := if s.src = 20 then 80 else if s.src = 21 then 20 else if s.src = 22 then 10 else 5
    ((code : Rat) * full / 65536, false)

/-- One more value in a slot's block (R297). -/
def AuxSlot.add (x : Rat) (s : AuxSlot) : AuxSlot :=
  let t := s.sum + x
  let n := s.n + 1
  if 2 ^ s.avgK ≤ n then { s with sum := 0, n := 0, val := t / (n : Rat), has := true } else { s with sum := t, n := n }

/-- A die sensor's new value against its limits (R502, R503). -/
def Chip.dieCompare (slot : Slot) (k : Fin 4) (t : Rat) (c : Chip) : Chip :=
  let c := { c with sys := { c.sys with die := c.sys.die.set k t } }
  let c := if (c.sys.dieOt : Rat) ≤ t * 10 then c.raiseB sysBlock 0x28 slot.val (tempWord t) false else c
  let hot := c.sys.die.toList.any (fun t => decide ((c.sys.dieWarn : Rat) ≤ t * 10))
  let fresh := hot && !c.aux.warned
  let c := { c with aux := { c.aux with warned := hot } }
  if fresh then c.raiseC sysBlock 0x4E slot.val (tempWord t) false else c

/-- AUX_CONVERSION_DONE. -/
def Chip.auxConversionDone (code : Nat) (dieTemp : Int) (c : Chip) : Chip :=
  match c.aux.busy with
  | none => c
  | some (n, notReady) =>
    if h : n < 24 then
      let i : Slot := ⟨n, h⟩
      let code := min code 65535
      let s := c.aux.slots[i]
      let r := c.aux.value s code dieTemp
      let ovr := r.2 || decide (code = 0) || decide (code = 65535)
      let w := resultWord 16 false notReady ovr false c.aux.seq (code : Int)
      let s := { s with res := w }
      let s := if notReady then s else s.add r.1
      let done := !notReady && decide (s.n = 0)
      let c := { c with aux := { c.aux with slots := c.aux.slots.set i s, busy := none, seq := c.aux.seq + 1 } }
      if h : 16 ≤ s.src ∧ s.src < 20 then (if done then c.dieCompare i ⟨s.src - 16, by omega⟩ s.val else c) else c
    else c

def execAuxConversionDone (code : Nat) (dieTemp : Int) (s : State) : Host.Outcome State Fault Refusal :=
  .next (s.onChip (Chip.auxConversionDone code dieTemp))

end Sys2Proof.Machine
end

