-- ==== Sys2Proof/Machine/Gauge.lean ====
section
/-!
DEFINITION. The battery gauge (chapter 12 of the spec): the sample stream and the charge books, Hedgehog's second with its estimates and learned
values, the charge limits it forms, and the gauge record.
-/

namespace Sys2Proof.Machine

/-- Change the gauge. -/
def Chip.onGauge (f : GaugeUnit → GaugeUnit) (c : Chip) : Chip := { c with gauge := f c.gauge }

/-- A gauge warning (R561). -/
def Chip.gaugeWarn (code : Nat) (c : Chip) : Chip := c.warn gaugeBlock code 0xFF

/-- A message of Hedgehog's. -/
def Chip.gaugeSend (m : GaugeMsg) (c : Chip) : Chip := c.onGauge (fun u => { u with out := u.out ++ [m] })

/-- The converter runs: the GAUGE section is present, and the DATA domain up and out of BOOT (R534, R563). -/
def Chip.gaugeOn (c : Chip) : Bool := c.ctrlUp && c.outOfBoot && c.gauge.cfg.en

/-! ### The charge books (R533 to R541) -/

/-- Amperes per count. -/
def GaugeUnit.scale (u : GaugeUnit) : Rat := f32 u.cfg.scale

/-- One corrected sample enters the books and the held extremes. -/
def GaugeUnit.integrate (interp held : Bool) (x : Int) (u : GaugeUnit) : GaugeUnit :=
  let top : Int := 2 ^ 63 - 1
  let q := u.q + x
  { u with
    q := clampInt (-top) top q, sat := u.sat || decide (top < q.natAbs)
    rawValid := true, rawInterp := interp, rawHold := held, raw := x
    iPk := u.iPk.add (!u.iPkArmed) ((x : Rat) * u.scale), iPkArmed := true
    nSince := u.nSince + 1 }

/-- The eight values that fill a chop interval between its neighbours (R536). -/
def chopValues (a b : Int) : List Int :=
  (List.range 8).map (fun j : Nat => roundAway ((a : Rat) + (b - a : Int) * ((j + 1 : Nat) : Rat) / 9))

/-- A slot in which the chop shorts the input (R535). -/
def GaugeUnit.inChop (u : GaugeUnit) : Bool := !u.cfg.ext && decide (u.slot % 4000 < 8)

/-- The code is at a clip value, or the common mode is off AVSS (R537). -/
def GaugeUnit.outOfRange (u : GaugeUnit) (code : Int) (cmOk : Bool) : Bool :=
  decide (8388607 ≤ code.natAbs) || (!u.cfg.ext && !cmOk)

/-- The slot that ends the interpolation of a second (R542). -/
def GaugeUnit.endsSecond (u : GaugeUnit) : Bool := decide (u.slot % 4000 = if u.cfg.ext then 0 else 8)

/-- A chop slot ends: at the last of the eight the measured offset comes into force. How it is formed from the slots' codes is not stated: a
free value (R535). -/
def Chip.chopSlot (c : Chip) : Chip :=
  let c := c.onGauge (fun u => { u with prevIV := none })
  if c.gauge.slot % 4000 = 7 then
    let r := c.draw 40
    let was := c.gauge.offsChop
    let offs := signedOf 24 r.1
    let c := r.2.onGauge (fun u => { u with offsChop := offs })
    if 4096 < offs.natAbs ∧ was.natAbs ≤ 4096 then c.gaugeWarn 0x70 else c
  else c

/-- The step of the current between two consecutive valid samples gives a value of ZOHM (R548). -/
def Chip.stepLearn (x : Int) (c : Chip) : Chip :=
  let i := (x : Rat) * c.gauge.scale
  match c.voltSource c.gauge.cfg.vbatSrc with
  | none => c.onGauge (fun u => { u with prevIV := none })
  | some v =>
    c.onGauge (fun u =>
      let new : List Rat := match u.prevIV with
        | some (i0, v0) => if f32 u.cfg.stepI ≤ absRat (i - i0) ∧ i ≠ i0 then [(v - v0) / (i - i0)] else []
        | none => []
      { u with prevIV := some (i, v), steps := u.steps ++ new })

/-- A measured slot: the sample, whose code the decimator clips (R532), or the last valid one held in its place, after the interpolation of a chop interval that ends before it. A
corrected code that GAUGE_RAW cannot hold shows an open value there. -/
def Chip.sampleSlot (code : Int) (cmOk : Bool) (c : Chip) : Chip :=
  let u := c.gauge
  let code := clampInt (-8388607) 8388607 code
  let oor := u.outOfRange code cmOk
  let held := oor || u.lost
  let x := if held then u.lastValid else code - u.cfg.offs - u.offsChop
  let first := held && !u.hold
  let wasSat := u.sat
  let c := c.onGauge (fun u =>
    { u with hold := held, holdSmp := if held then satInc 0xFFFFFFFF u.holdSmp else u.holdSmp
             lastValid := x
             oorRun := if oor then u.oorRun + 1 else 0, inRun := if oor then 0 else u.inRun + 1 })
  let c := if held then c.onGauge (fun u => { u with prevIV := none }) else c.stepLearn x
  let c := if !u.cfg.ext && u.slot % 4000 == 8 then
      -- before the first sample after BOOT the interval has no left neighbour: an open value
      let r := if u.rawValid then (u.sA, c) else (let d := c.draw 41; (signedOf 24 d.1, d.2))
      r.2.onGauge (fun u =>
        { (chopValues r.1 x).foldl (fun u s => u.integrate true held s) u with interpMs := u.interpMs + 2 })
    else c
  let c := c.onGauge (fun u => { u.integrate false held x with sA := x })
  let c := if -(2 ^ 23) ≤ x ∧ x < 2 ^ 23 then c
    else let d := c.draw 42; d.2.onGauge (fun u => { u with raw := signedOf 24 d.1 })
  let c := if first then c.gaugeWarn 0x71 else c
  if c.gauge.sat && !wasSat then c.gaugeWarn 0x72 else c

/-- GAUGE_SLOT (R534): slot k ends at S + 600 000 × k, and slot k + 1 begins, in the chop interval or outside it (R535). -/
def Chip.gaugeSlot (t : Nat) (code : Int) (cmOk : Bool) (c : Chip) : Chip :=
  if c.gaugeOn && t == c.gauge.s + 600000 * c.gauge.slot then
    let c := c.elapseTo t
    let c := if c.gauge.inChop then c.chopSlot else c.sampleSlot code cmOk
    let second := c.gauge.endsSecond
    let c := c.onGauge (fun u => { u with slot := u.slot + 1, secReq := u.secReq || second })
    c.onGauge (fun u => { u with chop := u.inChop })
  else c

def execGaugeSlot (t : Nat) (code : Int) (commonModeOk : Bool) (s : State) : Host.Outcome State Fault Refusal :=
  .next (s.onChip (Chip.gaugeSlot t code commonModeOk))

/-- GAUGE_INPUT_LOST (R538, R539): sixteen out-of-range samples, or with the external modulator a silent BMDAT; the gauge event wakes Hedgehog (R30). -/
def Chip.gaugeInputLost (c : Chip) : Chip :=
  if c.gaugeOn && !c.gauge.lost && (c.gauge.cfg.ext || decide (16 ≤ c.gauge.oorRun)) then
    let c := ((c.onGauge (fun u => { u with lost := true, inRun := 0 })).wake .hedgehog).gaugeSend (.input true)
    if c.grp.toList.any (fun u => u.mode == .charge) then c.faultB gaugeBlock 0x2E 0xFF else (c.condBack gaugeBlock 0x2E 0xFF).gaugeWarn 0x2E
  else c

def execGaugeInputLost (s : State) : Host.Outcome State Fault Refusal := .next (s.onChip Chip.gaugeInputLost)

/-- GAUGE_INPUT_VALID (R538): 64 consecutive samples in range; the gauge event wakes Hedgehog (R30). -/
def Chip.gaugeInputValid (c : Chip) : Chip :=
  if c.gaugeOn && c.gauge.lost && decide (64 ≤ c.gauge.inRun) then
    ((c.onGauge (fun u => { u with lost := false, oorRun := 0 })).wake .hedgehog).gaugeSend (.input false)
  else c

def execGaugeInputValid (s : State) : Host.Outcome State Fault Refusal := .next (s.onChip Chip.gaugeInputValid)

/-! ### The open-circuit voltage (R545) -/

/-- Linear interpolation in a table that ascends in its first column; outside it, its nearer end. -/
def lerpTable (x : Rat) : List (Rat × Rat) → Rat
  | [] => 0
  | [p] => p.2
  | p :: q :: rest =>
    if x ≤ p.1 then p.2
    else if x ≤ q.1 then p.2 + (q.2 - p.2) * (x - p.1) / (q.1 - p.1)
    else lerpTable x (q :: rest)

/-- The voltage of point `j` at a temperature in °C. -/
def GaugeCfg.ocvPoint (u : GaugeCfg) (temp : Rat) (j : Nat) : Rat :=
  lerpTable temp ((u.ocvT.zip u.ocv).map (fun r => ((r.1 : Rat) / 10, ((r.2[j]?.getD 0 : Nat) : Rat) / 1000)))

/-- SOC, from 0 to 1, of an open-circuit cell voltage. -/
def GaugeCfg.socOcv (u : GaugeCfg) (v temp : Rat) : Rat :=
  lerpTable v ((List.range 21).map (fun j => (u.ocvPoint temp j, (j : Rat) / 20)))

/-! ### The exponential (R547) -/

/-- Terms of the exponential series of −x, both scaled by 2^64, from term `k` on: `n` of them, with alternating signs. -/
def expSeries (x : Nat) : Nat → Nat → Int → Int
  | 0, _, _ => 0
  | n + 1, k, term => term + expSeries x n (k + 1) (-(term * (x : Int)) / (((k + 1) * 2 ^ 64 : Nat) : Int))

/-- e⁻¹ multiplied into a number scaled by 2^64, `n` times. -/
def expWhole : Nat → Nat → Nat
  | 0, y => y
  | n + 1, y => expWhole n (y * 6786177901268885274 / 2 ^ 64)

/-- exp(−x) for x ≥ 0, to about 2^−58; below 2^−64 it is 0. The manual gives the exponential and no rounding of it: the places beyond are the model's
(DESIGN CHOICE, log 149). -/
def expNeg (x : Rat) : Rat :=
  let whole := x.floor.toNat
  if 48 < whole then 0
  else
    let part := ((x - (whole : Rat)) * (2 ^ 64 : Nat)).floor.toNat
    ((expWhole whole (expSeries part 24 0 (2 ^ 64)).toNat : Nat) : Rat) / (2 ^ 64 : Nat)

/-! ### Learned values (R547, R548) -/

/-- A new value inside its band takes effect through its filter; outside, it is discarded with a warning. -/
def Chip.learn (old new lo hi div : Rat) (set : Rat → GaugeUnit → GaugeUnit) (c : Chip) : Chip :=
  if !c.gauge.cfg.learn then c
  else if lo * old ≤ new ∧ new ≤ hi * old then c.onGauge (set (old + (new - old) / div))
  else c.gaugeWarn 0x76

/-- An anchor of FCC learning: with the one before it at least half the range away, it gives a value of FCC (R548). -/
def Chip.anchorAt (soc : Rat) (c : Chip) : Chip :=
  let c := match c.gauge.anchor with
    | some (soc0, charge) =>
      if 1 / 2 ≤ absRat (soc - soc0) then
        c.learn c.gauge.fcc (charge / (soc - soc0)) (9 / 10) (11 / 10) 4 (fun x u => { u with fcc := x })
      else c
    | none => c
  c.onGauge (fun u => { u with anchor := some (soc, 0) })

/-- SOC in 0.01 % (R544); with FCC 0 the spec gives none, and it stands. -/
def GaugeUnit.socNow (u : GaugeUnit) : Nat := if u.fcc = 0 then u.soc else (roundAway (10000 * u.rc / u.fcc)).toNat

/-- The values of ZPOL and TAUPOL that the fit over the voltage history gives at rest (R548). How the fit is computed is not given: its amplitude and time
constant are free values, functions of the history. Without a load current there is no new ZPOL. -/
def Chip.fitRest (c : Chip) : Chip :=
  let u := c.gauge
  let fit := Config.relaxFit u.vHist
  let c := if u.loadI = 0 then c
    else c.learn u.zpol (fit.1 / u.loadI) (1 / 2) 2 4 (fun x u => { u with zpol := x })
  c.learn u.taupol fit.2 (1 / 2) 2 4 (fun x u => { u with taupol := x })

/-- Rest detection (R547, R548): the open-circuit voltage is an anchor, RC follows it with the capacity that this has left, and the fits follow. -/
def Chip.restFound (c : Chip) : Chip :=
  let u := c.gauge
  let decay := if u.taupol = 0 then 0 else expNeg ((u.sinceLoad : Rat) / u.taupol)
  let vpol := u.loadI * u.zpol * decay
  let soc := u.cfg.socOcv ((u.v - vpol) / (u.cfg.cells : Rat)) u.t
  let c := (c.anchorAt soc).onGauge (fun u => { u with rc := soc * u.fcc, socValid := true })
  let jump := decide (500 < ((c.gauge.socNow : Int) - (u.soc : Int)).natAbs)
  (if jump then c.gaugeWarn 0x75 else c).fitRest

/-! ### The gauge record (R556 to R560) -/

/-- The payload of FMT 1. -/
def Chip.gaugeBytes (c : Chip) (reason : Nat) (clean : Bool) : List Byte :=
  let u := c.gauge
  let f (x : Rat) : List Byte := leBytes 4 (toF32 x).toNat
  [1, BitVec.ofNat 8 ((bit u.socValid + 2 * bit u.full + 4 * bit clean + 8 * bit c.cal.set).toNat), BitVec.ofNat 8 reason, 0] ++
  leBytes 8 c.cal.sec ++ f u.rc ++ f u.fcc ++ f u.zohm ++ f u.zpol ++ f u.taupol ++ leBytes 2 u.soc ++ leBytes 2 u.soh ++
  leBytes 4 u.cycles.toNat ++ f u.cycAcc ++ leBytes 2 (BitVec.ofInt 16 (roundAway (u.t * 10))).toNat ++ [0, 0] ++
  leBytes 4 (u.gen + 1) ++ [0, 0, 0, 0]

/-- A record has been formed: its generation is counted, and the host SAVEs that had none wait for it (R560, R564). -/
def GaugeUnit.recordFormed (u : GaugeUnit) : GaugeUnit :=
  { u with gen := u.gen + 1, deferred := none, saves := u.saves.map (fun s => (s.1, some (s.2.getD (u.gen + 1)))) }

/-- Hedgehog hands a record to Owl. -/
def Chip.handOver (reason : Nat) (clean : Bool) (c : Chip) : Chip :=
  let m := c.gaugeBytes reason clean
  (c.onGauge GaugeUnit.recordFormed).gaugeSend (.record m)

/-- Hedgehog may hand over a record (R557, R559). -/
def Chip.mayHandOver (c : Chip) : Bool := c.gauge.started && !c.sys.ride && c.gauge.nvWritable && !c.gauge.nvReadOnly

/-- An occasion (R556); one that cannot be served now waits with the lowest REASON (R557). -/
def Chip.occasion (reason : Nat) (c : Chip) : Chip :=
  let r := match c.gauge.deferred with
    | some d => min d reason
    | none => reason
  if c.mayHandOver then c.handOver r false
  else if c.gauge.nvReadOnly then c
  else c.onGauge (fun u => { u with deferred := some r })

/-- One record for what arose while none could be handed over (R557). -/
def Chip.occasionWaiting (c : Chip) : Chip :=
  match c.gauge.deferred with
  | some r => if c.mayHandOver then c.handOver r false else c
  | none => c

/-- The charge in coulombs since QMARK was set (R543): while the timebase is not LOCKED a slot's charge scales with its length. -/
def Chip.chargeSince (c : Chip) : Rat :=
  let u := c.gauge
  let fast : Rat := if c.tb.st = .locked then 1 else 1 + (c.tb.ferr : Rat) / 1000000
  ((u.q - u.qmark : Int) : Rat) * u.scale / 4000 / fast

/-- The record of SHUTDOWN: the values of the last second plus the charge since (R558). -/
def Chip.shutdownRecord (c : Chip) : Chip :=
  let dq := c.chargeSince
  let late := c.onGauge (fun u => { u with rc := max 0 (min u.fcc (u.rc + dq / 3600)) })
  let m := (late.onGauge (fun u => { u with soc := u.socNow })).gaugeBytes 4 true
  (c.onGauge GaugeUnit.recordFormed).gaugeSend (.record m)

/-! ### The charge limits (R552) -/

/-- A number that a message carries, in its units; where it falls between two, which one is open. -/
def unitsOf (x : Rat) : Nat := x.floor.toNat + if (x.floor : Rat) = x then 0 else if Config.roundUp x then 1 else 0

/-- The limits formed and sent to Badger. -/
def Chip.sendLimits (c : Chip) : Chip :=
  let u := c.gauge
  let outside := decide (u.t * 10 < (u.cfg.chgTMin : Rat)) || decide ((u.cfg.chgTMax : Rat) < u.t * 10)
  let i := if outside || u.full || u.lost then 0 else unitsOf (10 * f32 u.cfg.chgI) % 2 ^ 24
  let v := unitsOf (100 * f32 u.cfg.chgV) % 2 ^ 24
  let c := c.onGauge (fun u => { u with chgInhibit := outside, chgI := i, chgV := v })
  let c := c.gaugeSend (.chgLimits i v)
  if outside && !u.chgInhibit then c.gaugeWarn 0x74 else c

/-! ### Hedgehog's second (R542 to R559) -/

/-- T of R543: 25 °C without a TMASK, else the highest ADC_AUXs_VAL of its slots, which reads 0 before a slot's first value. -/
def Chip.gaugeTemp (c : Chip) : Rat :=
  if c.gauge.cfg.tmask = 0 then 25
  else (maxRat ((c.aux.slots.toList.filter (fun s => s.en && decide (s.src < 16) && c.gauge.cfg.tmask.testBit s.src)).map
    (fun s => if s.has then s.val else 0))).getD c.gauge.t

/-- The charge of the second in coulombs and its mean current; V and T (R543). -/
def Chip.secondValues (c : Chip) : Rat × Chip :=
  let u := c.gauge
  let i := if u.nSince = 0 then u.i else ((u.q - u.qmark : Int) : Rat) * u.scale / (u.nSince : Rat)
  let v := (c.voltSource u.cfg.vbatSrc).getD u.v
  let hist := u.vHist ++ [v]
  (c.chargeSince, c.onGauge (fun u =>
    { u with qmark := u.q, nSince := 0, i := i, v := v, t := c.gaugeTemp, vHist := hist.drop (hist.length - u.cfg.restT) }))

/-- Discharge enters CYC_ACC, and a cycle is counted as it reaches its share of FCC (R550). -/
def GaugeUnit.discharge (ah : Rat) (u : GaugeUnit) : GaugeUnit :=
  let acc := u.cycAcc + ah
  let full := u.fcc * (u.cfg.cyclePct : Rat) / 100
  if 0 < ah ∧ full ≤ acc then { u with cycAcc := acc - full, cycles := u.cycles + 1 } else { u with cycAcc := acc }

/-- The charge throughput of a second, in 0.1 Ah messages to Owl (R550). -/
def Chip.throughput (ah : Rat) (c : Chip) : Chip :=
  let acc := c.gauge.ahAcc + absRat ah
  let n := (10 * acc).floor.toNat
  let c := c.onGauge (fun u => { u with ahAcc := acc - (n : Rat) / 10 })
  if n = 0 then c else c.gaugeSend (.ah n)

/-- Charge and cycles of a second (R544, R550). -/
def Chip.countCharge (dq : Rat) (c : Chip) : Chip :=
  let ah := dq / 3600
  c.onGauge (fun u =>
    { (u.discharge (max 0 (-ah))) with rc := max 0 (min u.fcc (u.rc + ah)), anchor := u.anchor.map (fun a => (a.1, a.2 + ah)) })

/-- Rest or load, second by second (R546); true at the second at which rest is detected. -/
def GaugeUnit.restStep (u : GaugeUnit) : GaugeUnit × Bool :=
  if absRat u.i < f32 u.cfg.restI then
    let n := u.restRun + 1
    ({ u with restRun := n, sinceLoad := u.sinceLoad + 1, rest := u.rest || decide (u.cfg.restT ≤ n) }, !u.rest && decide (u.cfg.restT ≤ n))
  else ({ u with restRun := 0, rest := false, loadI := u.i, sinceLoad := 0 }, false)

/-- The termination conditions (R555); true at the second at which FULL sets. -/
def GaugeUnit.fullStep (u : GaugeUnit) : GaugeUnit × Bool :=
  let ok := u.grpMode == .charge && decide (99 / 100 * f32 u.cfg.chgV ≤ u.v) && decide (0 ≤ u.i) && decide (u.i < f32 u.cfg.termI)
  let n := if ok then u.termRun + 1 else 0
  let sets := ok && decide (u.cfg.termT ≤ n) && !u.full
  ({ u with termRun := n, full := u.full || sets }, sets)

/-- The first second with |I| < REST_I after a start without a record (R551). -/
def Chip.firstSoc (c : Chip) : Chip :=
  let u := c.gauge
  if u.noRecord && decide (absRat u.i < f32 u.cfg.restI) then
    c.onGauge (fun u => { u with rc := u.cfg.socOcv (u.v / (u.cfg.cells : Rat)) u.t * u.fcc, socValid := true, noRecord := false })
  else c

/-- FULL sets: a full charge is an anchor, and RC is the capacity that it has left (R548, R555). -/
def Chip.fullFound (c : Chip) : Chip := (c.anchorAt 1).onGauge (fun u => { u with rc := u.fcc })

/-- SOC and SOH, with the fall below 5 % (R544, R549, R556, R561). -/
def Chip.socStep (c : Chip) : Chip :=
  let was := c.gauge.soc
  let c := c.onGauge (fun u => { u with
    soc := u.socNow
    soh := if f32 u.cfg.designAh = 0 then u.soh else min 10000 (roundAway (10000 * u.fcc / f32 u.cfg.designAh)).toNat })
  let c := c.onGauge (fun u => { u with full := u.full && decide (9500 ≤ u.soc), lowSent := u.lowSent && decide (u.soc < 600) })
  let fell := decide (500 ≤ was) && decide (c.gauge.soc < 500)
  let c := if fell then c.gaugeWarn 0x73 else c
  if fell && !c.gauge.lowSent then (c.onGauge (fun u => { u with lowSent := true })).occasion 3 else c

/-- GAUGE_NV_STALE, once until a record is next accepted (R559). -/
def Chip.staleCheck (c : Chip) : Chip :=
  if decide (660 ≤ c.gauge.nvAge) && !c.gauge.staleSent then (c.onGauge (fun u => { u with staleSent := true })).gaugeWarn 0x77 else c

/-- The periodic occasion, every 600 seconds of the stored record's age (R556, R559). -/
def Chip.ageStep (c : Chip) : Chip :=
  let c := c.staleCheck
  if c.gauge.nextPeriodic ≤ c.gauge.nvAge then
    (c.onGauge (fun u => { u with nextPeriodic := (u.nvAge / 600 + 1) * 600 })).occasion 0
  else c

/-- Hedgehog's work of a second, once it has its starting values; the records of its occasions carry its new SOC (R560). -/
def Chip.secondWork (dq : Rat) (c : Chip) : Chip :=
  let c := c.countCharge dq
  let c := (c.gauge.steps.foldl (fun c z =>
    c.learn c.gauge.zohm z (1 / 2) 2 8 (fun x u => { u with zohm := x })) c).onGauge (fun u => { u with steps := [] })
  let c := c.firstSoc
  let r := c.gauge.restStep
  let c := c.onGauge (fun _ => r.1)
  let c := if r.2 then c.restFound else c
  let f := c.gauge.fullStep
  let c := c.onGauge (fun _ => f.1)
  let c := (if f.2 then c.fullFound else c).socStep
  let c := if r.2 then c.occasion 1 else c
  if f.2 then c.occasion 2 else c

/-- Hedgehog's work of a second before it has them: the charge is kept for the start (R544, R550, R551). -/
def Chip.earlyWork (dq : Rat) (c : Chip) : Chip :=
  let ah := dq / 3600
  c.onGauge (fun u => { u with early := u.early + ah, earlyOut := u.earlyOut + max 0 (-ah), steps := [] })

/-- HEDGEHOG_SECOND: the grant of SECOND, which wakes the HH domain, and Hedgehog's work. At the first one Hedgehog asks for its record. In a
watchdog restart the work waits for the next second, QMARK standing (R543); the age of the stored record counts every second (R559). The limits go out in
CHARGE at every second that Hedgehog works (R552). -/
def Chip.hedgehogSecond (c : Chip) : Chip :=
  if c.gaugeOn && c.gauge.secReq then
    let c := ((c.grant 39 1).count 30 1).wake .hedgehog
    let c := c.onGauge (fun u => { u with secReq := false, sec := u.sec + 1, nvAge := satInc 0xFFFFFFFF u.nvAge })
    if (c.dom[coreIdx .hedgehog]).restart then c
    else
      let s := c.secondValues
      let c := s.2
      let c := if c.gauge.asked then c else (c.onGauge (fun u => { u with asked := true })).gaugeSend .recordReq
      let c := c.throughput (s.1 / 3600)
      let c := (if c.gauge.started then c.secondWork s.1 else c.earlyWork s.1).ageStep.occasionWaiting
      if c.gauge.grpMode = .charge then c.sendLimits else c
  else c

def execHedgehogSecond (s : State) : Host.Outcome State Fault Refusal := .next (s.onChip Chip.hedgehogSecond)

/-! ### The start (R551) -/

/-- The capacity and the model values of the image (R551, R562). -/
def GaugeUnit.imageValues (u : GaugeUnit) : GaugeUnit :=
  { u with fcc := f32 u.cfg.designAh, zohm := f32 u.cfg.zohm0, zpol := f32 u.cfg.zpol0, taupol := f32 u.cfg.taupol0 }

/-- The charge counted before the start enters RC and CYC_ACC. -/
def GaugeUnit.takeEarly (u : GaugeUnit) : GaugeUnit :=
  { (u.discharge u.earlyOut) with started := true, rc := max 0 (min u.fcc (u.rc + u.early)), early := 0, earlyOut := 0 }

/-- The start from a stored record of FMT 1; with LEARN_EN 0 the values that learning changes are the image's (R548, R551). -/
def Chip.gaugeStart (r : List Byte) (c : Chip) : Chip :=
  let f (off : Nat) : Rat := f32 (wordAt r off)
  let flags := (bytesAt r 1 1).headD 0
  let days : Rat := max 0 (((c.cal.sec : Int) - (numAt r 4 5 : Int) : Int) / (86400 : Rat))
  c.onGauge (fun u =>
    let u := if u.cfg.learn then { u with fcc := f 16, zohm := f 20, zpol := f 24, taupol := f 28 } else u.imageValues
    let gone : Rat := if flags.getLsbD 3 && c.cal.set then u.fcc * (u.cfg.selfDis : Rat) / 100000 * days else 0
    { u with cycles := wordAt r 36, cycAcc := f 40, rc := f 12 - gone, socValid := flags.getLsbD 0, unclean := !flags.getLsbD 2
             soc := numAt r 32 2, gen := numAt r 48 4 }.takeEarly)

/-- The start without one. -/
def GaugeUnit.startNew (u : GaugeUnit) : GaugeUnit :=
  { u.imageValues with noRecord := true, cycles := 0, cycAcc := 0, rc := 0 }.takeEarly

end Sys2Proof.Machine
end

