-- ==== Sys2Proof/Machine/GuardCmd.lean ====
section
/-!
DEFINITION. The guards' own commands: raising, the disappearance of a condition, retries (R498 to R512), and factory test with its
unlock window and injections (R525 to R528).
-/

namespace Sys2Proof.Machine

/-- The block raises the code in the class (R501 to R503; the gauge's own warnings 0x70 to 0x78). -/
def raises (b : Block) (cl : Cls) (code : Nat) : Bool :=
  let n := b.val
  let isPh := decide (n < 24)
  let isLe := decide (24 ≤ n) && decide (n < 28)
  let isGrp := decide (28 ≤ n) && decide (n < 32)
  let isPort := n == 34 || n == 35
  match cl with
  | .a =>
    (code == 0x01 && isPh) || (code == 0x02 && b == tbBlock) || (code == 0x03 && (isLe || isGrp)) || (code == 0x04 && b == sysBlock)
  | .b =>
    ((code == 0x10 || code == 0x11) && isPh) ||
    ((code == 0x20 || code == 0x21 || (decide (0x23 ≤ code) && decide (code ≤ 0x26))) && isGrp) ||
    (code == 0x22 && b == adcBlock) || ((code == 0x27 || code == 0x28) && b == sysBlock) || (code == 0x29 && b == tbBlock) ||
    ((code == 0x2A || code == 0x2B) && b == settBlock) || (code == 0x2C && b == badgerBlock) ||
    (code == 0x2D && (b == badgerBlock || blockOnTimebase n)) || (code == 0x2E && b == gaugeBlock) ||
    (isBootFault code && b == sysBlock) || (code == 0x38 && b == nvsBlock)
  | .c =>
    (code == 0x21 && isGrp) || (code == 0x2E && b == gaugeBlock) ||
    (decide (0x40 ≤ code) && decide (code ≤ 0x47) && b == sysBlock) || ((code == 0x48 || code == 0x49) && b == tbBlock) ||
    (code == 0x4A && b == adcBlock) || ((code == 0x4B || code == 0x4C || code == 0x4D) && isGrp) ||
    (code == 0x4E && b == sysBlock) || (code == 0x4F && isLe) || ((code == 0x50 || code == 0x51) && isPh) ||
    (code == 0x52 && isGrp) || ((code == 0x53 || code == 0x54) && b == lcmdBlock) ||
    (decide (0x55 ≤ code) && decide (code ≤ 0x57) && isPort) ||
    (decide (0x58 ≤ code) && decide (code ≤ 0x5B) && b == settBlock) ||
    (decide (0x5C ≤ code) && decide (code ≤ 0x5E) && b == nvsBlock) || (code == 0x5F && b == owlBlock) ||
    (code == 0x60 && b == hhBlock) || (code == 0x61 && (b == owlBlock || b == hhBlock || b == adcBlock)) ||
    (code == 0x62 && b == hostBlock) || (decide (0x70 ≤ code) && decide (code ≤ 0x78) && b == gaugeBlock)

/-- The unit is one that the block has for the code (R497): the block's own phase, group or port, a group, a load-command or CAN
port, a die sensor's slot, or 0xFF. -/
def hasUnit (b : Block) (code unit : Nat) : Bool :=
  if b = lcmdBlock then decide (unit < 4)
  else if b = hostBlock then decide (unit < 2)
  else if b = adcBlock && code == 0x22 then decide (unit < 4)
  else if b = settBlock && (code == 0x2A || code == 0x2B) then decide (unit < 4)
  else if b = sysBlock && (code == 0x28 || code == 0x4E) then decide (unit < 24)
  else if b = nvsBlock && (code == 0x5C || code == 0x5D) then decide (unit < 64)
  else unit == blockUnit b

/-- FAULT_RAISE: a detection of the catalogue is granted. -/
def Chip.faultRaise (b : Block) (cl : Cls) (code unit : Nat) (d0 : Word) (c : Chip) : Chip :=
  if c.powered && raises b cl code && hasUnit b code unit then c.raise b cl code unit d0 false else c

def execFaultRaise (b : Block) (cl : Cls) (code unit : Nat) (d0 : Word) (s : State) : Host.Outcome State Fault Refusal :=
  .next (s.onChip (Chip.faultRaise b cl code unit d0))

def execConditionGone (b : Block) (code unit : Nat) (s : State) : Host.Outcome State Fault Refusal :=
  .next (s.onChip (Chip.goneFault b code unit))

def execRetry (b : Block) (code unit : Nat) (s : State) : Host.Outcome State Fault Refusal :=
  .next (s.onChip (Chip.retryFault b code unit))

def execRetriesReset (b : Block) (s : State) : Host.Outcome State Fault Refusal := .next (s.onChip (Chip.retriesReset b))

/-! ### Factory test -/

/-- The unlock window closes without an unlock (R526). -/
def Chip.closeUnlock (c : Chip) : Chip := { c with sys := { c.sys with unlockOpen := false } }.warn sysBlock 0x47 0xFF

/-- FACTORY_UNLOCK: the first frame with the unlock identifier in the window (R525); a wrong value closes the window (R526). -/
def Chip.factoryUnlock (data : List Byte) (c : Chip) : Chip :=
  if c.sys.unlockOpen then
    if data = Config.unlockValue then { c with sys := { c.sys with unlockOpen := false, test := true } } else c.closeUnlock
  else c

def execFactoryUnlock (data : List Byte) (s : State) : Host.Outcome State Fault Refusal :=
  .next (s.onChip (Chip.factoryUnlock data))

/-- TMODE_IGNORED: the window ends (R526). -/
def Chip.tmodeIgnored (c : Chip) : Chip := if c.sys.unlockOpen then c.closeUnlock else c

def execTmodeIgnored (s : State) : Host.Outcome State Fault Refusal := .next (s.onChip Chip.tmodeIgnored)

/-- The class in which an injection raises a code: the fault where the block has the code as one, else the warning. A group's
SENSE_LOST and GAUGE_INPUT_LOST take the class that a detection would take (R288, R539). -/
def Chip.injectedClass (c : Chip) (b : Block) (code : Nat) : Option Cls :=
  if raises b .a code then some .a
  else if raises b .b code then
    if code = 0x21 then
      match groupAt (b.val - 28) with
      | some g => some (if (c.grp[g]).cfg.lossWarn || c.isMember g then .c else .b)
      | none => some .b
    else if code = 0x2E then some (if c.grp.toList.any (fun u => u.mode == .charge) then .b else .c)
    else some .b
  else if raises b .c code then some .c
  else none

/-- The reaction of an injection (R528): that of a detection. An expiry and a memory error of Owl or Hedgehog restart the domain, whose own warning
follows with its restart; a sense loss moves the group to VSLn; every other code is its raise. Hedgehog powered down has nothing to restart and only logs
(DESIGN CHOICE, log 76). -/
def Chip.injectAs (b : Block) (cl : Cls) (code unit : Nat) (c : Chip) : Chip :=
  let own : Option Core := if b = owlBlock then some .owl else if b = hhBlock then some .hedgehog else none
  match own, cl with
  | some k, .c =>
    if !c.isUp k then c.raise b cl code unit 0 true
    else if code = 0x61 then (c.raise b cl code unit 0 true).restartAs k true
    else c.restartAs k true
  | _, _ =>
    match groupAt (b.val - 28) with
    | some g => if code = 0x21 ∧ b = grpBlock g then c.loseSense g true else c.raise b cl code unit 0 true
    | none => c.raise b cl code unit 0 true

/-- An injection (R528): refused for a boot fault, for a code the block does not raise and for a unit it does not have. -/
def Chip.inject (b code unit : Nat) (c : Chip) : Chip × Bool :=
  if h : b < 45 then
    if isBootFault code || !hasUnit ⟨b, h⟩ code unit then (c, false)
    else
      match c.injectedClass ⟨b, h⟩ code with
      | none => (c, false)
      | some cl =>
        let c := { c with sys := { c.sys with fiCtl := unit * 65536 + code * 256 + b, fiCnt := c.sys.fiCnt + 1 } }
        (c.injectAs ⟨b, h⟩ cl code unit, true)
  else (c, false)

end Sys2Proof.Machine
end

