-- ==== Sys2Proof/Machine/RegsControl.lean ====
section
/-!
DEFINITION. The register words of the control plane's blocks (TB, PH, ADC, LE, GRP, SETPT, VSEL, LCMD, BAL), as the chapters' tables
lay them out: what a read of each address of their windows returns, an unassigned address reading 0 (R21). A read's side effects are
in RegPath.
-/

namespace Sys2Proof.Machine

/-- A natural number as a field value. -/
def nat (n : Nat) : Int := (n : Int)

/-- A register of one value. -/
def wordOf (n : Nat) : Word := BitVec.ofNat 32 n

/-- The low and the high word of a 64-bit value, two's complement. -/
def loWord (x : Int) : Word := BitVec.ofInt 32 x
def hiWord (x : Int) : Word := BitVec.ofInt 32 (x / 4294967296)

/-- An index below `n`, for a block of windows. -/
def under (n i : Nat) : Option (Fin n) := if h : i < n then some ⟨i, h⟩ else none

/-! ### Timebase -/

/-- The code of a timebase state (R207). -/
def tbCode : TbState → Nat
  | .acquire => 0
  | .locked => 1
  | .holdover => 2
  | .relock => 3
  | .freerun => 4

/-- TB (0x0001_0000); TB_COUNT_HI is the reader's latch. -/
def Timebase.regs (t : Timebase) (latch : Word) (off : Nat) : Word :=
  match off with
  | 0x00 => packWord [(7, 1, bit t.refPresent), (6, 1, bit t.limitSeen), (5, 1, bit t.holdover), (4, 1, bit (t.st == .locked)),
      (0, 3, nat (tbCode t.st))]
  | 0x08 => loWord t.count
  | 0x0C => latch
  | 0x10 => packWord [(0, 16, t.ferr)]
  | 0x14 => packWord [(16, 16, nat t.relocks.toNat), (0, 16, nat t.losses.toNat)]
  | 0x18 => wordOf t.limCnt
  | 0x1C => packWord [(0, 1, bit t.refSel)]
  | 0x20 => packWord [(0, 9, nat t.bmDiv)]
  | _ => 0

/-! ### Phases -/

/-- The code of a PSTATE (R370). -/
def pstateCode : PState → Nat
  | .standby => 0
  | .adding => 1
  | .active => 2
  | .shedding => 3
  | .faulted => 4

/-- PHn_TRIGA and _TRIGB. -/
def TrigCfg.word (t : TrigCfg) : Word := packWord [(30, 2, nat t.mode), (0, 22, nat t.pos)]

/-- PHn (0x0002_0000 + 0x0400 × n). -/
def PhaseUnit.regs (u : PhaseUnit) (off : Nat) : Word :=
  let f := u.cfg
  let p := u.pl
  match off with
  | 0x00 => packWord [(8, 5, nat f.rot), (0, 3, nat f.group)]
  | 0x04 => packWord [(0, 22, nat f.ofs)]
  | 0x08 => packWord [(0, 26, nat p.per)]
  | 0x0C => packWord [(0, 25, nat p.on)]
  | 0x10 => packWord [(16, 13, nat p.dtLh), (0, 13, nat p.dtHl)]
  | 0x14 => packWord [(16, 13, nat f.dtMax), (0, 13, nat f.dtMin)]
  | 0x18 => packWord [(16, 9, nat f.dtMargin), (0, 13, nat f.dtInit)]
  | 0x1C => packWord [(16, 13, nat p.tcLh), (0, 13, nat p.tcHl)]
  | 0x20 => packWord [(24, 7, nat f.bootM), (16, 8, nat f.bootN), (15, 1, bit f.bootEn), (0, 11, nat f.bootW)]
  | 0x24 => packWord [(8, 8, nat f.tripK), (0, 8, nat f.tripFilt)]
  | 0x28 => f.trigA.word
  | 0x2C => f.trigB.word
  | 0x30 => packWord [(11, 1, bit p.inRot), (10, 1, bit p.tripIn), (9, 1, bit p.cut), (8, 1, bit p.fullOn), (0, 3, nat (pstateCode p.pstate))]
  | 0x34 => packWord [(8, 24, nat p.tripTotal), (0, 8, nat p.tripRun)]
  | 0x38 => packWord [(16, 16, nat p.noCommLh), (0, 16, nat p.noCommHl)]
  | 0x3C => p.cntBoot
  | 0x40 => packWord [(16, 16, nat p.noLow), (0, 16, nat p.skip)]
  | 0x48 => packWord [(0, 18, p.trim)]
  | 0x4C => packWord [(0, 22, nat p.debt)]
  | _ => 0

/-- ADC_PHn (0x0004_1000 + 0x40 × n). -/
def PhaseUnit.adcRegs (u : PhaseUnit) (off : Nat) : Word :=
  match off with
  | 0x00 => u.conv.resA
  | 0x04 => u.conv.resB
  | 0x08 => packWord [(16, 5, nat u.cfg.avgK), (0, 2, nat u.cfg.curSel)]
  | 0x0C => u.cfg.scale
  | 0x10 => packWord [(0, 16, u.cfg.offs)]
  | 0x14 => toF32 u.conv.avg
  | 0x18 => u.conv.cnt
  | 0x1C => wordOf u.conv.drop
  | 0x20 => packWord [(0, 1, bit u.conv.avgValid)]
  | _ => 0

/-- BAL_PHn (0x0007_1000 + 0x40 × n). -/
def PhaseUnit.balRegs (u : PhaseUnit) (off : Nat) : Word :=
  let b := u.bal
  match off with
  | 0x00 => packWord [(0, 5, nat u.cfg.prio)]
  | 0x04 => toF32 b.avg
  | 0x08 => packWord [(31, 1, bit b.verified), (29, 2, nat b.fails), (16, 13, nat b.since), (0, 16, b.rise)]
  | 0x0C => packWord [(2, 1, bit b.diagDue), (1, 1, bit b.imbal), (0, 1, bit b.unverified)]
  | 0x10 => packWord [(16, 16, nat b.failed), (0, 16, nat b.passed)]
  | 0x14 => b.strCnt
  | _ => 0

/-! ### Groups -/

/-- The code of a MOD (R228). -/
def modCode : Modulation → Nat
  | .fixedTe => 0
  | .fixedLe => 1
  | .cot => 2
  | .coff => 3

/-- GRPn (0x0005_8000 + 0x0400 × n). -/
def GroupUnit.regs (u : GroupUnit) (off : Nat) : Word :=
  let f := u.cfg
  match off with
  | 0x00 => packWord [(8, 8, nat (causeCode u.cause)), (4, 4, nat (modeCode u.prev)), (0, 4, nat (modeCode u.mode))]
  | 0x04 => u.modeSeq
  | 0x08 => packWord [(1, 1, bit u.runSel), (0, 1, bit u.enable)]
  | 0x0C => packWord [(4, 1, bit f.llEn), (3, 1, bit f.preEn), (2, 1, bit f.chargeOk), (1, 1, bit f.runDefault), (0, 1, bit f.autoStart)]
  | 0x10 => packWord [(16, 16, nat f.preTmax), (0, 10, nat f.preIlim)]
  | 0x14 => packWord [(0, 10, nat f.preVend)]
  | 0x18 => packWord [(16, 16, nat f.ssTmax), (0, 10, nat f.ssIneg)]
  | 0x1C => packWord [(0, 10, nat f.shdnRampT)]
  | 0x20 => packWord [(24, 8, nat f.llEnter), (16, 8, nat f.llExit), (0, 16, nat f.llDwell)]
  | 0x40 => packWord [(3, 1, bit f.span), (2, 1, bit f.fullEn), (0, 2, nat (modCode f.mod))]
  | 0x44 => packWord [(0, 26, nat f.period)]
  | 0x48 => packWord [(0, 21, nat f.const)]
  | 0x4C => packWord [(0, 22, nat f.perMin)]
  | 0x50 => packWord [(0, 22, nat f.perMax)]
  | 0x54 => packWord [(8, 5, nat u.rotCount), (0, 5, nat u.rotNext)]
  | 0x58 => packWord [(4, 28, nat u.pcnt), (0, 4, nat (u.pcnt % 16))]
  | _ => 0

/-- ADC_GVn (0x0004_2000 + 0x100 × n). -/
def GroupUnit.adcRegs (u : GroupUnit) (off : Nat) : Word :=
  let f := u.cfg
  let v := u.conv
  match off with
  | 0x00 => packWord [(12, 4, nat f.dec), (8, 4, nat f.sub), (0, 2, nat f.src)]
  | 0x04 => packWord [(7, 1, bit f.lossWarn), (5, 2, nat f.refSel), (4, 1, bit f.diff)]
  | 0x08 => v.res
  | 0x0C => packWord [(16, 16, nat v.skip), (2, 1, bit v.checking), (1, 1, bit v.onLocal), (0, 1, bit v.lost)]
  | 0x10 => packWord [(0, 16, f.offs)]
  | 0x14 => packWord [(16, 16, nat f.vslGain), (0, 16, nat f.vslOffs)]
  | 0x18 => f.vScale
  | 0x1C => packWord [(16, 5, nat f.avgK), (0, 16, nat f.ntcMask)]
  | 0x20 => toF32 v.vAvg.avg
  | 0x24 => toF32 v.iAvg.avg
  | 0x28 => toF32 v.pAvg.avg
  | 0x2C => toF32 v.tMax
  | 0x30 => toF32 v.vPk.hi
  | 0x34 => toF32 v.vPk.lo
  | 0x38 => toF32 v.iPk.hi
  | 0x3C => toF32 v.iPk.lo
  | 0x40 => toF32 v.pPk.hi
  | 0x44 => toF32 v.pPk.lo
  | 0x48 => packWord [(4, 1, bit v.pkValid), (3, 1, bit v.tValid), (2, 1, bit v.pAvg.valid), (1, 1, bit v.iAvg.valid), (0, 1, bit v.vAvg.valid)]
  | _ => 0

/-- BAL_Gg (0x0007_0000 + 0x100 × g). -/
def Chip.balRegs (c : Chip) (g : Group) (off : Nat) : Word :=
  let u := c.grp[g]
  let f := u.cfg
  let b := u.bal
  match off with
  | 0x00 => packWord [(24, 8, nat f.addFastPct), (16, 8, nat f.hystPct), (8, 8, nat f.shedPct), (0, 8, nat f.addPct)]
  | 0x04 => packWord [(16, 5, nat f.addBurst), (8, 8, nat f.shedRamp), (0, 8, nat f.shedDwell)]
  | 0x08 => packWord [(16, 5, nat f.phMinNom), (8, 8, nat f.derIlimPct), (0, 8, nat f.derMin)]
  | 0x0C => packWord [(8, 8, nat f.trimStep), (3, 1, bit f.diagEn), (2, 1, bit f.stretchEn), (1, 1, bit f.balPol), (0, 1, bit f.balEn)]
  | 0x10 => packWord [(16, 13, nat f.window), (0, 11, nat f.diagMin)]
  | 0x14 => f.balKi
  | 0x18 => f.balDb
  | 0x1C => f.rate
  | 0x20 => packWord [(20, 5, nat b.faulted), (15, 5, nat b.standby), (10, 5, nat b.shedding), (5, 5, nat b.adding), (0, 5, nat b.active)]
  | 0x24 => toF32 b.load
  | 0x28 => packWord [(2, 1, bit b.rotating), (1, 1, bit (c.showsFrozen g)), (0, 1, bit b.derate)]
  | 0x30 => packWord [(16, 16, nat b.sheds.toNat), (0, 16, nat b.adds.toNat)]
  | 0x34 => packWord [(16, 16, nat b.reversals.toNat), (0, 16, nat b.rotations.toNat)]
  | _ => 0

/-! ### Engines -/

/-- OUT's code (R309). -/
def outCode : OutKind → Nat
  | .on => 0
  | .duty => 1
  | .ti => 2
  | .iref => 3

/-- PAIR's code (R321). -/
def pairCode : PairKind → Nat
  | .none => 0
  | .cascade => 1
  | .minSelect => 2

/-- LEn_Bb_x by its place in the bank. -/
def Bank.regs (b : Bank) (off : Nat) : Word :=
  match off with
  | 0x00 => packWord [(0, 24, b.a1)]
  | 0x04 => packWord [(0, 24, b.a2)]
  | 0x08 => packWord [(0, 24, b.a3)]
  | 0x0C => packWord [(0, 24, b.b0)]
  | 0x10 => packWord [(0, 24, b.b1)]
  | 0x14 => packWord [(0, 24, b.b2)]
  | 0x18 => packWord [(0, 24, b.b3)]
  | _ => 0

/-- LEn_INJ_… and LEn_RSP_…, from +0x200. -/
def Injection.regs (i : Injection) (off : Nat) : Word :=
  match off with
  | 0x00 => packWord [(16, 16, nat i.amp), (0, 2, nat i.point)]
  | 0x04 => loWord i.inc
  | 0x08 => packWord [(0, 8, nat (i.inc / 2 ^ 32))]
  | 0x0C => loWord i.t0
  | 0x10 => hiWord i.t0
  | 0x20 => loWord i.x1c
  | 0x24 => hiWord i.x1c
  | 0x28 => loWord i.x1s
  | 0x2C => hiWord i.x1s
  | 0x30 => loWord i.x2c
  | 0x34 => hiWord i.x2c
  | 0x38 => loWord i.x2s
  | 0x3C => hiWord i.x2s
  | 0x40 => i.n
  | 0x44 => packWord [(1, 1, bit i.sat), (0, 1, bit i.run)]
  | _ => 0

/-- LEn (0x0005_0000 + 0x1000 × n). -/
def Chip.leRegs (c : Chip) (e : Engine) (off : Nat) : Word :=
  let u := c.le[e]
  let f := u.cfg
  if 0x200 ≤ off then u.inj.regs (off - 0x200)
  else if 0x100 ≤ off then
    match under 3 ((off - 0x100) / 0x40) with
    | some b => (f.banks[b]).regs (off % 0x40)
    | none => 0
  else match off with
  | 0x00 => packWord [(24, 3, nat f.vffMode), (16, 5, nat f.vffSrc), (12, 3, nat f.group), (10, 2, nat f.refSrc), (8, 2, nat (pairCode f.pair)),
      (4, 3, nat (outCode f.out)), (2, 2, bit f.measI), (1, 1, bit f.order), (0, 1, bit f.en)]
  | 0x04 => packWord [(8, 1, bit u.accSat), (7, 1, bit (u.inj.point != 0)), (6, 1, bit u.sel), (5, 1, bit u.satLo), (4, 1, bit u.satHi),
      (3, 1, bit u.droopOn), (1, 2, nat u.bank), (0, 1, bit (c.engineActs e))]
  | 0x08 => packWord [(0, 21, f.yMin)]
  | 0x0C => packWord [(0, 21, f.yMax)]
  | 0x10 => packWord [(0, 26, u.yOut)]
  | 0x14 => packWord [(0, 16, u.err)]
  | 0x18 => packWord [(0, 16, u.ref)]
  | 0x1C => packWord [(0, 16, u.meas)]
  | 0x20 => packWord [(0, 25, u.ffVin)]
  | 0x24 => packWord [(0, 26, u.ffAnt)]
  | 0x28 => packWord [(0, 24, f.vffK)]
  | 0x2C => packWord [(0, 24, f.droop)]
  | 0x40 => u.cntEval
  | 0x44 => wordOf u.cntNr
  | 0x48 => wordOf u.cntSat
  | 0x4C => wordOf u.cntAccSat
  | 0x80 => packWord [(0, 26, u.y1)]
  | 0x84 => packWord [(0, 26, u.y2)]
  | 0x88 => packWord [(0, 26, u.y3)]
  | 0x8C => packWord [(0, 16, u.e1)]
  | 0x90 => packWord [(0, 16, u.e2)]
  | 0x94 => packWord [(0, 16, u.e3)]
  | 0x98 => packWord [(0, 20, u.resid)]
  | _ => 0

/-! ### Set points, VSEL and load commands -/

/-- SETPT_Gn (0x0006_0000 + 0x100 × n): the ACTIVE entry (R38) and the selection. -/
def Chip.setptRegs (c : Chip) (g : Group) (off : Nat) : Word :=
  let e := c.setpt.active[g]
  let u := c.grp[g]
  match off with
  | 0x00 => packWord [(0, 16, e.refFrom)]
  | 0x04 => packWord [(0, 16, e.refTo)]
  | 0x08 => packWord [(0, 20, nat e.slew)]
  | 0x0C => loWord e.rampT0
  | 0x10 => hiWord e.rampT0
  | 0x14 => packWord [(16, 16, e.pgHi), (0, 16, e.pgLo)]
  | 0x18 => packWord [(8, 4, nat e.set), (4, 2, nat e.bank), (2, 1, bit e.prep), (1, 1, bit e.lift), (0, 1, bit e.ramping)]
  | 0x1C => packWord [(16, 16, nat e.iFold), (0, 16, nat e.iLim)]
  | 0x20 => packWord [(0, 16, nat e.vKnee)]
  | 0x24 => packWord [(8, 5, nat e.phMax), (0, 5, nat e.phMin)]
  | 0x28 => packWord [(0, 16, nat e.antGen)]
  | 0x2C => loWord e.antAt
  | 0x30 => hiWord e.antAt
  | 0x34 => packWord [(0, 26, e.antAmp)]
  | 0x38 => packWord [(0, 20, nat e.antDecay)]
  | 0x3C => packWord [(16, 16, nat e.chgI), (0, 16, nat e.chgV)]
  | 0x40 => packWord [(0, 16, nat e.preIref)]
  | 0x80 => packWord [(0, 4, nat u.hsel)]
  | 0x84 => packWord [(4, 4, nat u.selSrc), (0, 4, nat u.selSet)]
  | 0x88 => u.selSeq
  | _ => 0

/-- SETPT_Ss_Gg (0x0006_2000 + 0x40 × s + 0x10 × g). -/
def SetRec.regs (r : SetRec) (off : Nat) : Word :=
  match off with
  | 0x0 => packWord [(16, 16, r.pgLo), (0, 16, r.target)]
  | 0x4 => packWord [(16, 16, r.lift), (0, 16, r.pgHi)]
  | 0x8 => packWord [(31, 1, bit r.defined), (0, 20, nat r.slew)]
  | _ => 0

/-- LCMDp (0x0006_8000 + 0x100 × p). -/
def LcmdUnit.regs (u : LcmdUnit) (off : Nat) : Word :=
  let f := u.cfg
  match off with
  | 0x00 => packWord [(16, 8, nat f.driveId), (8, 4, nat f.groups), (2, 1, bit f.liftEn), (1, 1, bit f.antEn), (0, 1, bit f.en)]
  | 0x04 => packWord [(16, 10, nat f.tol), (0, 10, nat f.hbTimeout)]
  | 0x08 => packWord [(0, 16, nat f.vreqMask)]
  | 0x0C => packWord [(8, 8, nat u.lastSeq), (1, 2, nat (min u.queue.length 3)), (0, 1, bit u.alive)]
  | 0x10 => wordAt u.hb 0
  | 0x14 => packWord [(16, 1, bit (u.queue.length == 4)), (0, 16, nat (numAt u.hb 4 2))]
  | 0x20 => u.ok
  | 0x24 => packWord [(16, 16, nat u.gap), (0, 16, nat u.framing)]
  | 0x28 => packWord [(16, 16, nat u.crc), (0, 16, nat u.idErr)]
  | 0x2C => packWord [(16, 16, nat u.fmt), (0, 16, nat u.dup)]
  | 0x30 => packWord [(16, 16, nat u.ovf), (0, 16, nat u.orphan)]
  | 0x34 => packWord [(0, 16, nat u.denied)]
  | 0x38 => packWord [(16, 16, nat u.miss), (0, 16, nat u.arrived)]
  | _ => 0

/-- LCMD_Gg (0x0006_8400 + 0x10 × g). -/
def GroupCfg.lcmdRegs (f : GroupCfg) (off : Nat) : Word :=
  match off with
  | 0x0 => BitVec.ofInt 32 f.antK
  | 0x4 => packWord [(0, 20, nat f.antBase)]
  | 0x8 => packWord [(8, 8, nat f.prepLoad), (0, 8, nat f.arrivePct)]
  | _ => 0

/-- The window 0x0006_0000. -/
def Chip.setWindow (c : Chip) (off : Nat) : Word :=
  if off < 0x400 then c.setptRegs (Fin.ofNat 4 (off / 0x100)) (off % 0x100)
  else if off = 0x0F00 then packWord [(16, 16, nat c.setpt.swaps.toNat), (0, 1, bit c.setpt.pending.isSome)]
  else if off = 0x0F04 then c.setpt.swapSeq
  else if 0x2000 ≤ off ∧ off < 0x2400 then
    (c.setpt.sets[Fin.ofNat 16 (off / 0x40)][Fin.ofNat 4 (off % 0x40 / 0x10)]).regs (off % 0x10)
  else if off = 0x4000 then
    packWord [(8, 1, bit c.setpt.adopted), (4, 4, nat c.setpt.raw.val), (0, 4, nat c.setpt.value.val)]
  else if off = 0x4004 then c.setpt.cnt
  else if 0x8000 ≤ off ∧ off < 0x8400 then (c.lcmd[Fin.ofNat 4 (off / 0x100)]).regs (off % 0x100)
  else if 0x8400 ≤ off ∧ off < 0x8440 then ((c.grp[Fin.ofNat 4 (off / 0x10)]).cfg).lcmdRegs (off % 0x10)
  else 0

/-! ### The converter window -/

/-- ADC_AUXs_CFG. -/
def AuxSlot.cfgWord (s : AuxSlot) : Word :=
  packWord [(16, 4, nat s.avgK), (15, 1, bit s.en), (13, 2, nat s.ref), (8, 3, nat s.lin), (0, 5, nat s.src)]

/-- Slots and linearisation tables, from 0x0004_3000. -/
def AuxUnit.regs (a : AuxUnit) (off : Nat) : Word :=
  if 0x400 ≤ off then
    match under 4 ((off - 0x400) / 0x88), under 17 ((off - 0x400) % 0x88 / 8) with
    | some t, some k =>
      if off % 8 = 0 then packWord [(0, 16, nat (a.tables[t][k]).1)] else if off % 8 = 4 then (a.tables[t][k]).2 else 0
    | _, _ => 0
  else if off % 4 = 0 then
    match under 24 (off % 0x100 / 4) with
    | some s =>
      let x := a.slots[s]
      match off / 0x100 with
      | 0 => x.cfgWord
      | 1 => x.res
      | 2 => toF32 x.val
      | _ => x.scale
    | none => 0
  else 0

/-- SNAP (0x0004_F000). -/
def SnapUnit.regs (u : SnapUnit) (off : Nat) : Word :=
  match off with
  | 0x0 => packWord [(16, 1, bit u.pub), (0, 16, nat u.gen.toNat)]
  | 0x4 => packWord [(2, 1, bit (u.open_[(2 : Fin 3)]).isSome), (1, 1, bit (u.open_[(1 : Fin 3)]).isSome), (0, 1, bit (u.open_[(0 : Fin 3)]).isSome)]
  | 0x8 => u.skips
  | 0xC => packWord [(0, 10, nat u.period)]
  | _ => 0

/-- The window 0x0004_0000. -/
def Chip.adcWindow (c : Chip) (off : Nat) : Word :=
  if off = 0 then packWord [(8, 2, nat c.refs.refPh), (1, 1, bit c.refs.alignGv), (0, 1, bit c.refs.alignPh)]
  else if off = 4 then
    packWord [(16, 3, nat c.refs.losses), (2, 1, bit (c.refReady 2)), (1, 1, bit c.refs.ext_), (0, 1, bit c.refs.int_)]
  else if 0x1000 ≤ off ∧ off < 0x1600 then (c.ph[Fin.ofNat 24 ((off - 0x1000) / 0x40)]).adcRegs (off % 0x40)
  else if 0x2000 ≤ off ∧ off < 0x2400 then (c.grp[Fin.ofNat 4 ((off - 0x2000) / 0x100)]).adcRegs (off % 0x100)
  else if 0x3000 ≤ off ∧ off < 0x3620 then c.aux.regs (off - 0x3000)
  else if 0xF000 ≤ off then c.snap.regs (off - 0xF000)
  else 0

/-- The window 0x0005_0000. -/
def Chip.leWindow (c : Chip) (off : Nat) : Word :=
  if off < 0x4000 then c.leRegs (Fin.ofNat 4 (off / 0x1000)) (off % 0x1000)
  else if 0x8000 ≤ off ∧ off < 0x9000 then (c.grp[Fin.ofNat 4 ((off - 0x8000) / 0x400)]).regs (off % 0x400)
  else 0

/-- The window 0x0007_0000. -/
def Chip.balWindow (c : Chip) (off : Nat) : Word :=
  if off < 0x400 then c.balRegs (Fin.ofNat 4 (off / 0x100)) (off % 0x100)
  else if 0x1000 ≤ off ∧ off < 0x1600 then (c.ph[Fin.ofNat 24 ((off - 0x1000) / 0x40)]).balRegs (off % 0x40)
  else 0

/-- The windows 0x0002_0000 to 0x0003_FFFF. -/
def Chip.phWindow (c : Chip) (off : Nat) : Word :=
  match under 24 (off / 0x400) with
  | some p => (c.ph[p]).regs (off % 0x400)
  | none => 0

end Sys2Proof.Machine
end

