-- ==== Sys2Proof/Machine/RegsData.lean ====
section
/-!
DEFINITION. The register words of the remaining blocks (SYS, SETT, SWEEP, GUARD, EVA, GAUGE, NVS, CAL, LOG, HOST, OBS, MBX), as the
chapters' tables lay them out. A high word that a read of its low word captures is the reader's latch.
-/

namespace Sys2Proof.Machine

/-! ### SYS (0x0000_0000) -/

/-- SYS_SUP_STAT. -/
def SysUnit.supStat (u : SysUnit) : Word :=
  packWord [(7, 1, bit u.vinHigh), (6, 1, bit u.holdup), (5, 1, bit u.vholdSeen), (4, 1, bit u.vholdOk), (3, 1, bit u.ride),
    (2, 1, bit u.vinWarn), (1, 1, bit (u.rails && !u.railBad))]

/-- SYS registers. -/
def Chip.sysRegs (c : Chip) (off : Nat) : Word :=
  let u := c.sys
  match off with
  | 0x000 => 0x2408
  | 0x004 => wordOf u.rev
  | 0x010 => packWord [(8, 1, bit u.test), (0, 4, nat (devCode u.dev))]
  | 0x014 => u.modeSeq
  | 0x100 => u.supStat
  | 0x104 => u.dips
  | 0x108 => c.rstCause
  | 0x10C => c.bootStat
  | 0x110 => packWord [(16, 16, nat u.sectType), (0, 16, nat u.check)]
  | 0x114 => packWord [(0, 18, nat u.offset)]
  | 0x118 => packWord [(0, 16, nat u.vholdCap)]
  | _ => 0

/-! ### SETT (0x0008_0000) -/

/-- Four 4-bit counts, VC3 highest. -/
def vcFields (base : Nat) (v : Vector Nat 4) : List (Nat × Nat × Int) :=
  (List.finRange 4).map (fun k => (base + 4 * k.val, 4, nat v[k]))

/-- SETT_UP, SETT_DN. -/
def SettPortUnit.regs (u : SettPortUnit) (off : Nat) : Word :=
  match off with
  | 0x00 => packWord [(13, 3, nat u.peer.val), (12, 1, bit u.peerValid), (5, 3, nat (linkCode u.cause)), (0, 2, nat (portCode u.st))]
  | 0x04 => packWord [(0, 20, nat u.dly)]
  | 0x08 => packWord (vcFields 16 u.rxFree ++ vcFields 0 u.txCred)
  | 0x0C => u.rx
  | 0x10 => packWord [(16, 16, nat u.crcErr), (0, 16, nat u.codeErr)]
  | 0x14 => packWord [(16, 16, nat u.trained.toNat), (0, 16, nat u.downs.toNat)]
  | 0x18 => wordOf u.drops
  | _ => 0

/-- SETT_Gg. -/
def Chip.settGroupRegs (c : Chip) (g : Group) (off : Nat) : Word :=
  let s := c.sett.groups[g]
  let set (code : Nat) : Bool := (c.guards[settBlock]).faults.any (fun f => f.code == code && f.unit == g.val)
  match off with
  | 0x00 => packWord [(24, 8, nat s.devMask), (16, 4, nat s.segMin), (8, 3, nat s.leaderAddr.val), (1, 1, bit s.leader), (0, 1, bit s.span)]
  | 0x04 => packWord [(0, 26, nat s.ofs)]
  | 0x08 => packWord [(4, 1, bit (set 0x2B)), (3, 1, bit (set 0x2A)), (2, 1, bit s.droop), (1, 1, bit s.leaderOk)]
  | 0x0C => packWord [(0, 16, s.iref)]
  | 0x10 => if s.irefHas then wordOf (min 0xFFFFFFFF ((c.chainTime128 / 128).toNat - s.irefCt)) else 0
  | 0x14 => loWord s.s0
  | 0x18 => hiWord s.s0
  | _ => 0

/-- The window 0x0008_0000; SETT_CT_HI is the reader's latch. -/
def Chip.settWindow (c : Chip) (latch : Word) (off : Nat) : Word :=
  let u := c.sett
  if off < 0x100 then
    match off with
    | 0x00 => packWord [(24, 8, nat u.gen.toNat), (16, 8, nat u.reach.toNat), (9, 3, nat u.head.val), (6, 3, nat u.addr.val),
        (4, 2, nat (roleCode u.role)), (0, 3, nat (topoCode u.st))]
    | 0x08 => loWord (c.chainTime128 / 128)
    | 0x0C => latch
    | 0x10 => packWord [(16, 8, nat u.hops), (0, 16, u.err)]
    | 0x14 => BitVec.ofInt 32 u.rate
    | 0x18 => packWord [(16, 16, nat u.shareInt), (1, 1, bit u.dnEn), (0, 1, bit u.upEn)]
    | 0x1C => u.build
    | 0x20 => packWord [(0, 16, nat u.formTmax)]
    | 0x24 => packWord [(16, 16, nat u.silent.toNat), (0, 16, nat u.topos.toNat)]
    | _ => 0
  else if off < 0x300 then (u.ports[Fin.ofNat 2 (off / 0x100 - 1)]).regs (off % 0x100)
  else if 0x400 ≤ off ∧ off < 0x500 then c.settGroupRegs (Fin.ofNat 4 (off / 0x40)) (off % 0x40)
  else 0

/-! ### SWEEP (0x0009_0000, R490) -/

/-- STATE of SWEEP_STAT and of SWEEP_CAP_OWNER. -/
def sweepCode : SweepState → Nat
  | .idle => 0
  | .setup => 1
  | .running => 2
  | .ending => 3
def capCode : CapState → Nat
  | .nobody => 0
  | .running => 1
  | .completed => 2

/-- SWEEP registers. -/
def SweepUnit.regs (u : SweepUnit) (off : Nat) : Word :=
  match off with
  | 0x00 => packWord [(23, 9, nat u.done), (8, 8, nat u.point), (7, 1, bit u.chain), (6, 1, bit u.orig), (4, 2, nat u.group.val),
      (0, 3, nat (sweepCode u.st))]
  | 0x04 => packWord [(16, 16, nat u.capTag), (0, 2, nat (capCode u.cap))]
  | 0x08 => loWord u.t0
  | 0x0C => hiWord u.t0
  | 0x10 => packWord [(16, 16, nat u.aborted.toNat), (0, 16, nat u.completed.toNat)]
  | 0x14 => packWord [(16, 16, nat u.lastTag), (0, 8, nat u.lastCause)]
  | 0x18 => u.endSeq
  | _ => 0

/-! ### GUARD and EVA (0x000A_0000) -/

/-- A history entry's four words (R497). -/
def HistEntry.regs (h : HistEntry) (off : Nat) : Word :=
  match off with
  | 0x0 => h.seq
  | 0x4 => if h.valid then packWord [(31, 1, 1), (28, 3, nat (histCode h.kind)), (26, 2, nat (clsCode h.cls)), (25, 1, bit h.inj),
      (16, 8, nat h.wrap.toNat), (8, 8, nat h.code), (0, 8, nat h.unit)] else 0
  | 0x8 => h.d0
  | 0xC => h.d1
  | _ => 0

/-- The limit registers of a group's guard window. -/
def GroupCfg.limitRegs (f : GroupCfg) (off : Nat) : Word :=
  match off with
  | 0x60 => packWord [(16, 16, f.ovClr), (0, 16, f.ovLevel)]
  | 0x64 => packWord [(0, 16, f.ovWarn)]
  | 0x68 => packWord [(16, 16, f.otClr), (0, 16, f.otLevel)]
  | 0x6C => packWord [(0, 16, f.otWarn)]
  | 0x70 => packWord [(16, 16, nat f.retryMs), (0, 4, nat f.retryN)]
  | 0x74 => packWord [(0, 16, nat f.retryMask)]
  | 0x78 => packWord [(16, 16, nat f.iFold), (0, 16, nat f.iLim)]
  | 0x7C => packWord [(0, 16, nat f.vKnee)]
  | _ => 0

/-- The limit registers of SYS's guard window. -/
def SysUnit.limitRegs (u : SysUnit) (off : Nat) : Word :=
  match off with
  | 0x60 => packWord [(16, 16, u.dieClr), (0, 16, u.dieOt)]
  | 0x64 => packWord [(16, 1, bit u.alertEn), (0, 16, u.dieWarn)]
  | 0x70 => packWord [(16, 16, nat u.retryMs), (0, 4, nat u.retryN)]
  | 0x74 => packWord [(0, 16, nat u.retryMask)]
  | _ => 0

/-- The limit registers of any guard window (R523). -/
def Chip.limitRegs (c : Chip) (b : Block) (off : Nat) : Word :=
  match under 24 b.val with
  | some p => if off = 0x60 then packWord [(0, 11, nat (c.ph[p]).cfg.ocLevel)] else 0
  | none =>
    if 28 ≤ b.val ∧ b.val < 32 then ((c.grp[Fin.ofNat 4 b.val]).cfg).limitRegs off
    else if b = sysBlock then c.sys.limitRegs off
    else 0

/-- A guard block's window (R497). -/
def Chip.guardRegs (c : Chip) (b : Block) (off : Nat) : Word :=
  let g := c.guards[b]
  if off = 0x00 then g.status
  else if off = 0x04 then packWord [(8, 4, nat (g.intEn.toNat / 16)), (0, 4, nat g.intEn.toNat)]
  else if off = 0x08 then packWord [(16, 16, nat g.total.toNat), (0, 2, nat g.newest.val)]
  else if 0x10 ≤ off ∧ off < 0x50 then (g.hist[Fin.ofNat 4 (off / 0x10 - 1)]).regs (off % 0x10)
  else c.limitRegs b off

/-- The window 0x000A_0000. The injection registers read 0 outside factory test (R527). -/
def Chip.guardWindow (c : Chip) (off : Nat) : Word :=
  match under 45 (off / 0x100) with
  | some b => c.guardRegs b (off % 0x100)
  | none =>
    match off with
    | 0x7F00 => c.grdSum
    | 0x7F04 => wordOf c.bmap
    | 0x7F08 => packWord [(0, 13, nat (c.bmap / 2 ^ 32))]
    | 0x7F10 => if c.sys.test then packWord [(0, 24, nat c.sys.fiCtl)] else 0
    | 0x7F14 => if c.sys.test then c.sys.fiCnt else 0
    | 0x8000 => c.eva.seq
    | 0x8004 => c.eva.wrap
    | 0x8008 => packWord [(0, 16, nat c.eva.maxWait)]
    | 0x800C => c.eva.urgent
    | _ => 0

/-! ### GAUGE (0x000B_0000) -/

/-- GAUGE registers; without the section every one reads its reset value (R563). -/
def GaugeUnit.regs (u : GaugeUnit) (l : Latches) (off : Nat) : Word :=
  let f := u.cfg
  match off with
  | 0x00 => packWord [(16, 3, nat f.chgGroup), (8, 5, nat f.vbatSrc), (2, 1, bit f.learn), (1, 1, bit f.ext), (0, 1, bit f.en)]
  | 0x04 => packWord [(0, 16, nat f.tmask)]
  | 0x08 => f.scale
  | 0x0C => BitVec.ofInt 32 f.offs
  | 0x10 => wordOf u.stat
  | 0x14 => packWord [(31, 1, bit u.rawValid), (30, 1, bit u.rawInterp), (29, 1, bit u.rawHold), (0, 24, u.raw)]
  | 0x18 => loWord u.q
  | 0x1C => l.q
  | 0x20 => u.interpMs
  | 0x24 => wordOf u.holdSmp
  | 0x28 => packWord [(0, 24, u.offsChop)]
  | 0x2C => u.sec
  | 0x30 => toF32 u.i
  | 0x34 => toF32 u.v
  | 0x38 => toF32 u.t
  | 0x3C => toF32 u.iPk.hi
  | 0x40 => toF32 u.iPk.lo
  | 0x50 => packWord [(16, 16, nat u.soh), (0, 14, nat u.soc)]
  | 0x54 => toF32 u.rc
  | 0x58 => toF32 u.fcc
  | 0x5C => toF32 u.zohm
  | 0x60 => toF32 u.zpol
  | 0x64 => toF32 u.taupol
  | 0x68 => u.cycles
  | 0x6C => toF32 u.cycAcc
  | 0x70 => loWord u.qmark
  | 0x74 => l.qmark
  | 0x78 => packWord [(0, 24, nat u.chgI)]
  | 0x7C => packWord [(0, 24, nat u.chgV)]
  | 0x80 => wordOf u.nvAge
  | 0x84 => u.nvSeq
  | _ => 0

/-! ### NVS, CAL, LOG -/

/-- OP of NVS_STAT (R566, R572). -/
def NvOp.code (o : NvOp) : Nat :=
  match o.kind with
  | .record .. => if o.complete then 3 else 1
  | .copy .. => if o.complete then 3 else 1
  | .carry _ => if o.complete then 3 else 1
  | .counterBit _ => 1
  | .retire _ => 1
  | .eraseRecord _ => 2
  | .eraseJournal => 2
  | .eraseStripe _ => 2

/-- The window 0x000C_0000. -/
def Chip.nvsWindow (c : Chip) (latch : Vector Word 16) (off : Nat) : Word :=
  let u := c.nv
  if 0x100 ≤ off ∧ off < 0x180 then
    if off % 8 = 0 then loWord (u.counter (Fin.ofNat 16 (off / 8))) else if off % 8 = 4 then latch[Fin.ofNat 16 (off / 8)] else 0
  else match off with
  | 0x00 => packWord [(20, 1, bit u.carryOnly), (19, 1, bit u.gc), (18, 1, bit u.locked), (17, 1, bit c.nvDeferred), (16, 1, bit u.readOnly),
      (8, 6, nat ((u.op.map (·.sector)).getD 0)), (1, 2, nat ((u.op.map NvOp.code).getD 0)), (0, 1, bit u.op.isSome)]
  | 0x04 => packWord [(24, 8, nat u.halfFound), (16, 8, nat (u.tally (·.retired))), (8, 8, nat (u.tally (fun s => s.spare && !s.retired))),
      (0, 8, nat (u.tally NvSector.blank))]
  | 0x08 => packWord [(8, 8, nat (u.queue.filter (fun k => !k.isUser)).length), (0, 8, nat (u.queue.filter NvKind.isUser).length)]
  | 0x0C => packWord [(0, 4, nat u.fails)]
  | 0x10 => wordOf u.retiredMask
  | 0x14 => wordOf (u.retiredMask / 2 ^ 32)
  | 0x18 => packWord [(16, 16, nat (u.userBytes / 4)), (0, 16, nat u.userRecords.length)]
  | _ => 0

/-- CAL and LOG (0x000D_0000). -/
def Chip.calWindow (c : Chip) (latch : Word) (off : Nat) : Word :=
  match off with
  | 0x0000 => loWord c.cal.sec
  | 0x0004 => packWord [(0, 8, nat latch.toNat)]
  | 0x0008 => packWord [(3, 1, bit c.cal.ended), (2, 1, bit c.cal.coarse), (1, 1, bit c.cal.osc), (0, 1, bit c.cal.set)]
  | 0x000C => c.cal.setSeq
  | 0x8000 => packWord [(16, 16, nat c.log.dropped), (0, 8, nat (min 255 c.log.waiting))]
  | 0x8004 => wordOf c.log.next
  | 0x8008 => wordOf ((c.log.entries.head?.map (·.1)).getD c.log.next)
  | _ => 0

/-! ### HOST (0x000E_0000) -/

/-- STATE of HOST_Pp_STAT. -/
def canCode : CanState → Nat
  | .off => 0
  | .active => 1
  | .passive => 2
  | .busOff => 3

/-- HOST_Pp. -/
def CanUnit.regs (u : CanUnit) (off : Nat) : Word :=
  match off with
  | 0x00 => packWord [(24, 8, nat u.ntseg1), (16, 6, nat u.nsjw), (8, 2, nat u.nbr), (2, 1, bit u.brs), (1, 1, bit u.fd), (0, 1, bit u.en)]
  | 0x04 => packWord [(24, 8, nat u.dtseg1), (16, 5, nat u.dsjw), (8, 6, nat u.tdco), (0, 2, nat u.dbr)]
  | 0x08 => packWord [(16, 8, nat u.rec_), (8, 8, nat u.tec), (3, 1, bit (u.st == .off)), (0, 3, nat (canCode u.st))]
  | 0x0C => u.rx
  | 0x10 => u.tx
  | 0x14 => packWord [(16, 16, nat u.abandon), (0, 16, nat u.busOff)]
  | _ => 0

/-- HOST_UPD. -/
def Chip.updWord (c : Chip) : Word :=
  let h := c.host
  packWord [(24, 8, nat (resultCode h.updLast)), (8, 1, bit h.updBank), (3, 1, bit c.code.swap.isSome),
    (0, 2, if h.updDone then 2 else bit h.updOpen)]

/-- Commands received and not answered, of which a device holds at most 16 (R616). -/
def HostUnit.waiting (h : HostUnit) : Nat :=
  min 16 (h.rx.length + h.pending.length + (h.answers.filter (fun a => a.2.1 != .hostBusy)).length)

/-- HOST_STAT. -/
def HostUnit.stat (h : HostUnit) : Word :=
  packWord ((List.finRange 8).map (fun s => (8 + s.val, 1, bit (h.streams[s]).isSome)) ++
    [(5, 1, bit h.defaults), (0, 5, nat h.waiting)])

/-- The window 0x000E_0000. -/
def Chip.hostWindow (c : Chip) (off : Nat) : Word :=
  let h := c.host
  if 0x100 ≤ off ∧ off < 0x300 then (h.ports[Fin.ofNat 2 (off / 0x100 - 1)]).regs (off % 0x100)
  else match off with
  | 0x00 => packWord [(16, 16, nat h.dupMs), (0, 13, nat h.netId)]
  | 0x04 => packWord [(16, 16, nat h.streamMin), (0, 4, nat h.streamMax)]
  | 0x08 => wordOf h.streamBps
  | 0x0C => h.stat
  | 0x10 => packWord [(0, 16, nat h.last)]
  | 0x14 => h.lastSeq
  | 0x18 => h.cmds
  | 0x1C => packWord [(16, 16, nat h.dups), (0, 16, nat h.busy)]
  | 0x20 => c.updWord
  | 0x24 => wordOf h.updBytes
  | _ => 0

/-! ### OBS (0x000F_0000, R652) and MBX (0x0010_0000) -/

/-- The window 0x000F_0000. -/
def Chip.obsWindow (c : Chip) (latch : Vector Word 32) (off : Nat) : Word :=
  if off < 0x100 then
    if off % 8 = 0 then loWord (nat (c.obs[Fin.ofNat 32 (off / 8)]).toNat)
    else if off % 8 = 4 then packWord [(0, 16, nat (latch[Fin.ofNat 32 (off / 8)]).toNat)] else 0
  else if off = 0x100 then packWord [(8, 1, bit c.trace.running), (0, 7, nat c.trace.queue.length)]
  else 0

/-- A mailbox's receiver by its place. -/
def receiverOf (m : Fin 6) : Core :=
  match m with
  | 0 => .owl
  | 1 => .badger
  | 2 => .hedgehog
  | 3 => .badger
  | 4 => .hedgehog
  | 5 => .owl

/-- A mailbox slot. -/
def Chip.mbxRegs (c : Chip) (m : Fin 6) (off : Nat) : Word :=
  let u := c.mbx[m]
  match off with
  | 0x00 => u.data
  | 0x04 => packWord [(1, 1, bit (c.isUp (receiverOf m))), (0, 1, bit u.full)]
  | 0x08 => u.written
  | 0x0C => u.read
  | 0x10 => packWord [(16, 16, nat u.rejOff), (0, 16, nat u.rejFull)]
  | _ => 0

/-- A doorbell register. -/
def DomainUnit.regs (u : DomainUnit) : Word := packWord [(16, 16, nat u.rings.toNat), (2, 1, bit u.hold), (1, 1, bit u.up)]

/-- The window 0x0010_0000. -/
def Chip.mbxWindow (c : Chip) (off : Nat) : Word :=
  match under 6 (off / 0x100) with
  | some m => c.mbxRegs m (off % 0x100)
  | none =>
    match off with
    | 0x800 => (c.dom[(0 : Fin 3)]).regs
    | 0x804 => (c.dom[(1 : Fin 3)]).regs
    | 0x808 => (c.dom[(2 : Fin 3)]).regs
    | _ => 0

end Sys2Proof.Machine
end

