-- ==== Sys2Proof/Machine/RegPath.lean ====
section
/-!
DEFINITION. The register read path (R13, R21 to R23, R33, R73, R217): the address map, the domains, what a read returns, what it captures
and what it re-arms; and the reads that the rows LATCHED_READ and RCL_READ name.
-/

namespace Sys2Proof.Machine

/-! ### The address map (R73) -/

/-- An address lies in a block window. -/
def mapped (a : Nat) : Bool := decide (a < 0x00110000) || decide (0x01000000 ≤ a ∧ a < 0x01080000)

/-- The mailbox whose data word has an address. -/
def mbxDataAt (a : Nat) : Option (Fin 6) :=
  if 0x00100000 ≤ a ∧ a % 0x100 = 0 then under 6 ((a - 0x00100000) / 0x100) else none

/-- The domain of a register is powered (R27 to R30, R33). -/
def Chip.regUp (c : Chip) (a : Nat) : Bool :=
  match mbxDataAt a with
  | some m => c.isUp (receiverOf m)
  | none =>
    match a / 0x10000 with
    | 0x00 => c.powered
    | 0x0A => c.powered
    | 0x0C => c.isUp .owl
    | 0x0D => if a % 0x10000 < 0x8000 then c.powered else c.isUp .owl
    | 0x0E => c.powered
    | 0x0F => c.powered
    | 0x10 => c.powered
    | _ => c.ctrlUp

/-- Index of a reader's latches. -/
def readerIdx : Reader → Fin 4
  | .badger => 0
  | .owl => 1
  | .hedgehog => 2
  | .host => 3

/-- The word at an address, with the latches of one reader. -/
def Chip.regWord (c : Chip) (r : Reader) (a : Nat) : Word :=
  let l := c.latch[readerIdx r]
  let off := a % 0x10000
  match a / 0x10000 with
  | 0x00 => c.sysRegs off
  | 0x01 => c.tb.regs l.tb off
  | 0x02 => c.phWindow off
  | 0x03 => 0
  | 0x04 => c.adcWindow off
  | 0x05 => c.leWindow off
  | 0x06 => c.setWindow off
  | 0x07 => c.balWindow off
  | 0x08 => c.settWindow l.ct off
  | 0x09 => c.sweep.regs off
  | 0x0A => c.guardWindow off
  | 0x0B => c.gauge.regs l off
  | 0x0C => c.nvsWindow l.cnt off
  | 0x0D => c.calWindow l.cal off
  | 0x0E => c.hostWindow off
  | 0x0F => c.obsWindow l.obs off
  | 0x10 => c.mbxWindow off
  | _ => if 0x01000000 ≤ a ∧ a < 0x01080000 then wordAt (memReadBytes 0 c.cap (a - 0x01000000) 4) 0 else 0

/-! ### What a read does -/

/-- A read of a low word captures its high word into the reader's latch (R217). -/
def Chip.captured (c : Chip) (a : Nat) (l : Latches) : Latches :=
  if a = 0x00010008 then { l with tb := hiWord c.tb.count }
  else if a = 0x00080008 then { l with ct := hiWord (c.chainTime128 / 128) }
  else if a = 0x000B0018 then { l with q := hiWord c.gauge.q }
  else if a = 0x000B0070 then { l with qmark := hiWord c.gauge.qmark }
  else if a = 0x000D0000 then { l with cal := hiWord c.cal.sec }
  else if 0x000C0100 ≤ a ∧ a < 0x000C0180 ∧ a % 8 = 0 then
    let k : Counter := Fin.ofNat 16 (a / 8)
    { l with cnt := l.cnt.set k (hiWord (c.nv.counter k)) }
  else if 0x000F0000 ≤ a ∧ a < 0x000F0100 ∧ a % 8 = 0 then
    let k : Fin 32 := Fin.ofNat 32 (a / 8)
    { l with obs := l.obs.set k (hiWord (c.obs[k]).toNat) }
  else l

/-- A read of a group's peak re-arms it with the most recent sample (R300). -/
def GroupConv.rearm (off : Nat) (v : GroupConv) : GroupConv :=
  match off with
  | 0x30 => { v with vPk := { v.vPk with hi := v.vLast } }
  | 0x34 => { v with vPk := { v.vPk with lo := v.vLast } }
  | 0x38 => { v with iPk := { v.iPk with hi := v.iLast } }
  | 0x3C => { v with iPk := { v.iPk with lo := v.iLast } }
  | 0x40 => { v with pPk := { v.pPk with hi := v.pLast } }
  | 0x44 => { v with pPk := { v.pPk with lo := v.pLast } }
  | _ => v

/-- GAUGE_I_MAX and _MIN take the current of the most recent sample (DEDUCED from R300, log 43). -/
def Chip.gaugePeak (f : Peak → Rat → Peak) (c : Chip) : Chip :=
  { c with gauge := { c.gauge with iPk := f c.gauge.iPk ((c.gauge.raw : Rat) * f32 c.gauge.cfg.scale) } }

/-- A read of an RCL field re-arms it (R23). -/
def Chip.rearmed (a : Nat) (c : Chip) : Chip :=
  if a = 0x00010000 then { c with tb := { c.tb with limitSeen := false } }
  else if a = 0x000A8008 then { c with eva := { c.eva with maxWait := 0 } }
  else if a = 0x000B003C then c.gaugePeak (fun p x => { p with hi := x })
  else if a = 0x000B0040 then c.gaugePeak (fun p x => { p with lo := x })
  else if 0x00050000 ≤ a ∧ a < 0x00054000 ∧ a % 0x1000 = 4 then
    c.modLe (Fin.ofNat 4 (a / 0x1000)) (fun u => { u with accSat := false })
  else if 0x00042000 ≤ a ∧ a < 0x00042400 then c.modGv (Fin.ofNat 4 (a / 0x100)) (GroupConv.rearm (a % 0x100))
  else c

/-- One read of one word by one reader. -/
def Chip.regRead (r : Reader) (a : Nat) (c : Chip) : Result × Word × Chip :=
  if !mapped a then (.addrInvalid, 0, c)
  else if !c.regUp a then (.domainOff, 0, c)
  else
    let w := c.regWord r a
    let l := c.captured a c.latch[readerIdx r]
    (.ok, w, { c with latch := c.latch.set (readerIdx r) { l with data := w } }.rearmed a)

/-! ### The rows -/

/-- A reader runs: a core in its domain, the host read path in Owl's. -/
def Chip.readerUp (c : Chip) : Reader → Bool
  | .badger => c.isUp .badger
  | .owl => c.isUp .owl
  | .hedgehog => c.isUp .hedgehog
  | .host => c.isUp .owl

/-- A register whose low word captures, by the address of either word. -/
def isLatchPair (a : Nat) : Bool :=
  a == 0x00010008 || a == 0x0001000C || a == 0x00080008 || a == 0x0008000C || a == 0x000B0018 || a == 0x000B001C || a == 0x000B0070 ||
  a == 0x000B0074 || a == 0x000D0000 || a == 0x000D0004 || decide (0x000C0100 ≤ a ∧ a < 0x000C0180 ∧ a % 4 = 0) ||
  decide (0x000F0000 ≤ a ∧ a < 0x000F0100 ∧ a % 4 = 0)

/-- A register with an RCL field. -/
def isRcl (a : Nat) : Bool :=
  a == 0x00010000 || a == 0x000A8008 || a == 0x000B003C || a == 0x000B0040 ||
  decide (0x00050000 ≤ a ∧ a < 0x00054000 ∧ a % 0x1000 = 4) ||
  decide (0x00042000 ≤ a ∧ a < 0x00042400 ∧ 0x30 ≤ a % 0x100 ∧ a % 0x100 ≤ 0x44 ∧ a % 4 = 0)

/-- A read by a core or by the host read path; a domain that is down changes nothing (R33). -/
def Chip.readBy (r : Reader) (a : Nat) (c : Chip) : Chip := if c.readerUp r then (c.regRead r a).2.2 else c

def execLatchedRead (r : Reader) (addr : Word) (s : State) : Host.Outcome State Fault Refusal :=
  .next (s.onChip (fun c => if isLatchPair addr.toNat then c.readBy r addr.toNat else c))

def execRclRead (r : Reader) (addr : Word) (s : State) : Host.Outcome State Fault Refusal :=
  .next (s.onChip (fun c => if isRcl addr.toNat then c.readBy r addr.toNat else c))

end Sys2Proof.Machine
end

