-- ==== Sys2Proof/Machine/Host.lean ====
section
/-!
DEFINITION. The host port's receiving side: frames and messages (R608 to R613), HOST_RX and its refusals (R615 to R620), the taking of a
command, and HOST_ANS (R617). A command's row carries the whole command: it is received as one message unless its frames have come by
CAN_FRAME_RX, and Owl takes it in the order of the HOST_RX grants (DESIGN CHOICE, log 44).
-/

namespace Sys2Proof.Machine

/-! ### Types and bodies (R619 to R624) -/

/-- Commands allowed with ADDR 0xF (R619). -/
def broadcastOk (type : Nat) : Bool :=
  type == 0x01 || type == 0x02 || type == 0x03 || type == 0x07 || type == 0x0B || type == 0x0C || type == 0x0D

/-- Commands that the recovery service answers (R151). -/
def recoveryOk (type : Nat) : Bool := type == 0x01 || type == 0x10 || type == 0x11 || type == 0x12

/-- The update commands (R615). -/
def isUpdate (type : Nat) : Bool := type == 0x10 || type == 0x11 || type == 0x12

/-- The length of a command's body, read from the body itself, and its zero bytes; none for an unknown type (R624). UPD_DATA gives no length
of its own: it takes the whole groups of 8 bytes received (DESIGN CHOICE, log 44). -/
def bodyForm (type : Nat) (b : List Byte) : Option (Nat × List Nat) :=
  match type with
  | 0x01 => some (8, [5, 6, 7])
  | 0x02 => some (12, [])
  | 0x03 => some (4 + numAt b 0 1, [1, 2, 3])
  | 0x04 => some (8 + numAt b 5 1, [6, 7])
  | 0x05 => some (32, [])
  | 0x06 => some (4, [2, 3])
  | 0x07 => some (4, [2, 3])
  | 0x08 => some (8, [6, 7])
  | 0x09 => some (8 + numAt b 6 1, [7])
  | 0x0A => some (12, [9, 10, 11])
  | 0x0B => some (12, if numAt b 0 1 = 0 then [1, 2, 3, 9, 10, 11] else [1, 2, 3, 11])
  | 0x0C => some (0, [])
  | 0x0D => some (0, [])
  | 0x0E => some (4, [3])
  | 0x10 => some (8, [4, 5, 6, 7])
  | 0x11 => some (4 + (b.length - 4) / 8 * 8, [])
  | 0x12 => some (0, [])
  | _ => none

/-- A body with its padding dropped; none where it is too short or breaks a zero-field rule (R612, R620). -/
def trimBody (f : Nat × List Nat) (b : List Byte) : Option (List Byte) :=
  if b.length < f.1 ∨ f.2.any (fun i => (b.getD i 0) != 0) then none else some (b.take f.1)

/-! ### HOST_RX -/

/-- The same ADDR, TYPE and TAG (R618). -/
def HostCmd.sameKey (a b : HostCmd) : Bool := a.ref.bcast == b.ref.bcast && a.type == b.type && a.ref.tag == b.ref.tag

/-- The original within DUP_MS (R618). -/
def Chip.original (c : Chip) (h : HostCmd) : Option HostCmd :=
  (c.host.recent.find? (fun r => r.2.sameKey h && decide (c.tb.count ≤ r.1 + c.host.dupMs * tkMs))).map (·.2)

/-- A command that is not executed is answered, on its own port. -/
def Chip.refuse (h : HostCmd) (r : Result) (c : Chip) : Chip :=
  { c with host := { c.host with answers := c.host.answers ++ [(h, r, [])] } }

/-- HOST_RX of a complete command (R615): one that the recovery service does not answer (R151), a duplicate (R618), the seventeenth (R616), or one that Owl will take. -/
def Chip.hostRx (h : HostCmd) (c : Chip) : Chip :=
  let c := (c.grant 40 (1 + h.ref.port.val)).count 20 1
  if c.sys.result == .codeCorrupt && !recoveryOk h.type then c
  else match c.original h with
  | some o =>
    if o.body = h.body then { c with host := { c.host with dups := satInc 0xFFFF c.host.dups } } else c.refuse h .tagReused
  | none =>
    let recent := c.host.recent.filter (fun r => decide (c.tb.count ≤ r.1 + c.host.dupMs * tkMs))
    let c : Chip := { c with host := { c.host with recent := recent ++ [(c.tb.count, h)] } }
    if 16 ≤ c.host.waiting then { c with host := { c.host with busy := satInc 0xFFFF c.host.busy } }.refuse h .hostBusy
    else { c with host := { c.host with rx := c.host.rx ++ [h] } }

/-- A port takes frames in a format (R601): FD frames only with FD, bit-rate switching only with BRS. -/
def CanUnit.takes (u : CanUnit) (fd brs : Bool) : Bool := u.onBus && (!fd || u.fd) && (!brs || u.brs)

/-- `n` good frames received take 1 each from REC (R601, ISO 11898-1): a REC above 127 first takes a value between 119 and 127, which is open. -/
def CanUnit.lowerRec (n from128 : Nat) (u : CanUnit) : CanUnit :=
  { u with rec_ := if n = 0 then u.rec_ else if 127 < u.rec_ then from128 - (n - 1) else u.rec_ - n }.confine

/-- A port receives good frames. -/
def Chip.goodFrames (p : CanPort) (n : Nat) (c : Chip) : Chip :=
  if 127 < (c.host.ports[p]).rec_ then
    let r := c.draw 43
    r.2.modCan p (CanUnit.lowerRec n (119 + r.1 % 9))
  else c.modCan p (CanUnit.lowerRec n 0)

/-- The errors that a port has seen raise its counters, which the registers hold at 255; bus-off is the row CAN_BUSOFF (R601, R606). -/
def CanUnit.errors (recAdd tecAdd : Nat) (u : CanUnit) : CanUnit :=
  if u.onBus then { u with rec_ := min 255 (u.rec_ + recAdd), tec := min 255 (u.tec + tecAdd) }.confine else u

/-- `n` frames addressed to the device are taken on a port; one that finds Owl's domain down wakes it (R32, R609). -/
def Chip.takeFrames (p : CanPort) (n : Nat) (c : Chip) : Chip :=
  let c := (c.modCan p (fun u => { u with rx := u.rx + BitVec.ofNat 32 n })).count 22 n
  let c := { c with host := { c.host with frameAt := c.tb.count } }
  if c.isUp .owl then c else c.wake .owl

/-- A command that comes as one message; TAG 0 is ignored (R613). -/
def Chip.messageIn (h : HostCmd) (c : Chip) : Chip :=
  if (c.host.ports[h.ref.port]).takes h.ref.fd h.ref.brs then
    let n := framesOf h.ref.fd h.body.length
    let c := (c.goodFrames h.ref.port n).takeFrames h.ref.port n
    if h.ref.tag = 0 then c else c.hostRx h
  else c

/-! ### Owl takes a command -/

/-- An update command waits for the previous one to be answered (R615). -/
def Chip.held (c : Chip) (h : HostCmd) : Bool :=
  isUpdate h.type && (c.host.pending.any (fun x => isUpdate x.type) || c.host.answers.any (fun a => isUpdate a.1.type))

/-- The next command that Owl takes (R615). -/
def Chip.nextCommand (c : Chip) : Option HostCmd := if c.isUp .owl then c.host.rx.find? (fun h => !c.held h) else none

/-- What Owl itself answers a command with, taking it: SHUTDOWN answers all but READ_REG and LOG_READ (R189), a broadcast is allowed for
some (R619). -/
def Chip.takeRefusal (h : HostCmd) (c : Chip) : Option Result :=
  if c.sys.dev == .shutdown && h.type != 0x01 && h.type != 0x0A then some .shuttingDown
  else if h.ref.bcast && !broadcastOk h.type then some .paramRange
  else none

/-- Owl takes a command: it is answered at once, or executed. -/
def Chip.take (h : HostCmd) (run : HostCmd → Chip → Chip) (c : Chip) : Chip :=
  let c := { c with host := { c.host with rx := c.host.rx.erase h, pending := c.host.pending ++ [h] } }
  match c.takeRefusal h with
  | some r => c.answer h r []
  | none => run h { c with host := { c.host with cmds := c.host.cmds + 1 } }

/-- A command of the host is received, where it has not come by its frames. -/
def Chip.receiveCommand (h : HostCmd) (c : Chip) : Chip := if c.host.rx.contains h then c else c.messageIn h

/-- A command of the host: received, and executed when it is the next that Owl takes. -/
def Chip.hostCommand (ref : HostRef) (type : Nat) (body : List Byte) (run : HostCmd → Chip → Chip) (c : Chip) : Chip :=
  let h : HostCmd := ⟨ref, type, body⟩
  let c := c.receiveCommand h
  if c.nextCommand = some h then c.take h run else c

/-! ### Commands that Badger carries out (R37, R651) -/

/-- Badger's core runs: a failed BOOT holds it in reset (R142). -/
def Chip.badgerRuns (c : Chip) : Bool := c.isUp .badger && c.sys.result == .ok

/-- The message that carries a command to Badger over MBX_OB. -/
def HostCmd.words (h : HostCmd) : List Word :=
  if h.type = 0x05 then taggedWords 0x12 h.ref.tag h.body
  else if h.type = 0x06 then taggedWords 0x13 h.ref.tag (h.body.take 2)
  else if h.type = 0x07 then taggedWords 0x11 h.ref.tag (h.body.take 2)
  else if h.type = 0x0C then taggedWords 0x14 h.ref.tag []
  else taggedWords 0x10 h.ref.tag h.body

/-- Owl sends the command to Badger, which carries it out; with Badger's core held in reset Owl gives the result itself. -/
def Chip.viaBadger (run : HostCmd → Chip → Chip) (h : HostCmd) (c : Chip) : Chip :=
  run h (if c.badgerRuns then c.pass .ob h.words else c)

/-- Owl can take a command of Badger's now: a full MBX_OB holds its message up, and the command stays received. -/
def Chip.canSend (h : HostCmd) (c : Chip) : Bool := (c.takeRefusal h).isSome || !c.badgerRuns || c.canPass .ob h.words

/-- A command of the host that Badger carries out. -/
def Chip.badgerCommand (ref : HostRef) (type : Nat) (body : List Byte) (run : HostCmd → Chip → Chip) (c : Chip) : Chip :=
  let h : HostCmd := ⟨ref, type, body⟩
  let c := c.receiveCommand h
  if c.nextCommand = some h && c.canSend h then c.take h (Chip.viaBadger run) else c

/-! ### Frames (R608, R611 to R613) -/

/-- The message of a key is dropped from reassembly. -/
def CanUnit.dropReasm (type tag : Nat) (u : CanUnit) : CanUnit :=
  { u with reasm := u.reasm.filter (fun r => !(r.type == type && r.tag == tag)) }

/-- A message is abandoned and counted. -/
def CanUnit.abandonMsg (type tag : Nat) (u : CanUnit) : CanUnit := { u.dropReasm type tag with abandon := satInc 0xFFFF u.abandon }

/-- More than 10 ms have passed since the last fragment (R613). -/
def Reasm.late (now : Nat) (r : Reasm) : Bool := decide (r.at_ + 10 * tkMs < now)

/-- A command that no row can take is reported, and answered by Owl at once (DESIGN CHOICE, log 44). -/
def Chip.hostRxRefused (h : HostCmd) (r : Result) (c : Chip) : Chip :=
  let c := c.hostRx h
  if c.host.rx.contains h then
    ({ c with host := { c.host with rx := c.host.rx.erase h } }).refuse h (if c.sys.dev == DevMode.shutdown then .shuttingDown else r)
  else c

/-- A complete message is checked (R620) and reported. -/
def Chip.complete (h : HostCmd) (c : Chip) : Chip :=
  match bodyForm h.type h.body with
  | none => c.hostRxRefused h .unknownType
  | some f =>
    match trimBody f h.body with
    | none => c.hostRxRefused h .paramRange
    | some b => c.hostRx { h with body := b }

/-- One fragment. -/
def Chip.fragment (f : CanFrame) (type tag : Nat) (c : Chip) : Chip :=
  let ctrl := numAt f.data 2 1
  let frag := ctrl % 128
  let last := decide (128 ≤ ctrl)
  let data := f.data.drop 4
  let old := (c.host.ports[f.port]).reasm.find? (fun r => r.type == type && r.tag == tag)
  let broken := match old with
    | some r => r.next != frag || r.fd != f.fd || r.brs != f.brs || r.late c.tb.count
    | none => frag != 0
  let c := if broken then c.modCan f.port (fun u => u.abandonMsg type tag) else c
  if broken && frag != 0 then c
  else
    let r : Reasm := match (if broken then none else old) with
      | some r => { r with next := r.next + 1, body := r.body ++ data, at_ := c.tb.count }
      | none => ⟨type, tag, 1, data, f.ident / 8192 % 16 == 0xF, f.ident / 2 ^ 26 % 8, f.fd, f.brs, c.tb.count⟩
    let others := ((c.host.ports[f.port]).dropReasm type tag).reasm
    if 4 ≤ others.length ∨ 480 < r.body.length then c.modCan f.port (fun u => u.abandonMsg type tag)
    else if last then
      (c.modCan f.port (fun u => u.dropReasm type tag)).complete ⟨⟨f.port, tag, r.bcast, r.prio, f.fd, f.brs⟩, type, r.body⟩
    else c.modCan f.port (fun u => { u with reasm := others ++ [r] })

/-- A frame on the bus as the port's error counters see it (R601): the errors since the last frame, and a good frame's acknowledgement, whatever its format
and address. -/
def Chip.frameSeen (f : CanFrame) (c : Chip) : Chip :=
  let c := c.modCan f.port (CanUnit.errors f.recAdd f.tecAdd)
  if f.good && (c.host.ports[f.port]).onBus then c.goodFrames f.port 1 else c

/-- CAN_FRAME_RX: a frame addressed to the device (R609). A data field without a frame header is ignored (DESIGN CHOICE, log 44). -/
def Chip.frameRx (f : CanFrame) (c : Chip) : Chip :=
  let c := c.frameSeen f
  let type := f.ident / 2 ^ 17 % 256
  let addr := f.ident / 8192 % 16
  let mine := f.good && f.extended && f.ident / 2 ^ 25 % 2 == 0 && f.ident % 8192 == c.host.netId && (addr == c.sett.addr.val || addr == 0xF) && type != 0xFF
  if (c.host.ports[f.port]).takes f.fd f.brs && mine then
    let c := c.takeFrames f.port 1
    let tag := numAt f.data 0 2
    if f.data.length < 4 ∨ tag = 0 then c else c.fragment f type tag
  else c

def execCanFrameRx (f : CanFrame) (s : State) : Host.Outcome State Fault Refusal := .next (s.onChip (Chip.frameRx f))

/-- REASSEMBLY_TIMEOUT (R613). -/
def Chip.reasmTimeout (p : CanPort) (type tag : Nat) (c : Chip) : Chip :=
  if (c.host.ports[p]).reasm.any (fun r => r.type == type && r.tag == tag && r.late c.tb.count) then c.modCan p (fun u => u.abandonMsg type tag) else c

def execReassemblyTimeout (p : CanPort) (type tag : Nat) (s : State) : Host.Outcome State Fault Refusal :=
  .next (s.onChip (Chip.reasmTimeout p type tag))

/-! ### HOST_ANS -/

/-- Commands that change behaviour, logged with their result (R598; which they are is DESIGN CHOICE, log 45). -/
def isLogged (type : Nat) : Bool :=
  type == 0x02 || type == 0x04 || type == 0x05 || type == 0x06 || type == 0x07 || type == 0x09 || type == 0x0C || type == 0x0D || type == 0x0E ||
  type == 0x10 || type == 0x12

/-- HOST_ANS (R617): the oldest answer made is granted and leaves on the port of its command, in the command's format (R610, R614). -/
def Chip.hostAns (c : Chip) : Chip :=
  match c.host.answers with
  | [] => c
  | (h, r, body) :: rest =>
    if c.isUp .owl then
      let c := (c.grant 40 3).count 21 1
      let u := c.host
      let answered := u.answered ++ [(h.ref.tag, h.type)]
      let c := { c with host := { u with
        answers := rest, last := h.ref.tag, lastSeq := c.eva.seq, lastValid := true
        answered := answered.drop (answered.length - 16), updLast := if isUpdate h.type then r else u.updLast } }
      let c := if isLogged h.type then
          c.addLog 0x81 h.type 0 0xFF false false (leBytes 2 h.ref.tag ++ [BitVec.ofNat 8 (resultCode r)])
        else c
      let a := c.sett.addr.val
      let n := c.host.netId
      c.modCan h.ref.port (fun u => u.emit ⟨h.ref.port, h.ref.prio, h.type, h.ref.tag, r, body, h.ref.fd, h.ref.brs, a, n⟩)
    else c

def execHostAns (s : State) : Host.Outcome State Fault Refusal := .next (s.onChip Chip.hostAns)

/-! ### Bus-off (R606) -/

/-- CAN_BUSOFF. -/
def Chip.busOff (p : CanPort) (c : Chip) : Chip :=
  if (c.host.ports[p]).onBus then
    (c.modCan p (fun u => { u with st := .busOff, tec := 255, busOff := satInc 0xFFFF u.busOff, faults := [], overflow := false })).warn hostBlock 0x62 p.val
  else c

def execCanBusoff (p : CanPort) (s : State) : Host.Outcome State Fault Refusal := .next (s.onChip (Chip.busOff p))

/-- CAN_BUSOFF_RECOVERY: error-active again, both error counters at 0 (ISO 11898-1). -/
def Chip.busOffRecovery (p : CanPort) (c : Chip) : Chip :=
  c.modCan p (fun u => if u.st = .busOff then { u with st := .active, tec := 0, rec_ := 0 } else u)

def execCanBusoffRecovery (p : CanPort) (s : State) : Host.Outcome State Fault Refusal := .next (s.onChip (Chip.busOffRecovery p))

end Sys2Proof.Machine
end

