-- ==== Sys2Proof/Machine/Nv.lean ====
section
/-!
DEFINITION. The commands of the NV store, its counters, the calendar and the log (R565 to R600).
-/

namespace Sys2Proof.Machine

/-! ### Operations -/

/-- A write of the SHUTDOWN sequence that does not start is skipped (R101). -/
def Chip.nvSkip (k : NvKind) (ks : List NvKind) (c : Chip) : Chip :=
  let c := { c with nv := { c.nv with queue := ks }, sys := { c.sys with shdnSkip := true } }
  (c.gaugeStored k).shdnAdvance

/-- NV_OP_START: the operation at the head of the queue starts where R567 allows it, or in a power-loss SHUTDOWN R100 and R101, in which no operation
but the sequence's own starts (R97). -/
def Chip.nvOpStart (c : Chip) : Chip :=
  if c.nv.op.isSome || c.nv.readOnly then c
  else
    let hold := c.sys.dev == .shutdown && c.sys.shdnHold
    let c := if hold then { c with nv := { c.nv with queue := c.nv.queue.filter c.inSequence } } else c
    let c := { c with nv := c.nv.trim }
    match c.nv.queue with
    | [] => c.shdnAdvance
    | k :: ks =>
      if if hold then c.sys.holdOkAtStart || c.sys.vholdOk else c.nvAllowed then
        match ({ c with nv := { c.nv with queue := ks } }).nvBegin k with
        | some c => c
        | none => if c.sys.dev == .shutdown then c.nvSkip k ks else c
      else if hold then c.nvSkip k ks
      else c

def execNvOpStart (s : State) : Host.Outcome State Fault Refusal := .next (s.onChip Chip.nvOpStart)

/-- What has waited for the operation in progress with the device in reset: OFF after a loss of VIN (R97, R195), or the reset of the OWL domain, and
the BOOT of a release of RST_N (R117, R120). -/
def Chip.afterOp (c : Chip) : Chip :=
  if c.sys.dev != .boot then c
  else if c.sys.holdup then c.toOff
  else if c.sys.rstLow then
    let c := c.modDom (coreIdx .owl) (fun u => { u with up := false })
    match c.sys.bootReq with
    | some b => ({ c with sys := { c.sys with bootReq := none } }).startBoot .pin b
    | none => c
  else c

/-- NV_OP_END: the operation in progress ends. A record whose COMPLETE has not been granted, and that verified, has not ended. -/
def Chip.nvOpEnd (cells : NvCells) (c : Chip) : Chip :=
  match c.nv.op with
  | none => c
  | some o =>
    let d := c.nvEnd cells
    if d.nv.op.isSome then c
    else
      let d := if o.complete && !o.aborted then d.gaugeStored o.kind else d
      d.answerReads.afterOp.shdnAdvance

def execNvOpEnd (cells : NvCells) (s : State) : Host.Outcome State Fault Refusal := .next (s.onChip (Chip.nvOpEnd cells))

/-- The NVS controller's COMPLETE: the index names the record (R572). -/
def Chip.nvComplete (c : Chip) : Chip :=
  match c.nv.op with
  | none => c
  | some o =>
    if o.complete || o.aborted then c
    else
      match o.kind with
      | .record key pay _ =>
        let seq := c.nv.nextSeq key
        let c := c.grant 38 1
        let c := { c with nv := { c.nv with op := some { o with complete := true }, index := indexSet c.nv.index key seq pay } }
        if key = keyGauge then { c with gauge := { c.gauge with nvSeq := c.eva.seq, nvAge := 0, nextPeriodic := 600, staleSent := false } } else c
      | .copy .. =>
        let c := c.grant 38 1
        { c with nv := { c.nv with op := some { o with complete := true } } }
      | .eraseRecord _ | .eraseJournal | .eraseStripe _ | .counterBit _ | .carry _ | .retire _ => c

/-- NV_RECLAIM (R577): the needed records of the full sector opened first are copied, then it is erased. -/
def Chip.nvReclaim (c : Chip) : Chip :=
  if !c.isUp .owl || c.nv.gc || c.nv.readOnly || c.sys.dev == .shutdown || decide (2 ≤ c.nv.tally NvSector.blank) then c
  else
    match c.nv.oldestFull with
    | some i => ({ c with nv := { c.nv with gc := true } }).nvFirst (c.copiesOf i ++ [NvKind.eraseRecord (sectorNo i)])
    | none => c

def execNvReclaim (s : State) : Host.Outcome State Fault Refusal := .next (s.onChip Chip.nvReclaim)

/-- JOURNAL_SWITCH (R581): the other journal sector is erased, and takes over as the erase ends. -/
def Chip.journalSwitch (c : Chip) : Chip :=
  if c.isUp .owl && decide (c.nv.journalFree < 4) && !c.nv.holds (· == .eraseJournal) then c.nvFirst [.eraseJournal] else c

def execJournalSwitch (s : State) : Host.Outcome State Fault Refusal := .next (s.onChip Chip.journalSwitch)

/-! ### Counters -/

/-- COUNTER_INCREMENT (R585, R587, R588): increments held pending are queued for their stripe; in carry-only mode, and at a full stripe, they
stay pending. -/
def Chip.counterIncrement (k : Counter) (c : Chip) : Chip :=
  if c.isUp .owl && !c.nv.carryOnly && decide (1 ≤ c.nv.burst k) && !c.nv.holds (· == .counterBit k) then c.nvQueue [.counterBit k] else c

def execCounterIncrement (k : Counter) (s : State) : Host.Outcome State Fault Refusal := .next (s.onChip (Chip.counterIncrement k))

/-- COUNTER_SET_SWITCH (R587): a CNT_CARRY that names the other set, once that is blank. -/
def Chip.counterSetSwitch (c : Chip) : Chip :=
  if !c.isUp .owl || c.nv.carryOnly || !c.nv.stripeFull then c
  else
    let missing := c.nv.stale.filter (fun s => !c.nv.holds (· == .eraseStripe s))
    if !c.nv.stale.isEmpty then c.nvQueue (missing.map .eraseStripe)
    else if c.nv.holds (· == .carry true) then c
    else c.nvQueue [.carry true]

def execCounterSetSwitch (s : State) : Host.Outcome State Fault Refusal := .next (s.onChip Chip.counterSetSwitch)

/-- CARRY_WRITE (R588): some pending count has reached 64, or 10 minutes have passed since the last. -/
def Chip.carryWrite (c : Chip) : Chip :=
  let due := (List.finRange 16).any (fun k => decide (64 ≤ c.nv.pending[k])) || decide (c.nv.carryAt + 600000 * tkMs ≤ c.tb.count)
  if c.isUp .owl && c.nv.carryOnly && due && !c.nv.holds (· == .carry false) then c.queueCarry else c

def execCarryWrite (s : State) : Host.Outcome State Fault Refusal := .next (s.onChip Chip.carryWrite)

/-- MINUTE_COUNTERS_WAKE (R589): at 60 minutes pending Owl wakes and takes them over. -/
def Chip.minuteWake (c : Chip) : Chip :=
  if c.outOfBoot && (decide (60 ≤ c.nv.runMin) || decide (60 ≤ c.nv.onMin)) then
    let c := (c.bump 5 c.nv.runMin).bump 6 c.nv.onMin
    let c := { c with nv := { c.nv with runMin := 0, onMin := 0 } }
    c.wake .owl
  else c

def execMinuteCountersWake (s : State) : Host.Outcome State Fault Refusal := .next (s.onChip Chip.minuteWake)

/-! ### The calendar -/

/-- CAL_STAMP, every hour (R597). -/
def Chip.calStamp (c : Chip) : Chip :=
  if c.isUp .owl && c.outOfBoot && c.sys.dev != .shutdown && decide (c.cal.stampAt + 3600 ≤ c.cal.up) then c.stampCal else c

def execCalStamp (s : State) : Host.Outcome State Fault Refusal := .next (s.onChip Chip.calStamp)

/-- CALENDAR_END (R594): the count stands at the end of its range. -/
def Chip.calendarEnd (c : Chip) : Chip :=
  if c.powered && c.cal.sec == calEnd then { c with cal := { c.cal with ended := true } } else c

def execCalendarEnd (s : State) : Host.Outcome State Fault Refusal := .next (s.onChip Chip.calendarEnd)

/-! ### The log -/

/-- LOG_FLUSH (R600): seven entries wait, a Class A or Class B entry waits, or the oldest is 10 s old; step 4 of SHUTDOWN queues its own. -/
def Chip.logFlush (c : Chip) : Chip :=
  let due := c.log.urgent || decide (7 ≤ c.logsLeft.length) || decide (c.log.oldest + 10 ≤ c.cal.up)
  if c.isUp .owl && c.outOfBoot && c.sys.dev != .shutdown && due then c.queueLog else c

def execLogFlush (s : State) : Host.Outcome State Fault Refusal := .next (s.onChip Chip.logFlush)

end Sys2Proof.Machine
end

