-- ==== Sys2Proof/Machine/Messages.lean ====
section
/-!
DEFINITION. The messages of the mailboxes at their receivers (R651): what Badger, Owl and Hedgehog do with each once its words have
passed (R36, R59).
-/

namespace Sys2Proof.Machine

/-- A message reaches its receiver, which acts on it; one whose words cannot pass now changes nothing. -/
def Chip.message (m : Mailbox) (ws : List Word) (act : Chip → Chip) (c : Chip) : Chip := if c.canPass m ws then act (c.pass m ws) else c

/-- A message of Hedgehog's has been received. -/
def Chip.gaugeTaken (m : GaugeMsg) (c : Chip) : Chip := c.onGauge (fun u => { u with out := u.out.erase m })

/-! ### Badger -/

/-- The charging group (R552). -/
def Chip.chgGroup (c : Chip) : Option Group := groupAt c.gauge.cfg.chgGroup

/-- CHG_LIMITS (R553): CHG_V and CHG_I in one swap. -/
def Chip.chgLimits (iLim vLim : Nat) (c : Chip) : Chip :=
  if c.gaugeOn then
    match c.chgGroup with
    | some g =>
      let c := (c.gaugeTaken (.chgLimits iLim vLim)).onGauge (fun u =>
        { u with limAt := some c.tb.count, limI := iLim, limV := vLim, limZero := false })
      c.chargeSwap g iLim vLim
    | none => c
  else c

def execChgLimits (iLim vLim : Nat) (s : State) : Host.Outcome State Fault Refusal := .next (s.onChip (Chip.message .hb (messageWords 0x40 iLim (leBytes 3 vLim)) (Chip.chgLimits iLim vLim)))

/-- CHARGE_LIMIT_TIMEOUT (R554): three seconds without a limits message, or none since BOOT, in CHARGE. -/
def Chip.chargeLimitTimeout (c : Chip) : Chip :=
  match c.chgGroup with
  | some g =>
    let late := match c.gauge.limAt with
      | some t => decide (t + 3 * tkSec ≤ c.tb.count)
      | none => true
    if c.gaugeOn && (c.grp[g]).mode == .charge && late then
      (c.onGauge (fun u => { u with limZero := true })).present g [.chg (c.setpt.shadow[g]).chgV 0]
    else c
  | none => c

def execChargeLimitTimeout (s : State) : Host.Outcome State Fault Refusal := .next (s.onChip Chip.chargeLimitTimeout)

/-- GAUGE_INPUT: Badger's copy of LOST. -/
def Chip.gaugeInput (lost : Bool) (c : Chip) : Chip :=
  if c.gaugeOn then (c.gaugeTaken (.input lost)).onGauge (fun u => { u with badgerLost := lost }) else c

def execGaugeInput (lost : Bool) (s : State) : Host.Outcome State Fault Refusal := .next (s.onChip (Chip.message .hb (messageWords 0x41 (bit lost).toNat []) (Chip.gaugeInput lost)))

/-- The address of GAUGE_CMD. -/
def gaugeCmdAddr : Nat := 0x000B0088

/-- The GAUGE_CMD writes named are answered (R564). -/
def Chip.answerSaves (r : Result) (which : Nat × Option Nat → Bool) (c : Chip) : Chip :=
  let body := if r = .ok then leBytes 4 gaugeCmdAddr ++ leBytes 4 0 else []
  let c := (c.gauge.saves.filter which).foldl (fun c s =>
    match c.host.pending.find? (fun h => h.ref.tag == s.1 && h.type == 0x02) with
    | some h => c.answer h r body
    | none => c) c
  c.onGauge (fun u => { u with saves := u.saves.filter (fun s => !which s) })

/-! ### Hedgehog -/

/-- GROUP_STATE (R552, R555): limits follow the charging group's entry to CHARGE at once; FULL ends as it leaves. -/
def Chip.groupState (g : Group) (m : Mode) (dir : Nat) (c : Chip) : Chip :=
  if c.gaugeOn && c.gauge.cfg.chgGroup == g.val then
    let c := c.onGauge (fun u => { u with grpMode := m, grpDir := dir, full := u.full && m == .charge, termRun := if m = .charge then u.termRun else 0 })
    if m = .charge then c.sendLimits else c
  else c

def execGroupState (g : Group) (m : Mode) (dir : Nat) (s : State) : Host.Outcome State Fault Refusal :=
  .next (s.onChip (Chip.message .bh (messageWords 0x30 (g.val * 2 ^ 20 + modeCode m * 2 ^ 16 + dir * 256) []) (Chip.groupState g m dir)))

/-- SHDN (R190 step 3, R558): the record of SHUTDOWN. -/
def Chip.shdnMessage (c : Chip) : Chip :=
  if c.sys.dev == .shutdown && c.sys.shdn == .gauge && c.gauge.started then c.shutdownRecord else c

def execShdn (s : State) : Host.Outcome State Fault Refusal := .next (s.onChip (Chip.message .bh (messageWords 0x31 0 []) Chip.shdnMessage))

/-- GAUGE_SAVE (R556, R564). A store that has become read-only since the command takes no record: NV_READONLY. -/
def Chip.gaugeSave (tag : Nat) (c : Chip) : Chip :=
  if c.gaugeOn then
    let c := (c.onGauge (fun u => { u with saves := u.saves ++ [(tag, none)] })).occasion 5
    if c.nv.readOnly then c.answerSaves .nvReadonly (fun s => s.1 == tag) else c
  else c

def execGaugeSave (tag : Nat) (s : State) : Host.Outcome State Fault Refusal := .next (s.onChip (Chip.message .oh (taggedWords 0x50 tag []) (Chip.gaugeSave tag)))

/-- CAL: Hedgehog's copy of the calendar. -/
def Chip.calMessage (set : Bool) (secs : Nat) (c : Chip) : Chip :=
  if c.gaugeOn then c.onGauge (fun u => { u with calSet := set, calSecs := secs }) else c

def execCal (set : Bool) (secs : Nat) (s : State) : Host.Outcome State Fault Refusal := .next (s.onChip (Chip.message .oh (messageWords 0x51 (bit set).toNat (leBytes 5 secs)) (Chip.calMessage set secs)))

/-- NV_STATE (R557, R559). -/
def Chip.nvStateMessage (writable readOnly : Bool) (c : Chip) : Chip :=
  if c.gaugeOn then
    (c.onGauge (fun u => { u with nvWritable := writable, nvReadOnly := readOnly })).staleCheck.occasionWaiting
  else c

def execNvState (writable readOnly : Bool) (s : State) : Host.Outcome State Fault Refusal :=
  .next (s.onChip (Chip.message .oh (messageWords 0x52 (bit writable + 2 * bit readOnly).toNat []) (Chip.nvStateMessage writable readOnly)))

/-- GAUGE_RECORD (R551): the start of the estimates. -/
def Chip.gaugeRecord (r : List Byte) (c : Chip) : Chip :=
  if c.gaugeOn && !c.gauge.started then
    let c := c.onGauge (fun u => { u with reply := none })
    if r.length = 56 ∧ r.headD 0 = 1 then c.gaugeStart r else (c.onGauge GaugeUnit.startNew).gaugeWarn 0x78
  else c

def execGaugeRecord (r : GaugeBytes) (s : State) : Host.Outcome State Fault Refusal := .next (s.onChip (Chip.message .oh (messageWords 0x53 r.length r) (Chip.gaugeRecord r)))

/-! ### Owl -/

/-- Owl runs and takes messages: its domain is up, with firmware. -/
def Chip.owlRuns (c : Chip) : Bool := c.isUp .owl && c.outOfBoot && c.sys.result != .codeCorrupt

/-- A waiting gauge record takes the newest values, with the lower REASON (R556). -/
def mergeRecord (r : List Byte) : NvKind → NvKind
  | .record key pay u =>
    if key = keyGauge then
      .record key (r.take 2 ++ [BitVec.ofNat 8 (min (numAt r 2 1) (numAt pay 2 1))] ++ r.drop 3) u
    else .record key pay u
  | k => k

/-- The write is of a gauge record. -/
def NvKind.isGauge : NvKind → Bool
  | .record key _ _ => key == keyGauge
  | .copy .. | .eraseRecord _ | .eraseJournal | .eraseStripe _ | .counterBit _ | .carry _ | .retire _ => false

/-- RECORD (R556): the record enters the NV queue, or the one that waits there; the SAVEs that it is formed for are answered (R564). -/
def Chip.recordMessage (r : List Byte) (c : Chip) : Chip :=
  if c.owlRuns && r.length == 56 then
    let c := c.gaugeTaken (.record r)
    let its (s : Nat × Option Nat) : Bool := decide (s.2.getD (2 ^ 32) ≤ numAt r 48 4)
    if c.nv.readOnly then ((c.answerSaves .nvReadonly its).gaugeStored (.record keyGauge r none)).shdnAdvance
    else
      let c := if c.nv.queue.any NvKind.isGauge then { c with nv := { c.nv with queue := c.nv.queue.map (mergeRecord r) } }
        else c.nvQueue [.record keyGauge r none]
      c.answerSaves .ok its
  else c

def execRecord (r : GaugeBytes) (s : State) : Host.Outcome State Fault Refusal := .next (s.onChip (Chip.message .ho (messageWords 0x60 56 r) (Chip.recordMessage r)))

/-- LOG: a gauge event enters the log (R598). -/
def Chip.logMessage (code unit : Nat) (c : Chip) : Chip :=
  if c.owlRuns then c.addLog gaugeBlock code (clsCode .c * 64 + histCode .warn) unit false false [] else c

def execLog (code unit : Nat) (s : State) : Host.Outcome State Fault Refusal := .next (s.onChip (Chip.message .ho (messageWords 0x61 (code * 2 ^ 16 + unit * 256) []) (Chip.logMessage code unit)))

/-- AH (R550). -/
def Chip.ahMessage (n : Nat) (c : Chip) : Chip := if c.owlRuns then (c.gaugeTaken (.ah n)).bump 7 n else c

def execAh (increments : Nat) (s : State) : Host.Outcome State Fault Refusal := .next (s.onChip (Chip.message .ho (messageWords 0x62 increments []) (Chip.ahMessage increments)))

/-- RECORD_REQ (R551): Owl sends the visible record, or NOT_FOUND with no bytes. -/
def Chip.recordReq (c : Chip) : Chip :=
  if c.owlRuns then
    let r := (c.nv.find keyGauge).getD []
    (c.gaugeTaken .recordReq).onGauge (fun u => { u with reply := some r })
  else c

def execRecordReq (s : State) : Host.Outcome State Fault Refusal := .next (s.onChip (Chip.message .ho (messageWords 0x63 0 []) Chip.recordReq))

/-- The result codes. -/
def allResults : List Result :=
  [.ok, .accessDenied, .addrInvalid, .domainOff, .paramRange, .unknownType, .tagReused, .hostBusy, .wrongMode, .shuttingDown, .alreadyDone,
   .tagUnknown, .streamLimit, .faultActive, .noFault, .classALatched, .setUndefined, .sourceDisabled, .sweepBusy, .sweepUnknown, .sweepAborted,
   .sweepAbortedLink, .joinPartial] ++
  [.notFound, .badPassword, .nvLocked, .keyReserved, .nvBusy, .nvFull, .nvReadonly, .aborted, .invalidDate, .updNoSession, .updOverlap,
   .updIncomplete, .updFormat, .updSignature, .updCompat, .bankTrial]

/-- The result of a code. -/
def resultOf (n : Nat) : Option Result := allResults.find? (fun r => resultCode r == n)

/-- A command that Owl has carried to Badger over MBX_OB (R651). -/
def HostCmd.carried (h : HostCmd) : Bool := h.type == 0x02 || h.type == 0x05 || h.type == 0x06 || h.type == 0x07 || h.type == 0x0C

/-- The body of the answer to a command that Badger carried out: a WRITE_CMD's carries the register as it now reads (R626). -/
def Chip.doneBody (c : Chip) (h : HostCmd) : List Byte :=
  if h.type = 0x02 then h.body.take 4 ++ leBytes 4 (c.regWord .host (numAt h.body 0 4)).toNat else []

/-- DONE: a command that Badger carried out and that still waits is answered. -/
def Chip.doneMessage (tag result : Nat) (c : Chip) : Chip :=
  match c.host.pending.find? (fun h => h.carried && h.ref.tag == tag), resultOf result with
  | some h, some r => if c.owlRuns then c.answer h r (c.doneBody h) else c
  | _, _ => c

def execDone (tag result : Nat) (s : State) : Host.Outcome State Fault Refusal := .next (s.onChip (Chip.message .bo (doneWords tag (result % 256)) (Chip.doneMessage tag result)))

/-- The group of a message, or 0xF for the device (R651). -/
def targetNibble : Target → Nat
  | .device => 0xF
  | .group g => g.val

/-- MODE: Owl logs the change, unless its grant's entry is in the log already (R598). -/
def Chip.modeMessage (t : Target) (m : Mode) (k : Cause) (c : Chip) : Chip :=
  let unit := match t with
    | .device => 0xFF
    | .group g => g.val
  let there := c.log.entries.any (fun e => e.2.block == 0x80 && e.2.code == modeCode m && e.2.unit == unit &&
    (bytesAt e.2.data 1 1).headD 0 == BitVec.ofNat 8 (causeCode k))
  if c.owlRuns && !there then c.addLog 0x80 (modeCode m) 0 unit false false [0, BitVec.ofNat 8 (causeCode k)] else c

def execMode (target : Target) (m : Mode) (c : Cause) (s : State) : Host.Outcome State Fault Refusal :=
  .next (s.onChip (Chip.message .bo (messageWords 0x21 (targetNibble target * 2 ^ 20 + modeCode m * 2 ^ 16 + causeCode c * 256) []) (Chip.modeMessage target m c)))

/-- FAULT: Owl logs the report, unless the guard's history entry is in the log already. -/
def Chip.faultMessage (b : Block) (code unit : Nat) (c : Chip) : Chip :=
  let there := c.log.entries.any (fun e => e.2.block == b.val && e.2.code == code && e.2.unit == unit)
  if c.owlRuns && !there then c.addLog b code 0 unit false false [] else c

def execFault (b : Block) (code unit : Nat) (s : State) : Host.Outcome State Fault Refusal := .next (s.onChip (Chip.message .bo (messageWords 0x22 (b.val * 2 ^ 16 + code * 256 + unit) []) (Chip.faultMessage b code unit)))

/-- COUNT: increments of a hardware counter. -/
def Chip.countMessage (n : Nat) (k : Counter) (c : Chip) : Chip := if c.owlRuns then c.bump k n else c

def execCount (increments : Nat) (k : Counter) (s : State) : Host.Outcome State Fault Refusal :=
  .next (s.onChip (Chip.message .bo (messageWords 0x23 (increments * 256 + k.val) []) (Chip.countMessage increments k)))

/-- SWEEP_END (R489, R634): the end report goes out on every enabled port. -/
def Chip.sweepEndMessage (tag cause : Nat) (c : Chip) : Chip :=
  match c.sweep.owed.find? (fun o => o.1 == tag) with
  | some o =>
    if c.owlRuns then
      let (_, _, points, orig, seq) := o
      let body := leBytes 2 tag ++ [BitVec.ofNat 8 (resultCode (sweepResult cause)), BitVec.ofNat 8 cause] ++ leBytes 2 points ++
        [BitVec.ofNat 8 orig.val, 0] ++ leBytes 4 seq.toNat
      let c := { c with sweep := { c.sweep with owed := c.sweep.owed.erase o } }
      (List.finRange 2).foldl (fun c p => if (c.host.ports[p]).en then c.unsolicited p 2 0x42 body else c) c
    else c
  | none => c

def execSweepEnd (tag cause : Nat) (s : State) : Host.Outcome State Fault Refusal := .next (s.onChip (Chip.message .bo (messageWords 0x24 (tag * 256 + cause) []) (Chip.sweepEndMessage tag cause)))

end Sys2Proof.Machine
end

