-- ==== Sys2Proof/Machine/HostOps.lean ====
section
/-!
DEFINITION. The host's other commands: sweeps (R628), FAULT_CLEAR (R508), the NV store and the log (R590 to R593, R600), the calendar (R596),
JOIN (R461) and CFG_RELEASE (R154).
-/

namespace Sys2Proof.Machine

/-! ### Sweeps -/

/-- SWEEP_START (R469, R483, R628): a sweep on one device is answered as its group enters SWEEP, a chain-wide one at the delivery of SW_SETUP. -/
def Chip.sweepStart (d : SweepDesc) (h : HostCmd) (c : Chip) : Chip :=
  match c.sweepRefusal d with
  | some r => c.done h r []
  | none =>
    let g : Group := Fin.ofNat 4 d.group
    if (c.sett.groups[g]).span then { c with host := { c.host with sweepCmd := some h } }.askSweep h.ref.tag d
    else ((c.bookSweep g d h.ref.tag c.sett.addr false).changeMode g .sweep .sweepStart).done h .ok []

def execSweepStart (h : HostRef) (d : SweepDesc) (s : State) : Host.Outcome State Fault Refusal :=
  .next (s.onChip (Chip.badgerCommand h 0x05 (descBytes d) (Chip.sweepStart d)))

/-- SWEEP_ABORT (R489): it races with the sweep's COMPLETE (R69, R70). -/
def Chip.sweepAbort (tag : Nat) (h : HostCmd) (c : Chip) : Chip :=
  let waits (c : Chip) : Chip := { c with host := { c.host with aborts := c.host.aborts ++ [(.sweep, some h)] } }
  if c.sweep.ask = some tag then waits { c with sweep := { c.sweep with askAbort := c.sweep.askAbort ++ [1] } }
  else if c.sweep.st != .idle && c.sweep.orig && c.sweep.tag == tag then
    waits { c with sweep := { c.sweep with abortReq := c.sweep.abortReq ++ [1] } }
  else if c.sweep.completedTags.contains tag then c.done h .alreadyDone []
  else c.done h .sweepUnknown []

def execSweepAbort (h : HostRef) (tag : Nat) (s : State) : Host.Outcome State Fault Refusal :=
  .next (s.onChip (Chip.badgerCommand h 0x06 (leBytes 2 tag ++ [0, 0]) (Chip.sweepAbort tag)))

/-! ### FAULT_CLEAR -/

/-- FAULT_CLEAR (R506, R508). -/
def Chip.clearCommand (block code : Nat) (h : HostCmd) (c : Chip) : Chip :=
  if 44 < block ∧ block ≠ 0xFF then c.done h .paramRange []
  else
    let (c, r) := c.faultClear block code
    c.done h r []

def execFaultClear (h : HostRef) (block code : Nat) (s : State) : Host.Outcome State Fault Refusal :=
  .next (s.onChip (Chip.badgerCommand h 0x07 (leBytes 1 block ++ leBytes 1 code ++ [0, 0]) (Chip.clearCommand block code)))

/-! ### The NV store and the log -/

/-- A password is checked (R590 to R592): the refusal, if it is one. -/
def Chip.checkPassword (pw : Word) (write : Bool) (c : Chip) : Option Result × Chip :=
  let u := c.nv
  if u.locked then (some .nvLocked, c)
  else
    let open_ := if write then u.writePw == 0 else u.readPw == 0 || u.writePw == 0
    let good := open_ || pw == u.writePw || (!write && pw == u.readPw)
    if good then (none, { c with nv := { u with fails := 0 } })
    else
      let n := min 8 (u.fails + 1)
      let c := { c with nv := { u with fails := n, locked := decide (8 ≤ n) } }
      (some .badPassword, if 8 ≤ n then c.warn nvsBlock 0x5E 0xFF else c)

/-- NV_READ (R570, R575, R591). -/
def Chip.nvRead (pw : Word) (key : Nat) (h : HostCmd) (c : Chip) : Chip :=
  match c.checkPassword pw false with
  | (some r, c) => c.answer h r []
  | (none, c) =>
    if 1 ≤ key ∧ key ≤ 0x1F then c.answer h .keyReserved []
    else
      match c.nv.lookup key with
      | some (seq, pay) =>
        if pay.isEmpty then c.answer h .notFound []
        else
          let busy := c.nv.readBusy (fun r => r.key == key && r.seq == seq)
          c.answerRead h busy (leBytes 2 key ++ [BitVec.ofNat 8 pay.length, 0] ++ leBytes 2 seq.toNat ++ [0, 0] ++ pay)
      | none => c.answer h .notFound []

def execNvRead (h : HostRef) (password : Word) (key : Nat) (s : State) : Host.Outcome State Fault Refusal :=
  .next (s.onChip (Chip.hostCommand h 0x08 (leBytes 4 password.toNat ++ leBytes 2 key ++ [0, 0]) (Chip.nvRead password key)))

/-- The user records that would be visible with a write made, the writes that wait counted as made (R593). -/
def NvUnit.wouldHold (u : NvUnit) (key : Nat) (pay : List Byte) : Nat × Nat :=
  let queued := u.queue.filterMap (fun k => match k with
    | .record key pay (some _) => some (key, pay)
    | _ => none)
  let now := match u.op with
    | some o => (match o.kind with
      | .record key pay (some _) => if o.aborted then [] else [(key, pay)]
      | _ => [])
    | none => []
  let ix := (now ++ queued ++ [(key, pay)]).foldl (fun ix w => indexSet ix w.1 0 w.2) u.index
  let users := ix.filter (fun e => decide (0x1000 ≤ e.1) && !e.2.2.isEmpty)
  (users.length, users.foldl (fun n e => n + recordSize e.2.2) 0)

/-- NV_WRITE (R575, R584, R591, R593): it joins the queue, and its answer follows the end of its operation. -/
def Chip.nvWrite (pw : Word) (key : Nat) (pay : List Byte) (h : HostCmd) (c : Chip) : Chip :=
  match c.checkPassword pw true with
  | (some r, c) => c.answer h r []
  | (none, c) =>
    if 240 < pay.length ∨ 0xFFFE < key then c.answer h .paramRange []
    else if key < 0x1000 then c.answer h .keyReserved []
    else if c.nv.readOnly then c.answer h .nvReadonly []
    else if 8 ≤ (c.nv.queue.filter NvKind.isUser).length then c.answer h .nvBusy []
    else
      let (n, bytes) := c.nv.wouldHold key pay
      if !pay.isEmpty && (decide (1024 < n) || decide (65536 < bytes)) then c.answer h .nvFull []
      else c.nvQueue [.record key pay (some h.ref.tag)]

def execNvWrite (h : HostRef) (password : Word) (key : Nat) (payload : List Byte) (s : State) : Host.Outcome State Fault Refusal :=
  .next (s.onChip (Chip.hostCommand h 0x09
    (leBytes 4 password.toNat ++ leBytes 2 key ++ [BitVec.ofNat 8 payload.length, 0] ++ payload) (Chip.nvWrite password key payload)))

/-- A log entry by its index; one that is not held has VALID = 0 (R600). -/
def LogUnit.entryBytes (l : LogUnit) (i : Nat) : List Byte :=
  match l.entries.find? (fun e => e.1 == i % 2 ^ 32) with
  | some e => e.2.bytes
  | none => List.replicate 32 0

/-- LOG_READ (R591, R600). -/
def Chip.logRead (pw : Word) (first n : Nat) (h : HostCmd) (c : Chip) : Chip :=
  if n < 1 ∨ 14 < n then c.answer h .paramRange []
  else
    match c.checkPassword pw false with
    | (some r, c) => c.answer h r []
    | (none, c) =>
      let busy := c.nv.readBusy (fun r => r.key == keyLog && decide (numAt r.payload 0 4 < first + n) &&
        decide (first < numAt r.payload 0 4 + (r.payload.length - 4) / 32))
      c.answerRead h busy (leBytes 4 first ++ [BitVec.ofNat 8 n, 0, 0, 0] ++ (List.range n).flatMap (fun i => c.log.entryBytes (first + i)))

def execLogRead (h : HostRef) (password : Word) (first count : Nat) (s : State) : Host.Outcome State Fault Refusal :=
  .next (s.onChip (Chip.hostCommand h 0x0A (leBytes 4 password.toNat ++ leBytes 4 first ++ leBytes 1 count ++ [0, 0, 0])
    (Chip.logRead password first count)))

/-! ### The calendar (R594 to R597) -/

/-- A leap year (R595). -/
def leap (y : Nat) : Bool := (y % 4 == 0 && y % 100 != 0) || y % 400 == 0

/-- Days of a month. -/
def monthDays (m y : Nat) : Nat :=
  match m with
  | 2 => if leap y then 29 else 28
  | 4 => 30
  | 6 => 30
  | 9 => 30
  | 11 => 30
  | _ => 31

/-- Days from 2000-01-01 to the first of a month. -/
def daysBefore (y m : Nat) : Nat :=
  (List.range (y - 2000)).foldl (fun n k => n + if leap (2000 + k) then 366 else 365) 0 +
  (List.range (m - 1)).foldl (fun n k => n + monthDays (k + 1) y) 0

/-- The count that a CAL_SET carries; none where R596 rejects it. -/
def calSecs : CalReq → Option Nat
  | .count n => if n ≤ calEnd then some n else none
  | .date y mo d hh mi s =>
    if 2000 ≤ y ∧ y ≤ 2199 ∧ 1 ≤ mo ∧ mo ≤ 12 ∧ 1 ≤ d ∧ d ≤ monthDays mo y ∧ hh ≤ 23 ∧ mi ≤ 59 ∧ s ≤ 59 then
      some ((daysBefore y mo + (d - 1)) * 86400 + hh * 3600 + mi * 60 + s)
    else none
  | .badForm => none

/-- CAL_SET at its grant (R596): SET, COARSE where the crystal runs again (R594), a CAL_STAMP and a log entry of both counts. -/
def Chip.calSet (r : CalReq) (h : HostCmd) (c : Chip) : Chip :=
  if r == .badForm then c.answer h .paramRange []
  else
    match (calSecs r) with
    | none => c.answer h .invalidDate []
    | some n =>
      let c := c.grant 42 1
      let old := c.cal.sec
      let c := { c with cal := { c.cal with
        sec := n, ended := false, set := true, coarse := c.cal.coarse && !c.cal.osc, setSeq := c.eva.seq } }
      let c := c.addLog 0x82 0 0 0xFF false false (leBytes 5 old ++ leBytes 5 n)
      c.stampCal.answer h .ok (leBytes 8 n)

/-- The body of CAL_SET (R624). -/
def calBody : CalReq → List Byte
  | .count n => [0, 0, 0, 0] ++ leBytes 8 n
  | .date y mo d hh mi s => [1, 0, 0, 0] ++ leBytes 2 y ++ [mo, d, hh, mi, s].map (BitVec.ofNat 8) ++ [0]
  | .badForm => [2, 0, 0, 0] ++ leBytes 8 0

def execCalSet (h : HostRef) (r : CalReq) (s : State) : Host.Outcome State Fault Refusal :=
  .next (s.onChip (Chip.hostCommand h 0x0B (calBody r) (Chip.calSet r)))

/-! ### JOIN and CFG_RELEASE -/

/-- JOIN (R461): each enabled port that is DOWN starts to train, in a window of 100 ms. -/
def Chip.joinCommand (h : HostCmd) (c : Chip) : Chip :=
  let down := (List.finRange 2).filter (fun p => (if p.val = 0 then c.sett.upEn else c.sett.dnEn) && (c.sett.ports[p]).st == .down)
  if down.isEmpty then
    c.done h .ok [BitVec.ofNat 8 (portCode (c.sett.ports[(0 : SettPort)]).st), BitVec.ofNat 8 (portCode (c.sett.ports[(1 : SettPort)]).st), 0, 0]
  else
    let last := c.tb.count + 100 * tkMs
    let c := down.foldl (fun c p => c.modPort p (fun u => { u with st := .training, trainEnd := last })) c
    { c with host := { c.host with joinCmds := c.host.joinCmds ++ [(h, down, last)] } }

def execJoin (h : HostRef) (s : State) : Host.Outcome State Fault Refusal := .next (s.onChip (Chip.badgerCommand h 0x0C [] Chip.joinCommand))

/-- CFG_RELEASE (R154, R155). -/
def Chip.cfgRelease (h : HostCmd) (c : Chip) : Chip := { c with sys := { c.sys with cfgReleased := true } }.answer h .ok []

def execCfgRelease (h : HostRef) (s : State) : Host.Outcome State Fault Refusal := .next (s.onChip (Chip.hostCommand h 0x0D [] Chip.cfgRelease))

end Sys2Proof.Machine
end

