-- ==== Sys2Proof/Machine/HostWrite.lean ====
section
/-!
DEFINITION. The host's register commands: READ_REG (R625) and WRITE_CMD (R18 to R20, R626), with what each CMD and W1C register does.
-/

namespace Sys2Proof.Machine

/-! ### READ_REG -/

/-- Words read in ascending order until one lies in a domain that is down (R625). -/
def Chip.readWords (a : Nat) : Nat → List Word → Chip → Bool × List Word × Chip
  | 0, ws, c => (true, ws, c)
  | n + 1, ws, c =>
    match c.regRead .host a with
    | (.ok, w, c) => Chip.readWords (a + 4) n (ws ++ [w]) c
    | (_, _, c) => (false, ws, c)

/-- The answer body of READ_REG (R624). -/
def readBody (a : Nat) (ws : List Word) : List Byte :=
  leBytes 4 a ++ [BitVec.ofNat 8 ws.length, 0, 0, 0] ++ ws.flatMap (fun w => leBytes 4 w.toNat)

/-- READ_REG (R625). -/
def Chip.readReg (a n : Nat) (h : HostCmd) (c : Chip) : Chip :=
  if a % 4 ≠ 0 ∨ n < 1 ∨ 64 < n then c.answer h .paramRange []
  else if !(List.range n).all (fun i => mapped (a + 4 * i)) then c.answer h .addrInvalid (readBody a [])
  else
    let (good, ws, c) := c.readWords a n []
    c.answer h (if good then .ok else .domainOff) (readBody a ws)

def execReadReg (h : HostRef) (addr : Word) (count : Nat) (s : State) : Host.Outcome State Fault Refusal :=
  .next (s.onChip (Chip.hostCommand h 0x01 (leBytes 4 addr.toNat ++ leBytes 1 count ++ [0, 0, 0]) (Chip.readReg addr.toNat count)))

/-! ### WRITE_CMD: the answer and the bits -/

/-- The bits of MASK take VALUE, the others keep theirs (R19). -/
def merge (old value mask : Word) : Word := (old &&& ~~~mask) ||| (value &&& mask)

/-- A bit that the write covers and sets, or covers and clears. -/
def setsBit (k : Nat) (value mask : Word) : Bool := mask.getLsbD k && value.getLsbD k
def clearsBit (k : Nat) (value mask : Word) : Bool := mask.getLsbD k && !value.getLsbD k

/-- The answer carries the register as read after the write (R626). -/
def Chip.answerWritten (h : HostCmd) (a : Nat) (r : Result) (c : Chip) : Chip :=
  c.answer h r (leBytes 4 a ++ leBytes 4 (c.regWord .host a).toNat)

/-- The same of a write that Badger has made (R37). -/
def Chip.doneWritten (h : HostCmd) (a : Nat) (r : Result) (c : Chip) : Chip :=
  c.done h r (leBytes 4 a ++ leBytes 4 (c.regWord .host a).toNat)

/-- Badger applies a write in device SAFE and beneath a mode per group, and none in BOOT and in STANDBY held by a boot fault (R162); nor where
a failed BOOT holds its core in reset (R142), though a Class A fault has taken the device to SAFE (DEDUCED, log 120), a request of SHUTDOWN excepted
(R187). -/
def Chip.badgerApplies (c : Chip) : Bool := c.badgerRuns && (c.sys.dev == .perGroup || c.sys.dev == .safe)

/-! ### GRPn_REQ -/

/-- GRPn_REQ's address. -/
def reqAddr (g : Group) : Nat := 0x00058008 + 0x400 * g.val

/-- A write to the _REQ register of a group in SWEEP aborts the sweep (R183, R486); of a chain-wide sweep that another device originated this
device leaves at once (R487). -/
def Chip.leaveSweep (g : Group) (c : Chip) : Chip :=
  if (c.grp[g]).mode != .sweep || c.sweep.group != g || c.sweep.st == .idle then c
  else if c.sweep.chain && !c.sweep.orig then
    let c := c.abortSweep 1
    if c.decides g then c.changeMode g .regulate .sweepEnd else c
  else { c with sweep := { c.sweep with abortReq := c.sweep.abortReq ++ [1] } }.abortSweepGrant

/-- RUN_SEL has changed (R176): REGULATE and CHARGE change places, DERATED changes its law by a swap. -/
def Chip.runSelNow (g : Group) (c : Chip) : Chip :=
  let u := c.grp[g]
  if !c.decides g || u.ramping then c
  else if (u.mode == .regulate || u.mode == .charge) && u.mode != c.runMode g then c.changeMode g (c.runMode g) .runSel
  else if u.mode == .derated then c.present g [.chargeLaw u.runSel]
  else c

/-- The host has cleared ENABLE (R171, R184): a group in PRECHARGE is aborted, which races with its COMPLETE, and one in SOFTSTART or a running
mode stops. -/
def Chip.disableGroup (h : HostCmd) (g : Group) (c : Chip) : Chip :=
  let u := c.grp[g]
  if c.sys.dev != .perGroup || !c.decides g then c.doneWritten h (reqAddr g) .ok
  else if u.mode == .precharge then { c with host := { c.host with aborts := c.host.aborts ++ [(.precharge g, some h)] } }
  else if (u.mode == .softstart || isRunning u.mode) && !u.ramping then (c.beginStop g).doneWritten h (reqAddr g) .ok
  else c.doneWritten h (reqAddr g) .ok

/-- A write of GRPn_REQ as Badger applies it (R162, R163). -/
def Chip.writeReq (g : Group) (value mask : Word) (h : HostCmd) (c : Chip) : Chip :=
  if !c.badgerApplies then c.doneWritten h (reqAddr g) .wrongMode
  else if setsBit 1 value mask && !(c.grp[g]).cfg.chargeOk then c.doneWritten h (reqAddr g) .wrongMode
  else
    let c := c.leaveSweep g
    let run := (c.grp[g]).runSel
    let c := c.modGrp g (fun u =>
      { u with enable := if mask.getLsbD 0 then value.getLsbD 0 else u.enable, runSel := if mask.getLsbD 1 then value.getLsbD 1 else u.runSel })
    let c := if c.sys.dev == .perGroup && (c.grp[g]).runSel != run then c.runSelNow g else c
    if clearsBit 0 value mask then c.disableGroup h g
    else (if setsBit 0 value mask then c.tryStart g else c).doneWritten h (reqAddr g) .ok

/-! ### The other registers -/

/-- SETPT_Gn_HSEL's address. -/
def hselAddr (g : Group) : Nat := 0x00060080 + 0x100 * g.val

/-- A write of SETPT_Gn_HSEL: a host selection (R338, R339), granted to Badger. -/
def Chip.writeHsel (g : Group) (value mask : Word) (h : HostCmd) (c : Chip) : Chip :=
  let set := (merge (BitVec.ofNat 32 (c.grp[g]).hsel) value mask).toNat % 16
  if !c.badgerApplies then c.doneWritten h (hselAddr g) .wrongMode
  else if !(c.grp[g]).cfg.hostEn then c.doneWritten h (hselAddr g) .sourceDisabled
  else if mask.toNat % 16 = 0 then c.doneWritten h (hselAddr g) .ok
  else if !(c.setRec g set).defined then c.doneWritten h (hselAddr g) .setUndefined
  else ((((c.badgerFirst.grant 41 1).modGrp g (fun u => { u with hsel := set })).selection g set 2).1).doneWritten h (hselAddr g) .ok

/-- SYS_MODE_REQ's address. -/
def modeReqAddr : Nat := 0x00000018

/-- A write of SYS_MODE_REQ (R162, R188); while the Class A latch is set it starts SHUTDOWN in device SAFE whatever RESULT is (R187). -/
def Chip.writeModeReq (value mask : Word) (h : HostCmd) (c : Chip) : Chip :=
  if !c.badgerApplies && !(c.latched && c.sys.dev == .safe) then c.doneWritten h modeReqAddr .wrongMode
  else (if setsBit 0 value mask then c.requestShdn .host else c).doneWritten h modeReqAddr .ok

/-- A write of GAUGE_CMD (R564): carried to Hedgehog, and answered when the record is in the NV queue. -/
def Chip.writeGaugeCmd (value mask : Word) (h : HostCmd) (c : Chip) : Chip :=
  if !c.gauge.cfg.en then c.answerWritten h gaugeCmdAddr .sourceDisabled
  else if !setsBit 0 value mask then c.answerWritten h gaugeCmdAddr .ok
  else if c.nv.readOnly then c.answerWritten h gaugeCmdAddr .nvReadonly
  else c

/-- A block's STATUS address. -/
def statusAddr (b : Block) : Nat := 0x000A0000 + 0x100 * b.val

/-- A W1C write of STATUS.C, by Owl through an EVA event (R498, R626). -/
def Chip.writeStatus (b : Block) (value mask : Word) (h : HostCmd) (c : Chip) : Chip :=
  let c := if setsBit 28 value mask then
      (if (c.guards[b]).c then (c.grantAs 42 (guardInfo b .clear .c (c.guards[b]).cCode 0 false)).dropWarning b else c.grant 42 1)
    else c
  c.answerWritten h (statusAddr b) .ok

/-- SYS_RST_CAUSE's address. -/
def rstCauseAddr : Nat := 0x00000108

/-- A W1C write of SYS_RST_CAUSE.RST_STUCK (R626). -/
def Chip.writeRstCause (value mask : Word) (h : HostCmd) (c : Chip) : Chip :=
  let c := if setsBit 4 value mask then
      (let c := c.grant 42 1
       { c with sys := { c.sys with rstStuck := false } })
    else c
  c.answerWritten h rstCauseAddr .ok

/-- GRD_FI_CTL's address. -/
def fiCtlAddr : Nat := 0x000A7F10

/-- A write of GRD_FI_CTL (R527, R528): one that covers BLOCK injects. -/
def Chip.writeFiCtl (value mask : Word) (h : HostCmd) (c : Chip) : Chip :=
  if !c.sys.test then c.answerWritten h fiCtlAddr .accessDenied
  else
    let v := (merge (BitVec.ofNat 32 c.sys.fiCtl) value mask).toNat % 2 ^ 24
    if mask.toNat % 256 = 0 then { c with sys := { c.sys with fiCtl := v } }.answerWritten h fiCtlAddr .ok
    else
      let (c, good) := c.inject (v % 256) (v / 256 % 256) (v / 65536)
      c.answerWritten h fiCtlAddr (if good then .ok else .paramRange)

/-- The group whose register a base and stride give. -/
def groupReg (base stride a : Nat) : Option Group := if base ≤ a ∧ (a - base) % stride = 0 then under 4 ((a - base) / stride) else none

/-- What holds a field that a host may write (R18, R626). -/
inductive WriteTo where
  | modeReq
  | rstCause
  | fiCtl
  | gaugeCmd
  | req (g : Group)
  | hsel (g : Group)
  | status (b : Block)
deriving DecidableEq, Repr

/-- The writable register at an address. -/
def writableAt (a : Nat) : Option WriteTo :=
  if a = modeReqAddr then some .modeReq
  else if a = rstCauseAddr then some .rstCause
  else if a = fiCtlAddr then some .fiCtl
  else if a = gaugeCmdAddr then some .gaugeCmd
  else
    match groupReg 0x00058008 0x400 a, groupReg 0x00060080 0x100 a with
    | some g, _ => some (.req g)
    | none, some g => some (.hsel g)
    | none, none =>
      match (if 0x000A0000 ≤ a ∧ a % 0x100 = 0 then under 45 ((a - 0x000A0000) / 0x100) else none) with
      | some b => some (.status b)
      | none => none

/-- Badger makes the write (R37): of a group's or the device's request, or of a host selection. -/
def WriteTo.isBadgers : WriteTo → Bool
  | .modeReq => true
  | .req _ => true
  | .hsel _ => true
  | .rstCause => false
  | .fiCtl => false
  | .gaugeCmd => false
  | .status _ => false

/-- A write of a writable register. -/
def Chip.writeTo (k : WriteTo) (value mask : Word) (h : HostCmd) (c : Chip) : Chip :=
  match k with
  | .modeReq => c.writeModeReq value mask h
  | .rstCause => c.writeRstCause value mask h
  | .fiCtl => c.writeFiCtl value mask h
  | .gaugeCmd => c.writeGaugeCmd value mask h
  | .req g => c.writeReq g value mask h
  | .hsel g => c.writeHsel g value mask h
  | .status b => c.writeStatus b value mask h

/-- WRITE_CMD of any address (R18, R21, R33, R626): ACCESS_DENIED for a register with no field to write, in whatever domain; DOMAIN_OFF for
a writable one whose domain is down. -/
def Chip.writeReg (a : Nat) (value mask : Word) (h : HostCmd) (c : Chip) : Chip :=
  if !mapped a then c.answer h .addrInvalid (leBytes 4 a ++ leBytes 4 0)
  else
    match writableAt a with
    | none => c.answerWritten h a .accessDenied
    | some k => if c.regUp a then c.writeTo k value mask h else c.answer h .domainOff (leBytes 4 a ++ leBytes 4 0)

/-! ### The rows -/

/-- The body of WRITE_CMD (R624). -/
def writeBody (a : Nat) (value mask : Word) : List Byte := leBytes 4 a ++ leBytes 4 value.toNat ++ leBytes 4 mask.toNat

/-- WRITE_CMD to an address: Badger's writes pass to it over MBX_OB. -/
def Chip.hostWrite (h : HostRef) (a : Nat) (value mask : Word) (c : Chip) : Chip :=
  if (writableAt a).any WriteTo.isBadgers && c.regUp a then c.badgerCommand h 0x02 (writeBody a value mask) (Chip.writeReg a value mask)
  else c.hostCommand h 0x02 (writeBody a value mask) (Chip.writeReg a value mask)

def execWriteCmd (h : HostRef) (addr value mask : Word) (s : State) : Host.Outcome State Fault Refusal :=
  .next (s.onChip (Chip.hostWrite h addr.toNat value mask))

def execHostSetSelect (h : HostRef) (g : Group) (value mask : Word) (s : State) : Host.Outcome State Fault Refusal :=
  .next (s.onChip (Chip.hostWrite h (hselAddr g) value mask))

/-- GROUP_ENABLE: a write of GRPn_REQ that sets ENABLE. -/
def execGroupEnable (h : HostRef) (g : Group) (value mask : Word) (s : State) : Host.Outcome State Fault Refusal :=
  .next (s.onChip (fun c => if setsBit 0 value mask then c.hostWrite h (reqAddr g) value mask else c))

/-- GROUP_DISABLE: a write of GRPn_REQ that clears ENABLE. -/
def execGroupDisable (h : HostRef) (g : Group) (value mask : Word) (s : State) : Host.Outcome State Fault Refusal :=
  .next (s.onChip (fun c => if clearsBit 0 value mask then c.hostWrite h (reqAddr g) value mask else c))

/-- RUN_SEL_CHANGE: a write of GRPn_REQ that covers RUN_SEL. -/
def execRunSelChange (h : HostRef) (g : Group) (value mask : Word) (s : State) : Host.Outcome State Fault Refusal :=
  .next (s.onChip (fun c => if mask.getLsbD 1 then c.hostWrite h (reqAddr g) value mask else c))

def execShutdownRequest (h : HostRef) (value mask : Word) (s : State) : Host.Outcome State Fault Refusal :=
  .next (s.onChip (Chip.hostWrite h modeReqAddr value mask))

def execGaugeCmdSave (h : HostRef) (value mask : Word) (s : State) : Host.Outcome State Fault Refusal :=
  .next (s.onChip (Chip.hostWrite h gaugeCmdAddr value mask))

def execWarningClear (h : HostRef) (b : Block) (value mask : Word) (s : State) : Host.Outcome State Fault Refusal :=
  .next (s.onChip (Chip.hostWrite h (statusAddr b) value mask))

def execFaultInject (h : HostRef) (value mask : Word) (s : State) : Host.Outcome State Fault Refusal :=
  .next (s.onChip (Chip.hostWrite h fiCtlAddr value mask))

end Sys2Proof.Machine
end

