-- ==== Sys2Proof/Machine/Lcmd.lean ====
section
/-!
DEFINITION. The load-command ports (R350 to R359): the frame checks, the heartbeat, the four-frame queue and what Badger does
with a queued frame.
-/

namespace Sys2Proof.Machine

/-- The type code is known, reserved bits and bytes are zero, and the fields lie in their ranges (R353, R354). -/
def frameFormatOk (f : List Byte) : Bool :=
  decide (numAt f 3 1 / 16 % 4 = 0) &&
  match frameType f with
  | 1 => decide (frameLead f ≤ 500) && decide (frameRamp f ≤ 1000)
  | 2 => decide (numAt f 4 1 ≤ 15) && decide (numAt f 5 1 = 0) && decide (numAt f 6 4 = 0)
  | 3 => true
  | _ => false

/-- Why a frame is rejected (R354). -/
inductive FrameCheck where
  | crc
  | id
  | fmt
  | dup
  | ok
deriving DecidableEq, Repr

/-- The checks of R354, in their order. -/
def LcmdUnit.check (u : LcmdUnit) (f : List Byte) : FrameCheck :=
  if crc16 (f.take 10) ≠ BitVec.ofNat 16 (numAt f 10 1 * 256 + numAt f 11 1) then .crc
  else if numAt f 1 1 ≠ u.cfg.driveId then .id
  else if !frameFormatOk f then .fmt
  else if u.last = some f then .dup
  else .ok

/-- The port's books after a frame (R354 to R356). -/
def LcmdUnit.receive (f : List Byte) (te : Nat) (u : LcmdUnit) : LcmdUnit :=
  match u.check f with
  | .crc => { u with crc := satInc 0xFFFF u.crc }
  | .id => { u with idErr := satInc 0xFFFF u.idErr }
  | .fmt => { u with fmt := satInc 0xFFFF u.fmt }
  | .dup => { u with dup := satInc 0xFFFF u.dup }
  | .ok =>
    let u := { u with ok := u.ok + 1, last := some f, lastSeq := numAt f 2 1 }
    if frameType f = 3 then { u with alive := true, hbAt := te, hb := bytesAt f 4 6 }
    else if 4 ≤ u.queue.length then { u with ovf := satInc 0xFFFF u.ovf }
    else { u with queue := u.queue ++ [⟨f, te⟩] }

/-- HB_LAPSE at its grant (R355, R367). -/
def Chip.hbLapse (p : LcmdPort) (c : Chip) : Chip :=
  if (c.lcmd[p]).lapseReq then
    let c := (c.grant 37 (p.val + 1)).modLcmd p (fun u => { u with lapseReq := false, aliveG := false })
    let c := allGroups.foldl (Chip.cancelPort p) c
    c.warn lcmdBlock 0x53 p.val
  else c

def execHbLapse (p : LcmdPort) (s : State) : Host.Outcome State Fault Refusal := .next (s.onChip (Chip.hbLapse p))

/-- HB_ALIVE at its grant, after a lapse of the port that was reported before it (R62, R355). -/
def Chip.hbAlive (p : LcmdPort) (c : Chip) : Chip :=
  ((c.hbLapse p).grant 37 (p.val + 1)).modLcmd p (fun u => { u with aliveG := true })

/-- The start byte of a frame (R351). -/
def frameStart : Byte := 0xA5

/-- A frame whose last stop bit ended at tick `t` (R351, R354). Bytes that do not begin with the start byte are no frame, and a port without EN
discards its input uncounted (R369). -/
def Chip.lcmdFrame (p : LcmdPort) (f : List Byte) (t : Nat) (c : Chip) : Chip :=
  if !c.ctrlUp || !c.outOfBoot || !(c.lcmd[p]).cfg.en || f.head? != some frameStart then c
  else
    let c := c.elapseTo t
    let good := (c.lcmd[p]).check f == .ok
    let woke := good && decide (frameType f = 3) && !(c.lcmd[p]).alive
    let c := c.modLcmd p (LcmdUnit.receive f t)
    let c := if good then c.count 27 1 else c
    if woke then c.hbAlive p else c

def execForecast (p : LcmdPort) (frame : List Byte) (t : Nat) (s : State) : Host.Outcome State Fault Refusal :=
  .next (s.onChip (Chip.lcmdFrame p frame t))

def execVreq (p : LcmdPort) (frame : List Byte) (t : Nat) (s : State) : Host.Outcome State Fault Refusal :=
  .next (s.onChip (Chip.lcmdFrame p frame t))

def execHeartbeat (p : LcmdPort) (frame : List Byte) (t : Nat) (s : State) : Host.Outcome State Fault Refusal :=
  .next (s.onChip (Chip.lcmdFrame p frame t))

/-- LCMD_FRAME_ABANDON: a gap or a bad stop bit (R351). -/
def Chip.lcmdAbandon (p : LcmdPort) (gap : Bool) (c : Chip) : Chip :=
  if !c.ctrlUp || !c.outOfBoot || !(c.lcmd[p]).cfg.en then c
  else c.modLcmd p (fun u => if gap then { u with gap := satInc 0xFFFF u.gap } else { u with framing := satInc 0xFFFF u.framing })

def execLcmdFrameAbandon (p : LcmdPort) (gap : Bool) (s : State) : Host.Outcome State Fault Refusal :=
  .next (s.onChip (Chip.lcmdAbandon p gap))

/-- HEARTBEAT_TIMEOUT: HB_TIMEOUT since the last HEARTBEAT (R355). -/
def Chip.heartbeatTimeout (p : LcmdPort) (c : Chip) : Chip :=
  let u := c.lcmd[p]
  if u.alive && decide (u.hbAt + u.cfg.hbTimeout * tkMs ≤ c.tb.count) then
    c.modLcmd p (fun u => { u with alive := false, lapseReq := true })
  else c

def execHeartbeatTimeout (p : LcmdPort) (s : State) : Host.Outcome State Fault Refusal :=
  .next (s.onChip (Chip.heartbeatTimeout p))

/-- A frame names a group that the port may address and that the device carries, or a spanning group (R358). -/
def Chip.addresses (c : Chip) (p : LcmdPort) (g : Group) : Bool :=
  (c.lcmd[p]).cfg.groups.testBit g.val && (!(c.phasesOf g).isEmpty || (c.sett.groups[g]).span)

/-- Badger denies a frame (R358). -/
def LcmdUnit.deny (u : LcmdUnit) : LcmdUnit := { u with denied := satInc 0xFFFF u.denied }

/-- What Badger does with a queued frame (R357 to R362). -/
def Chip.takeFrame (p : LcmdPort) (f : LcmdFrame) (c : Chip) : Chip :=
  let u := c.lcmd[p]
  let g := frameGroup f.bytes
  let k := (c.grp[g]).cfg
  if c.sys.dev = .shutdown then c
  else if !u.aliveG then c.modLcmd p (fun u => { u with orphan := satInc 0xFFFF u.orphan })
  else if !c.addresses p g then c.modLcmd p LcmdUnit.deny
  else if frameType f.bytes = 2 then
    let set := numAt f.bytes 4 1
    if !k.vreqEn || !u.cfg.vreqMask.testBit set then c.modLcmd p LcmdUnit.deny
    else
      let r := c.selection g set (4 + p.val)
      if r.2 then r.1 else r.1.modLcmd p LcmdUnit.deny
  else if !actsOnForecast (c.grp[g]).mode then c.modLcmd p LcmdUnit.deny
  else if c.isMember g then
    c.sendFlit (c.sett.groups[g]).leaderAddr.val (.fcastFwd p f.bytes (c.chainAt f.te))
  else c.actForecast g p c.sett.addr f.bytes f.te

/-- LCMD_RX at its grant, after a lapse of the port that was reported before it (R62): Badger takes the oldest queued frame (R356). -/
def Chip.lcmdRx (p : LcmdPort) (c : Chip) : Chip :=
  match (c.lcmd[p]).queue with
  | [] => c
  | f :: rest => (((c.hbLapse p).grant 37 (p.val + 1)).modLcmd p (fun u => { u with queue := rest })).takeFrame p f

def execLcmdRx (p : LcmdPort) (s : State) : Host.Outcome State Fault Refusal := .next (s.onChip (Chip.lcmdRx p))

end Sys2Proof.Machine
end

