-- ==== Sys2Proof/Machine/Power.lean ====
section
/-!
DEFINITION. The supply monitors' commands (chapter 2 of the spec): VIN, VHOLD, the rails and the calendar oscillator, ride-through, power
loss, and the start and the end of SHUTDOWN.
-/

namespace Sys2Proof.Machine

/-- The supply monitors hold one request at EVA (R62): the SHDN_START that they have asked for is granted before their next event. -/
def Chip.supplyFirst (c : Chip) : Chip :=
  match c.sys.shdnReq.find? (fun k => shdnInput k == 44) with
  | some k => c.shdnBegin k
  | none => c

/-- A change of state that a supply monitor reports (R63, R686). -/
def Chip.supplyEvent (f : SysUnit → SysUnit) (c : Chip) : Chip :=
  let c := c.supplyFirst
  { c with sys := f c.sys }.grant 44 1

/-- The VHOLD charger runs (R86), pausing through a ride-through (R104). -/
def Chip.charging (c : Chip) : Bool := c.powered && c.sys.rails && !c.sys.charged && !c.sys.vinWarn && !c.sys.ride && !c.sys.holdup

/-! ### VIN -/

/-- VIN_LOW (R103): ride-through begins; a fall within a ride-through begins none (R106). -/
def Chip.vinLow (c : Chip) : Chip :=
  if !c.powered || c.sys.vinWarn then c
  else if c.sys.ride then { c with sys := { c.sys with vinWarn := true } }
  else ({ c with sys := { c.sys with vinWarn := true, ride := true } }).warn sysBlock 0x42 0xFF

def execVinLow (s : State) : Host.Outcome State Fault Refusal := .next (s.onChip Chip.vinLow)

/-- VIN_WARN_RECOVERY_CROSSING (R105, R86). -/
def Chip.vinRecovered (c : Chip) : Chip :=
  if c.powered && c.sys.vinWarn then c.supplyEvent (fun u => { u with vinWarn := false }) else c

def execVinWarnRecoveryCrossing (s : State) : Host.Outcome State Fault Refusal := .next (s.onChip Chip.vinRecovered)

/-- RIDE_THROUGH_RECOVERY (R105, R557). -/
def Chip.rideRecovered (c : Chip) : Chip :=
  if c.powered && c.sys.ride && !c.sys.rideLimit && !c.sys.vinWarn then
    ((c.supplyEvent (fun u => { u with ride := false, dips := u.dips + 1 })).bump 9 1).occasionWaiting
  else c

def execRideThroughRecovery (s : State) : Host.Outcome State Fault Refusal := .next (s.onChip Chip.rideRecovered)

/-- RIDE_THROUGH_LIMIT (R106): SHDN_START is requested; in BOOT, or with RST_N low, the ride-through goes on until BOOT_DONE requests it (R690). -/
def Chip.rideLimitReached (c : Chip) : Chip :=
  if !c.powered || !c.sys.ride || c.sys.rideLimit then c
  else if c.sys.dev = .boot then { c with sys := { c.sys with rideLimit := true } }
  else ({ c with sys := { c.sys with ride := false } }).requestShdn .ride

def execRideThroughLimit (s : State) : Host.Outcome State Fault Refusal := .next (s.onChip Chip.rideLimitReached)

/-- VIN_HIGH (R82). -/
def Chip.vinHighRise (c : Chip) : Chip :=
  if c.powered && !c.sys.vinHigh then ({ c with sys := { c.sys with vinHigh := true } }).warn sysBlock 0x41 0xFF else c

def execVinHigh (s : State) : Host.Outcome State Fault Refusal := .next (s.onChip Chip.vinHighRise)

/-- VIN_HIGH_RELEASE (R84): what CONDITION_GONE of VIN_OVER reads. -/
def Chip.vinHighFall (c : Chip) : Chip :=
  if c.powered && c.sys.vinHigh then c.supplyEvent (fun u => { u with vinHigh := false }) else c

def execVinHighRelease (s : State) : Host.Outcome State Fault Refusal := .next (s.onChip Chip.vinHighFall)

/-- VIN_OVER (R83). -/
def Chip.vinOver (c : Chip) : Chip := if c.powered && c.sys.vinHigh then c.faultB sysBlock 0x27 0xFF else c

def execVinOver (s : State) : Host.Outcome State Fault Refusal := .next (s.onChip Chip.vinOver)

/-- What hold-up stops at once (R94, R604, R645): the outputs, the trace port, the CAN ports' place on the bus, and the training of a Sett port; one that is
UP goes DOWN with its LINK_DOWN. -/
def Chip.holdupActive (c : Chip) : Chip :=
  let c := (c.stopAll .now).supplyEvent (fun u => { u with holdup := true, ride := false, shdnHold := true, holdOkAtStart := u.vholdOk })
  { c with trace := { c.trace with running := false }
           sett := { c.sett with ports := vmap c.sett.ports (fun p => if p.st = .training then { p with st := .down } else p) }
           host := { c.host with ports := vmap c.host.ports (fun p => { p with st := .off }) } }

/-- POWER_LOSS (R108, R109, R195): in BOOT the device goes to OFF, once an NV operation in progress has completed on VHOLD (R97); in SHUTDOWN the
sequence goes on in hold-up; elsewhere SHUTDOWN is requested. With RST_N held low after BOOT the spec names no mode: the model takes it as BOOT, so the device
goes to OFF with no SHUTDOWN (DESIGN CHOICE, log 134). -/
def Chip.powerLoss (c : Chip) : Chip :=
  if c.sys.dev = .off ∨ c.sys.holdup then c
  else if c.sys.dev = .boot then (if c.nv.op.isSome then c.holdupActive else c.toOff)
  else
    let c := c.supplyFirst.holdupActive
    if c.sys.dev = .shutdown then c.shdnOnHold else c.requestShdn .powerLoss

def execPowerLoss (s : State) : Host.Outcome State Fault Refusal := .next (s.onChip Chip.powerLoss)

/-! ### VHOLD, rails and the oscillator -/

/-- VHOLD_OK_CROSSING (R91): groups may start at the first rise. -/
def Chip.vholdCross (above : Bool) (c : Chip) : Chip :=
  if c.powered && c.sys.vholdOk != above then
    let first := above && !c.sys.vholdSeen
    let c := c.supplyEvent (fun u => { u with vholdOk := above, vholdSeen := u.vholdSeen || above })
    if first then c.tryStarts else c
  else c

def execVholdOkCrossing (above : Bool) (s : State) : Host.Outcome State Fault Refusal := .next (s.onChip (Chip.vholdCross above))

/-- VHOLD_FLOOR (R90): hold-up ends. -/
def Chip.vholdFloor (c : Chip) : Chip := if c.sys.holdup then c.toOff else c

def execVholdFloor (s : State) : Host.Outcome State Fault Refusal := .next (s.onChip Chip.vholdFloor)

/-- VHOLD_CHARGE_END (R86). -/
def Chip.chargeEnd (c : Chip) : Chip := if c.charging then { c with sys := { c.sys with charged := true } } else c

def execVholdChargeEnd (s : State) : Host.Outcome State Fault Refusal := .next (s.onChip Chip.chargeEnd)

/-- HOLDUP_CHECK_12V_CROSSING (R92): the timed charge ends after `ns` of charging. -/
def Chip.capCrossing (ns : Nat) (c : Chip) : Chip :=
  if c.charging && c.sys.capTiming then
    ({ c with sys := { c.sys with capTiming := false, capEst := some (capOf ns) } }).writeCap
  else c

def execHoldupCheck12vCrossing (ns : Nat) (s : State) : Host.Outcome State Fault Refusal := .next (s.onChip (Chip.capCrossing ns))

/-- SUPPLY_COLLAPSE (R88, R501): RAILS_OK clears, and with it REF_RDY of the VDDA reference (R272), whose users REF_LOST then stops. When a rail comes
back into its band, the spec does not say that RAILS_OK returns: it stays 0 until step 2 of the next BOOT (DESIGN CHOICE, log 131). -/
def Chip.supplyCollapse (_ : Rail) (c : Chip) : Chip :=
  if c.powered && c.sys.rails && !c.sys.holdup then
    let c := { c with sys := { c.sys with railBad := true } }
    c.raiseA sysBlock 0x04 0xFF 0 false
  else c

def execSupplyCollapse (r : Rail) (s : State) : Host.Outcome State Fault Refusal := .next (s.onChip (Chip.supplyCollapse r))

/-- RTC_OSC_LOST (R78, R594). -/
def Chip.rtcLost (c : Chip) : Chip :=
  if c.powered && c.cal.osc then ({ c with cal := { c.cal with osc := false, coarse := true } }).warn sysBlock 0x40 0xFF else c

def execRtcOscLost (s : State) : Host.Outcome State Fault Refusal := .next (s.onChip Chip.rtcLost)

/-- RTC_OSC_BACK (R78): supply timing returns to the crystal; COARSE stays until a CAL_SET (R594). -/
def Chip.rtcBack (c : Chip) : Chip := if c.powered then { c with cal := { c.cal with osc := true } } else c

def execRtcOscBack (s : State) : Host.Outcome State Fault Refusal := .next (s.onChip Chip.rtcBack)

/-! ### SHUTDOWN -/

def execShdnStart (k : ShdnCause) (s : State) : Host.Outcome State Fault Refusal := .next (s.onChip (Chip.shdnBegin k))

/-- SHUTDOWN_END (R190, R110, R119, R192): OFF after a hold-up, otherwise BOOT, which waits for RST_N. -/
def Chip.shutdownEnd (b : BootInput) (c : Chip) : Chip :=
  if c.sys.dev = .shutdown ∧ c.sys.shdn = .over then
    if c.sys.shdnHold then c.toOff
    else if c.sys.rstLow then { c.resetDomains with sys := { c.resetDomains.sys with rstLow := true } }
    else c.startBoot (if c.sys.rstSeen then .pin else .reboot) b
  else c

def execShutdownEnd (b : BootInput) (s : State) : Host.Outcome State Fault Refusal := .next (s.onChip (Chip.shutdownEnd b))

end Sys2Proof.Machine
end

