-- ==== Sys2Proof/Machine/Span.lean ====
section
/-!
DEFINITION. Spanning groups (chapter 9 of the spec, R197 to R200, R342, R362): the leader's share data, reports, orders, and the loss of the leader.
-/

namespace Sys2Proof.Machine

/-- Chain time passes a multiple of `period` plus `offset`, in TK, at tick `t`. -/
def Chip.passes (c : Chip) (t period offset : Nat) : Bool :=
  let k (x : Int) : Int := (x - 128 * (offset : Int)) / (128 * (period : Int))
  decide (0 < period) && decide (k (c.chainAt128 (t - 1)) < k (c.chainAt128 t))

/-! ### SHARE (R438, R439) -/

/-- The group record of a SHARE. -/
def Chip.shareRec (c : Chip) (g : Group) : ShareRec :=
  let u := c.grp[g]
  let e := c.voltEngine g
  let y : Int := match e with
    | some e => (c.le[e]).yOut / 16
    | none => 0
  let acts := match e with
    | some e => c.engineActs e
    | none => false
  { present := c.isLeader g, iref := signedOf 16 ((y % 65536).toNat), mode := u.mode, set := c.setpt.active[g].set % 256, healthy := c.healthyAll g % 256, valid := acts }

/-- SHARE_SEND: each time chain time passes a multiple of SHARE_INT, out of BOOT and not in power-loss SHUTDOWN. CT is that of the trigger of the voltage
engine's last evaluation: the latest of the groups led. -/
def Chip.shareSend (t : Nat) (c : Chip) : Chip :=
  let led := allGroups.filter c.isLeader
  if c.chained && !led.isEmpty && !c.sys.holdup && c.passes t c.sett.shareInt 0 then
    let c := c.elapseTo t
    let trig := led.foldl (fun m g => max m (match c.voltEngine g with
      | some e => (c.le[e]).evalAt
      | none => 0)) 0
    let ct := c.chainAt trig
    let recs : Vector ShareRec 4 := Vector.ofFn (fun g => if c.isLeader g then c.shareRec g else ⟨false, 0, .off, 0, 0, false⟩)
    let c := led.foldl (fun c g => c.modSg g (fun s => { s with iref := (recs[g]).iref, irefCt := ct, irefHas := true })) c
    c.broadcast (.share ⟨ct, recs⟩)
  else c

def execShareSend (t : Nat) (s : State) : Host.Outcome State Fault Refusal := .next (s.onChip (Chip.shareSend t))

/-- A member's group takes its leader's record; IREF_RX is requested for a valid one. -/
def SettGroup.takeShare (ct now : Nat) (r : ShareRec) (s : SettGroup) : SettGroup :=
  { s with iref := r.iref, irefCt := ct, irefHas := true, irefPend := if r.valid then some r.iref else s.irefPend, shareAt := some now
           leaderOk := true, healthy := r.healthy, leadMode := r.mode }

/-- SHARE delivered. A record of a group is its sender's claim to lead it (R446; DEDUCED, log 148); a member whose start has ended takes its leader's mode
(R465). -/
def Chip.shareIn (f : FlitHdr) (r : SharePay) (c : Chip) : Chip :=
  let d := c.receive f (.share r)
  if d.2 then
    let claims := allGroups.foldl (fun n g => if (r.recs[g]).present then n + 2 ^ g.val else n) 0
    allGroups.foldl (fun c g =>
      if c.isMember g && (r.recs[g]).present && (c.sett.groups[g]).leaderAddr == f.src && !(c.sett.peers[f.src]).safe then
        (c.modSg g (SettGroup.takeShare r.ct c.tb.count (r.recs[g]))).joinStarted g
      else c) (d.1.modPeer f.src (fun p => { p with leads := claims }))
  else d.1

def execShare (f : FlitHdr) (r : SharePay) (s : State) : Host.Outcome State Fault Refusal := .next (s.onChip (Chip.shareIn f r))

/-- IREF_RX: the engine may use the newest IREF from its next evaluation (R324, R439). -/
def Chip.irefRx (g : Group) (c : Chip) : Chip :=
  match (c.sett.groups[g]).irefPend with
  | some v => (c.grant 36 1).modSg g (fun s => { s with irefUse := v, irefPend := none })
  | none => c

def execIrefRx (g : Group) (s : State) : Host.Outcome State Fault Refusal := .next (s.onChip (Chip.irefRx g))

/-! ### REPORT (R440, R441) -/

/-- The group record of a REPORT: a group held by a Class B fault counts no healthy phase. -/
def Chip.reportRec (c : Chip) (g : Group) : ReportRec :=
  let u := c.grp[g]
  { assigned := (c.phasesOf g).length, healthy := if c.groupFaulted g then 0 else c.healthy g, switching := (c.counting g).length
    onLocal := u.conv.onLocal, droop := (c.sett.groups[g]).droop, safe := u.mode == .safe, iMean := c.meanCurrent g
    pAvg := toF32 u.conv.pAvg.avg }

/-- REPORT_SEND: each time chain time passes a multiple of 24 000 TK plus 2400 TK times the address. -/
def Chip.reportSend (t : Nat) (c : Chip) : Chip :=
  if c.chained && c.passes t 24000 (2400 * c.sett.addr.val) then
    let c := c.elapseTo t
    c.broadcast (.report (Vector.ofFn (fun g => c.reportRec g)))
  else c

def execReportSend (t : Nat) (s : State) : Host.Outcome State Fault Refusal := .next (s.onChip (Chip.reportSend t))

/-- Phases assigned to a group on the reachable devices (SETT_Gg_COUNT.ASSIGNED). -/
def Chip.assignedReach (c : Chip) (g : Group) : Nat :=
  (List.finRange 8).foldl (fun n a =>
    if a ≠ c.sett.addr ∧ c.reachable a ∧ (c.sett.peers[a]).reportAt.isSome then n + ((c.sett.peers[a]).reports[g]).assigned else n)
    (c.phasesOf g).length

/-- A leader counts again (R441, R407). -/
def Chip.leaderCount (g : Group) (c : Chip) : Chip :=
  if c.isLeader g then
    let h := c.healthyAll g
    let a := c.assignedReach g
    (c.modSg g (fun s => { s with healthy := h, assigned := a })).judgeHealth g
  else c

/-- A leader counts its groups again. -/
def Chip.leaderCounts (c : Chip) : Chip := allGroups.foldl (fun c g => c.leaderCount g) c

/-- A leader whose group runs takes a device that has come back, and does not switch, through the start modes (R465). -/
def Chip.orderRejoin (a : Address) (known : Bool) (g : Group) (c : Chip) : Chip :=
  let r := (c.sett.peers[a]).reports[g]
  if c.isLeader g && isRunning (c.grp[g]).mode && !known && decide (0 < r.healthy) && r.switching == 0 && !r.safe && !r.droop then
    c.sendFlit a.val (.modeOrder g (if (c.grp[g]).cfg.preEn then .precharge else .softstart) .enable (c.sett.groups[g]).s0)
  else c

/-- REPORT delivered. A device in Class A SAFE reports every group in SAFE. -/
def Chip.reportIn (f : FlitHdr) (t : Nat) (r : Vector ReportRec 4) (c : Chip) : Chip :=
  if !c.chained then c
  else
    let c := c.elapseTo t
    let knew (g : Group) : Bool := c.deviceCounts g f.src
    let d := c.receive f (.report r)
    if d.2 then
      let known : Vector Bool 4 := Vector.ofFn knew
      let c := d.1.modPeer f.src (fun p => { p with reports := r, reportAt := some d.1.tb.count, safe := p.safe && r.toList.all (·.safe) })
      let c := allGroups.foldl (fun c g => c.orderRejoin f.src known[g] g) c
      c.leaderCounts.refreshTopo
    else d.1

def execReport (f : FlitHdr) (t : Nat) (r : Vector ReportRec 4) (s : State) : Host.Outcome State Fault Refusal :=
  .next (s.onChip (Chip.reportIn f t r))

/-- DEVICE_UNREACHABLE: no flit from a device for 48 000 TK (R440): leaders count again, and the head rebuilds. -/
def Chip.deviceGone (a : Address) (c : Chip) : Chip :=
  match (c.sett.peers[a]).heard with
  | some t =>
    if c.chained && decide (t + 48000 < c.tb.count) then
      (c.modPeer a (fun p => { p with heard := none })).leaderCounts.refreshTopo
    else c
  | none => c

def execDeviceUnreachable (a : Address) (s : State) : Host.Outcome State Fault Refusal := .next (s.onChip (Chip.deviceGone a))

/-! ### Claims and losses (R443, R446, R455, R456) -/

/-- LEAD_CLAIM delivered: the leadership is recorded, and a duplicate is a mismatch (R446). -/
def Chip.leadClaimIn (f : FlitHdr) (groups : Nat) (c : Chip) : Chip :=
  c.deliver3 f (.leadClaim groups) (fun c =>
    let c := c.modPeer f.src (fun p => { p with leads := groups })
    allGroups.foldl (fun c g => c.judgeClaims false g) c)

def execLeadClaim (f : FlitHdr) (groups : Nat) (s : State) : Host.Outcome State Fault Refusal :=
  .next (s.onChip (Chip.leadClaimIn f groups))

/-- LEADER_TIMEOUT: no SHARE for LEADER_TO = 3 × SHARE_INT + 4800 TK (R455). -/
def Chip.leaderTimeout (g : Group) (c : Chip) : Chip :=
  let s := c.sett.groups[g]
  match s.shareAt with
  | some t =>
    if c.isMember g && s.leaderOk && decide (t + 3 * c.sett.shareInt + 4800 ≤ c.tb.count) then
      c.modSg g (fun s => { s with leaderOk := false, lostReq := true })
    else c
  | none => c

def execLeaderTimeout (g : Group) (s : State) : Host.Outcome State Fault Refusal := .next (s.onChip (Chip.leaderTimeout g))

/-- LEADER_LOST at its grant (R200, R325, R456): droop fallback in a running mode; a start ends in STANDBY; elsewhere the group stays and waits for an
order. The leader's phase floor ends with it (R388). -/
def Chip.leaderLost (g : Group) (c : Chip) : Chip :=
  if (c.sett.groups[g]).lostReq then
    let c := c.modSg g (fun s => { s with lostReq := false, leaderOk := false, ordered := false, startDone := false, floor := 0 })
    let c := (c.topoGrant 36 6 g.val).modGrp g (fun u => { u with floor := 0 })
    let m := (c.grp[g]).mode
    let c := if c.sys.dev ≠ .perGroup then c
      else if isRunning m then
        let c := if m = .sweep then c.abortSweepOf g 3 else c
        (c.modSg g (fun s => { s with droop := true })).changeMode g .derated .leaderLost
      else if m = .precharge ∨ m = .softstart then c.changeMode g .standby .leaderLost
      else c
    let c := c.refreshBounds g
    { c with setpt := c.setpt.joined }
  else c

def execLeaderLost (g : Group) (s : State) : Host.Outcome State Fault Refusal := .next (s.onChip (Chip.leaderLost g))

/-- DEVICE_SAFE delivered: the device counts no more, and a leader is lost (R441, R443, R455). -/
def Chip.deviceSafeIn (f : FlitHdr) (c : Chip) : Chip :=
  c.deliver3 f .deviceSafe (fun c =>
    let c := c.modPeer f.src (fun p => { p with safe := true })
    let c := allGroups.foldl (fun c g =>
      let s := c.sett.groups[g]
      if c.isMember g && s.leaderAddr == f.src && s.leaderOk then c.modSg g (fun s => { s with leaderOk := false, lostReq := true }) else c) c
    c.leaderCounts)

def execDeviceSafe (f : FlitHdr) (s : State) : Host.Outcome State Fault Refusal := .next (s.onChip (Chip.deviceSafeIn f))

/-- PHASE_LOST delivered at the leader: the member's phases of the group are unavailable (R198, R407). -/
def Chip.phaseLostIn (f : FlitHdr) (g : Group) (c : Chip) : Chip :=
  c.deliver3 f (.phaseLost g) (fun c =>
    (c.modPeer f.src (fun p => { p with reports := vmod p.reports g (fun r => { r with safe := true, healthy := 0 }) })).leaderCount g)

def execPhaseLost (f : FlitHdr) (g : Group) (s : State) : Host.Outcome State Fault Refusal := .next (s.onChip (Chip.phaseLostIn f g))

/-! ### The leader's orders (R197, R342, R442, R464, R465) -/

/-- A flit from the leader of a group that this device is a member of. -/
def Chip.fromLeader (c : Chip) (f : FlitHdr) (g : Group) : Bool := c.isMember g && (c.sett.groups[g]).leaderAddr == f.src

/-- What a member keeps of an order: a start may be followed until the leader orders STANDBY or SAFE (R165, R197). -/
def SettGroup.takeOrder (m : Mode) (s0 : Nat) (s : SettGroup) : SettGroup :=
  let start := m == .precharge || m == .softstart
  { s with leadMode := m, s0 := if start then s0 else s.s0, ordered := start || (s.ordered && m != .standby && m != .safe)
           startDone := s.startDone && isRunning m }

/-- A member enters the mode that its leader orders (R197): a start from STANDBY where R165 allows it; SAFE only ends once its own faults have; a member
in droop fallback stays there until RESUME (R464). An order that R201 does not list from the member's mode moves nothing; a member that starts takes the
leader's running mode when its own start ends (R465). -/
def Chip.followOrder (g : Group) (m : Mode) (k : Cause) (s0 : Nat) (c : Chip) : Chip :=
  let u := c.grp[g]
  let start := m == .precharge || m == .softstart
  let c := c.modSg g (SettGroup.takeOrder m s0)
  if c.sys.dev ≠ .perGroup ∨ u.mode = m then c
  else if u.mode = .standby then (if start && c.mayStart g then c.changeMode g m k else c)
  else if u.mode = .safe then (if m = .standby && !c.groupFaulted g then c.changeMode g .standby k else c)
  else if m = .safe then c.groupToSafe g
  else if (c.sett.groups[g]).droop && m != .standby then c
  else if isRunning m && (u.mode == .precharge || u.mode == .softstart) then c.joinStarted g
  else if listed u.mode m then c.changeMode g m k
  else c

/-- MODE_ORDER delivered at a member. -/
def Chip.modeOrderIn (f : FlitHdr) (g : Group) (m : Mode) (k : Cause) (s0 : Nat) (c : Chip) : Chip :=
  c.deliver3 f (.modeOrder g m k s0) (fun c => if c.fromLeader f g then c.followOrder g m k s0 else c)

def execModeOrder (f : FlitHdr) (g : Group) (m : Mode) (c : Cause) (s0 : Nat) (s : State) : Host.Outcome State Fault Refusal :=
  .next (s.onChip (Chip.modeOrderIn f g m c s0))

/-- SET_ORDER delivered at a member: the leader's set (R342), if it is defined (R339); a sweep of the group is aborted first (R341). -/
def Chip.setOrderIn (f : FlitHdr) (g : Group) (set : Fin 16) (c : Chip) : Chip :=
  c.deliver3 f (.setOrder g set.val) (fun c =>
    if c.fromLeader f g && (c.setRec g set.val).defined then
      (if (c.grp[g]).mode = .sweep then c.abortSweepOf g 6 else c).select g set.val 3 c.eva.seq
    else c)

def execSetOrder (f : FlitHdr) (g : Group) (set : Fin 16) (s : State) : Host.Outcome State Fault Refusal :=
  .next (s.onChip (Chip.setOrderIn f g set))

/-- SEL_FWD delivered at the leader: a selection event (R342). -/
def Chip.selFwdIn (f : FlitHdr) (g : Group) (set : Fin 16) (src : Nat) (c : Chip) : Chip :=
  c.deliver3 f (.selFwd g set.val src) (fun c => if c.isLeader g then (c.selection g set.val src).1 else c)

def execSelFwd (f : FlitHdr) (g : Group) (set : Fin 16) (src : Nat) (s : State) : Host.Outcome State Fault Refusal :=
  .next (s.onChip (Chip.selFwdIn f g set src))

/-- FCAST_FWD delivered at the leader, its t_e in chain time (R362). -/
def Chip.fcastFwdIn (f : FlitHdr) (p : LcmdPort) (frame : List Byte) (te : Nat) (c : Chip) : Chip :=
  c.deliver3 f (.fcastFwd p frame te) (fun c =>
    let g := frameGroup frame
    if c.isLeader g && actsOnForecast (c.grp[g]).mode then c.actForecast g p f.src frame (c.localOf te) else c)

def execFcastFwd (f : FlitHdr) (p : LcmdPort) (frame : List Byte) (te : Nat) (s : State) : Host.Outcome State Fault Refusal :=
  .next (s.onChip (Chip.fcastFwdIn f p frame te))

/-- PH_FLOOR delivered: this device's share raises its own PH_MIN (R442). -/
def Chip.phFloorIn (f : FlitHdr) (g : Group) (floor : Nat) (c : Chip) : Chip :=
  c.deliver3 f (.phFloor g floor) (fun c =>
    if c.fromLeader f g then
      ((c.modSg g (fun s => { s with floor := floor % 256 })).modGrp g (fun u => { u with floor := floor })).refreshBounds g
    else c)

def execPhFloor (f : FlitHdr) (g : Group) (floor : Nat) (s : State) : Host.Outcome State Fault Refusal :=
  .next (s.onChip (Chip.phFloorIn f g floor))

/-- RESUME delivered: a member leaves droop fallback with bank 0 in one swap (R464); the mode follows with the leader's order. -/
def Chip.resumeIn (f : FlitHdr) (g : Group) (c : Chip) : Chip :=
  let d := c.receive f (.resume g)
  if d.2 then
    let c := d.1.topoGrant 36 7 g.val
    if c.fromLeader f g && (c.sett.groups[g]).droop then
      (c.modSg g (fun s => { s with droop := false, leaderOk := true, ordered := true, shareAt := some c.tb.count })).present g [.bank 0]
    else c
  else d.1

def execResume (f : FlitHdr) (g : Group) (s : State) : Host.Outcome State Fault Refusal := .next (s.onChip (Chip.resumeIn f g))

end Sys2Proof.Machine
end

