-- ==== Sys2Proof/Machine/Telemetry.lean ====
section
/-!
DEFINITION. Telemetry over the host port: TELEM_GET (R629 to R631), TELEM_SUB and its limits (R632), and the streams (R633).
-/

namespace Sys2Proof.Machine

/-! ### Items (R631) -/

/-- Bytes of an item's record after its code; none for a code that names no item. -/
def itemSize (code : Nat) : Option Nat :=
  if code < 4 then some 44
  else if 0x10 ≤ code ∧ code < 0x28 then some 8
  else if 0x40 ≤ code ∧ code < 0x58 then some 8
  else if code = 0x60 then some 28
  else none

/-- The four bytes of a single-precision value. -/
def f32Bytes (x : Rat) : List Byte := leBytes 4 (toF32 x).toNat

/-- A group's record; MODE and PG are read as the snapshot is opened. -/
def Chip.groupItem (c : Chip) (s : Snapshot) (g : Group) : List Byte :=
  let x := s.groups[g]
  [x.vAvg, x.iAvg, x.pAvg, x.tMax, x.vPk.hi, x.vPk.lo, x.iPk.hi, x.iPk.lo, x.pPk.hi, x.pPk.lo].flatMap f32Bytes ++
  [BitVec.ofNat 8 (modeCode (c.grp[g]).mode), BitVec.ofNat 8 x.tel, BitVec.ofNat 8 ((bit (c.pgHigh g)).toNat), BitVec.ofNat 8 x.gv]

/-- A phase's record. -/
def phaseItem (s : Snapshot) (p : Phase) : List Byte :=
  let x := s.phases[p]
  f32Bytes x.1 ++ [BitVec.ofNat 8 x.2.1, BitVec.ofNat 8 ((bit x.2.2).toNat), 0, 0]

/-- An auxiliary slot's record. -/
def auxItem (s : Snapshot) (k : Slot) : List Byte :=
  let x := s.aux[k]
  f32Bytes x.1 ++ [BitVec.ofNat 8 (x.2.toNat / 2 ^ 29), 0, 0, 0]

/-- The gauge's record. -/
def gaugeItem (s : Snapshot) : List Byte :=
  let x := s.gauge
  leBytes 2 x.soc ++ leBytes 2 x.soh ++ [x.rc, x.fcc, x.i, x.v, x.t].flatMap f32Bytes ++ leBytes 2 x.stat ++ [0, 0]

/-- An item's record; zero before the first PUBLISH (R631). -/
def Chip.itemRecord (c : Chip) (s : Snapshot) (code : Nat) : List Byte :=
  let body :=
    if !s.valid then List.replicate ((itemSize code).getD 0) 0
    else if code < 4 then c.groupItem s (Fin.ofNat 4 code)
    else match under 24 (code - 0x10), under 24 (code - 0x40) with
      | some p, _ => if code < 0x10 then [] else phaseItem s p
      | none, some k => if code < 0x40 then [] else auxItem s k
      | none, none => gaugeItem s
  [BitVec.ofNat 8 code, 0, 0, 0] ++ body

/-- The length of a TELEM_GET answer body. -/
def telemSize (items : List Nat) : Nat := items.foldl (fun n k => n + 4 + (itemSize k).getD 0) 4

/-- The items are 1 to 16 codes of R631. -/
def itemsOk (items : List Nat) : Bool := decide (1 ≤ items.length) && decide (items.length ≤ 16) && items.all (fun k => (itemSize k).isSome)

/-- Owl opens the published snapshot, reads every item from it and closes it (R629). -/
def Chip.readItems (items : List Nat) (c : Chip) : List Byte × Chip :=
  let c := c.openSnap .owl
  let u := c.snap
  let s := if u.pub then u.bufB else u.bufA
  let body := leBytes 2 u.gen.toNat ++ [BitVec.ofNat 8 items.length, 0] ++ items.flatMap (c.itemRecord s)
  (body, c.closeSnap .owl)

/-- The items of one snapshot (R629): where the CLOSE returns STALE, they are read again from the snapshot then published (R630). -/
def Chip.telemBody (items : List Nat) (c : Chip) : List Byte × Chip :=
  let (body, c) := c.readItems items
  if (c.snap.answer[coreIdx .owl]).2.2 then c.readItems items else (body, c)

/-! ### TELEM_GET -/

/-- TELEM_GET (R629). -/
def Chip.telemGet (items : List Nat) (h : HostCmd) (c : Chip) : Chip :=
  if !itemsOk items || decide (480 < telemSize items) then c.answer h .paramRange []
  else
    let (body, c) := c.telemBody items
    c.answer h .ok body

/-- Item codes as bytes. -/
def itemBytes (items : List Nat) : List Byte := items.map (BitVec.ofNat 8)

def execTelemGet (h : HostRef) (items : List Nat) (s : State) : Host.Outcome State Fault Refusal :=
  .next (s.onChip (Chip.hostCommand h 0x03 ([BitVec.ofNat 8 items.length, 0, 0, 0] ++ itemBytes items) (Chip.telemGet items)))

/-! ### Streams (R632) -/

/-- Bytes that one message of `n` body bytes charges: each frame's full data field, and 4 bytes of frame header per frame. -/
def chargedBytes (fd : Bool) (n : Nat) : Nat :=
  let k := framesOf fd n
  let per := if fd then 60 else 4
  (k - 1) * (per + 4) + dataField (n - (k - 1) * per + 4) + 4 * k

/-- Bytes per second that a stream charges to a port. -/
def streamRate (u : CanUnit) (items : List Nat) (periodMs : Nat) : Rat :=
  (chargedBytes u.fd (4 + telemSize items) : Rat) * 1000 / (periodMs : Rat)

/-- What the running streams other than `s` charge to a port. -/
def HostUnit.chargedBy (h : HostUnit) (p : CanPort) (s : Fin 8) : Rat :=
  (List.finRange 8).foldl (fun a k =>
    match h.streams[k] with
    | some x => if k ≠ s ∧ x.ports.testBit p.val then a + streamRate h.ports[p] x.items x.periodMs else a
    | none => a) 0

/-- The ports of a request: 0 is the port of the command. -/
def portsOf (r : SubReq) (own : CanPort) : Nat := if r.ports = 0 then 2 ^ own.val else r.ports

/-- A whole number of bytes per second: the rate, or where that is no integer one of its neighbours (the spec gives no rounding). -/
def wholeRate (draw : Nat) (x : Rat) : Nat := (x.floor + if x = x.floor ∨ !Config.openBool 60 draw then 0 else 1).toNat

/-- TELEM_SUB (R632). -/
def Chip.telemSub (r : SubReq) (h : HostCmd) (c : Chip) : Chip :=
  match under 8 r.stream with
  | none => c.answer h .paramRange []
  | some s =>
    if r.prio < 1 ∨ 7 < r.prio ∨ 3 < r.ports ∨ !itemsOk r.items ∨ 480 < 4 + telemSize r.items then c.answer h .paramRange []
    else if r.periodMs = 0 then
      { c with host := { c.host with streams := c.host.streams.set s none } }.answer h .ok (leBytes 4 r.stream ++ leBytes 4 0)
    else
      let u := c.host
      let ports := portsOf r h.ref.port
      let named := (List.finRange 2).filter (fun p => ports.testBit p.val)
      let rate (p : CanPort) : Rat := streamRate u.ports[p] r.items r.periodMs
      if u.streamMax ≤ r.stream ∨ r.periodMs < u.streamMin ∨
          named.any (fun p => decide ((u.streamBps : Rat) < u.chargedBy p s + rate p)) then c.answer h .streamLimit []
      else
        let (seq, c) := c.draw 61
        let c := { c with host := { c.host with streams := c.host.streams.set s (some ⟨r.prio, r.periodMs, ports, r.items, BitVec.ofNat 16 seq, c.tb.count⟩) } }
        let charge := named.foldl (fun a p => if a < rate p then rate p else a) 0
        c.answer h .ok (leBytes 4 r.stream ++ leBytes 4 (wholeRate c.draws charge))

/-- The body of TELEM_SUB (R624). -/
def subBody (r : SubReq) : List Byte :=
  leBytes 1 r.stream ++ leBytes 1 r.prio ++ leBytes 2 r.periodMs ++ leBytes 1 r.ports ++ [BitVec.ofNat 8 r.items.length, 0, 0] ++ itemBytes r.items

def execTelemSub (h : HostRef) (r : SubReq) (s : State) : Host.Outcome State Fault Refusal :=
  .next (s.onChip (Chip.hostCommand h 0x04 (subBody r) (Chip.telemSub r)))

/-- TELEM_STREAM: a period of a stream has ended; SEQ counts it whether or not its frames can be sent (R632, R633). -/
def Chip.telemStream (k : Fin 8) (c : Chip) : Chip :=
  match c.host.streams[k] with
  | none => c
  | some x =>
    let next := x.at_ + x.periodMs * tkMs
    let c := if next ≤ c.tb.count then
        { c with host := { c.host with streams := c.host.streams.set k (some { x with seq := x.seq + 1, at_ := next }) } }
      else c
    if c.isUp .owl && decide (next ≤ c.tb.count) then
      let (body, c) := c.telemBody x.items
      let body := leBytes 2 k.val ++ leBytes 2 x.seq.toNat ++ body
      (List.finRange 2).foldl (fun c p => if x.ports.testBit p.val then c.unsolicited p x.prio 0x43 body else c) c
    else c

def execTelemStream (stream : Fin 8) (s : State) : Host.Outcome State Fault Refusal := .next (s.onChip (Chip.telemStream stream))

end Sys2Proof.Machine
end

