-- ==== Sys2Proof/Machine/Timebase.lean ====
section
/-!
DEFINITION. The timebase's states, the frequency limiter and error (R203 to R217), and REF_RDY of the converter references
(R272 to R276).
-/

namespace Sys2Proof.Machine

/-- Change the timebase, where the CTRL domain is up. -/
def Chip.onTb (f : Timebase → Timebase) (c : Chip) : Chip := { c with tb := f c.tb }

/-- A device that estimates chain time includes the change of its own timebase's frequency, as it is commanded (R432): the estimate goes on from its present value
with the new rate, and the mean of the epochs begins again. How far the frequency moves is open: a free value. -/
def Chip.rateChange (c : Chip) : Chip :=
  match c.sett.baseAt with
  | none => c
  | some _ =>
    let r := c.draw 34
    let now := c.chainTime128
    let t := c.tb.count
    r.2.onSett (fun u => { u with
      rate := clampInt (-(2 ^ 31)) (2 ^ 31 - 1) (u.rate + signedOf 32 r.1), ctOfs := now - 128 * (t : Int), baseAt := some t
      epochs := [(now.toNat, t)] })

/-- A change of the timebase's state, which it reports to EVA (R63, R686). -/
def Chip.tbChange (f : Timebase → Timebase) (c : Chip) : Chip := (c.rateChange.onTb f).grant 33 1

/-- TB_LOCK (R208): ACQUIRE becomes LOCKED, and TB_NOREF clears by itself (R125); the groups that waited for the lock start (R165). -/
def Chip.tbLock (c : Chip) : Chip :=
  if c.ctrlUp && c.tb.st == .acquire then
    ((c.tbChange (fun t => { t with st := .locked, holdover := false })).autoClear tbBlock 0x29).tryStarts
  else c

def execTbLock (s : State) : Host.Outcome State Fault Refusal := .next (s.onChip Chip.tbLock)

/-- A reference loss in the timebase (R209, R213): the state it leads to; none where it was lost already. -/
def TbState.lost : TbState → Option TbState
  | .locked => some .holdover
  | .relock => some .holdover
  | .acquire => some .freerun
  | .holdover => none
  | .freerun => none

/-- REFERENCE_LOST (R209, R213). -/
def Chip.referenceLost (c : Chip) : Chip :=
  match c.tb.st.lost with
  | some st =>
    if c.ctrlUp then
      (c.tbChange (fun t => { t with st := st, holdover := t.holdover || st == .holdover, refPresent := false
                                     losses := t.losses + 1 })).warn tbBlock 0x48 0xFF
    else c
  | none => c

def execReferenceLost (s : State) : Host.Outcome State Fault Refusal := .next (s.onChip Chip.referenceLost)

/-- REFERENCE_QUALIFIED (R211): HOLDOVER moves to RELOCK, FREERUN to ACQUIRE. -/
def Timebase.qualified (t : Timebase) : Timebase :=
  match t.st with
  | .holdover => { t with st := .relock, refPresent := true }
  | .freerun => { t with st := .acquire, refPresent := true }
  | .acquire => t
  | .locked => t
  | .relock => t

def Chip.referenceQualified (c : Chip) : Chip :=
  if c.ctrlUp && (c.tb.st == .holdover || c.tb.st == .freerun) then c.tbChange Timebase.qualified else c

def execReferenceQualified (s : State) : Host.Outcome State Fault Refusal := .next (s.onChip Chip.referenceQualified)

/-- RELOCK_COMPLETE (R212); the groups that waited for it start (R165, R207). -/
def Chip.relockComplete (c : Chip) : Chip :=
  if c.ctrlUp && c.tb.st == .relock then
    ((c.tbChange (fun t => { t with st := .locked, holdover := false, relocks := t.relocks + 1 })).warn tbBlock 0x49 0xFF).tryStarts
  else c

def execRelockComplete (s : State) : Host.Outcome State Fault Refusal := .next (s.onChip Chip.relockComplete)

/-- TB_LIMIT (R216): a suppressed tick is counted in ACQUIRE, FREERUN and RELOCK; elsewhere, and where no tick appears, the
Class A fault is raised. -/
def Chip.tbLimit (suppressed : Bool) (c : Chip) : Chip :=
  if !c.ctrlUp then c
  else if suppressed && (c.tb.st == .acquire || c.tb.st == .freerun || c.tb.st == .relock) then
    c.onTb (fun t => { t with limCnt := satInc 0xFFFFFFFF t.limCnt, limitSeen := true })
  else c.raiseA tbBlock 0x02 0xFF 0 false

def execTbLimit (suppressed : Bool) (s : State) : Host.Outcome State Fault Refusal :=
  .next (s.onChip (Chip.tbLimit suppressed))

/-- TB_FERR_MEASURE (R603): the frequency error in ppm; an error that the 16-bit field cannot hold shows an open value. -/
def Chip.ferrMeasure (ppm : Int) (c : Chip) : Chip :=
  if c.ctrlUp then
    if -32768 ≤ ppm ∧ ppm ≤ 32767 then c.onTb (fun t => { t with ferr := ppm })
    else
      let (v, c) := c.draw 1
      c.onTb (fun t => { t with ferr := signedOf 16 v })
  else c

def execTbFerrMeasure (ppm : Int) (s : State) : Host.Outcome State Fault Refusal := .next (s.onChip (Chip.ferrMeasure ppm))

/-! ### Converter references -/

/-- REF_RDY of a reference, by its field value (R272). -/
def RefUnit.setReady (r : RefSel) (v : Bool) (u : RefUnit) : RefUnit :=
  match r with
  | .internal => { u with int_ := v }
  | .external => { u with ext_ := v }
  | .vdda => { u with vdda := v }

/-- The REF field of a reference. -/
def refCode : RefSel → Nat
  | .internal => 0
  | .external => 1
  | .vdda => 2

/-- REF_READY (R272): that of VDDA is the setting of RAILS_OK. The groups that waited for the reference start (R165, R275). -/
def Chip.refGain (r : RefSel) (c : Chip) : Chip :=
  if c.ctrlUp && (r != .vdda || c.railsOk) then ({ c with refs := c.refs.setReady r true }).tryStarts else c

def execRefReady (r : RefSel) (s : State) : Host.Outcome State Fault Refusal := .next (s.onChip (Chip.refGain r))

/-- The groups that a lost reference takes to SAFE (R276): outside STANDBY and SAFE, using it for voltage or phase conversions. -/
def Chip.refUsers (c : Chip) (r : RefSel) : List Group :=
  c.ownGroups.filter (fun g =>
    let m := (c.grp[g]).mode
    m != .standby && m != .safe && m != .boot && m != .off &&
    ((c.grp[g]).cfg.refSel == refCode r || c.refs.refPh == refCode r))

/-- REF_RDY of a reference may go (R272): the internal one never loses it once set, and VDDA only with RAILS_OK. -/
def Chip.refMayGo (c : Chip) : RefSel → Bool
  | .internal => false
  | .external => c.refs.ext_
  | .vdda => c.refs.vdda && !c.railsOk

/-- REF_LOST (R272, R276). -/
def Chip.refLoss (r : RefSel) (c : Chip) : Chip :=
  if !c.refMayGo r ∨ !c.ctrlUp then c
  else
    let users := c.refUsers r
    let u := c.refs.setReady r false
    let c := { c with refs := { u with losses := if r = .external then satInc 7 u.losses else u.losses } }
    users.foldl (fun c g => c.faultB adcBlock 0x22 g.val) c

def execRefLost (r : RefSel) (s : State) : Host.Outcome State Fault Refusal := .next (s.onChip (Chip.refLoss r))

end Sys2Proof.Machine
end

