-- ==== Sys2Proof/Machine/Update.lean ====
section
/-!
DEFINITION. Firmware updates (R635 to R640), the host's ABORT (R627), and the grants of COMPLETE and ABORT (R69, R70).
-/

namespace Sys2Proof.Machine

/-! ### The session (R637, R638) -/

/-- Bytes of the longest package (R635). -/
def packageMax : Nat := 1040384

/-- The bank that an update writes: the inactive one, in the recovery service the one not booted last (R637). -/
def Chip.updTarget (c : Chip) : Bool := if c.sys.result == .codeCorrupt then !c.code.last else !c.sys.bank

/-- A bank's content. -/
def CodeUnit.setMem (u : CodeUnit) (b : Bool) (m : Memory) : CodeUnit := if b then { u with bank1 := m } else { u with bank0 := m }

/-- UPD_BEGIN (R637): the target bank is erased, and a swap still to come cancelled, which is a bank-state write (R152, R640). -/
def Chip.updBegin (length : Nat) (h : HostCmd) (c : Chip) : Chip :=
  let b := c.updTarget
  if c.sys.result != .codeCorrupt && (c.code.info c.sys.bank).trial && (c.code.info b).confirmed then c.answer h .bankTrial []
  else if length % 256 ≠ 0 ∨ packageMax < length then c.answer h .paramRange []
  else
    { c with
      code := (c.code.changeState { c.code.setMem b [] with swap := none }).eraseOther
      host := { c.host with updOpen := true, updDone := false, updBank := b, updLen := length, updBytes := 0, updMap := [] } }.answer h .ok
      [BitVec.ofNat 8 (bit b).toNat, 0, 0, 0]

def execUpdBegin (h : HostRef) (length : Nat) (s : State) : Host.Outcome State Fault Refusal :=
  .next (s.onChip (Chip.hostCommand h 0x10 (leBytes 4 length ++ [0, 0, 0, 0]) (Chip.updBegin length)))

/-- The ranges of offsets programmed, disjoint and rising, with one more range. -/
def addSpan (lo hi : Nat) : List (Nat × Nat) → List (Nat × Nat)
  | [] => [(lo, hi)]
  | (a, b) :: rest =>
    if hi < a then (lo, hi) :: (a, b) :: rest
    else if b < lo then (a, b) :: addSpan lo hi rest
    else addSpan (min lo a) (max hi b) rest

/-- An offset has been programmed in the session. -/
def HostUnit.programmed (u : HostUnit) (a : Nat) : Bool := u.updMap.any (fun s => decide (s.1 ≤ a ∧ a < s.2))

/-- Every byte that the session has programmed already is the same as the new one (R638). -/
def Chip.sameBytes (off : Nat) (data : List Byte) (c : Chip) : Bool :=
  let m := c.code.bankMem c.host.updBank
  (data.zipIdx off).all (fun x => !c.host.programmed x.2 || memRead erased m x.2 == x.1)

/-- UPD_DATA (R638). -/
def Chip.updData (off : Nat) (data : List Byte) (h : HostCmd) (c : Chip) : Chip :=
  if off % 8 ≠ 0 ∨ data.length % 8 ≠ 0 ∨ data.length < 8 ∨ 472 < data.length then c.answer h .paramRange []
  else if !c.host.updOpen || c.host.updDone then c.answer h .updNoSession []
  else if c.host.updLen < off + data.length then c.answer h .paramRange []
  else if !c.sameBytes off data then c.answer h .updOverlap []
  else
    let b := c.host.updBank
    let spans := addSpan off (off + data.length) c.host.updMap
    let n := spans.foldl (fun n s => n + (s.2 - s.1)) 0
    { c with
      code := c.code.setMem b (memWriteBytes erased (c.code.bankMem b) off data)
      host := { c.host with updMap := spans, updBytes := n } }.answer h .ok (leBytes 4 n)

def execUpdData (h : HostRef) (offset : Nat) (data : List Byte) (s : State) : Host.Outcome State Fault Refusal :=
  .next (s.onChip (Chip.hostCommand h 0x11 (leBytes 4 offset ++ data) (Chip.updData offset data)))

/-! ### The commit (R639, R640) -/

/-- Layout, digest and signature of each image in turn; the first failure (R635, R636, R639). -/
def checkImages (m : Memory) (len : Nat) : Nat → List Nat → List FwImage → Except Result (List FwImage)
  | _, [], fs => .ok fs
  | off, kind :: rest, fs =>
    let f := fwAt m off
    if !f.valid kind || decide (len < off + f.size) || (rest.isEmpty && off + f.size != len) || !f.digestOk m then .error .updFormat
    else if !Config.signatureValid (sha256 (f.hdr.take 64)) (bytesAt f.hdr 64 64) then .error .updSignature
    else checkImages m len (off + f.size) rest (fs ++ [f])

/-- The checks of UPD_COMMIT: the first failure, or CFG_WARN and SETID (R639). -/
def Chip.commitCheck (c : Chip) : Except Result (Bool × Nat) :=
  let u := c.host
  if !u.updOpen then .error .updNoSession
  else if u.updDone then .error .alreadyDone
  else if u.updBytes ≠ u.updLen then .error .updIncomplete
  else
    match checkImages (c.code.bankMem u.updBank) u.updLen 0 [1, 2, 3] [] with
    | .error r => .error r
    | .ok fs =>
      if !sameSet fs || !runsOn fs c.sys.rev then .error .updCompat
      else
        .ok (!takesCfgVer fs c.sys.cfgVer, match fs with
          | f :: _ => f.setId
          | [] => 0)

/-- UPD_COMMIT (R639): every check passed, it requests COMPLETE, and its answer waits. -/
def Chip.updCommit (h : HostCmd) (c : Chip) : Chip :=
  match c.commitCheck with
  | .error r => c.answer h r []
  | .ok w => { c with host := { c.host with commitReq := some w, commitDone := false } }

def execUpdCommit (h : HostRef) (s : State) : Host.Outcome State Fault Refusal := .next (s.onChip (Chip.hostCommand h 0x12 [] Chip.updCommit))

/-- The UPD_COMMIT that waits for its answer. -/
def Chip.commitCmd (c : Chip) : Option HostCmd := c.host.pending.find? (fun h => h.type == 0x12)

/-- The waiting UPD_COMMIT is answered. -/
def Chip.answerCommit (r : Result) (body : List Byte) (c : Chip) : Chip :=
  match c.commitCmd with
  | some h => c.answer h r body
  | none => c

/-- BANK_STATE_WRITE (R152, R639): it follows COMPLETE and waits while a ride-through is in progress; the swap is set, and the commit answered. -/
def Chip.bankStateWrite (c : Chip) : Chip :=
  match c.code.writeReq, c.host.commitReq with
  | some b, some (warn, setId) =>
    if c.sys.ride then c
    else
      let c := { c with
        code := ({ c.code.setInfo b {} with swap := some b, writeReq := none } : CodeUnit).writeState.eraseOther
        host := { c.host with updDone := true, commitReq := none, commitDone := false } }
      c.answerCommit .ok ([BitVec.ofNat 8 (bit b).toNat, BitVec.ofNat 8 (bit warn).toNat, 0, 0] ++ leBytes 4 setId)
  | _, _ => c

def execBankStateWrite (s : State) : Host.Outcome State Fault Refusal := .next (s.onChip Chip.bankStateWrite)

/-! ### ABORT of the host (R627) -/

/-- The ABORT waits for its grant. -/
def Chip.askAbort (o : Operation) (h : HostCmd) (c : Chip) : Chip := { c with host := { c.host with aborts := c.host.aborts ++ [(o, some h)] } }

/-- A user write with the tag waits in the NV queue. -/
def NvUnit.queuedTag (u : NvUnit) (tag : Nat) : Bool := u.queue.any (fun k => k.userTag == some tag)

/-- The operation in progress is the user write with the tag, and can still be aborted. -/
def NvUnit.openTag (u : NvUnit) (tag : Nat) : Bool :=
  match u.op with
  | some o => o.kind.userTag == some tag && !o.complete && !o.aborted
  | none => false

/-- A command of a type and tag that waits in HOST_RX. -/
def HostUnit.waitingCmd (u : HostUnit) (tag type : Nat) : Option HostCmd := u.rx.find? (fun h => h.ref.tag == tag && h.type == type)

/-- A command of a type and tag whose answer is made or given (R627). -/
def HostUnit.wasAnswered (u : HostUnit) (tag type : Nat) : Bool :=
  u.answers.any (fun a => a.1.ref.tag == tag && a.1.type == type) || u.answered.contains (tag, type)

/-- ABORT (R627). -/
def Chip.hostAbort (tag type : Nat) (h : HostCmd) (c : Chip) : Chip :=
  if type ≠ 0x09 ∧ type ≠ 0x12 then c.answer h .paramRange []
  else if type = 0x09 ∧ (c.nv.queuedTag tag ∨ c.nv.openTag tag) ∧ (c.writeCmdOf tag).isSome then c.askAbort .nvWrite h
  else if type = 0x12 ∧ (c.commitCmd.map (·.ref.tag)) = some tag ∧ c.host.commitReq.isSome ∧ !c.host.commitDone then c.askAbort .commit h
  else if c.host.pending.any (fun x => x.type == type && x.ref.tag == tag) then (c.grant 42 1).answer h .alreadyDone []
  else
    match c.host.waitingCmd tag type with
    | some x =>
      let c := c.grant 42 1
      (({ c with host := { c.host with rx := c.host.rx.erase x } }).refuse x .aborted).answer h .ok []
    | none => c.answer h (if c.host.wasAnswered tag type then .alreadyDone else .tagUnknown) []

def execAbort (h : HostRef) (tag type : Nat) (s : State) : Host.Outcome State Fault Refusal :=
  .next (s.onChip (Chip.hostCommand h 0x0E (leBytes 2 tag ++ [BitVec.ofNat 8 type, 0]) (Chip.hostAbort tag type)))

/-! ### The race (R69, R70) -/

/-- COMPLETE of an NV write at its grant (R572): an ABORT of it that is still to be granted comes late (R69). -/
def Chip.completeNv (c : Chip) : Chip := c.nvComplete

/-- The end of PRECHARGE moves the group on (R169): at the device that decides its mode, and at a member whose leader is past PRECHARGE, as a
running leader takes a rejoining member through the start modes (R465). -/
def Chip.preMoves (c : Chip) (g : Group) : Bool :=
  c.decides g || (c.sett.groups[g]).leadMode == .softstart || isRunning (c.sett.groups[g]).leadMode

/-- COMPLETE of PRECHARGE at its grant (R169, R171): SOFTSTART follows, and a group whose ENABLE has been cleared then stops. -/
def Chip.completePre (g : Group) (c : Chip) : Chip :=
  let u := c.grp[g]
  if u.mode == .precharge && u.preReq && !u.preDone then
    let late := c.host.aborts.any (fun a => a.1 == .precharge g)
    let c := (c.grant (28 + g.val) 1).modGrp g (fun u => { u with preReq := false, preDone := true, preWon := late })
    let c := if c.preMoves g then c.changeMode g .softstart .preDone else c
    if late && c.decides g && !(c.grp[g]).enable && (c.grp[g]).mode == .softstart then c.beginStop g else c
  else c

/-- COMPLETE of a commit at its grant (R639): the bank-state write follows. -/
def Chip.completeCommit (c : Chip) : Chip :=
  if c.host.commitReq.isSome && !c.host.commitDone then
    let c := c.grant 42 1
    { c with host := { c.host with commitDone := true }, code := { c.code with writeReq := some c.host.updBank } }
  else c

/-- COMPLETE (R69). -/
def Chip.completeOp (o : Operation) (c : Chip) : Chip :=
  match o with
  | .sweep => c.completeSweep
  | .nvWrite => c.completeNv
  | .precharge g => c.completePre g
  | .commit => c.completeCommit

def execComplete (o : Operation) (s : State) : Host.Outcome State Fault Refusal := .next (s.onChip (Chip.completeOp o))

/-- The oldest abort of an operation leaves. -/
def Chip.takeAbort (o : Operation) (c : Chip) : Option (Option HostCmd × Chip) :=
  match c.host.aborts.find? (fun a => a.1 == o) with
  | some a => some (a.2, { c with host := { c.host with aborts := c.host.aborts.erase a } })
  | none => none

/-- The command that asked is answered, if it has not been discarded. -/
def Chip.answerTo (h : Option HostCmd) (r : Result) (c : Chip) : Chip :=
  match h with
  | some h => c.answer h r []
  | none => c

/-- ABORT of an NV user write at its grant (R70, R573): it leaves the queue, or its record stays uncommitted. -/
def Chip.abortNv (c : Chip) : Chip :=
  match c.takeAbort .nvWrite with
  | none => c
  | some (h, c) =>
    let c := c.grant 42 1
    match h with
    | none => c
    | some a =>
      let tag := a.target
      if c.nv.queuedTag tag then
        let c := { c with nv := { c.nv with queue := c.nv.queue.filter (fun k => k.userTag != some tag) } }
        (c.answer a .ok []).answerWrite tag .aborted []
      else if c.nv.openTag tag then
        let c := { c with nv := { c.nv with op := c.nv.op.map (fun (o : NvOp) => { o with aborted := true }) } }
        (c.answer a .ok []).answerWrite tag .aborted []
      else c.answer a .alreadyDone []

/-- ABORT of PRECHARGE at its grant (R70, R171): a group still in PRECHARGE returns to STANDBY; granted after COMPLETE it changes nothing (R69). -/
def Chip.abortPre (g : Group) (c : Chip) : Chip :=
  match c.takeAbort (.precharge g) with
  | none => c
  | some (h, c) =>
    let c := c.badgerFirst.grant 41 1
    let early := !(c.grp[g]).preWon && !(c.grp[g]).preDone
    let c := c.modGrp g (fun u => { u with preWon := false })
    let c := if early && (c.grp[g]).mode == .precharge then c.changeMode g .standby .disable else c
    match h with
    | some a => c.doneWritten a (reqAddr g) (if early then .ok else .alreadyDone)
    | none => c

/-- ABORT of a commit at its grant (R70, R640): no swap is set, and the session stays open. -/
def Chip.abortCommit (c : Chip) : Chip :=
  match c.takeAbort .commit with
  | none => c
  | some (h, c) =>
    let c := c.grant 42 1
    if c.host.commitReq.isSome && !c.host.commitDone then
      let c := { c with host := { c.host with commitReq := none } }
      (c.answerTo h .ok).answerCommit .aborted []
    else c.answerTo h .alreadyDone

/-- ABORT_GRANT (R70). -/
def Chip.abortOp (o : Operation) (c : Chip) : Chip :=
  match o with
  | .sweep => c.abortSweepGrant
  | .nvWrite => c.abortNv
  | .precharge g => c.abortPre g
  | .commit => c.abortCommit

def execAbortGrant (o : Operation) (s : State) : Host.Outcome State Fault Refusal := .next (s.onChip (Chip.abortOp o))

end Sys2Proof.Machine
end

