-- ==== Sys2Proof/Machine/Dispatch.lean ====
section
/-!
DEFINITION. `exec`: one arm per command, each a direct call of that command's meaning.
-/

namespace Sys2Proof.Machine

def exec (i : Instr) (s : State) : Host.Outcome State Fault Refusal :=
  match i with
  | .powerOnResetRelease b => Sys2Proof.Machine.execPowerOnResetRelease b s
  | .bootDone periods => Sys2Proof.Machine.execBootDone periods s
  | .rstNAssert => Sys2Proof.Machine.execRstNAssert s
  | .rstNRelease b => Sys2Proof.Machine.execRstNRelease b s
  | .rstStuck => Sys2Proof.Machine.execRstStuck s
  | .vinLow => Sys2Proof.Machine.execVinLow s
  | .rideThroughRecovery => Sys2Proof.Machine.execRideThroughRecovery s
  | .rideThroughLimit => Sys2Proof.Machine.execRideThroughLimit s
  | .vinHigh => Sys2Proof.Machine.execVinHigh s
  | .vinHighRelease => Sys2Proof.Machine.execVinHighRelease s
  | .vinOver => Sys2Proof.Machine.execVinOver s
  | .powerLoss => Sys2Proof.Machine.execPowerLoss s
  | .vholdOkCrossing above => Sys2Proof.Machine.execVholdOkCrossing above s
  | .vholdFloor => Sys2Proof.Machine.execVholdFloor s
  | .supplyCollapse r => Sys2Proof.Machine.execSupplyCollapse r s
  | .rtcOscLost => Sys2Proof.Machine.execRtcOscLost s
  | .rtcOscBack => Sys2Proof.Machine.execRtcOscBack s
  | .enableFalling => Sys2Proof.Machine.execEnableFalling s
  | .enableRising => Sys2Proof.Machine.execEnableRising s
  | .vselChange v => Sys2Proof.Machine.execVselChange v s
  | .tripAssert p => Sys2Proof.Machine.execTripAssert p s
  | .tripDeassert p => Sys2Proof.Machine.execTripDeassert p s
  | .phTrip p => Sys2Proof.Machine.execPhTrip p s
  | .shootReq p high => Sys2Proof.Machine.execShootReq p high s
  | .tbLock => Sys2Proof.Machine.execTbLock s
  | .referenceLost => Sys2Proof.Machine.execReferenceLost s
  | .referenceQualified => Sys2Proof.Machine.execReferenceQualified s
  | .relockComplete => Sys2Proof.Machine.execRelockComplete s
  | .tbLimit suppressed => Sys2Proof.Machine.execTbLimit suppressed s
  | .refReady r => Sys2Proof.Machine.execRefReady r s
  | .refLost r => Sys2Proof.Machine.execRefLost r s
  | .phasePeriodStart p t o => Sys2Proof.Machine.execPhasePeriodStart p t o s
  | .phOpen p => Sys2Proof.Machine.execPhOpen p s
  | .diagWindowLapse p => Sys2Proof.Machine.execDiagWindowLapse p s
  | .firingSlot g t o => Sys2Proof.Machine.execFiringSlot g t o s
  | .groupPeriodStart g t => Sys2Proof.Machine.execGroupPeriodStart g t s
  | .balPass g => Sys2Proof.Machine.execBalPass g s
  | .phState p => Sys2Proof.Machine.execPhState p s
  | .phaseTrigger p k t => Sys2Proof.Machine.execPhaseTrigger p k t s
  | .phaseConversionDone p code => Sys2Proof.Machine.execPhaseConversionDone p code s
  | .groupVoltageTrigger g t => Sys2Proof.Machine.execGroupVoltageTrigger g t s
  | .groupFreeRun g t => Sys2Proof.Machine.execGroupFreeRun g t s
  | .groupConversionDone g code commonModeOk => Sys2Proof.Machine.execGroupConversionDone g code commonModeOk s
  | .grpOv g => Sys2Proof.Machine.execGrpOv g s
  | .grpOvWarn g => Sys2Proof.Machine.execGrpOvWarn g s
  | .senseLost g => Sys2Proof.Machine.execSenseLost g s
  | .senseBack g => Sys2Proof.Machine.execSenseBack g s
  | .pgFilter g => Sys2Proof.Machine.execPgFilter g s
  | .auxConversion => Sys2Proof.Machine.execAuxConversion s
  | .auxConversionDone code dieTemp => Sys2Proof.Machine.execAuxConversionDone code dieTemp s
  | .ffVinUpdate e => Sys2Proof.Machine.execFfVinUpdate e s
  | .setpointSwap t => Sys2Proof.Machine.execSetpointSwap t s
  | .swapRequest => Sys2Proof.Machine.execSwapRequest s
  | .rampDone g => Sys2Proof.Machine.execRampDone g s
  | .modeChange target m k => Sys2Proof.Machine.execModeChange target m k s
  | .groupStart g => Sys2Proof.Machine.execGroupStart g s
  | .prechargeComplete g => Sys2Proof.Machine.execPrechargeComplete g s
  | .prechargeTimeout g => Sys2Proof.Machine.execPrechargeTimeout g s
  | .softstartTimeout g => Sys2Proof.Machine.execSoftstartTimeout g s
  | .lightloadEntry g => Sys2Proof.Machine.execLightloadEntry g s
  | .shdnStart k => Sys2Proof.Machine.execShdnStart k s
  | .shutdownEnd b => Sys2Proof.Machine.execShutdownEnd b s
  | .snapFill t => Sys2Proof.Machine.execSnapFill t s
  | .publish => Sys2Proof.Machine.execPublish s
  | .openSnap k => Sys2Proof.Machine.execOpenSnap k s
  | .closeSnap k => Sys2Proof.Machine.execCloseSnap k s
  | .snapHeld k => Sys2Proof.Machine.execSnapHeld k s
  | .mailboxWrite m w => Sys2Proof.Machine.execMailboxWrite m w s
  | .mailboxRead m => Sys2Proof.Machine.execMailboxRead m s
  | .doorbellRing receiver sender => Sys2Proof.Machine.execDoorbellRing receiver sender s
  | .domainUp k => Sys2Proof.Machine.execDomainUp k s
  | .wakeHoldLapse k => Sys2Proof.Machine.execWakeHoldLapse k s
  | .powerDownRequest k => Sys2Proof.Machine.execPowerDownRequest k s
  | .latchedRead r addr => Sys2Proof.Machine.execLatchedRead r addr s
  | .rclRead r addr => Sys2Proof.Machine.execRclRead r addr s
  | .eccCrit w => Sys2Proof.Machine.execEccCrit w s
  | .eccDed w => Sys2Proof.Machine.execEccDed w s
  | .watchdogExpiry k => Sys2Proof.Machine.execWatchdogExpiry k s
  | .faultRaise b k code unit d0 => Sys2Proof.Machine.execFaultRaise b k code unit d0 s
  | .faultFrame p => Sys2Proof.Machine.execFaultFrame p s
  | .conditionGone b code unit => Sys2Proof.Machine.execConditionGone b code unit s
  | .retry b code unit => Sys2Proof.Machine.execRetry b code unit s
  | .retriesReset b => Sys2Proof.Machine.execRetriesReset b s
  | .factoryUnlock data => Sys2Proof.Machine.execFactoryUnlock data s
  | .tmodeIgnored => Sys2Proof.Machine.execTmodeIgnored s
  | .forecast p frame t => Sys2Proof.Machine.execForecast p frame t s
  | .vreq p frame t => Sys2Proof.Machine.execVreq p frame t s
  | .heartbeat p frame t => Sys2Proof.Machine.execHeartbeat p frame t s
  | .lcmdFrameAbandon p gap => Sys2Proof.Machine.execLcmdFrameAbandon p gap s
  | .heartbeatTimeout p => Sys2Proof.Machine.execHeartbeatTimeout p s
  | .hbLapse p => Sys2Proof.Machine.execHbLapse p s
  | .lcmdRx p => Sys2Proof.Machine.execLcmdRx p s
  | .fcastMiss p g => Sys2Proof.Machine.execFcastMiss p g s
  | .hostSetSelect h g value mask => Sys2Proof.Machine.execHostSetSelect h g value mask s
  | .groupEnable h g value mask => Sys2Proof.Machine.execGroupEnable h g value mask s
  | .groupDisable h g value mask => Sys2Proof.Machine.execGroupDisable h g value mask s
  | .runSelChange h g value mask => Sys2Proof.Machine.execRunSelChange h g value mask s
  | .shutdownRequest h value mask => Sys2Proof.Machine.execShutdownRequest h value mask s
  | .gaugeCmdSave h value mask => Sys2Proof.Machine.execGaugeCmdSave h value mask s
  | .warningClear h b value mask => Sys2Proof.Machine.execWarningClear h b value mask s
  | .faultInject h value mask => Sys2Proof.Machine.execFaultInject h value mask s
  | .writeCmd h addr value mask => Sys2Proof.Machine.execWriteCmd h addr value mask s
  | .canFrameRx f => Sys2Proof.Machine.execCanFrameRx f s
  | .reassemblyTimeout p type tag => Sys2Proof.Machine.execReassemblyTimeout p type tag s
  | .readReg h addr count => Sys2Proof.Machine.execReadReg h addr count s
  | .telemGet h items => Sys2Proof.Machine.execTelemGet h items s
  | .telemSub h r => Sys2Proof.Machine.execTelemSub h r s
  | .sweepStart h d => Sys2Proof.Machine.execSweepStart h d s
  | .sweepAbort h tag => Sys2Proof.Machine.execSweepAbort h tag s
  | .faultClear h block code => Sys2Proof.Machine.execFaultClear h block code s
  | .nvRead h password key => Sys2Proof.Machine.execNvRead h password key s
  | .nvWrite h password key payload => Sys2Proof.Machine.execNvWrite h password key payload s
  | .logRead h password first count => Sys2Proof.Machine.execLogRead h password first count s
  | .calSet h r => Sys2Proof.Machine.execCalSet h r s
  | .join h => Sys2Proof.Machine.execJoin h s
  | .cfgRelease h => Sys2Proof.Machine.execCfgRelease h s
  | .abort h tag type => Sys2Proof.Machine.execAbort h tag type s
  | .updBegin h length => Sys2Proof.Machine.execUpdBegin h length s
  | .updData h offset data => Sys2Proof.Machine.execUpdData h offset data s
  | .updCommit h => Sys2Proof.Machine.execUpdCommit h s
  | .hostAns => Sys2Proof.Machine.execHostAns s
  | .telemStream stream => Sys2Proof.Machine.execTelemStream stream s
  | .canBusoff p => Sys2Proof.Machine.execCanBusoff p s
  | .canBusoffRecovery p => Sys2Proof.Machine.execCanBusoffRecovery p s
  | .complete o => Sys2Proof.Machine.execComplete o s
  | .abortGrant o => Sys2Proof.Machine.execAbortGrant o s
  | .bankStateWrite => Sys2Proof.Machine.execBankStateWrite s
  | .nvOpStart => Sys2Proof.Machine.execNvOpStart s
  | .nvOpEnd k => Sys2Proof.Machine.execNvOpEnd k s
  | .nvReclaim => Sys2Proof.Machine.execNvReclaim s
  | .journalSwitch => Sys2Proof.Machine.execJournalSwitch s
  | .counterIncrement k => Sys2Proof.Machine.execCounterIncrement k s
  | .counterSetSwitch => Sys2Proof.Machine.execCounterSetSwitch s
  | .carryWrite => Sys2Proof.Machine.execCarryWrite s
  | .minuteCountersWake => Sys2Proof.Machine.execMinuteCountersWake s
  | .calStamp => Sys2Proof.Machine.execCalStamp s
  | .calendarEnd => Sys2Proof.Machine.execCalendarEnd s
  | .logFlush => Sys2Proof.Machine.execLogFlush s
  | .gaugeSlot t code commonModeOk => Sys2Proof.Machine.execGaugeSlot t code commonModeOk s
  | .gaugeInputLost => Sys2Proof.Machine.execGaugeInputLost s
  | .gaugeInputValid => Sys2Proof.Machine.execGaugeInputValid s
  | .hedgehogSecond => Sys2Proof.Machine.execHedgehogSecond s
  | .chargeLimitTimeout => Sys2Proof.Machine.execChargeLimitTimeout s
  | .chgLimits iLim vLim => Sys2Proof.Machine.execChgLimits iLim vLim s
  | .gaugeInput lost => Sys2Proof.Machine.execGaugeInput lost s
  | .groupState g m dir => Sys2Proof.Machine.execGroupState g m dir s
  | .shdn => Sys2Proof.Machine.execShdn s
  | .gaugeSave tag => Sys2Proof.Machine.execGaugeSave tag s
  | .cal set secs => Sys2Proof.Machine.execCal set secs s
  | .nvState writable readOnly => Sys2Proof.Machine.execNvState writable readOnly s
  | .gaugeRecord r => Sys2Proof.Machine.execGaugeRecord r s
  | .record r => Sys2Proof.Machine.execRecord r s
  | .log code unit => Sys2Proof.Machine.execLog code unit s
  | .ah increments => Sys2Proof.Machine.execAh increments s
  | .recordReq => Sys2Proof.Machine.execRecordReq s
  | .done tag result => Sys2Proof.Machine.execDone tag result s
  | .mode target m k => Sys2Proof.Machine.execMode target m k s
  | .fault b code unit => Sys2Proof.Machine.execFault b code unit s
  | .count increments k => Sys2Proof.Machine.execCount increments k s
  | .sweepEnd tag cause => Sys2Proof.Machine.execSweepEnd tag cause s
  | .linkUp p n => Sys2Proof.Machine.execLinkUp p n s
  | .trainingTimeout p => Sys2Proof.Machine.execTrainingTimeout p s
  | .linkDown p k => Sys2Proof.Machine.execLinkDown p k s
  | .credit p vc n => Sys2Proof.Machine.execCredit p vc n s
  | .flitDrop p => Sys2Proof.Machine.execFlitDrop p s
  | .epochSend t => Sys2Proof.Machine.execEpochSend t s
  | .epoch f t e => Sys2Proof.Machine.execEpoch f t e s
  | .shareSend t => Sys2Proof.Machine.execShareSend t s
  | .share f r => Sys2Proof.Machine.execShare f r s
  | .irefRx g => Sys2Proof.Machine.execIrefRx g s
  | .reportSend t => Sys2Proof.Machine.execReportSend t s
  | .report f t r => Sys2Proof.Machine.execReport f t r s
  | .deviceUnreachable a => Sys2Proof.Machine.execDeviceUnreachable a s
  | .formationEnd => Sys2Proof.Machine.execFormationEnd s
  | .linkDownFlit f p k => Sys2Proof.Machine.execLinkDownFlit f p k s
  | .topo f r => Sys2Proof.Machine.execTopo f r s
  | .headSilent => Sys2Proof.Machine.execHeadSilent s
  | .headClaim f a => Sys2Proof.Machine.execHeadClaim f a s
  | .localHead => Sys2Proof.Machine.execLocalHead s
  | .leadClaim f groups => Sys2Proof.Machine.execLeadClaim f groups s
  | .leaderTimeout g => Sys2Proof.Machine.execLeaderTimeout g s
  | .leaderLost g => Sys2Proof.Machine.execLeaderLost g s
  | .deviceSafe f => Sys2Proof.Machine.execDeviceSafe f s
  | .modeOrder f g m k s0 => Sys2Proof.Machine.execModeOrder f g m k s0 s
  | .setOrder f g set => Sys2Proof.Machine.execSetOrder f g set s
  | .selFwd f g set src => Sys2Proof.Machine.execSelFwd f g set src s
  | .fcastFwd f p frame te => Sys2Proof.Machine.execFcastFwd f p frame te s
  | .phFloor f g floor => Sys2Proof.Machine.execPhFloor f g floor s
  | .phaseLost f g => Sys2Proof.Machine.execPhaseLost f g s
  | .resume f g => Sys2Proof.Machine.execResume f g s
  | .swReq f tag d => Sys2Proof.Machine.execSwReq f tag d s
  | .swSetup f tag orig d t0 => Sys2Proof.Machine.execSwSetup f tag orig d t0 s
  | .swAck f tag w answer => Sys2Proof.Machine.execSwAck f tag w answer s
  | .sweepSetupTimeout => Sys2Proof.Machine.execSweepSetupTimeout s
  | .swDone f w written => Sys2Proof.Machine.execSwDone f w written s
  | .swDoneTimeout => Sys2Proof.Machine.execSwDoneTimeout s
  | .swAbort f w cause => Sys2Proof.Machine.execSwAbort f w cause s
  | .swEnd f w aborted cause => Sys2Proof.Machine.execSwEnd f w aborted cause s
  | .sweepPointStart t => Sys2Proof.Machine.execSweepPointStart t s
  | .sweepWindowClose => Sys2Proof.Machine.execSweepWindowClose s
  | .capGrant => Sys2Proof.Machine.execCapGrant s
  | .capRelease => Sys2Proof.Machine.execCapRelease s
  | .vinWarnRecoveryCrossing => Sys2Proof.Machine.execVinWarnRecoveryCrossing s
  | .vholdChargeEnd => Sys2Proof.Machine.execVholdChargeEnd s
  | .holdupCheck12vCrossing ns => Sys2Proof.Machine.execHoldupCheck12vCrossing ns s
  | .domainRestartEnd k => Sys2Proof.Machine.execDomainRestartEnd k s
  | .formTmaxNoEpoch => Sys2Proof.Machine.execFormTmaxNoEpoch s
  | .antFiredGrant g => Sys2Proof.Machine.execAntFiredGrant g s
  | .tbFerrMeasure ppm => Sys2Proof.Machine.execTbFerrMeasure ppm s

end Sys2Proof.Machine
end

