-- ==== Sys2Proof/Machine/Tick.lean ====
section
/-!
DEFINITION. What happens with no command waiting: one timebase tick passes (DESIGN CHOICE, log 3), and where a whole
second of the calendar ends in it, which nothing in the spec ties to a tick, the calendar counts it (log 4). A single-bit error of an SRAM word that is
met in it is corrected, written back, which leaves every word as it reads, and counted (R72); whether one is met is free (log 135). A JOIN whose window ends is
answered (R461).
-/

namespace Sys2Proof.Machine

/-- The block idles for one tick. -/
def Chip.tick (c : Chip) : Chip :=
  let c := (c.elapse 1).joinCheck
  let c := { c with sys := { c.sys with eccFixed := if c.powered && Config.openBool 41 c.draws then c.sys.eccFixed + 1 else c.sys.eccFixed } }
  if c.powered && Config.calendarSecond c.draws then { c.calendarSecond with draws := c.draws + 1 }
  else { c with draws := c.draws + 1 }

def idle (s : State) : Host.Outcome State Fault Refusal := .next (s.onChip Chip.tick)

end Sys2Proof.Machine
end

