-- ==== Sys2Proof/Machine/Step.lean ====
section
/-!
DEFINITION. One step: the command at the front of the queue runs with the queue's rest (first in, first out); with
nothing waiting the block idles for one timebase tick.
-/

namespace Sys2Proof.Machine

/-- `s` with the command that a word spells put at the front of its queue; the table gives no row any bits, so no word
spells one. -/
def State.withFetchWord (s : State) (nbits w : Nat) : State :=
  match Sys2Proof.decodeTableWord nbits w with
  | some i => { s with pending := i :: s.pending }
  | none => s

/-- One step. -/
def step (s : State) : Host.Outcome State Fault Refusal :=
  match s.pending with
  | [] => Sys2Proof.Machine.idle s
  | i :: rest => Sys2Proof.Machine.exec i { s with pending := rest }

end Sys2Proof.Machine
end

