-- ==== Sys2Proof/Safety.lean ====
section
/-!
DEFINITION. What claims about a run are said in: which parts of the block a command leaves alone, and the invariants that every step keeps.
-/

namespace Sys2Proof

open Sys2Proof.Machine

/-! ### Parts of the block, and what is left alone -/

/-- The parts of the block: the fields of `Chip`. -/
inductive Part where
  | sys
  | code
  | tb
  | ph
  | grp
  | le
  | setpt
  | lcmd
  | refs
  | aux
  | snap
  | cap
  | sweep
  | sett
  | gauge
  | guards
  | eva
  | trace
  | obs
  | mbx
  | dom
  | nv
  | cal
  | log
  | host
  | latch
  | draws
deriving DecidableEq, Repr

/-- A part has the same content in two blocks. -/
def Part.Same (c d : Chip) : Part → Prop
  | .sys => d.sys = c.sys
  | .code => d.code = c.code
  | .tb => d.tb = c.tb
  | .ph => d.ph = c.ph
  | .grp => d.grp = c.grp
  | .le => d.le = c.le
  | .setpt => d.setpt = c.setpt
  | .lcmd => d.lcmd = c.lcmd
  | .refs => d.refs = c.refs
  | .aux => d.aux = c.aux
  | .snap => d.snap = c.snap
  | .cap => d.cap = c.cap
  | .sweep => d.sweep = c.sweep
  | .sett => d.sett = c.sett
  | .gauge => d.gauge = c.gauge
  | .guards => d.guards = c.guards
  | .eva => d.eva = c.eva
  | .trace => d.trace = c.trace
  | .obs => d.obs = c.obs
  | .mbx => d.mbx = c.mbx
  | .dom => d.dom = c.dom
  | .nv => d.nv = c.nv
  | .cal => d.cal = c.cal
  | .log => d.log = c.log
  | .host => d.host = c.host
  | .latch => d.latch = c.latch
  | .draws => d.draws = c.draws

/-- Every part but those listed is the same in `d` as in `c`. -/
structure Keeps (ps : List Part) (c d : Chip) : Prop where
  same : ∀ p, p ∉ ps → p.Same c d

/-- Command `i` runs on the block `c`: with any commands waiting behind it, it answers the next state in which the same commands wait,
only the listed parts of the block may have changed, and of whose block `post` holds. -/
def Runs (i : Instr) (c : Chip) (ps : List Part) (post : Chip → Prop) : Prop :=
  ∃ d : Chip, (∀ q : List Instr, exec i ⟨q, c⟩ = .next ⟨q, d⟩) ∧ Keeps ps c d ∧ post d

/-- One event was granted between `c` and `d`: EVSEQ has moved by one (R60). -/
abbrev Granted (c d : Chip) : Prop := d.eva.seq = c.eva.seq + 1

/-- Between `c` and `d` guard block `b` was granted the warning `code`: it is held in its STATUS, and OBS counter 19 counted it
(R500, R652). -/
abbrev Warned (b : Block) (code : Nat) (c d : Chip) : Prop :=
  (d.guards[b]).c = true ∧ (d.guards[b]).cCode = code ∧ d.obs[(19 : Fin 32)] = c.obs[(19 : Fin 32)] + 1 ∧ Granted c d

/-- Guard block `b` holds the Class B fault `code` of `unit`. -/
abbrev Holds (b : Block) (code unit : Nat) (d : Chip) : Prop := ∃ f ∈ (d.guards[b]).faults, f.code = code ∧ f.unit = unit

/-- The device is in OFF with the state that a loss of all power leaves: everything at its reset value but what a flash holds. -/
abbrev PoweredDown (c d : Chip) : Prop :=
  d.sys = { rstLow := c.sys.rstLow && c.sys.bootReq.isNone } ∧ d.cap = [] ∧ d.tb = {} ∧ d.eva = {} ∧ d.cal = {} ∧ d.code.bank0 = c.code.bank0 ∧
    d.code.bank1 = c.code.bank1 ∧ (∀ g : Group, d.grp[g] = {}) ∧ ∀ m : Fin 6, d.mbx[m] = {}

/-- No SHDN_START of the supply monitors waits that could be granted, so that the next event of theirs comes alone (R62). -/
abbrev SupplyFree (c : Chip) : Prop := (∀ k ∈ c.sys.shdnReq, shdnInput k = 41) ∨ c.outOfBoot = false ∨ c.sys.dev = .shutdown

/-- Owl takes the command next: it has been received, and neither SHUTDOWN (R189) nor its address (R619) keeps it from being executed. -/
abbrev TakesNext (h : HostCmd) (c : Chip) : Prop :=
  c.nextCommand = some h ∧ (c.sys.dev ≠ .shutdown ∨ h.type = 0x01 ∨ h.type = 0x0A) ∧ (h.ref.bcast = false ∨ broadcastOk h.type = true)

/-- A command that Badger carries out can be carried out now: its words can pass over MBX_OB and MBX_BO is free for its DONE (R37, R651), or a
failed BOOT holds Badger's core in reset, and Owl gives the result itself (R142). -/
abbrev CarriedOut (h : HostCmd) (c : Chip) : Prop :=
  c.badgerRuns = false ∨ (c.canPass .ob h.words = true ∧ (c.mbx[mbxIdx .bo]).full = false)

/-- Between `c` and `d` the command `h` has been taken and answered: it waits no longer in HOST_RX, and its answer waits for HOST_ANS behind those
made before (R617). -/
abbrev Answered (h : HostCmd) (r : Result) (body : List Byte) (c d : Chip) : Prop :=
  d.host.rx = c.host.rx.erase h ∧ d.host.answers = c.host.answers ++ [(h, r, body)]

/-- Between `c` and `d` the command `h` has been taken, and its answer is still to come. -/
abbrev Taken (h : HostCmd) (c d : Chip) : Prop :=
  d.host.rx = c.host.rx.erase h ∧ d.host.answers = c.host.answers ∧ h ∈ d.host.pending

/-- A flit that arrives is delivered to this device: hold-up is not active, its port is UP, it ends with its right CRC and has a TYPE with a name, another device sent it to this one or to all, and it is no second copy
(R423, R424, R426, R482). -/
abbrev Delivers (f : FlitHdr) (b : FlitBody) (c : Chip) : Prop :=
  c.ctrlUp = true ∧ c.sys.holdup = false ∧ (c.sett.ports[f.port]).st = .up ∧ f.crc = .good ∧ f.unnamed = none ∧ f.src ≠ c.sett.addr ∧ c.duplicate f b.vc = false ∧ (f.dst = c.sett.addr.val ∨ f.dst = 15)

/-- No group of this device spans devices. -/
abbrev NoSpans (c : Chip) : Prop := ∀ g : Group, (c.sett.groups[g]).span = false

/-- This device leads no spanning group. -/
abbrev LeadsNone (c : Chip) : Prop := ∀ g : Group, c.isLeader g = false

/-! ### Invariants -/

/-- Capture memory has its canonical form. -/
abbrev CaptureCanonical (c : Chip) : Prop := memWf 0 c.cap = true

/-- Both code banks have their canonical form. -/
abbrev BanksCanonical (c : Chip) : Prop := memWf erased c.code.bank0 = true ∧ memWf erased c.code.bank1 = true

/-- The books of one mailbox balance: _WRITTEN = _READ + FULL, modulo 2^32 (R71). -/
abbrev Balanced (u : MailboxUnit) : Prop := u.written = u.read + (if u.full then 1 else 0)

/-- The books of every mailbox balance (R71). -/
abbrev MailboxBooks (c : Chip) : Prop := ∀ m : Fin 6, Balanced c.mbx[m]

/-- OBS counter 0 agrees with EVSEQ and EVA_WRAP: both count every grant (R60, R652). -/
abbrev GrantsCounted (c : Chip) : Prop :=
  c.obs[(0 : Fin 32)] = BitVec.ofNat 48 (c.eva.wrap.toNat * 2 ^ 32 + c.eva.seq.toNat)

/-- The log holds at most 2048 entries (R600). -/
abbrev LogBounded (c : Chip) : Prop := c.log.entries.length ≤ 2048

end Sys2Proof
end

