-- ==== Sys2Proof/Certificates/Slice0/Obligations.lean ====
section
/-!
DEFINITION. The statements for the provers. `c` is the block before a command and `d` the block after it; `Runs` (Safety.lean) says that a
command answers a next state, and names the parts of the block that may differ from before.
-/

open Sys2Proof Sys2Proof.Machine

/-- VIN_LOW sets VIN_WARN and, outside a ride-through, begins one with the warning VIN_RIDE; VIN_WARN recovery and the fall of VIN_HIGH are granted and
change their one bit, after the supply monitors' own SHDN_START where they have one waiting, which takes the device to SHUTDOWN; a recovered
ride-through that has not reached its limit ends, is counted in DIPS and in hardware counter 9; VIN_HIGH sets its bit with its warning; VIN_OVER is
held as a Class B fault of SYS. The limit of a ride-through ends it and, out of BOOT and SHUTDOWN, requests SHDN_START; in BOOT it is only
remembered. VHOLD_OK follows its crossing and is remembered once seen, after a SHDN_START that the supply monitors have waiting; the charger stops
at the end of its charge; the hold-up check writes VHOLD_CAP from the charging time when the image asks for it, with its warning below 220 µF; a
supply collapse out of hold-up latches its Class A fault in SYS and marks the rails bad; a lost calendar crystal clears OSC and sets COARSE with a
warning, and its return sets OSC alone. -/
def Obligations.SupplyEvents : Prop :=
  (∀ c : Chip, c.powered = true → c.sys.vinWarn = false → c.sys.ride = false →
    Runs (.vinLow) c [.sys, .guards, .eva, .trace, .obs, .nv, .log, .draws]
        (fun d => d.sys = { c.sys with vinWarn := true, ride := true } ∧ Warned sysBlock 0x42 c d)) ∧
  (∀ c : Chip, c.powered = true → c.sys.vinWarn = false → c.sys.ride = true →
    Runs (.vinLow) c [.sys] (fun d => d.sys = { c.sys with vinWarn := true })) ∧
  (∀ c : Chip, c.powered = true → c.sys.vinWarn = true → SupplyFree c →
    Runs (.vinWarnRecoveryCrossing) c [.sys, .tb, .ph, .grp, .le, .setpt, .sweep, .sett, .eva, .trace, .obs, .nv, .cal, .log, .host, .draws]
        (fun d => d.sys = { c.sys with vinWarn := false } ∧ Granted c d)) ∧
  (∀ c : Chip, c.powered = true → c.sys.vinWarn = true → ¬SupplyFree c →
    Runs (.vinWarnRecoveryCrossing) c [.sys, .tb, .ph, .grp, .le, .setpt, .sweep, .sett, .eva, .trace, .obs, .nv, .cal, .log, .host, .draws]
        (fun d => d.sys.dev = .shutdown ∧ d.sys.vinWarn = false)) ∧
  (∀ c : Chip, c.powered = true → c.sys.ride = true → c.sys.rideLimit = false → c.sys.vinWarn = false → ¬SupplyFree c →
    Runs (.rideThroughRecovery) c [.sys, .tb, .ph, .grp, .le, .setpt, .sweep, .sett, .gauge, .eva, .trace, .obs, .nv, .cal, .log, .host, .draws]
        (fun d => d.sys.dev = .shutdown ∧ d.sys.ride = false)) ∧
  (∀ c : Chip, c.powered = true → c.sys.vinHigh = true → ¬SupplyFree c →
    Runs (.vinHighRelease) c [.sys, .tb, .ph, .grp, .le, .setpt, .sweep, .sett, .eva, .trace, .obs, .nv, .cal, .log, .host, .draws]
        (fun d => d.sys.dev = .shutdown ∧ d.sys.vinHigh = false)) ∧
  (∀ c : Chip, c.powered = true → c.sys.ride = true → c.sys.rideLimit = false → c.sys.vinWarn = false → SupplyFree c →
    Runs (.rideThroughRecovery) c [.sys, .tb, .ph, .grp, .le, .setpt, .sweep, .sett, .gauge, .eva, .trace, .obs, .nv, .cal, .log, .host, .draws]
        (fun d => d.sys = { c.sys with ride := false, dips := c.sys.dips + 1 } ∧ Granted c d ∧
      d.nv.pending[(9 : Fin 16)] = c.nv.pending[(9 : Fin 16)] + 1)) ∧
  (∀ c : Chip, c.powered = true → c.sys.vinHigh = false →
    Runs (.vinHigh) c [.sys, .guards, .eva, .trace, .obs, .nv, .log, .draws]
        (fun d => d.sys = { c.sys with vinHigh := true } ∧ Warned sysBlock 0x41 c d)) ∧
  (∀ c : Chip, c.powered = true → c.sys.vinHigh = true → SupplyFree c →
    Runs (.vinHighRelease) c [.sys, .tb, .ph, .grp, .le, .setpt, .sweep, .sett, .eva, .trace, .obs, .nv, .cal, .log, .host, .draws]
        (fun d => d.sys = { c.sys with vinHigh := false } ∧ Granted c d)) ∧
  (∀ c : Chip, c.powered = true → c.sys.vinHigh = true →
    Runs (.vinOver) c [.sys, .tb, .ph, .grp, .le, .setpt, .sweep, .sett, .guards, .eva, .trace, .obs, .nv, .cal, .log, .host, .draws]
      (fun d => Holds sysBlock 0x27 0xFF d)) ∧
  (∀ c : Chip, c.outOfBoot = true → c.sys.dev ≠ .shutdown → c.sys.ride = true → c.sys.rideLimit = false →
    Runs (.rideThroughLimit) c [.sys] (fun d => d.sys = { c.sys with ride := false, shdnReq := c.sys.shdnReq ++ [.ride] })) ∧
  (∀ c : Chip, c.sys.dev = .boot → c.sys.ride = true → c.sys.rideLimit = false →
    Runs (.rideThroughLimit) c [.sys] (fun d => d.sys = { c.sys with rideLimit := true })) ∧
  (∀ c : Chip, ∀ above : Bool, c.powered = true → c.sys.vholdOk = !above → SupplyFree c →
    Runs (.vholdOkCrossing above) c [.sys, .tb, .ph, .grp, .le, .setpt, .sweep, .sett, .eva, .trace, .obs, .nv, .cal, .log, .host, .draws]
        (fun d => d.sys = { c.sys with vholdOk := above, vholdSeen := c.sys.vholdSeen || above })) ∧
  (∀ c : Chip, ∀ above : Bool, c.powered = true → c.sys.vholdOk = !above → ¬SupplyFree c →
    Runs (.vholdOkCrossing above) c [.sys, .tb, .ph, .grp, .le, .setpt, .sweep, .sett, .eva, .trace, .obs, .nv, .cal, .log, .host, .draws]
        (fun d => d.sys.dev = .shutdown ∧ d.sys.vholdOk = above)) ∧
  (∀ c : Chip, c.charging = true → Runs (.vholdChargeEnd) c [.sys] (fun d => d.sys = { c.sys with charged := true })) ∧
  (∀ c : Chip, ∀ ns : Nat, c.charging = true → c.sys.capTiming = true → c.sys.loaded = true → c.sys.holdupCheck = true →
    Runs (.holdupCheck12vCrossing ns) c [.sys, .guards, .eva, .trace, .obs, .nv, .log, .draws]
        (fun d => d.sys = { c.sys with capTiming := false, capEst := none, vholdCap := capOf ns } ∧
      (capOf ns < 220 → Warned sysBlock 0x43 c d))) ∧
  (∀ c : Chip, ∀ r : Rail, c.powered = true → c.sys.rails = true → c.sys.holdup = false →
    Runs (.supplyCollapse r) c [.sys, .tb, .ph, .grp, .le, .setpt, .sweep, .sett, .guards, .eva, .trace, .obs, .nv, .cal, .log, .host, .draws]
        (fun d => (d.guards[sysBlock]).aCode = 0x04 ∧ d.sys.railBad = true)) ∧
  (∀ c : Chip, c.powered = true → c.cal.osc = true →
    Runs (.rtcOscLost) c [.guards, .eva, .trace, .obs, .nv, .cal, .log, .draws]
        (fun d => d.cal = { c.cal with osc := false, coarse := true } ∧ Warned sysBlock 0x40 c d)) ∧
  (∀ c : Chip, c.powered = true → Runs (.rtcOscBack) c [.cal] (fun d => d.cal = { c.cal with osc := true }))

/-- POWER_LOSS out of hold-up: in BOOT with no NV operation in progress it takes the device to OFF; in BOOT with one in progress hold-up becomes active;
in SHUTDOWN hold-up becomes active and no group ramps any more; in every other mode but OFF hold-up becomes active, ride-through ends and SHDN_START
is requested, or begins at once where the supply monitors' own request waits. Where hold-up becomes active the trace port stops, both CAN ports
leave the bus and no Sett port trains any more. VHOLD_FLOOR in hold-up takes the device to OFF. A device taken to OFF has every field of SYS but the
level of RST_N, high where its release waited for the OWL domain, at its reset value, and capture memory, timebase, EVA, calendar, groups and
mailboxes too, while both code banks keep their content. -/
def Obligations.PowerLossAndOff : Prop :=
  (∀ c : Chip, c.sys.dev = .boot → c.sys.holdup = false → c.nv.op = none →
    Runs (.powerLoss) c [.sys, .code, .tb, .ph, .grp, .le, .setpt, .lcmd, .refs, .aux, .snap, .cap, .sweep, .sett, .gauge, .guards, .eva, .trace, .obs, .mbx, .dom, .nv, .cal, .log, .host, .latch, .draws]
      (fun d => PoweredDown c d)) ∧
  (∀ c : Chip, c.sys.dev = .boot → c.sys.holdup = false → c.nv.op ≠ none →
    Runs (.powerLoss) c [.sys, .code, .tb, .ph, .grp, .le, .setpt, .lcmd, .refs, .aux, .snap, .cap, .sweep, .sett, .gauge, .guards, .eva, .trace, .obs, .mbx, .dom, .nv, .cal, .log, .host, .latch, .draws]
        (fun d => d.sys.dev = .boot ∧ d.sys.holdup = true ∧ d.sys.ride = false ∧
      d.trace.running = false ∧ (∀ p : CanPort, (d.host.ports[p]).st = .off) ∧ (∀ p : SettPort, (d.sett.ports[p]).st ≠ .training) ∧ Granted c d)) ∧
  (∀ c : Chip, c.sys.dev = .shutdown → c.sys.holdup = false →
    Runs (.powerLoss) c [.sys, .code, .tb, .ph, .grp, .le, .setpt, .lcmd, .refs, .aux, .snap, .cap, .sweep, .sett, .gauge, .guards, .eva, .trace, .obs, .mbx, .dom, .nv, .cal, .log, .host, .latch, .draws]
        (fun d => d.sys.dev = .shutdown ∧ d.sys.holdup = true ∧ d.trace.running = false ∧
      (∀ p : CanPort, (d.host.ports[p]).st = .off) ∧ (∀ p : SettPort, (d.sett.ports[p]).st ≠ .training) ∧ ∀ g : Group, (d.grp[g]).ramping = false)) ∧
  (∀ c : Chip, c.outOfBoot = true → c.sys.dev ≠ .shutdown → c.sys.holdup = false → SupplyFree c →
    Runs (.powerLoss) c [.sys, .code, .tb, .ph, .grp, .le, .setpt, .lcmd, .refs, .aux, .snap, .cap, .sweep, .sett, .gauge, .guards, .eva, .trace, .obs, .mbx, .dom, .nv, .cal, .log, .host, .latch, .draws]
        (fun d => d.sys.dev = c.sys.dev ∧ d.sys.holdup = true ∧ d.sys.ride = false ∧
      d.sys.shdnReq = c.sys.shdnReq ++ [.powerLoss] ∧ d.trace.running = false ∧ (∀ p : CanPort, (d.host.ports[p]).st = .off) ∧
      (∀ p : SettPort, (d.sett.ports[p]).st ≠ .training) ∧ Granted c d)) ∧
  (∀ c : Chip, c.outOfBoot = true → c.sys.dev ≠ .shutdown → c.sys.holdup = false → ¬SupplyFree c →
    Runs (.powerLoss) c [.sys, .code, .tb, .ph, .grp, .le, .setpt, .lcmd, .refs, .aux, .snap, .cap, .sweep, .sett, .gauge, .guards, .eva, .trace, .obs, .mbx, .dom, .nv, .cal, .log, .host, .latch, .draws]
        (fun d => d.sys.dev = .shutdown ∧ d.sys.holdup = true ∧ d.sys.ride = false ∧ d.sys.shdnReq = [] ∧ d.trace.running = false ∧
      (∀ p : CanPort, (d.host.ports[p]).st = .off) ∧ ∀ g : Group, (d.grp[g]).ramping = false)) ∧
  (∀ c : Chip, c.sys.holdup = true →
    Runs (.vholdFloor) c [.sys, .code, .tb, .ph, .grp, .le, .setpt, .lcmd, .refs, .aux, .snap, .cap, .sweep, .sett, .gauge, .guards, .eva, .trace, .obs, .mbx, .dom, .nv, .cal, .log, .host, .latch, .draws]
      (fun d => PoweredDown c d))

/-- POWER_ON_RESET_RELEASE in OFF with RST_N high, or with its release still waiting, runs steps 1 to 6 of BOOT: Owl and Badger are up, RST_N reads
high, capture memory is empty, and every read latch and mailbox is at its reset value. With RST_N low it leaves the device in BOOT with the rails
off, TMODE, the straps and the crystal's state taken, the calendar at 0 and EVSEQ at 0 where VIN has recovered; where VIN has not, ride-through
begins with the warning VIN_RIDE. RST_N_ASSERT of a high RST_N out of OFF and SHUTDOWN leaves the device in BOOT with RST_N low, the timebase and
every read latch at reset, capture memory empty, and every mailbox with its counts and FULL kept and its word and interrupts 0; in OFF and SHUTDOWN
it records the level and takes both CAN ports off the bus. RST_N_RELEASE of a low RST_N: in BOOT, SAFE, held STANDBY and with group modes, out of a
hold-up of BOOT, it runs steps 1 to 6 of BOOT with the same result but that the mailboxes' counts stand, or while an NV operation is in progress, or
hold-up is active in BOOT, records what the BOOT to come will sample; in OFF it records the level alone; in SHUTDOWN also puts the enabled ports
back on the bus out of hold-up. RST_STUCK sets its bit where it is not yet recorded in this low time of RST_N. -/
def Obligations.BootEntry : Prop :=
  (∀ c : Chip, ∀ b : BootInput, c.sys.dev = .off → (c.sys.rstLow = false ∨ c.sys.bootReq.isSome = true) →
    Runs (.powerOnResetRelease b) c [.sys, .code, .tb, .ph, .grp, .le, .setpt, .lcmd, .refs, .aux, .snap, .cap, .sweep, .sett, .gauge, .guards, .eva, .trace, .obs, .mbx, .dom, .nv, .cal, .log, .host, .latch, .draws]
        (fun d => d.isUp .owl = true ∧ d.isUp .badger = true ∧ d.sys.rstLow = false ∧ d.cap = [] ∧
      (∀ r : Fin 4, d.latch[r] = {}) ∧ ∀ m : Fin 6, d.mbx[m] = {})) ∧
  (∀ c : Chip, ∀ b : BootInput, c.sys.dev = .off → c.sys.rstLow = true → c.sys.bootReq = none → b.vinRecovered = true →
    Runs (.powerOnResetRelease b) c [.sys, .code, .tb, .ph, .grp, .le, .setpt, .lcmd, .refs, .aux, .snap, .cap, .sweep, .sett, .gauge, .guards, .eva, .trace, .obs, .mbx, .dom, .nv, .cal, .log, .host, .latch, .draws]
        (fun d => d.sys.dev = .boot ∧ d.sys.rails = false ∧ d.sys.tmode = b.tmode ∧ d.cal.sec = 0 ∧
      d.cal.osc = b.rtc ∧ d.sett.addr = b.addr ∧ d.sett.headStrap = b.head ∧ d.eva = {})) ∧
  (∀ c : Chip, ∀ b : BootInput, c.sys.dev = .off → c.sys.rstLow = true → c.sys.bootReq = none → b.vinRecovered = false →
    Runs (.powerOnResetRelease b) c [.sys, .code, .tb, .ph, .grp, .le, .setpt, .lcmd, .refs, .aux, .snap, .cap, .sweep, .sett, .gauge, .guards, .eva, .trace, .obs, .mbx, .dom, .nv, .cal, .log, .host, .latch, .draws]
        (fun d => d.sys.dev = .boot ∧ d.sys.rails = false ∧ d.sys.tmode = b.tmode ∧ d.cal.sec = 0 ∧
      d.cal.osc = b.rtc ∧ d.sett.addr = b.addr ∧ d.sett.headStrap = b.head ∧ d.sys.ride = true ∧ d.sys.vinWarn = true ∧
      (d.guards[sysBlock]).c = true ∧ (d.guards[sysBlock]).cCode = 0x42)) ∧
  (∀ c : Chip, c.sys.rstLow = false → c.sys.dev ≠ .off → c.sys.dev ≠ .shutdown →
    Runs (.rstNAssert) c [.sys, .code, .tb, .ph, .grp, .le, .setpt, .lcmd, .refs, .aux, .snap, .cap, .sweep, .sett, .gauge, .guards, .trace, .mbx, .dom, .nv, .log, .host, .latch]
        (fun d => d.sys.rstLow = true ∧ d.sys.dev = .boot ∧ d.tb = {} ∧ d.cap = [] ∧ (∀ r : Fin 4, d.latch[r] = {}) ∧
      ∀ m : Fin 6, d.mbx[m] = { c.mbx[m] with data := 0, arrive := false, empty := false })) ∧
  (∀ c : Chip, c.sys.rstLow = false → (c.sys.dev = .off ∨ c.sys.dev = .shutdown) →
    Runs (.rstNAssert) c [.sys, .host] (fun d => d.sys = { c.sys with rstLow := true, rstSeen := true } ∧
      ∀ p : CanPort, d.host.ports[p] = { c.host.ports[p] with st := .off })) ∧
  (∀ c : Chip, ∀ b : BootInput, c.sys.rstLow = true → c.sys.dev ≠ .off → c.sys.dev ≠ .shutdown → (c.sys.dev = .boot → c.sys.holdup = false) →
    c.nv.op = none →
    Runs (.rstNRelease b) c [.sys, .code, .tb, .ph, .grp, .le, .setpt, .lcmd, .refs, .aux, .snap, .cap, .sweep, .sett, .gauge, .guards, .eva, .trace, .obs, .mbx, .dom, .nv, .cal, .log, .host, .latch, .draws]
        (fun d => d.isUp .owl = true ∧ d.isUp .badger = true ∧ d.sys.rstLow = false ∧ d.cap = [] ∧ (∀ r : Fin 4, d.latch[r] = {}) ∧
      ∀ m : Fin 6, d.mbx[m] = { c.mbx[m] with data := 0, arrive := false, empty := false })) ∧
  (∀ c : Chip, ∀ b : BootInput, c.sys.rstLow = true → c.sys.dev ≠ .off → c.sys.dev ≠ .shutdown → (c.sys.dev = .boot → c.sys.holdup = false) →
    c.nv.op ≠ none → Runs (.rstNRelease b) c [.sys] (fun d => d.sys = { c.sys with bootReq := some b })) ∧
  (∀ c : Chip, ∀ b : BootInput, c.sys.rstLow = true → c.sys.dev = .boot → c.sys.holdup = true →
    Runs (.rstNRelease b) c [.sys] (fun d => d.sys = { c.sys with bootReq := some b })) ∧
  (∀ c : Chip, ∀ b : BootInput, c.sys.rstLow = true → c.sys.dev = .off →
    Runs (.rstNRelease b) c [.sys] (fun d => d.sys = { c.sys with rstLow := false })) ∧
  (∀ c : Chip, ∀ b : BootInput, c.sys.rstLow = true → c.sys.dev = .shutdown →
    Runs (.rstNRelease b) c [.sys, .host] (fun d => d.sys = { c.sys with rstLow := false } ∧
      d.host = if c.sys.holdup then c.host else c.host.join)) ∧
  (∀ c : Chip, c.powered = true → c.sys.rstLow = true → c.sys.bootReq = none → c.sys.stuckLog = false →
    Runs (.rstStuck) c [.sys] (fun d => d.sys = { c.sys with rstStuck := true, stuckLog := true }))

/-- BOOT_DONE in BOOT with the rails good, RST_N high and no hold-up ends BOOT. With RESULT OK the device gets its group modes, the configuration pins
are released unless the image holds them, and the content of both code banks stands; with any other RESULT the boot fault is held in SYS, the device
stays in STANDBY, and the content of both code banks stands. In either case a Class A fault already latched takes it to SAFE instead. BOOT_TIME is
the number of periods, at most 0xFFFF. -/
def Obligations.BootEnd : Prop :=
  (∀ c : Chip, ∀ n : Nat, c.sys.dev = .boot → c.sys.rails = true → c.sys.rstLow = false → c.sys.holdup = false → c.sys.result = .ok →
    Runs (.bootDone n) c [.sys, .code, .tb, .ph, .grp, .le, .setpt, .sweep, .sett, .gauge, .guards, .eva, .trace, .obs, .nv, .cal, .log, .host, .draws]
        (fun d => d.sys.dev = (if c.latched then .safe else .perGroup) ∧ d.sys.bootTime = min 0xFFFF n ∧
      d.sys.cfgReleased = !c.sys.relHold ∧ d.code.bank0 = c.code.bank0 ∧ d.code.bank1 = c.code.bank1)) ∧
  (∀ c : Chip, ∀ n : Nat, c.sys.dev = .boot → c.sys.rails = true → c.sys.rstLow = false → c.sys.holdup = false → c.sys.result ≠ .ok →
    Runs (.bootDone n) c [.sys, .code, .tb, .ph, .grp, .le, .setpt, .sweep, .sett, .gauge, .guards, .eva, .trace, .obs, .nv, .cal, .log, .host, .draws]
        (fun d => d.sys.dev = (if c.latched then .safe else .standbyHeld) ∧ d.sys.bootTime = min 0xFFFF n ∧
      Holds sysBlock (0x30 + bootCode c.sys.result) 0xFF d ∧ d.code.bank0 = c.code.bank0 ∧ d.code.bank1 = c.code.bank1))

/-- A falling ENABLE is taken and, out of BOOT and SHUTDOWN, requests SHDN_START; a rising one is taken. SHDN_START, granted to the first request that
its source holds, enters SHUTDOWN and takes every waiting request with it. SHUTDOWN_END, once the sequence is over: after a hold-up the device goes
to OFF; with RST_N high it reboots, Owl and Badger coming up, capture memory empty and every mailbox word reading 0; with RST_N low it waits for it
in BOOT. -/
def Obligations.ShutdownAndEnable : Prop :=
  (∀ c : Chip, c.outOfBoot = true → c.sys.dev ≠ .shutdown → c.sys.enable = true →
    Runs (.enableFalling) c [.sys] (fun d => d.sys = { c.sys with enable := false, shdnReq := c.sys.shdnReq ++ [.enable] })) ∧
  (∀ c : Chip, (c.outOfBoot = false ∨ c.sys.dev = .shutdown) → c.sys.enable = true →
    Runs (.enableFalling) c [.sys] (fun d => d.sys = { c.sys with enable := false })) ∧
  (∀ c : Chip, c.powered = true → Runs (.enableRising) c [.sys, .tb, .ph, .grp, .le, .setpt, .sett, .eva, .trace, .obs, .log, .draws]
      (fun d => d.sys = { c.sys with enable := true })) ∧
  (∀ c : Chip, ∀ k : ShdnCause, c.outOfBoot = true → c.sys.dev ≠ .shutdown → c.firstShdn k = true →
    Runs (.shdnStart k) c [.sys, .tb, .ph, .grp, .le, .setpt, .sweep, .sett, .eva, .trace, .obs, .nv, .cal, .log, .host, .draws]
        (fun d => d.sys.dev = .shutdown ∧ d.sys.shdnReq = [])) ∧
  (∀ c : Chip, ∀ b : BootInput, c.sys.dev = .shutdown → c.sys.shdn = .over → c.sys.shdnHold = true →
    Runs (.shutdownEnd b) c [.sys, .code, .tb, .ph, .grp, .le, .setpt, .lcmd, .refs, .aux, .snap, .cap, .sweep, .sett, .gauge, .guards, .eva, .trace, .obs, .mbx, .dom, .nv, .cal, .log, .host, .latch, .draws]
        (fun d => PoweredDown c d)) ∧
  (∀ c : Chip, ∀ b : BootInput, c.sys.dev = .shutdown → c.sys.shdn = .over → c.sys.shdnHold = false → c.sys.rstLow = false →
    Runs (.shutdownEnd b) c [.sys, .code, .tb, .ph, .grp, .le, .setpt, .lcmd, .refs, .aux, .snap, .cap, .sweep, .sett, .gauge, .guards, .eva, .trace, .obs, .mbx, .dom, .nv, .cal, .log, .host, .latch, .draws]
        (fun d => d.isUp .owl = true ∧ d.isUp .badger = true ∧ d.cap = [] ∧ ∀ m : Fin 6, (d.mbx[m]).data = 0)) ∧
  (∀ c : Chip, ∀ b : BootInput, c.sys.dev = .shutdown → c.sys.shdn = .over → c.sys.shdnHold = false → c.sys.rstLow = true →
    Runs (.shutdownEnd b) c [.sys, .code, .tb, .ph, .grp, .le, .setpt, .lcmd, .refs, .aux, .snap, .cap, .sweep, .sett, .gauge, .guards, .eva, .trace, .obs, .mbx, .dom, .nv, .cal, .log, .host, .latch, .draws]
        (fun d => d.sys.dev = .boot ∧ d.sys.rstLow = true ∧ d.cap = [] ∧ ∀ m : Fin 6, (d.mbx[m]).data = 0))

/-- With group modes, MODE_CHANGE of a group with a mode and cause that `mayChange` admits leaves that group in the new mode and every other group in
its own; where the mode is CHARGE and the gauge input is lost, GAUGE_INPUT_LOST is held. While a SHDN_START that Badger has asked for waits,
MODE_CHANGE and GROUP_START of a group change nothing and the device does not leave its mode for SAFE. MODE_CHANGE of the device to SAFE for a
latched Class A fault takes a device with group modes or in held STANDBY to SAFE. GROUP_START of a group in STANDBY that `mayStart` takes it to
PRECHARGE where PRE_EN is set and to SOFTSTART otherwise, and leaves the mode of every other group. -/
def Obligations.GroupModes : Prop :=
  (∀ c : Chip, ∀ g : Group, ∀ m : Mode, ∀ k : Cause, c.sys.dev = .perGroup → c.mayChange g m k = true → ¬(m = .charge ∧ c.gauge.lost = true) →
    c.shdnAsked = true → Runs (.modeChange (.group g) m k) c [] (fun d => d = c)) ∧
  (∀ c : Chip, ∀ g : Group, c.shdnAsked = true → Runs (.groupStart g) c [] (fun d => d = c)) ∧
  (∀ c : Chip, c.latched = true → c.shdnAsked = true →
    Runs (.modeChange .device .safe .faultA) c [.sys, .tb, .ph, .grp, .le, .setpt, .sweep, .sett, .guards, .eva, .trace, .obs, .nv, .cal, .log, .host, .draws]
        (fun d => d.sys.dev = c.sys.dev)) ∧
  (∀ c : Chip, ∀ g : Group, ∀ m : Mode, ∀ k : Cause, c.sys.dev = .perGroup → c.mayChange g m k = true → ¬(m = .charge ∧ c.gauge.lost = true) →
    c.shdnAsked = false →
      Runs (.modeChange (.group g) m k) c [.sys, .tb, .ph, .grp, .le, .setpt, .sweep, .sett, .guards, .eva, .trace, .obs, .nv, .cal, .log, .host, .draws]
        (fun d => ∀ j : Group, (d.grp[j]).mode = if g = j then m else (c.grp[j]).mode)) ∧
  (∀ c : Chip, ∀ g : Group, ∀ k : Cause, c.sys.dev = .perGroup → c.mayChange g .charge k = true → c.gauge.lost = true →
    Runs (.modeChange (.group g) .charge k) c [.sys, .tb, .ph, .grp, .le, .setpt, .sweep, .sett, .guards, .eva, .trace, .obs, .nv, .cal, .log, .host, .draws]
        (fun d => Holds gaugeBlock 0x2E 0xFF d)) ∧
  (∀ c : Chip, c.latched = true → (c.sys.dev = .perGroup ∨ c.sys.dev = .standbyHeld) → c.shdnAsked = false →
    Runs (.modeChange .device .safe .faultA) c [.sys, .tb, .ph, .grp, .le, .setpt, .sweep, .sett, .guards, .eva, .trace, .obs, .nv, .cal, .log, .host, .draws]
        (fun d => d.sys.dev = .safe)) ∧
  (∀ c : Chip, ∀ g : Group, (c.grp[g]).mode = .standby → c.mayStart g = true → c.shdnAsked = false →
    Runs (.groupStart g) c [.tb, .ph, .grp, .le, .setpt, .sett, .eva, .trace, .obs, .log, .draws] (fun d => ∀ j : Group, (d.grp[j]).mode =
      if g = j then (if (c.grp[g]).cfg.preEn then .precharge else .softstart) else (c.grp[j]).mode))

/-- In PRECHARGE not yet complete: PRE_VEND held for 24 000 TK makes the group report COMPLETE, in its own record alone; PRE_TMAX passed since entry is
held as the fault 0x24 of the group. SS_TMAX passed since entry to SOFTSTART is held as its fault 0x25. LIGHTLOAD_ENTRY of a group that `llReady`,
its mode decided here, takes it to LIGHTLOAD and leaves every other mode. In a running mode PG_FILTER sets PG after sixteen conversions inside the
limits, clears it after sixteen outside, and else leaves it. RAMP_DONE, requested and the next report of an engine of the group: overtaken by a
later armed swap, it takes back the request and nothing else in the set-point file; else it clears RAMPING of the ACTIVE entry, which stands so
where no swap waits, and, with group modes and no SHDN_START asked for, ends a ramped stop in STANDBY, and SOFTSTART decided here in DERATED where
the group has fewer phases than assigned and in the mode that RUN_SEL names otherwise, the modes of the other groups standing. -/
def Obligations.PrechargeAndSoftstart : Prop :=
  (∀ c : Chip, ∀ g : Group, ∀ t : Nat, (c.grp[g]).preHold = some t → (c.grp[g]).mode = .precharge → (c.grp[g]).preDone = false →
    t + 24000 ≤ c.tb.count →
    Runs (.prechargeComplete g) c [.grp] (fun d => d.grp = vmod c.grp g (fun u => { u with preReq := true }))) ∧
  (∀ c : Chip, ∀ g : Group, (c.grp[g]).mode = .precharge → (c.grp[g]).preDone = false →
    (c.grp[g]).since + (c.grp[g]).cfg.preTmax * tkMs ≤ c.tb.count →
    Runs (.prechargeTimeout g) c [.sys, .tb, .ph, .grp, .le, .setpt, .sweep, .sett, .guards, .eva, .trace, .obs, .nv, .cal, .log, .host, .draws]
        (fun d => Holds (grpBlock g) 0x24 g.val d)) ∧
  (∀ c : Chip, ∀ g : Group, (c.grp[g]).mode = .softstart → (c.grp[g]).since + (c.grp[g]).cfg.ssTmax * tkMs ≤ c.tb.count →
    Runs (.softstartTimeout g) c [.sys, .tb, .ph, .grp, .le, .setpt, .sweep, .sett, .guards, .eva, .trace, .obs, .nv, .cal, .log, .host, .draws]
        (fun d => Holds (grpBlock g) 0x25 g.val d)) ∧
  (∀ c : Chip, ∀ g : Group, c.llReady g = true → c.decides g = true → c.shdnAsked = false →
    Runs (.lightloadEntry g) c [.sys, .tb, .ph, .grp, .le, .setpt, .sweep, .sett, .guards, .eva, .trace, .obs, .nv, .cal, .log, .host, .draws]
        (fun d => ∀ j : Group, (d.grp[j]).mode = if g = j then .lightload else (c.grp[j]).mode)) ∧
  (∀ c : Chip, ∀ g : Group, isRunning (c.grp[g]).mode = true →
    Runs (.pgFilter g) c [.grp] (fun d => d.grp = vmod c.grp g (fun u =>
      { u with pg := if 16 ≤ u.conv.pgIn then true else if 16 ≤ u.conv.pgOut then false else u.pg }))) ∧
  (∀ c : Chip, ∀ g : Group, ∀ e : Engine, c.setpt.rampReq[g] = some true → c.rampEngine g = some e →
    Runs (.rampDone g) c [.setpt, .le, .eva, .trace, .obs, .draws] (fun d => d.setpt = { c.setpt with rampReq := c.setpt.rampReq.set g none })) ∧
  (∀ c : Chip, ∀ g : Group, ∀ e : Engine, c.setpt.rampReq[g] = some false → c.rampEngine g = some e → c.sys.dev = .perGroup →
    (c.grp[g]).stopping = true → c.shdnAsked = false →
    Runs (.rampDone g) c [.sys, .tb, .ph, .grp, .le, .setpt, .sweep, .sett, .guards, .eva, .trace, .obs, .nv, .cal, .log, .host, .draws]
        (fun d => (c.setpt.pending = none → (d.setpt.active[g]).ramping = false) ∧
      ∀ j : Group, (d.grp[j]).mode = if g = j then .standby else (c.grp[j]).mode)) ∧
  (∀ c : Chip, ∀ g : Group, ∀ e : Engine, c.setpt.rampReq[g] = some false → c.rampEngine g = some e → c.sys.dev = .perGroup →
    (c.grp[g]).stopping = false → (c.grp[g]).mode = .softstart → c.decides g = true → c.gauge.lost = false →
    c.shdnAsked = false →
      Runs (.rampDone g) c [.sys, .tb, .ph, .grp, .le, .setpt, .sweep, .sett, .guards, .eva, .trace, .obs, .nv, .cal, .log, .host, .draws]
        (fun d => (c.setpt.pending = none → (d.setpt.active[g]).ramping = false) ∧ ∀ j : Group, (d.grp[j]).mode =
      if g = j then (if c.fewer g then .derated else c.runMode g) else (c.grp[j]).mode))

/-- Each at a tick from its position on; the time passes to that tick. PHASE_PERIOD_START of a phase whose period is due (`startDue`), in a group of
fixed period, with no reset, BOOT, hold-up or Class A fault holding the outputs off, the phase not added in this very group period, starts its
period PHn_OFS after the start of the group period; a phase that was switching ends its period before. FIRING_SLOT of a started group of COT or
COFF, under the same conditions on the phase whose turn it is, starts that phase's period at the position of the slot; at the slot of the lowest ROT
value, which follows the start of its group period, phases leave and join first (`turnRotation`); it counts the rotating phases, holds the firing
interval within its limits, passes the turn to the next phase of the rotation and lays the next slot one interval later; in COFF it may come later
still, where the pulse of the phase whose slot it is would else be shorter than 384 FS. No other phase changes but by that leaving and joining and,
in COFF, the phase of the next slot. GROUP_PERIOD_START of a group that runs starts its first period with the count and the position of `startIndex`
and `startPoint`, and every later one, at the position of `nextGroupPeriod`, with the count one higher. -/
def Obligations.PeriodStarts : Prop :=
  (∀ c : Chip, ∀ p : Phase, ∀ g : Group, ∀ t : Nat, ∀ o : PeriodObs, c.groupOf p = some g → c.ctrlUp = true → isFixed (c.grp[g]).cfg.mod = true →
    c.startDue p g t = true → (c.ph[p]).pl.switching = false → c.outputsHeld = false → (c.ph[p]).pl.addedIn ≠ some (c.grp[g]).pcnt →
    Runs (.phasePeriodStart p t o) c [.tb, .ph, .grp, .sett, .trace, .obs]
        (fun d => (d.ph[p]).pl.switching = true ∧ (d.ph[p]).pl.start = (c.grp[g]).perStart + (c.ph[p]).cfg.ofs ∧
      (∀ q : Phase, q ≠ p → d.ph[q] = c.ph[q]) ∧ d.tb.count = max c.tb.count t)) ∧
  (∀ c x : Chip, ∀ p : Phase, ∀ g : Group, ∀ t : Nat, ∀ o : PeriodObs, c.groupOf p = some g → c.ctrlUp = true → isFixed (c.grp[g]).cfg.mod = true →
    c.startDue p g t = true → (c.ph[p]).pl.switching = true →
    x = (c.elapseTo t).closePeriod p g ((c.grp[g]).perStart + (c.ph[p]).cfg.ofs) o → (x.ph[p]).pl.maySwitch = true → c.outputsHeld = false →
    (x.ph[p]).pl.addedIn ≠ some (c.grp[g]).pcnt →
    Runs (.phasePeriodStart p t o) c [.tb, .ph, .grp, .sett, .trace, .obs]
        (fun d => (d.ph[p]).pl.switching = true ∧ (d.ph[p]).pl.start = (c.grp[g]).perStart + (c.ph[p]).cfg.ofs ∧
      (∀ q : Phase, q ≠ p → d.ph[q] = x.ph[q]) ∧ d.tb.count = max c.tb.count t)) ∧
  (∀ c : Chip, ∀ g : Group, ∀ t : Nat, ∀ o : PeriodObs, ∀ p low : Phase, ∀ rest : List Phase, c.ctrlUp = true →
    isFixed (c.grp[g]).cfg.mod = false → (c.grp[g]).started = true → (c.grp[g]).slotAt ≤ t * 8 → c.passNext g = false → c.rotation g = low :: rest →
    turnOf low false (c.grp[g]).rotNext (low :: rest) = p → (c.ph[p]).pl.switching = false → (c.ph[p]).pl.maySwitch = true → c.outputsHeld = false →
    (c.ph[p]).pl.addedIn ≠ some (c.grp[g]).pcnt →
    Runs (.firingSlot g t o) c [.tb, .ph, .grp, .sett, .trace, .obs]
        (fun d => (d.ph[p]).pl.switching = true ∧ (d.ph[p]).pl.start = (c.grp[g]).slotAt ∧
      (∀ q : Phase, q ≠ p → ((c.grp[g]).cfg.mod = .cot ∨ q.val ≠ (d.grp[g]).rotNext) → d.ph[q] = c.ph[q]) ∧ d.tb.count = max c.tb.count t ∧
      (d.grp[g]).slotLast = (c.grp[g]).slotAt ∧
      (d.grp[g]).rotNext = (((((low :: rest).dropWhile (fun q => q != p)).drop 1).head?).getD low).val ∧
      (c.grp[g]).slotAt + clampTi (c.grp[g]).cfg (rest.length + 1) (c.grp[g]).ti ≤ (d.grp[g]).slotAt ∧
      ((c.grp[g]).cfg.mod = .cot → d.grp = vmod c.grp g (fun u => { u with
        rotCount := rest.length + 1
        ti := clampTi u.cfg (rest.length + 1) u.ti
        rotNext := (((((low :: rest).dropWhile (fun q => q != p)).drop 1).head?).getD low).val
        slotLast := u.slotAt
        slotAt := u.slotAt + clampTi u.cfg (rest.length + 1) u.ti
        conv := { u.conv with slotEv := true } })))) ∧
  (∀ c x : Chip, ∀ g : Group, ∀ t : Nat, ∀ o : PeriodObs, ∀ low : Phase, ∀ rest : List Phase, c.ctrlUp = true →
    isFixed (c.grp[g]).cfg.mod = false → (c.grp[g]).started = true → (c.grp[g]).slotAt ≤ t * 8 → c.passNext g = true → c.slotReady g = true →
    x = (c.elapseTo t).turnRotation g (c.grp[g]).slotAt o → x.rotation g = low :: rest → (x.ph[low]).pl.switching = false →
    (x.ph[low]).pl.maySwitch = true → c.outputsHeld = false → (x.ph[low]).pl.addedIn ≠ some (c.grp[g]).pcnt →
    Runs (.firingSlot g t o) c [.tb, .ph, .grp, .sett, .trace, .obs]
        (fun d => (d.ph[low]).pl.switching = true ∧ (d.ph[low]).pl.start = (c.grp[g]).slotAt ∧
      (∀ q : Phase, q ≠ low → ((c.grp[g]).cfg.mod = .cot ∨ q.val ≠ (d.grp[g]).rotNext) → d.ph[q] = x.ph[q]) ∧
      (d.grp[g]).rotCount = rest.length + 1 ∧ (c.grp[g]).slotAt + clampTi (c.grp[g]).cfg (rest.length + 1) (c.grp[g]).ti ≤ (d.grp[g]).slotAt ∧
      ((c.grp[g]).cfg.mod = .cot → (d.grp[g]).slotAt = (c.grp[g]).slotAt + clampTi (c.grp[g]).cfg (rest.length + 1) (c.grp[g]).ti) ∧ d.tb.count = max c.tb.count t)) ∧
  (∀ c : Chip, ∀ g : Group, ∀ t : Nat, c.ctrlUp = true → c.groupRuns g = true → (c.grp[g]).started = false → c.startPoint g ≤ t * 8 →
    Runs (.groupPeriodStart g t) c [.tb, .ph, .grp, .sett, .trace, .obs]
        (fun d => (d.grp[g]).started = true ∧ (d.grp[g]).pcnt = c.startIndex g % 2 ^ 28 ∧
      (d.grp[g]).perStart = c.startPoint g ∧ (d.grp[g]).slotAt = c.startPoint g ∧ d.tb.count = max c.tb.count t)) ∧
  (∀ c : Chip, ∀ g : Group, ∀ t x : Nat, c.ctrlUp = true → c.groupRuns g = true → (c.grp[g]).started = true → c.nextGroupPeriod g = some x →
    x ≤ t * 8 →
    Runs (.groupPeriodStart g t) c [.tb, .ph, .grp, .sett, .trace, .obs]
        (fun d => (d.grp[g]).pcnt = ((c.grp[g]).pcnt + 1) % 2 ^ 28 ∧ (d.grp[g]).perStart = x ∧
      d.tb.count = max c.tb.count t))

/-- TRIP_ASSERT, of a level that is not set, sets the filtered level of its phase once its samples have passed, and a PH_TRIP of the phase that stands
has its condition again; out of a switching period that is all it does to the phases; in a period not yet tripped it also cuts it, marks it tripped
and counts it, in TOTAL, RUN and OBS counter 13, every other phase standing. TRIP_DEASSERT of a level that is set clears it alone, once its samples
have passed. Where the level is so already, either changes nothing. Of a phase with a group and not FAULTED, PH_TRIP, where the run of tripped
periods has reached TRIP_K, is held in the phase's guard as the fault 0x10, and PH_OPEN, whose third failure is yet to be granted, as 0x11.
SHOOT_REQ latches the Class A fault 0x01 of the phase's guard. DIAG_WINDOW_LAPSE of a phase that runs, with its window passed and not marked
UNVERIFIED: where stretching is enabled and none waits it asks for a stretch, in the phase's record alone; where stretching is disabled, or the wait
for a stretch has run out, it marks the phase UNVERIFIED and not VERIFIED, with the warning 0x51 where none was logged in this start. -/
def Obligations.TripsAndDiagnosis : Prop :=
  (∀ c : Chip, ∀ p : Phase, c.ctrlUp = true → (c.ph[p]).pl.tripIn = false → (c.ph[p]).pl.switching = false →
    Runs (.tripAssert p) c [.tb, .ph, .sett, .guards, .trace, .obs] (fun d => d.tb.count = max c.tb.count (c.ph[p]).tripNext ∧
      d.ph = vmod c.ph p (fun u => { u with pl := { u.pl with tripIn := true, tripAt := max c.tb.count (c.ph[p]).tripNext } }) ∧
      (∀ f ∈ (d.guards[phBlock p]).faults, f.code = 0x10 → f.unit = p.val → f.present = true) ∧ d.obs[(13 : Fin 32)] = c.obs[(13 : Fin 32)])) ∧
  (∀ c : Chip, ∀ p : Phase, (c.ph[p]).pl.tripIn = true → Runs (.tripAssert p) c [] (fun d => d = c)) ∧
  (∀ c : Chip, ∀ p : Phase, (c.ph[p]).pl.tripIn = false → Runs (.tripDeassert p) c [] (fun d => d = c)) ∧
  (∀ c : Chip, ∀ p : Phase, c.ctrlUp = true → (c.ph[p]).pl.tripIn = false → (c.ph[p]).pl.switching = true → (c.ph[p]).pl.tripped = false →
    Runs (.tripAssert p) c [.tb, .ph, .sett, .guards, .trace, .obs]
        (fun d => (d.ph[p]).pl.tripIn = true ∧ (d.ph[p]).pl.cut = true ∧ (d.ph[p]).pl.tripped = true ∧
      (d.ph[p]).pl.tripRun = satInc 255 (c.ph[p]).pl.tripRun ∧ (d.ph[p]).pl.tripTotal = satInc 0xFFFFFF (c.ph[p]).pl.tripTotal ∧
      (∀ q : Phase, q ≠ p → d.ph[q] = c.ph[q]) ∧ d.obs[(13 : Fin 32)] = c.obs[(13 : Fin 32)] + 1)) ∧
  (∀ c : Chip, ∀ p : Phase, c.ctrlUp = true → (c.ph[p]).pl.tripIn = true →
    Runs (.tripDeassert p) c [.tb, .ph, .sett, .trace, .obs]
        (fun d => d.ph = vmod c.ph p (fun u => { u with pl := { u.pl with tripIn := false, tripAt := max c.tb.count (c.ph[p]).tripNext } }))) ∧
  (∀ c : Chip, ∀ p : Phase, (c.groupOf p).isSome = true → (c.ph[p]).pl.tripHeld (c.ph[p]).cfg = true → (c.ph[p]).pl.pstate ≠ .faulted →
    Runs (.phTrip p) c [.sys, .tb, .ph, .grp, .le, .setpt, .sweep, .sett, .guards, .eva, .trace, .obs, .nv, .cal, .log, .host, .draws]
        (fun d => Holds (phBlock p) 0x10 p.val d)) ∧
  (∀ c : Chip, ∀ p : Phase, ∀ high : Bool, c.ctrlUp = true →
    Runs (.shootReq p high) c [.sys, .tb, .ph, .grp, .le, .setpt, .sweep, .sett, .guards, .eva, .trace, .obs, .nv, .cal, .log, .host, .draws]
        (fun d => (d.guards[phBlock p]).aCode = 0x01)) ∧
  (∀ c : Chip, ∀ p : Phase, (c.groupOf p).isSome = true → (c.ph[p]).bal.openDue = true → (c.ph[p]).pl.pstate ≠ .faulted →
    Runs (.phOpen p) c [.sys, .tb, .ph, .grp, .le, .setpt, .sweep, .sett, .guards, .eva, .trace, .obs, .nv, .cal, .log, .host, .draws]
        (fun d => Holds (phBlock p) 0x11 p.val d)) ∧
  (∀ c : Chip, ∀ p : Phase, ∀ g : Group, c.groupOf p = some g → (c.counting g).contains p = true →
    (c.grp[g]).cfg.window ≤ (c.ph[p]).bal.since → (c.ph[p]).bal.unverified = false → (c.grp[g]).cfg.stretchEn = true →
    (c.ph[p]).bal.stretchWait = none →
    Runs (.diagWindowLapse p) c [.ph] (fun d => d.ph = vmod c.ph p (fun u => { u with bal := { u.bal with stretchWait := some 16 } }))) ∧
  (∀ c : Chip, ∀ p : Phase, ∀ g : Group, c.groupOf p = some g → (c.counting g).contains p = true →
    (c.grp[g]).cfg.window ≤ (c.ph[p]).bal.since → (c.ph[p]).bal.unverified = false →
    ((c.grp[g]).cfg.stretchEn = false ∨ (c.ph[p]).bal.stretchWait = some 0) →
    Runs (.diagWindowLapse p) c [.ph, .guards, .eva, .trace, .obs, .nv, .log, .draws]
        (fun d => (d.ph[p]).bal.unverified = true ∧ (d.ph[p]).bal.verified = false ∧
      ((c.ph[p]).bal.logged = false → Warned (phBlock p) 0x51 c d)))

/-- BAL_PASS of a group that runs ends the pass that is due and empties its sums, and changes no group's mode. PH_STATE of a phase with a group takes
the oldest report of the phase: in a group that is in no switching mode, the phases change in that alone and one event is granted; in a group in a
switching mode, decided here and with group modes, whose healthy phases are fewer than DER_MIN, the fault 0x26 of the group is held. -/
def Obligations.BalanceAndPhaseStates : Prop :=
  (∀ c : Chip, ∀ g : Group, (c.grp[g]).bal.passDue = true → c.groupRuns g = true →
    Runs (.balPass g) c [.ph, .grp, .guards, .eva, .trace, .obs, .nv, .log, .draws]
        (fun d => (d.grp[g]).bal.passDue = false ∧ (d.grp[g]).bal.passSum = 0 ∧ (d.grp[g]).bal.passN = 0 ∧
      ∀ j : Group, (d.grp[j]).mode = (c.grp[j]).mode)) ∧
  (∀ c : Chip, ∀ p : Phase, ∀ g : Group, ∀ s : PState, ∀ rest : List PState, c.groupOf p = some g → (c.ph[p]).pl.reports = s :: rest →
    isSwitchingMode (c.grp[g]).mode = false →
    Runs (.phState p) c [.sys, .tb, .ph, .grp, .le, .setpt, .sweep, .sett, .guards, .eva, .trace, .obs, .nv, .cal, .log, .host, .draws]
        (fun d => d.ph = vmod c.ph p (fun u => { u with pl := { u.pl with reports := rest } }) ∧ Granted c d)) ∧
  (∀ c : Chip, ∀ p : Phase, ∀ g : Group, ∀ s : PState, ∀ rest : List PState, c.groupOf p = some g → (c.ph[p]).pl.reports = s :: rest →
    c.decides g = true → c.sys.dev = .perGroup → isSwitchingMode (c.grp[g]).mode = true → c.healthyAll g < (c.grp[g]).cfg.derMin →
    Runs (.phState p) c [.sys, .tb, .ph, .grp, .le, .setpt, .sweep, .sett, .guards, .eva, .trace, .obs, .nv, .cal, .log, .host, .draws]
        (fun d => Holds (grpBlock g) 0x26 g.val d))

/-- With the CTRL domain up: TB_LOCK leads from ACQUIRE to LOCKED. REFERENCE_LOST leads from LOCKED and RELOCK to HOLDOVER and from ACQUIRE to FREERUN,
is counted in LOSSES and warned of, two events being granted. REFERENCE_QUALIFIED leads from HOLDOVER to RELOCK and from FREERUN to ACQUIRE with one
event. RELOCK_COMPLETE leads from RELOCK to LOCKED, is counted and warned of. TB_LIMIT of a suppressed tick in ACQUIRE, FREERUN or RELOCK is counted
and remembered, and nothing else changes; in any other state, or without suppression, it latches the Class A fault 0x02 of the timebase.
TB_FERR_MEASURE shows an error that its field can hold, and nothing else changes; of one that it cannot hold it shows some value, which the spec
does not give. With the CTRL domain up: REF_READY sets REF_RDY of its reference, that of VDDA where RAILS_OK is set, and no other field of the
references. REF_LOST of the external reference clears its REF_RDY and is counted up to 7; of VDDA, with RAILS_OK clear, it clears its REF_RDY;
either is held as the fault 0x22 against every group of this device in a mode other than OFF, BOOT, STANDBY and SAFE that converts with it. REF_LOST
of the internal reference changes nothing. -/
def Obligations.TimebaseAndReferences : Prop :=
  (∀ c : Chip, c.ctrlUp = true → c.tb.st = .acquire →
    Runs (.tbLock) c [.sys, .tb, .ph, .grp, .le, .setpt, .sweep, .sett, .guards, .eva, .trace, .obs, .nv, .cal, .log, .host, .draws]
      (fun d => d.tb = { c.tb with st := .locked, holdover := false })) ∧
  (∀ c : Chip, c.ctrlUp = true → (c.tb.st = .locked ∨ c.tb.st = .relock) →
    Runs (.referenceLost) c [.tb, .sett, .guards, .eva, .trace, .obs, .nv, .log, .draws]
        (fun d => d.tb = { c.tb with st := .holdover, holdover := true, refPresent := false, losses := c.tb.losses + 1 } ∧
      (d.guards[tbBlock]).c = true ∧ (d.guards[tbBlock]).cCode = 0x48 ∧ d.obs[(19 : Fin 32)] = c.obs[(19 : Fin 32)] + 1 ∧ d.eva.seq = c.eva.seq + 2)) ∧
  (∀ c : Chip, c.ctrlUp = true → c.tb.st = .acquire →
    Runs (.referenceLost) c [.tb, .sett, .guards, .eva, .trace, .obs, .nv, .log, .draws]
        (fun d => d.tb = { c.tb with st := .freerun, refPresent := false, losses := c.tb.losses + 1 } ∧ (d.guards[tbBlock]).c = true ∧ (d.guards[tbBlock]).cCode = 0x48 ∧ d.obs[(19 : Fin 32)] = c.obs[(19 : Fin 32)] + 1 ∧ d.eva.seq = c.eva.seq + 2)) ∧
  (∀ c : Chip, c.ctrlUp = true → c.tb.st = .holdover →
    Runs (.referenceQualified) c [.tb, .sett, .eva, .trace, .obs, .draws]
        (fun d => d.tb = { c.tb with st := .relock, refPresent := true } ∧ Granted c d)) ∧
  (∀ c : Chip, c.ctrlUp = true → c.tb.st = .freerun →
    Runs (.referenceQualified) c [.tb, .sett, .eva, .trace, .obs, .draws]
        (fun d => d.tb = { c.tb with st := .acquire, refPresent := true } ∧ Granted c d)) ∧
  (∀ c : Chip, c.ctrlUp = true → c.tb.st = .relock →
    Runs (.relockComplete) c [.tb, .ph, .grp, .le, .setpt, .sett, .guards, .eva, .trace, .obs, .nv, .log, .draws]
        (fun d => d.tb = { c.tb with st := .locked, holdover := false, relocks := c.tb.relocks + 1 } ∧ (d.guards[tbBlock]).c = true ∧ (d.guards[tbBlock]).cCode = 0x49)) ∧
  (∀ c : Chip, c.ctrlUp = true → (c.tb.st = .acquire ∨ c.tb.st = .freerun ∨ c.tb.st = .relock) →
    Runs (.tbLimit true) c [.tb] (fun d => d.tb = { c.tb with limCnt := satInc 0xFFFFFFFF c.tb.limCnt, limitSeen := true })) ∧
  (∀ c : Chip, ∀ s : Bool, c.ctrlUp = true → (s = false ∨ c.tb.st = .locked ∨ c.tb.st = .holdover) →
    Runs (.tbLimit s) c [.sys, .tb, .ph, .grp, .le, .setpt, .sweep, .sett, .guards, .eva, .trace, .obs, .nv, .cal, .log, .host, .draws]
        (fun d => (d.guards[tbBlock]).aCode = 0x02)) ∧
  (∀ c : Chip, ∀ ppm : Int, c.ctrlUp = true → -32768 ≤ ppm → ppm ≤ 32767 →
    Runs (.tbFerrMeasure ppm) c [.tb] (fun d => d.tb = { c.tb with ferr := ppm })) ∧
  (∀ c : Chip, ∀ ppm : Int, c.ctrlUp = true → ¬(-32768 ≤ ppm ∧ ppm ≤ 32767) →
    Runs (.tbFerrMeasure ppm) c [.tb, .draws] (fun d => ∃ v : Int, d.tb = { c.tb with ferr := v })) ∧
  (∀ c : Chip, ∀ r : RefSel, c.ctrlUp = true → (r = .vdda → c.railsOk = true) →
    Runs (.refReady r) c [.tb, .ph, .grp, .le, .setpt, .refs, .sett, .eva, .trace, .obs, .log, .draws]
      (fun d => d.refs = c.refs.setReady r true)) ∧
  (∀ c : Chip, c.ctrlUp = true → c.refs.ext_ = true →
    Runs (.refLost .external) c [.sys, .tb, .ph, .grp, .le, .setpt, .refs, .sweep, .sett, .guards, .eva, .trace, .obs, .nv, .cal, .log, .host, .draws]
        (fun d => d.refs = { c.refs with ext_ := false, losses := satInc 7 c.refs.losses } ∧
      ∀ g ∈ c.refUsers .external, Holds adcBlock 0x22 g.val d)) ∧
  (∀ c : Chip, c.ctrlUp = true → c.refs.vdda = true → c.railsOk = false →
    Runs (.refLost .vdda) c [.sys, .tb, .ph, .grp, .le, .setpt, .refs, .sweep, .sett, .guards, .eva, .trace, .obs, .nv, .cal, .log, .host, .draws]
        (fun d => d.refs = { c.refs with vdda := false } ∧ ∀ g ∈ c.refUsers .vdda, Holds adcBlock 0x22 g.val d)) ∧
  (∀ c : Chip, Runs (.refLost .internal) c [] (fun d => d = c))

/-- PHASE_TRIGGER at the tick at which the trigger falls in the period in progress (`trigAt`), with the CTRL domain up, in a period that carries no
diagnosis and where it has not fired yet: it is marked as fired, and starts a conversion where the last one lies 150 TK back and it does not yield
to TRIGA on the same tick; else it is dropped and counted. No other field of the phases changes, and the time passes to the tick.
PHASE_CONVERSION_DONE takes the oldest conversion in progress, advances SEQ, the converter's count and OBS counter 11, and writes the result word to
the register of its trigger alone, every other phase standing; one made without its reference changes neither placer nor BAL; one at or above
OC_LEVEL, or at an end of the code range, in a switching period not yet tripped, cuts and trips the period, OBS counter 13 counting it. -/
def Obligations.PhaseConversions : Prop :=
  (∀ c : Chip, ∀ p : Phase, ∀ g : Group, ∀ k : Trig, ∀ t : Nat, c.groupOf p = some g → c.ctrlUp = true → (c.ph[p]).pl.plan.diag = false →
    (c.ph[p]).pl.fired k = false → c.trigAt g p k = some t → accepts (c.ph[p]).conv.lastTrig t = true → c.yieldsToA g p k t = false →
    Runs (.phaseTrigger p k t) c [.tb, .ph, .sett, .trace, .obs]
        (fun d => d.ph = vmod c.ph p (fun u => { u with pl := u.pl.setFired k, conv := { u.conv with
        lastTrig := some t
        flights := u.conv.flights ++ [{ trig := t, per := u.pl.periods, notReady := !c.refReady c.refs.refPh
                                        purpose := match k with
                                          | .a => .a
                                          | .b => .b }] } }) ∧ d.tb.count = max c.tb.count t)) ∧
  (∀ c : Chip, ∀ p : Phase, ∀ g : Group, ∀ k : Trig, ∀ t : Nat, c.groupOf p = some g → c.ctrlUp = true → (c.ph[p]).pl.plan.diag = false →
    (c.ph[p]).pl.fired k = false → c.trigAt g p k = some t → (accepts (c.ph[p]).conv.lastTrig t = false ∨ c.yieldsToA g p k t = true) →
    Runs (.phaseTrigger p k t) c [.tb, .ph, .sett, .trace, .obs]
        (fun d => d.ph = vmod c.ph p (fun u => { u with pl := u.pl.setFired k, conv := { u.conv with
        drop := satInc 0xFFFFFFFF u.conv.drop } }) ∧ d.tb.count = max c.tb.count t)) ∧
  (∀ c : Chip, ∀ p : Phase, ∀ code : Int, ∀ f : Flight, ∀ rest : List Flight, (c.ph[p]).conv.flights = f :: rest →
    Runs (.phaseConversionDone p code) c [.ph, .guards, .obs] (fun d =>
      (d.ph[p]).conv.flights = rest ∧ (d.ph[p]).conv.seq = (c.ph[p]).conv.seq + 1 ∧ (d.ph[p]).conv.cnt = (c.ph[p]).conv.cnt + 1 ∧
      (d.ph[p]).conv.resA = (if f.purpose = .a then
        resultWord 12 c.refs.alignPh f.notReady (codeOvr 12 (clampInt (-2048) 2047 code)) false (c.ph[p]).conv.seq (clampInt (-2048) 2047 code)
        else (c.ph[p]).conv.resA) ∧
      (d.ph[p]).conv.resB = (if f.purpose = .b then
        resultWord 12 c.refs.alignPh f.notReady (codeOvr 12 (clampInt (-2048) 2047 code)) false (c.ph[p]).conv.seq (clampInt (-2048) 2047 code)
        else (c.ph[p]).conv.resB) ∧
      (∀ q : Phase, q ≠ p → d.ph[q] = c.ph[q]) ∧ d.obs[(11 : Fin 32)] = c.obs[(11 : Fin 32)] + 1 ∧
      (f.notReady = true → (d.ph[p]).pl = (c.ph[p]).pl ∧ (d.ph[p]).bal = (c.ph[p]).bal))) ∧
  (∀ c : Chip, ∀ p : Phase, ∀ code : Int, ∀ f : Flight, ∀ rest : List Flight, (c.ph[p]).conv.flights = f :: rest → f.notReady = false →
    0 < (c.ph[p]).cfg.ocLevel →
    (codeOvr 12 (clampInt (-2048) 2047 code) = true ∨ (c.ph[p]).cfg.ocLevel ≤ (clampInt (-2048) 2047 code - (c.ph[p]).cfg.offs).natAbs) →
    (c.ph[p]).pl.switching = true → (c.ph[p]).pl.tripped = false →
    Runs (.phaseConversionDone p code) c [.ph, .guards, .obs]
        (fun d => (d.ph[p]).pl.cut = true ∧ (d.ph[p]).pl.tripped = true ∧ (d.ph[p]).conv.belowOc = false ∧
      d.obs[(13 : Fin 32)] = c.obs[(13 : Fin 32)] + 1))

/-- GROUP_VOLTAGE_TRIGGER with a phase pulsing, at a tick at which the source of the group has an event (`takeEvent`): the event is counted; one that is
no (DEC+1)-th starts no conversion; a (DEC+1)-th starts one where the last one lies 150 TK back, and is else counted as skipped. GROUP_FREE_RUN with
none pulsing, out of BOOT and hold-up, at a multiple of 2400 TK from where the free run counts, starts a conversion where the last one lies 150 TK
back. GROUP_CONVERSION_DONE, with no current result of its tick still to come that it includes, takes the oldest conversion in progress, advances
SEQ and OBS counter 12 and writes the result word; a remote one while CHECKING delivers no value; any other one delivers the corrected value with
its tick, and a ready one hands it to the guards, the engines and telemetry (`useGv`), while one that lacked its reference gives telemetry no value
and makes no OV request. -/
def Obligations.GroupConversions : Prop :=
  (∀ c : Chip, ∀ g : Group, ∀ t : Nat, c.ctrlUp = true → c.pulsing g = true → ((c.elapseTo t).takeEvent g t).isSome = true →
    ((c.grp[g]).conv.events + 1) % ((c.grp[g]).cfg.dec + 1) ≠ 0 →
    Runs (.groupVoltageTrigger g t) c [.tb, .ph, .grp, .sett, .trace, .obs] (fun d => (d.grp[g]).conv.events = (c.grp[g]).conv.events + 1 ∧
      (d.grp[g]).conv.flights = (c.grp[g]).conv.flights ∧ (d.grp[g]).conv.skip = (c.grp[g]).conv.skip ∧ d.tb.count = max c.tb.count t)) ∧
  (∀ c : Chip, ∀ g : Group, ∀ t : Nat, c.ctrlUp = true → c.pulsing g = true → ((c.elapseTo t).takeEvent g t).isSome = true →
    ((c.grp[g]).conv.events + 1) % ((c.grp[g]).cfg.dec + 1) = 0 → accepts (c.grp[g]).conv.lastTrig t = true →
    Runs (.groupVoltageTrigger g t) c [.tb, .ph, .grp, .sett, .trace, .obs]
        (fun d => (d.grp[g]).conv.lastTrig = some t ∧ (d.grp[g]).conv.events = (c.grp[g]).conv.events + 1 ∧
      (d.grp[g]).conv.flights.length = (c.grp[g]).conv.flights.length + 1 ∧ (d.grp[g]).conv.skip = (c.grp[g]).conv.skip)) ∧
  (∀ c : Chip, ∀ g : Group, ∀ t : Nat, c.ctrlUp = true → c.pulsing g = true → ((c.elapseTo t).takeEvent g t).isSome = true →
    ((c.grp[g]).conv.events + 1) % ((c.grp[g]).cfg.dec + 1) = 0 → accepts (c.grp[g]).conv.lastTrig t = false →
    Runs (.groupVoltageTrigger g t) c [.tb, .ph, .grp, .sett, .trace, .obs] (fun d => (d.grp[g]).conv.skip = satInc 0xFFFF (c.grp[g]).conv.skip ∧
      (d.grp[g]).conv.events = (c.grp[g]).conv.events + 1 ∧ (d.grp[g]).conv.flights = (c.grp[g]).conv.flights)) ∧
  (∀ c : Chip, ∀ g : Group, ∀ t : Nat, c.ctrlUp = true → c.outOfBoot = true → c.sys.holdup = false → c.pulsing g = false →
    c.freeFrom g < t → (t - c.freeFrom g) % 2400 = 0 → accepts (c.grp[g]).conv.lastTrig t = true →
    Runs (.groupFreeRun g t) c [.tb, .grp, .sett, .trace, .obs] (fun d => (d.grp[g]).conv.lastTrig = some t ∧
      (d.grp[g]).conv.flights.length = (c.grp[g]).conv.flights.length + 1 ∧ d.tb.count = max c.tb.count t)) ∧
  (∀ c : Chip, ∀ g : Group, ∀ code n : Int, ∀ ok : Bool, ∀ f : Flight, ∀ rest : List Flight, (c.grp[g]).conv.flights = f :: rest →
    f.notReady = false → c.awaitsPhase g f = false → ((c.grp[g]).conv.checking = false ∨ f.local_ = true) →
    n = clampInt (gvRange ((c.grp[g]).cfg.diff && !f.local_)).1 (gvRange ((c.grp[g]).cfg.diff && !f.local_)).2 code →
    Runs (.groupConversionDone g code ok) c [.sys, .tb, .ph, .grp, .le, .setpt, .lcmd, .sweep, .sett, .guards, .eva, .trace, .obs, .nv, .cal, .log, .host, .draws]
        (fun d => ∃ m : Chip, ∃ v : Int, ∃ w : Word, v = (c.grp[g]).cfg.corrected f.local_ n ∧
      w = resultWord 14 c.refs.alignGv false (decide (n = (gvRange ((c.grp[g]).cfg.diff && !f.local_)).1) ||
        decide (n = (gvRange ((c.grp[g]).cfg.diff && !f.local_)).2)) f.local_ (c.grp[g]).conv.seq n ∧
      (m.grp[g]).conv.flights = rest ∧ (m.grp[g]).conv.seq = (c.grp[g]).conv.seq + 1 ∧ (m.grp[g]).conv.res = w ∧ (m.grp[g]).conv.v = v ∧
      (m.grp[g]).conv.vTick = f.trig ∧ (m.grp[g]).conv.vValid = true ∧ (∀ j : Group, j ≠ g → m.grp[j] = c.grp[j]) ∧
      m.obs[(12 : Fin 32)] = c.obs[(12 : Fin 32)] + 1 ∧ Keeps [.grp, .obs] c m ∧ d = m.useGv g f.trig v w)) ∧
  (∀ c : Chip, ∀ g : Group, ∀ code : Int, ∀ ok : Bool, ∀ f : Flight, ∀ rest : List Flight, (c.grp[g]).conv.flights = f :: rest →
    f.notReady = true → c.awaitsPhase g f = false → ((c.grp[g]).conv.checking = false ∨ f.local_ = true) →
    Runs (.groupConversionDone g code ok) c [.sys, .tb, .ph, .grp, .le, .setpt, .lcmd, .sweep, .sett, .guards, .eva, .trace, .obs, .nv, .cal, .log, .host, .draws]
        (fun d => (d.grp[g]).conv.flights = rest ∧ (d.grp[g]).conv.seq = (c.grp[g]).conv.seq + 1 ∧
      (d.grp[g]).conv.vNotReady = true ∧ (d.grp[g]).conv.vLast = (c.grp[g]).conv.vLast ∧
      (d.grp[g]).conv.vAvg = (c.grp[g]).conv.vAvg ∧ (d.grp[g]).conv.ovReq = (c.grp[g]).conv.ovReq ∧
      d.obs[(12 : Fin 32)] = c.obs[(12 : Fin 32)] + 1)) ∧
  (∀ c : Chip, ∀ g : Group, ∀ code : Int, ∀ ok : Bool, ∀ f : Flight, ∀ rest : List Flight, (c.grp[g]).conv.flights = f :: rest →
    c.awaitsPhase g f = false → (c.grp[g]).conv.checking = true → f.local_ = false →
    Runs (.groupConversionDone g code ok) c [.sys, .tb, .ph, .grp, .le, .setpt, .lcmd, .sweep, .sett, .guards, .eva, .trace, .obs, .nv, .cal, .log, .host, .draws]
        (fun d => (d.grp[g]).conv.flights = rest ∧ (d.grp[g]).conv.seq = (c.grp[g]).conv.seq + 1 ∧
      (d.grp[g]).conv.v = (c.grp[g]).conv.v ∧ d.obs[(12 : Fin 32)] = c.obs[(12 : Fin 32)] + 1))

/-- GRP_OV of a group whose request waits holds its fault 0x20, and no OV request of any group waits any more. GRP_OV_WARN of a group with phases, after
sixteen conversions above OV_WARN in a run that has not been warned of, marks the run and gives the warning 0x4C. SENSE_LOST of a differential
group, after sixteen remote conversions out of range, its sense not lost yet: with LOSS_WARN, or on a member of a spanning group, the sense is lost,
the group goes on its local pair and the warning 0x21 is given; without LOSS_WARN and not on a member the fault 0x21 is held. SENSE_BACK after
sixteen conversions in range while CHECKING brings the sense back, with the warning 0x4B. FF_VIN_UPDATE of an enabled engine with a feed-forward,
whose group has a law in force, gives that engine what `ffUpdate` says, with the warning 0x4F where that says so, and the other engines nothing. -/
def Obligations.GroupSenseAndGuards : Prop :=
  (∀ c : Chip, ∀ g : Group, ∀ w : Word × Bool, (c.grp[g]).conv.ovReq = some w →
    Runs (.grpOv g) c [.sys, .tb, .ph, .grp, .le, .setpt, .sweep, .sett, .guards, .eva, .trace, .obs, .nv, .cal, .log, .host, .draws]
        (fun d => Holds (grpBlock g) 0x20 g.val d ∧ ∀ j : Group, (d.grp[j]).conv.ovReq = none)) ∧
  (∀ c : Chip, ∀ g : Group, 16 ≤ (c.grp[g]).conv.ovwRun → (c.grp[g]).conv.ovwDone = false → c.phasesOf g ≠ [] →
    Runs (.grpOvWarn g) c [.grp, .guards, .eva, .trace, .obs, .nv, .log, .draws]
        (fun d => (d.grp[g]).conv.ovwDone = true ∧ Warned (grpBlock g) 0x4C c d)) ∧
  (∀ c : Chip, ∀ g : Group, 16 ≤ (c.grp[g]).conv.oorRun → (c.grp[g]).conv.lost = false → (c.grp[g]).cfg.diff = true →
    ((c.grp[g]).cfg.lossWarn = true ∨ c.isMember g = true) →
    Runs (.senseLost g) c [.sys, .tb, .ph, .grp, .le, .setpt, .sweep, .sett, .guards, .eva, .trace, .obs, .nv, .cal, .log, .host, .draws]
        (fun d => (d.grp[g]).conv.lost = true ∧ (d.grp[g]).conv.onLocal = true ∧ Warned (grpBlock g) 0x21 c d)) ∧
  (∀ c : Chip, ∀ g : Group, 16 ≤ (c.grp[g]).conv.oorRun → (c.grp[g]).conv.lost = false → (c.grp[g]).cfg.diff = true →
    (c.grp[g]).cfg.lossWarn = false → c.isMember g = false →
    Runs (.senseLost g) c [.sys, .tb, .ph, .grp, .le, .setpt, .sweep, .sett, .guards, .eva, .trace, .obs, .nv, .cal, .log, .host, .draws]
        (fun d => Holds (grpBlock g) 0x21 g.val d)) ∧
  (∀ c : Chip, ∀ g : Group, (c.grp[g]).conv.lost = true → (c.grp[g]).conv.checking = true → 16 ≤ (c.grp[g]).conv.inRun →
    Runs (.senseBack g) c [.grp, .guards, .eva, .trace, .obs, .nv, .log, .draws]
        (fun d => (d.grp[g]).conv.lost = false ∧ (d.grp[g]).conv.onLocal = false ∧ (d.grp[g]).conv.checking = false ∧
      Warned (grpBlock g) 0x4B c d)) ∧
  (∀ c : Chip, ∀ e : Engine, ∀ g : Group, groupAt (c.le[e]).cfg.group = some g → (c.le[e]).cfg.en = true → (c.le[e]).cfg.vffMode ≠ 0 →
    c.law g ≠ .idle →
    Runs (.ffVinUpdate e) c [.le, .guards, .eva, .trace, .obs, .nv, .log, .draws]
        (fun d => d.le = c.le.set e (c.ffUpdate g e).1 ∧ ((c.ffUpdate g e).2 = true → Warned (leBlock e) 0x4F c d)))

/-- AUX_CONVERSION with the CTRL domain up, out of BOOT and with no conversion in progress, converts the next enabled slot (`nextSlot`) and marks
whether its reference was ready. AUX_CONVERSION_DONE frees the sequencer, advances SEQ and writes the slot's result word, every other slot standing;
without its reference the slot's value stands, and SYS with it. -/
def Obligations.AuxConversions : Prop :=
  (∀ c : Chip, ∀ s : Slot, c.ctrlUp = true → c.outOfBoot = true → c.aux.busy = none → c.aux.nextSlot c.aux.next = some s →
    Runs (.auxConversion) c [.aux] (fun d => d.aux = { c.aux with busy := some (s.val, !c.refReady (c.aux.slots[s]).refOf), next := s.val + 1 })) ∧
  (∀ c : Chip, ∀ code : Nat, ∀ die : Int, ∀ s : Slot, ∀ notReady : Bool, c.aux.busy = some (s.val, notReady) →
    Runs (.auxConversionDone code die) c [.sys, .tb, .ph, .grp, .le, .setpt, .aux, .sweep, .sett, .guards, .eva, .trace, .obs, .nv, .cal, .log, .host, .draws]
        (fun d => d.aux.busy = none ∧ d.aux.seq = c.aux.seq + 1 ∧
      (d.aux.slots[s]).res = resultWord 16 false notReady
        ((c.aux.value c.aux.slots[s] (min code 65535) die).2 || decide (min code 65535 = 0) || decide (min code 65535 = 65535)) false c.aux.seq
        ((min code 65535 : Nat) : Int) ∧
      (notReady = true → (d.aux.slots[s]).val = (c.aux.slots[s]).val ∧ d.sys = c.sys) ∧
      ∀ r : Slot, r ≠ s → d.aux.slots[r] = c.aux.slots[r]))

/-- SWAP_REQUEST with no swap pending requests one of SHADOW as it stands; with one pending it changes nothing. SETPOINT_SWAP of a pending swap is
granted, and counted in SWAPS and OBS counter 8; each group that the swap names takes REF_TO, SET and PH_MAX from its SHADOW entry, with RAMP_T0 the
tick of the grant and REF_FROM the entry's own in a restart and else the reference at that tick; the entries of the other groups stand, and the
changes kept waiting become the next pending swap. -/
def Obligations.SetpointSwap : Prop :=
  (∀ c : Chip, c.setpt.pending = none → Runs (.swapRequest) c [.setpt] (fun d => d.setpt = { c.setpt with pending := some [] })) ∧
  (∀ c : Chip, ∀ chs : List Change, c.setpt.pending = some chs → Runs (.swapRequest) c [] (fun d => d = c)) ∧
  (∀ c : Chip, ∀ t : Nat, ∀ chs : List Change, c.setpt.pending = some chs →
    Runs (.setpointSwap t) c [.tb, .grp, .setpt, .sett, .eva, .trace, .obs, .draws]
        (fun d => Granted c d ∧ d.setpt.swaps = c.setpt.swaps + 1 ∧ d.setpt.swapSeq = d.eva.seq ∧
      d.obs[(8 : Fin 32)] = c.obs[(8 : Fin 32)] + 1 ∧ d.setpt.waiting = [] ∧
      d.setpt.pending = (if c.setpt.waiting.isEmpty then none else some c.setpt.waiting) ∧
      (∀ g : Group, chs.any (fun ch => ch.g == g) = false → d.setpt.active[g] = c.setpt.active[g]) ∧
      (∀ g : Group, chs.any (fun ch => ch.g == g) = true → (d.setpt.active[g]).rampT0 = d.tb.count ∧
        (d.setpt.active[g]).refTo = (c.setpt.shadow[g]).refTo ∧ (d.setpt.active[g]).set = (c.setpt.shadow[g]).set ∧
        (d.setpt.active[g]).phMax = (c.setpt.shadow[g]).phMax ∧
        (d.setpt.active[g]).refFrom = (if chs.any (fun ch => ch.g == g && ch.restart) then (c.setpt.shadow[g]).refFrom
          else refAt c.setpt.active[g] d.tb.count))))

/-- With the CTRL domain up, VSEL_CHANGE of a value that is not the adopted one adopts it and counts it; of the adopted value it shows it in RAW, and
nothing else changes. FCAST_MISS of a port and group with an open preparation whose window has ended: the port's misses rise, or stand at 0xFFFF,
with the warning 0x54. ANT_FIRED_GRANT, where the firing of the outermost engine's term is the next report of that engine, takes the request back,
and where nothing else waits to be reported one event is granted. -/
def Obligations.SelectionsAndPreparations : Prop :=
  (∀ c : Chip, ∀ v : Fin 16, c.ctrlUp = true → ¬(c.setpt.adopted = true ∧ c.setpt.value = v) →
    Runs (.vselChange v) c [.tb, .grp, .le, .setpt, .sweep, .sett, .guards, .eva, .trace, .obs, .nv, .log, .draws]
        (fun d => d.setpt.raw = v ∧ d.setpt.value = v ∧ d.setpt.adopted = true ∧ d.setpt.cnt = c.setpt.cnt + 1)) ∧
  (∀ c : Chip, ∀ v : Fin 16, c.ctrlUp = true → c.setpt.adopted = true → c.setpt.value = v →
    Runs (.vselChange v) c [.setpt] (fun d => d.setpt = { c.setpt with raw := v })) ∧
  (∀ c : Chip, ∀ p : LcmdPort, ∀ g : Group, ∀ q ∈ (c.grp[g]).preps, q.closed = false → q.port = p → q.windowEnd < c.tb.count →
    Runs (.fcastMiss p g) c [.grp, .setpt, .lcmd, .sett, .guards, .eva, .trace, .obs, .nv, .log, .draws]
        (fun d => ((d.lcmd[p]).miss > (c.lcmd[p]).miss ∨ (d.lcmd[p]).miss = 0xFFFF) ∧ (d.guards[lcmdBlock]).c = true ∧ (d.guards[lcmdBlock]).cCode = 0x54)) ∧
  (∀ c : Chip, ∀ g : Group, ∀ e : Engine, c.outerEngine g = some e → (c.le[e]).antReq = true →
    c.firstReq e = some .ant →
    Runs (.antFiredGrant g) c [.grp, .le, .setpt, .eva, .trace, .obs, .draws]
        (fun d => (d.le[e]).antReq = false ∧ ((c.le[e]).reqs = [.ant] → Granted c d)))

/-- A frame that begins with the start byte, on an enabled port, with the CTRL domain up and out of BOOT: where it is no good HEARTBEAT, FORECAST and
VREQ leave the port's books as `receive` says of its check, nothing else but the time changing; a wrong CRC counts in CRC alone; a good HEARTBEAT
marks the port alive with its tick and its six bytes, counts it, queues nothing, and is reported where the port was not alive. A good frame other
than a HEARTBEAT joins a queue of fewer than four. On a port without EN FORECAST, VREQ and HEARTBEAT change nothing. -/
def Obligations.LoadCommandFrames : Prop :=
  (∀ c : Chip, ∀ p : LcmdPort, ∀ f : List Byte, ∀ t : Nat, c.ctrlUp = true → c.outOfBoot = true → (c.lcmd[p]).cfg.en = true → f.head? = some frameStart →
    ((c.lcmd[p]).check f = .ok → frameType f ≠ 3) →
    Runs (.forecast p f t) c [.tb, .sett, .trace, .obs, .lcmd] (fun d => d.lcmd = vmod c.lcmd p (LcmdUnit.receive f t)) ∧
    Runs (.vreq p f t) c [.tb, .sett, .trace, .obs, .lcmd] (fun d => d.lcmd = vmod c.lcmd p (LcmdUnit.receive f t))) ∧
  (∀ c : Chip, ∀ p : LcmdPort, ∀ f : List Byte, ∀ t : Nat, c.ctrlUp = true → c.outOfBoot = true → (c.lcmd[p]).cfg.en = true → f.head? = some frameStart →
    (c.lcmd[p]).check f = .ok → frameType f = 3 →
    Runs (.heartbeat p f t) c [.tb, .grp, .setpt, .lcmd, .sett, .guards, .eva, .trace, .obs, .nv, .log, .draws]
        (fun d => (d.lcmd[p]).alive = true ∧ (d.lcmd[p]).hbAt = t ∧ (d.lcmd[p]).hb = bytesAt f 4 6 ∧
      (d.lcmd[p]).ok = (c.lcmd[p]).ok + 1 ∧ (d.lcmd[p]).queue = (c.lcmd[p]).queue ∧
      ((c.lcmd[p]).alive = false → (d.lcmd[p]).aliveG = true))) ∧
  (∀ c : Chip, ∀ p : LcmdPort, ∀ f : List Byte, ∀ t : Nat, c.ctrlUp = true → c.outOfBoot = true → (c.lcmd[p]).cfg.en = true → f.head? = some frameStart →
    crc16 (f.take 10) ≠ BitVec.ofNat 16 (numAt f 10 1 * 256 + numAt f 11 1) →
    Runs (.forecast p f t) c [.tb, .sett, .trace, .obs, .lcmd] (fun d => d.lcmd = vmod c.lcmd p (fun u => { u with crc := satInc 0xFFFF u.crc }))) ∧
  (∀ c : Chip, ∀ p : LcmdPort, ∀ f : List Byte, ∀ t : Nat, (c.lcmd[p]).check f = .ok → frameType f ≠ 3 → (c.lcmd[p]).queue.length < 4 →
    (LcmdUnit.receive f t c.lcmd[p]).queue = (c.lcmd[p]).queue ++ [⟨f, t⟩]) ∧
  (∀ c : Chip, ∀ p : LcmdPort, ∀ f : List Byte, ∀ t : Nat, (c.lcmd[p]).cfg.en = false →
    Runs (.forecast p f t) c [] (fun d => d = c) ∧ Runs (.vreq p f t) c [] (fun d => d = c) ∧ Runs (.heartbeat p f t) c [] (fun d => d = c))

/-- LCMD_FRAME_ABANDON on an enabled port, with the CTRL domain up and out of BOOT, counts in GAP or FRAMING. HEARTBEAT_TIMEOUT of a port that is alive
and has had no HEARTBEAT for HB_TIMEOUT marks it not alive and requests HB_LAPSE. HB_LAPSE that has been requested is taken, the port not alive to
Badger, with the warning 0x53. LCMD_RX takes the oldest queued frame, after a lapse of the port that is requested, of which none waits any more;
with none requested and out of SHUTDOWN a frame of a port that is not alive to Badger is counted as an orphan, with one event and nothing else. -/
def Obligations.LoadCommandPorts : Prop :=
  (∀ c : Chip, ∀ p : LcmdPort, ∀ gap : Bool, c.ctrlUp = true → c.outOfBoot = true → (c.lcmd[p]).cfg.en = true →
    Runs (.lcmdFrameAbandon p gap) c [.lcmd] (fun d => d.lcmd = vmod c.lcmd p (fun u =>
      if gap then { u with gap := satInc 0xFFFF u.gap } else { u with framing := satInc 0xFFFF u.framing }))) ∧
  (∀ c : Chip, ∀ p : LcmdPort, (c.lcmd[p]).alive = true → (c.lcmd[p]).hbAt + (c.lcmd[p]).cfg.hbTimeout * tkMs ≤ c.tb.count →
    Runs (.heartbeatTimeout p) c [.lcmd] (fun d => d.lcmd = vmod c.lcmd p (fun u => { u with alive := false, lapseReq := true }))) ∧
  (∀ c : Chip, ∀ p : LcmdPort, (c.lcmd[p]).lapseReq = true →
    Runs (.hbLapse p) c [.grp, .setpt, .lcmd, .sett, .guards, .eva, .trace, .obs, .nv, .log, .draws]
        (fun d => (d.lcmd[p]).lapseReq = false ∧ (d.lcmd[p]).aliveG = false ∧ (d.guards[lcmdBlock]).c = true ∧
      (d.guards[lcmdBlock]).cCode = 0x53)) ∧
  (∀ c : Chip, ∀ p : LcmdPort, ∀ f : LcmdFrame, ∀ rest : List LcmdFrame, (c.lcmd[p]).queue = f :: rest → c.sys.dev ≠ .shutdown →
    (c.lcmd[p]).aliveG = false → (c.lcmd[p]).lapseReq = false →
    Runs (.lcmdRx p) c [.lcmd, .eva, .trace, .obs, .draws] (fun d =>
      d.lcmd = vmod c.lcmd p (fun u => { u with queue := rest, orphan := satInc 0xFFFF u.orphan }) ∧ Granted c d)) ∧
  (∀ c : Chip, ∀ p : LcmdPort, ∀ f : LcmdFrame, ∀ rest : List LcmdFrame, (c.lcmd[p]).queue = f :: rest →
    Runs (.lcmdRx p) c [.sys, .tb, .ph, .grp, .le, .setpt, .lcmd, .sweep, .sett, .guards, .eva, .trace, .obs, .nv, .cal, .log, .host, .draws]
        (fun d => (d.lcmd[p]).queue = rest ∧ (d.lcmd[p]).lapseReq = false))

/-- A word written to a mailbox by a sender that is up is held where the receiver is up and the mailbox is empty; answered DOMAIN_OFF, counted and not
held where the receiver is down; and answered BUSY_FULL, counted and not held where the receiver is up and the mailbox is full. In each case one
event is granted and no other mailbox changes. A read of a full mailbox by a receiver that is up consumes the message waiting and clears the
receiver's wake-hold, with one event; of an empty mailbox it changes nothing. The result code BUSY_FULL is shown by the record that the trace port
takes on. -/
def Obligations.MailboxWriteAndRead : Prop :=
  (∀ c : Chip, ∀ m : Mailbox, ∀ w : Word, c.isUp (mbxSender m) = true → c.isUp (mbxReceiver m) = true → (c.mbx[mbxIdx m]).full = false →
    Runs (.mailboxWrite m w) c [.eva, .trace, .obs, .mbx, .draws] (fun d => d.mbx = vmod c.mbx (mbxIdx m) (fun u =>
      { u with data := w, full := true, written := u.written + 1, arrive := true, empty := false }) ∧ Granted c d ∧
      d.obs[(3 : Fin 32)] = c.obs[(3 : Fin 32)] + 1)) ∧
  (∀ c : Chip, ∀ m : Mailbox, ∀ w : Word, c.isUp (mbxSender m) = true → c.isUp (mbxReceiver m) = false →
    Runs (.mailboxWrite m w) c [.eva, .trace, .obs, .mbx, .draws]
        (fun d => d.mbx = vmod c.mbx (mbxIdx m) (fun u => { u with rejOff := satInc 0xFFFF u.rejOff }) ∧ Granted c d ∧
      d.obs[(4 : Fin 32)] = c.obs[(4 : Fin 32)] + 1)) ∧
  (∀ c : Chip, ∀ m : Mailbox, ∀ w : Word, c.isUp (mbxSender m) = true → c.isUp (mbxReceiver m) = true → (c.mbx[mbxIdx m]).full = true →
    Runs (.mailboxWrite m w) c [.eva, .trace, .obs, .mbx, .draws]
        (fun d => d.mbx = vmod c.mbx (mbxIdx m) (fun u => { u with rejFull := satInc 0xFFFF u.rejFull }) ∧ Granted c d ∧
      d.obs[(4 : Fin 32)] = c.obs[(4 : Fin 32)] + 1 ∧
      (c.trace.lostAll = 0 → c.trace.queue.length < 63 →
        d.trace.queue = c.trace.queue ++ [⟨.mbx, mbxIdx m, 1, d.eva.seq, BitVec.ofNat 32 c.tb.count, w⟩]))) ∧
  (∀ c : Chip, ∀ m : Mailbox, c.isUp (mbxReceiver m) = true → (c.mbx[mbxIdx m]).full = true →
    Runs (.mailboxRead m) c [.eva, .trace, .obs, .mbx, .dom, .draws] (fun d => d.mbx = vmod c.mbx (mbxIdx m) (fun u =>
        { u with full := false, read := u.read + 1, arrive := false, empty := true, taken := takenWith u.taken u.data }) ∧
      d.dom = vmod c.dom (coreIdx (mbxReceiver m)) (fun u => { u with hold := false, ringSince := false }) ∧ Granted c d)) ∧
  (∀ c : Chip, ∀ m : Mailbox, (c.mbx[mbxIdx m]).full = false → Runs (.mailboxRead m) c [] (fun d => d = c))

/-- DOORBELL_RING by another core that is up is granted and counted, and makes a receiver that is down wake; one that is up stays up. DOMAIN_UP of a
waking domain that is down and not restarting brings it up, with the wake-hold where a ring woke it. WAKE_HOLD_LAPSE clears the wake-hold alone.
POWER_DOWN_REQUEST of a core that has cause for one (`mayPowerDown`) is refused while an incoming mailbox is full, while the wake-hold is set, or
where a ring was granted before it (`rungFirst`), and else takes the domain down; either is granted, and no other domain changes. -/
def Obligations.DomainsAndDoorbells : Prop :=
  (∀ c : Chip, ∀ r s : Core, r ≠ s → c.isUp s = true →
    Runs (.doorbellRing r s) c [.eva, .trace, .obs, .dom, .draws] (fun d => d.dom = vmod c.dom (coreIdx r) (fun u => { u with
        rings := u.rings + 1, ringSince := u.up, waking := u.waking || !u.up, rung := u.rung || !u.up }) ∧ Granted c d ∧
      d.obs[(5 : Fin 32)] = c.obs[(5 : Fin 32)] + 1)) ∧
  (∀ c : Chip, ∀ k : Core, (c.dom[coreIdx k]).waking = true → (c.dom[coreIdx k]).up = false → (c.dom[coreIdx k]).restart = false →
    Runs (.domainUp k) c [.obs, .dom] (fun d => d.dom = vmod c.dom (coreIdx k) (fun u =>
      { u with up := true, hold := u.rung, waking := false, rung := false, ringSince := false }))) ∧
  (∀ c : Chip, ∀ k : Core, Runs (.wakeHoldLapse k) c [.dom] (fun d => d.dom = vmod c.dom (coreIdx k) (fun u => { u with hold := false }))) ∧
  (∀ c : Chip, ∀ k : Core, c.mayPowerDown k = true →
    ((c.dom[coreIdx k]).hold = true ∨ c.rungFirst k = true ∨ (incoming k).any (fun m => (c.mbx[mbxIdx m]).full) = true) →
    Runs (.powerDownRequest k) c [.eva, .trace, .obs, .dom, .draws]
        (fun d => d.dom = vmod c.dom (coreIdx k) (fun u => { u with pdRefused := true, ringSince := false }) ∧ Granted c d)) ∧
  (∀ c : Chip, ∀ k : Core, c.mayPowerDown k = true → (c.dom[coreIdx k]).hold = false → c.rungFirst k = false →
    (incoming k).any (fun m => (c.mbx[mbxIdx m]).full) = false →
    Runs (.powerDownRequest k) c [.eva, .trace, .obs, .dom, .draws] (fun d =>
      d.dom = vmod c.dom (coreIdx k) (fun u => { u with up := false, pdRefused := false, ringSince := false }) ∧ Granted c d))

/-- SNAP_FILL at a fill tick, which is not past and has not been served: the buffer that is not published takes the telemetry as it stands, or, while a
reader holds it, the fill is skipped and counted; either serves the tick. At any other tick it changes nothing. PUBLISH of a filled buffer exchanges
the two and advances SNAP_GEN, at a grant. OPEN by a reader that is up gives it the buffer then published with its SNAP_GEN, at a grant. CLOSE by a
reader that is up and holds a buffer, or whose buffer the device has closed, is granted, ends the hold and tells it whether it is stale. SNAP_HELD
of a buffer held longer than 1 ms closes it, marks it stale for its reader and gives the warning 0x4A. -/
def Obligations.Snapshots : Prop :=
  (∀ c : Chip, ∀ t : Nat, c.fillTick t = false → Runs (.snapFill t) c [] (fun d => d = c)) ∧
  (∀ c : Chip, ∀ t : Nat, c.fillTick t = true → c.snap.held (!c.snap.pub) = false →
    Runs (.snapFill t) c [.tb, .snap, .sett, .trace, .obs] (fun d => d.snap = { c.snap with
      lastAt := t
      bufA := if c.snap.pub then (c.elapseTo t).snapshotNow else c.snap.bufA
      bufB := if c.snap.pub then c.snap.bufB else (c.elapseTo t).snapshotNow
      filled := true })) ∧
  (∀ c : Chip, ∀ t : Nat, c.fillTick t = true → c.snap.held (!c.snap.pub) = true →
    Runs (.snapFill t) c [.tb, .snap, .sett, .trace, .obs] (fun d => d.snap = { c.snap with lastAt := t, skips := c.snap.skips + 1 })) ∧
  (∀ c : Chip, c.snap.filled = true →
    Runs (.publish) c [.snap, .eva, .trace, .obs, .draws]
        (fun d => d.snap = { c.snap with pub := !c.snap.pub, gen := c.snap.gen + 1, filled := false } ∧ Granted c d ∧
      d.obs[(7 : Fin 32)] = c.obs[(7 : Fin 32)] + 1)) ∧
  (∀ c : Chip, ∀ k : Core, c.isUp k = true →
    Runs (.openSnap k) c [.snap, .eva, .trace, .obs, .draws] (fun d => d.snap = { c.snap with
      open_ := c.snap.open_.set (coreIdx k) (some ⟨c.snap.pub, c.tb.count, c.snap.gen⟩)
      answer := c.snap.answer.set (coreIdx k) (c.snap.pub, c.snap.gen, false) } ∧ Granted c d)) ∧
  (∀ c : Chip, ∀ k : Core, c.isUp k = true → ((c.snap.open_[coreIdx k]).isSome = true ∨ c.snap.stale[coreIdx k] = true) →
    Runs (.closeSnap k) c [.snap, .eva, .trace, .obs, .draws]
        (fun d => d.snap.open_ = c.snap.open_.set (coreIdx k) none ∧ d.snap.stale = c.snap.stale.set (coreIdx k) false ∧
      (d.snap.answer[coreIdx k]).2.2 = c.snap.stale[coreIdx k] ∧ Granted c d)) ∧
  (∀ c : Chip, ∀ k : Core, ∀ h : SnapHold, c.snap.open_[coreIdx k] = some h → h.since + tkMs < c.tb.count →
    Runs (.snapHeld k) c [.snap, .guards, .eva, .trace, .obs, .nv, .log, .draws] (fun d => d.snap = { c.snap with
      open_ := c.snap.open_.set (coreIdx k) none, stale := c.snap.stale.set (coreIdx k) true } ∧ Warned adcBlock 0x4A c d))

/-- By a reader that is up: LATCHED_READ of the low word of TB_COUNT, the CTRL domain being up, captures the high word into that reader's latch and
leaves the other readers' latches; of any register pair with a latch it leaves the block that `regRead` gives. RCL_READ of any read-clear register
leaves the block that `regRead` gives: of EVA_MAXWAIT it returns the word and clears it, and of TB_STAT it returns the word and clears LIMIT_SEEN.
By a reader that is down neither changes anything. -/
def Obligations.RegisterReads : Prop :=
  (∀ c : Chip, ∀ r : Reader, c.readerUp r = true → c.ctrlUp = true →
    Runs (.latchedRead r 0x00010008) c [.latch] (fun d => (d.latch[readerIdx r]).tb = hiWord c.tb.count ∧
      (d.latch[readerIdx r]).data = (c.regRead r 0x00010008).2.1 ∧ ∀ k : Fin 4, k ≠ readerIdx r → d.latch[k] = c.latch[k])) ∧
  (∀ c : Chip, ∀ r : Reader, ∀ a : Word, isLatchPair a.toNat = true → c.readerUp r = true →
    Runs (.latchedRead r a) c [.tb, .grp, .le, .gauge, .eva, .latch] (fun d => d = (c.regRead r a.toNat).2.2)) ∧
  (∀ c : Chip, ∀ r : Reader, ∀ a : Word, isRcl a.toNat = true → c.readerUp r = true →
    Runs (.rclRead r a) c [.tb, .grp, .le, .gauge, .eva, .latch] (fun d => d = (c.regRead r a.toNat).2.2)) ∧
  (∀ c : Chip, ∀ r : Reader, c.readerUp r = true → c.powered = true →
    Runs (.rclRead r 0x000A8008) c [.eva, .latch] (fun d => d.eva = { c.eva with maxWait := 0 } ∧
      (d.latch[readerIdx r]).data = c.regWord r 0x000A8008)) ∧
  (∀ c : Chip, ∀ r : Reader, c.readerUp r = true → c.ctrlUp = true →
    Runs (.rclRead r 0x00010000) c [.tb, .latch] (fun d => d.tb = { c.tb with limitSeen := false } ∧
      (d.latch[readerIdx r]).data = c.regWord r 0x00010000)) ∧
  (∀ c : Chip, ∀ r : Reader, ∀ a : Word, c.readerUp r = false →
    Runs (.latchedRead r a) c [] (fun d => d = c) ∧ Runs (.rclRead r a) c [] (fun d => d = c))

/-- With the CTRL domain up: ECC_CRIT in a coefficient or a set-point entry latches the Class A fault 0x03 of the engine's or the group's guard. ECC_DED
in Badger's memory is held as the fault 0x2D of Badger, and in a configuration register of a CTRL or DATA block as that of the block; in the memory
of Owl or Hedgehog, where its domain is up, it gives the warning 0x61 and takes the domain down into a restart, Owl's commands not yet answered
being discarded; in an entry of capture memory it clears the VALID bit of the entry, with the warning 0x61; in a snapshot buffer it drops the fill
and counts a skip, with the warning 0x61. WATCHDOG_EXPIRY of Badger, being up, is held as the fault 0x2C; of Owl or Hedgehog, being up, it takes the
domain down into a restart. DOMAIN_RESTART_END of a restarting domain brings it up, with the warning 0x60 for Hedgehog and 0x5F for Owl. -/
def Obligations.MemoryErrorsAndWatchdogs : Prop :=
  (∀ c : Chip, ∀ e : Engine, c.ctrlUp = true →
    Runs (.eccCrit (.coefficient e)) c [.sys, .tb, .ph, .grp, .le, .setpt, .sweep, .sett, .guards, .eva, .trace, .obs, .nv, .cal, .log, .host, .draws]
      (fun d => (d.guards[leBlock e]).aCode = 0x03)) ∧
  (∀ c : Chip, ∀ g : Group, c.ctrlUp = true →
    Runs (.eccCrit (.setpoint g)) c [.sys, .tb, .ph, .grp, .le, .setpt, .sweep, .sett, .guards, .eva, .trace, .obs, .nv, .cal, .log, .host, .draws]
      (fun d => (d.guards[grpBlock g]).aCode = 0x03)) ∧
  (∀ c : Chip, c.ctrlUp = true →
    Runs (.eccDed .badgerSram) c [.sys, .tb, .ph, .grp, .le, .setpt, .snap, .cap, .sweep, .sett, .guards, .eva, .trace, .obs, .dom, .nv, .cal, .log, .host, .draws]
      (fun d => Holds badgerBlock 0x2D 0xFF d)) ∧
  (∀ c : Chip, ∀ b : Block, c.ctrlUp = true → blockOnTimebase b.val = true →
    Runs (.eccDed (.cfgRegister b)) c [.sys, .tb, .ph, .grp, .le, .setpt, .snap, .cap, .sweep, .sett, .guards, .eva, .trace, .obs, .dom, .nv, .cal, .log, .host, .draws]
        (fun d => Holds b 0x2D (blockUnit b) d)) ∧
  (∀ c : Chip, c.ctrlUp = true → c.isUp .owl = true →
    Runs (.eccDed .owlSram) c [.sys, .tb, .ph, .grp, .le, .setpt, .snap, .cap, .sweep, .sett, .guards, .eva, .trace, .obs, .dom, .nv, .cal, .log, .host, .draws]
        (fun d => d.isUp .owl = false ∧ (d.dom[coreIdx .owl]).restart = true ∧ Warned owlBlock 0x61 c d ∧
      d.host.rx = [] ∧ d.host.pending = [] ∧ d.host.answers = [])) ∧
  (∀ c : Chip, c.ctrlUp = true → c.isUp .hedgehog = true →
    Runs (.eccDed .hedgehogSram) c [.sys, .tb, .ph, .grp, .le, .setpt, .snap, .cap, .sweep, .sett, .guards, .eva, .trace, .obs, .dom, .nv, .cal, .log, .host, .draws]
        (fun d => d.isUp .hedgehog = false ∧ (d.dom[coreIdx .hedgehog]).restart = true ∧ Warned hhBlock 0x61 c d)) ∧
  (∀ c : Chip, ∀ off i : Nat, c.ctrlUp = true → captureEntry off = some i →
    Runs (.eccDed (.capture off)) c [.sys, .tb, .ph, .grp, .le, .setpt, .snap, .cap, .sweep, .sett, .guards, .eva, .trace, .obs, .dom, .nv, .cal, .log, .host, .draws]
        (fun d => d.cap = memWrite 0 c.cap (0x100 + 64 * i + 3) (memRead 0 c.cap (0x100 + 64 * i + 3) &&& 0x7F) ∧
      Warned adcBlock 0x61 c d)) ∧
  (∀ c : Chip, c.ctrlUp = true →
    Runs (.eccDed .snapshot) c [.sys, .tb, .ph, .grp, .le, .setpt, .snap, .cap, .sweep, .sett, .guards, .eva, .trace, .obs, .dom, .nv, .cal, .log, .host, .draws]
        (fun d => d.snap = { c.snap with filled := false, skips := c.snap.skips + 1 } ∧ Warned adcBlock 0x61 c d)) ∧
  (∀ c : Chip, c.isUp .badger = true →
    Runs (.watchdogExpiry .badger) c [.sys, .tb, .ph, .grp, .le, .setpt, .sweep, .sett, .guards, .eva, .trace, .obs, .dom, .nv, .cal, .log, .host, .draws]
      (fun d => Holds badgerBlock 0x2C 0xFF d)) ∧
  (∀ c : Chip, ∀ k : Core, k ≠ .badger → c.isUp k = true →
    Runs (.watchdogExpiry k) c [.dom, .host] (fun d => d.isUp k = false ∧ (d.dom[coreIdx k]).restart = true ∧ (d.dom[coreIdx k]).waking = false)) ∧
  (∀ c : Chip, (c.dom[coreIdx .hedgehog]).restart = true →
    Runs (.domainRestartEnd .hedgehog) c [.guards, .eva, .trace, .obs, .dom, .nv, .log, .host, .draws]
        (fun d => d.isUp .hedgehog = true ∧ (d.dom[coreIdx .hedgehog]).restart = false ∧ Warned hhBlock 0x60 c d)) ∧
  (∀ c : Chip, (c.dom[coreIdx .owl]).restart = true →
    Runs (.domainRestartEnd .owl) c [.guards, .eva, .trace, .obs, .dom, .nv, .log, .host, .draws]
        (fun d => d.isUp .owl = true ∧ d.host.lastValid = false ∧ Warned owlBlock 0x5F c d))

/-- FAULT_RAISE of a code that the block raises in the class, for a unit that it has, the device being powered: a warning is shown and granted, and
neither SYS nor a phase nor a group changes; a Class B fault is held; a Class A fault is latched. CONDITION_GONE of a held fault whose condition was
present and has gone is granted and marks it so, the block's faults standing otherwise. RETRY of a held fault whose condition has gone, with its
mask bit set, retries left and RETRY_MS passed since the raise, counts one retry of the block. RETRIES_RESET, where every group that the block's
faults concern, one at least, has run 64 times RETRY_MS since the block's last Class B raise, and a phase block's own phase is switching as long,
clears the block's retry count, and with no fault held what they concern. -/
def Obligations.FaultLifecycle : Prop :=
  (∀ c : Chip, ∀ b : Block, ∀ code unit : Nat, ∀ d0 : Word, c.powered = true → raises b .c code = true → hasUnit b code unit = true →
    Runs (.faultRaise b .c code unit d0) c [.sys, .tb, .ph, .grp, .le, .setpt, .sweep, .sett, .guards, .eva, .trace, .obs, .nv, .cal, .log, .host, .draws]
        (fun d => Warned b code c d ∧ d.sys = c.sys ∧ d.ph = c.ph ∧ d.grp = c.grp)) ∧
  (∀ c : Chip, ∀ b : Block, ∀ code unit : Nat, ∀ d0 : Word, c.powered = true → raises b .b code = true → hasUnit b code unit = true →
    Runs (.faultRaise b .b code unit d0) c [.sys, .tb, .ph, .grp, .le, .setpt, .sweep, .sett, .guards, .eva, .trace, .obs, .nv, .cal, .log, .host, .draws]
        (fun d => Holds b code unit d)) ∧
  (∀ c : Chip, ∀ b : Block, ∀ code unit : Nat, ∀ d0 : Word, c.powered = true → raises b .a code = true → hasUnit b code unit = true →
    Runs (.faultRaise b .a code unit d0) c [.sys, .tb, .ph, .grp, .le, .setpt, .sweep, .sett, .guards, .eva, .trace, .obs, .nv, .cal, .log, .host, .draws]
        (fun d => (d.guards[b]).aCode = code)) ∧
  (∀ c : Chip, ∀ b : Block, ∀ code unit : Nat, ∀ f : FaultRec,
    (c.guards[b]).faults.find? (fun f => f.code == code && f.unit == unit) = some f → f.present = true → c.condGone b f = true →
    Runs (.conditionGone b code unit) c [.guards, .eva, .trace, .obs, .log, .draws]
        (fun d => Granted c d ∧ (d.guards[b]).faults = (c.guards[b]).faults.map (fun x =>
      if x.code = code ∧ x.unit = unit then { x with present := false } else x))) ∧
  (∀ c : Chip, ∀ b : Block, ∀ code unit n ms : Nat, ∀ f : FaultRec,
    (c.guards[b]).faults.find? (fun f => f.code == code && f.unit == unit) = some f → f.present = false →
    c.retryRecord b code unit = some (true, n, ms) → (c.guards[b]).retries < n → f.at_ + ms * tkMs ≤ c.tb.count →
    Runs (.retry b code unit) c [.sys, .tb, .ph, .grp, .le, .setpt, .sweep, .sett, .guards, .eva, .trace, .obs, .nv, .cal, .log, .host, .draws]
        (fun d => (d.guards[b]).retries = satInc 15 (c.guards[b]).retries)) ∧
  (∀ c : Chip, ∀ b : Block, (c.guards[b]).concerned ≠ [] → (∀ p : Phase, b = phBlock p → (c.ph[p]).pl.switching = true) →
    (∀ g ∈ (c.guards[b]).concerned, ∃ t : Nat, (c.grp[g]).runSince = some t ∧ ∀ x : Nat,
      (x = t ∨ x = (c.guards[b]).lastB ∨ ∃ p : Phase, b = phBlock p ∧ x = (c.ph[p]).pl.switchedAt) →
      x + 64 * (if b = sysBlock ∨ b = gaugeBlock then c.sys.retryMs else (c.grp[g]).cfg.retryMs) * tkMs ≤ c.tb.count) →
    Runs (.retriesReset b) c [.guards] (fun d => d.guards = vmod c.guards b (fun u =>
      { u with retries := 0, concerned := if u.faults.isEmpty then [] else u.concerned })))

/-- The command rows receive their command by one path, stated here of CFG_RELEASE and FAULT_CLEAR. A message of a command not received yet, on a port
that takes its format: with a tag it is granted as HOST_RX. A new command, with Owl down and fewer than sixteen waiting, waits in order, is counted
with its frames, and wakes Owl. A repetition of an original within DUP_MS is counted and not executed; the same key with another body is answered
TAG_REUSED; a new command with sixteen waiting is counted and answered HOST_BUSY. In the recovery service a command that it does not answer is
granted and otherwise ignored. With TAG 0 the message is ignored, its frames being counted. In each of these but the first no command waits that did
not wait before. CFG_RELEASE, next for Owl to take in SHUTDOWN, is answered SHUTTING_DOWN; ABORT, next for Owl to take out of SHUTDOWN and sent to
address 0xF, is answered PARAM_RANGE. In either case nothing but the host port changes. -/
def Obligations.HostReception : Prop :=
  (∀ c : Chip, ∀ h : HostRef, c.host.rx.contains ⟨h, 0x0D, []⟩ = false → (c.host.ports[h.port]).takes h.fd h.brs = true → h.tag ≠ 0 →
    c.isUp .owl = false → c.original ⟨h, 0x0D, []⟩ = none → c.sys.result ≠ .codeCorrupt → c.host.waiting < 16 →
    Runs (.cfgRelease h) c [.eva, .trace, .obs, .dom, .host, .draws]
        (fun d => d.host.rx = c.host.rx ++ [⟨h, 0x0D, []⟩] ∧ d.host.answers = c.host.answers ∧
      Granted c d ∧ (d.dom[coreIdx .owl]).waking = true ∧ d.obs[(20 : Fin 32)] = c.obs[(20 : Fin 32)] + 1 ∧
      (d.host.ports[h.port]).rx = (c.host.ports[h.port]).rx + BitVec.ofNat 32 (framesOf h.fd 0))) ∧
  (∀ c : Chip, ∀ h : HostRef, ∀ o : HostCmd, c.host.rx = [] → (c.host.ports[h.port]).takes h.fd h.brs = true → h.tag ≠ 0 →
    c.original ⟨h, 0x0D, []⟩ = some o → o.body = [] → c.sys.result ≠ .codeCorrupt →
    Runs (.cfgRelease h) c [.eva, .trace, .obs, .dom, .host, .draws] (fun d => d.host.rx = [] ∧ d.host.answers = c.host.answers ∧
      d.host.dups = satInc 0xFFFF c.host.dups ∧ Granted c d)) ∧
  (∀ c : Chip, ∀ h : HostRef, ∀ block code : Nat, ∀ o : HostCmd, c.host.rx = [] → (c.host.ports[h.port]).takes h.fd h.brs = true → h.tag ≠ 0 →
    c.original ⟨h, 0x07, leBytes 1 block ++ leBytes 1 code ++ [0, 0]⟩ = some o → o.body ≠ leBytes 1 block ++ leBytes 1 code ++ [0, 0] →
    c.sys.result ≠ .codeCorrupt →
    Runs (.faultClear h block code) c [.eva, .trace, .obs, .dom, .host, .draws] (fun d =>
      d.host.rx = [] ∧ d.host.answers = c.host.answers ++ [(⟨h, 0x07, leBytes 1 block ++ leBytes 1 code ++ [0, 0]⟩, .tagReused, [])])) ∧
  (∀ c : Chip, ∀ h : HostRef, c.host.rx = [] → (c.host.ports[h.port]).takes h.fd h.brs = true → h.tag ≠ 0 →
    c.original ⟨h, 0x0D, []⟩ = none → c.sys.result ≠ .codeCorrupt → 16 ≤ c.host.waiting →
    Runs (.cfgRelease h) c [.eva, .trace, .obs, .dom, .host, .draws] (fun d => d.host.rx = [] ∧ d.host.busy = satInc 0xFFFF c.host.busy ∧
      d.host.answers = c.host.answers ++ [(⟨h, 0x0D, []⟩, .hostBusy, [])])) ∧
  (∀ c : Chip, ∀ h : HostRef, c.host.rx = [] → (c.host.ports[h.port]).takes h.fd h.brs = true → h.tag = 0 →
    Runs (.cfgRelease h) c [.obs, .dom, .host, .draws] (fun d => d.host.rx = [] ∧ d.host.answers = c.host.answers ∧ d.host.recent = c.host.recent)) ∧
  (∀ c : Chip, ∀ h : HostRef, c.host.rx = [] → (c.host.ports[h.port]).takes h.fd h.brs = true → h.tag ≠ 0 → c.sys.result = .codeCorrupt →
    Runs (.cfgRelease h) c [.eva, .trace, .obs, .dom, .host, .draws] (fun d => d.host.rx = [] ∧ d.host.answers = c.host.answers ∧
      d.host.recent = c.host.recent ∧ Granted c d)) ∧
  (∀ c : Chip, ∀ h : HostRef, c.nextCommand = some ⟨h, 0x0D, []⟩ → c.sys.dev = .shutdown →
    Runs (.cfgRelease h) c [.host] (fun d => Answered ⟨h, 0x0D, []⟩ .shuttingDown [] c d)) ∧
  (∀ c : Chip, ∀ h : HostRef, ∀ tag type : Nat, c.nextCommand = some ⟨h, 0x0E, leBytes 2 tag ++ [BitVec.ofNat 8 type, 0]⟩ → c.sys.dev ≠ .shutdown →
    h.bcast = true →
    Runs (.abort h tag type) c [.host] (fun d => Answered ⟨h, 0x0E, leBytes 2 tag ++ [BitVec.ofNat 8 type, 0]⟩ .paramRange [] c d))

/-- READ_REG that Owl takes next: of one to 64 words from a multiple of four, all mapped and in domains that are up, it is answered OK with that many
words; with a word outside the address map it is answered ADDR_INVALID without words; and with another count or alignment PARAM_RANGE. A read of the
one word at 0x00010010, the CTRL domain being up, is answered with the word that the register shows, and changes nothing but the host port and the
latches. -/
def Obligations.ReadRegister : Prop :=
  (∀ c : Chip, ∀ h : HostRef, ∀ a : Word, ∀ n : Nat, TakesNext ⟨h, 0x01, leBytes 4 a.toNat ++ leBytes 1 n ++ [0, 0, 0]⟩ c →
    a.toNat % 4 = 0 → 1 ≤ n → n ≤ 64 → (∀ i < n, mapped (a.toNat + 4 * i) = true ∧ c.regUp (a.toNat + 4 * i) = true) →
    Runs (.readReg h a n) c [.tb, .grp, .le, .gauge, .eva, .trace, .obs, .dom, .host, .latch, .draws] (fun d => ∃ ws : List Word, ws.length = n ∧
      Answered ⟨h, 0x01, leBytes 4 a.toNat ++ leBytes 1 n ++ [0, 0, 0]⟩ .ok (readBody a.toNat ws) c d)) ∧
  (∀ c : Chip, ∀ h : HostRef, TakesNext ⟨h, 0x01, leBytes 4 0x00010010 ++ leBytes 1 1 ++ [0, 0, 0]⟩ c → c.ctrlUp = true →
    Runs (.readReg h 0x00010010 1) c [.host, .latch] (fun d =>
      Answered ⟨h, 0x01, leBytes 4 0x00010010 ++ leBytes 1 1 ++ [0, 0, 0]⟩ .ok (readBody 0x00010010 [c.regWord .host 0x00010010]) c d)) ∧
  (∀ c : Chip, ∀ h : HostRef, ∀ a : Word, ∀ n : Nat, TakesNext ⟨h, 0x01, leBytes 4 a.toNat ++ leBytes 1 n ++ [0, 0, 0]⟩ c →
    a.toNat % 4 = 0 → 1 ≤ n → n ≤ 64 → (∃ i < n, mapped (a.toNat + 4 * i) = false) →
    Runs (.readReg h a n) c [.host] (fun d =>
      Answered ⟨h, 0x01, leBytes 4 a.toNat ++ leBytes 1 n ++ [0, 0, 0]⟩ .addrInvalid (readBody a.toNat []) c d)) ∧
  (∀ c : Chip, ∀ h : HostRef, ∀ a : Word, ∀ n : Nat, TakesNext ⟨h, 0x01, leBytes 4 a.toNat ++ leBytes 1 n ++ [0, 0, 0]⟩ c →
    (a.toNat % 4 ≠ 0 ∨ n < 1 ∨ 64 < n) →
    Runs (.readReg h a n) c [.host] (fun d => Answered ⟨h, 0x01, leBytes 4 a.toNat ++ leBytes 1 n ++ [0, 0, 0]⟩ .paramRange [] c d))

/-- A write of GRPn_REQ that Owl takes next and that can be carried out, the CTRL domain being up. Where Badger applies writes, out of SWEEP: ENABLE set
and RUN_SEL not covered sets ENABLE alone, where the group is out of STANDBY or may not start then; a group in STANDBY that may start then goes to
PRECHARGE where PRE_EN is set and to SOFTSTART otherwise, no SHDN_START of Badger's waiting, nor in the changes of mode below. ENABLE cleared in
STANDBY clears it alone; with group modes, of a group decided here: in PRECHARGE it also requests the abort, and the answer waits; in SOFTSTART or a
running mode, no ramp being in progress, the group goes to STANDBY at once where its stop needs no ramp (`cutsAtOnce`), and else begins its ramp to
a stop. RUN_SEL set with CHARGE_OK on a group in REGULATE decided here, the gauge input not lost, takes it to CHARGE; RUN_SEL cleared in STANDBY
clears it alone. Each is answered OK but the abort. Where Badger applies no writes, ENABLE set is answered WRONG_MODE and no group changes. -/
def Obligations.GroupRequests : Prop :=
  (∀ c : Chip, ∀ h : HostRef, ∀ g : Group, ∀ v m : Word, TakesNext ⟨h, 0x02, writeBody (reqAddr g) v m⟩ c →
    CarriedOut ⟨h, 0x02, writeBody (reqAddr g) v m⟩ c → c.ctrlUp = true → c.badgerApplies = true →
    (c.grp[g]).mode ≠ .sweep → setsBit 0 v m = true → m.getLsbD 1 = false →
    ((c.grp[g]).mode ≠ .standby ∨ (c.modGrp g (fun u => { u with enable := true })).mayStart g = false) →
    Runs (.groupEnable h g v m) c [.grp, .host, .mbx, .dom, .eva, .trace, .obs, .draws]
        (fun d => d.grp = vmod c.grp g (fun u => { u with enable := true }) ∧
      ∃ body, Answered ⟨h, 0x02, writeBody (reqAddr g) v m⟩ .ok body c d)) ∧
  (∀ c : Chip, ∀ h : HostRef, ∀ g : Group, ∀ v m : Word, TakesNext ⟨h, 0x02, writeBody (reqAddr g) v m⟩ c →
    CarriedOut ⟨h, 0x02, writeBody (reqAddr g) v m⟩ c → c.ctrlUp = true → c.badgerApplies = true →
    (c.grp[g]).mode = .standby → setsBit 0 v m = true → m.getLsbD 1 = false → (c.modGrp g (fun u => { u with enable := true })).mayStart g = true →
    c.shdnAsked = false →
      Runs (.groupEnable h g v m) c [.sys, .tb, .ph, .grp, .le, .setpt, .cap, .sweep, .sett, .guards, .eva, .trace, .obs, .mbx, .dom, .nv, .cal, .log, .host, .draws]
        (fun d => (d.grp[g]).mode = (if (c.grp[g]).cfg.preEn then .precharge else .softstart) ∧
      ∃ body, Answered ⟨h, 0x02, writeBody (reqAddr g) v m⟩ .ok body c d)) ∧
  (∀ c : Chip, ∀ h : HostRef, ∀ g : Group, ∀ v m : Word, TakesNext ⟨h, 0x02, writeBody (reqAddr g) v m⟩ c →
    CarriedOut ⟨h, 0x02, writeBody (reqAddr g) v m⟩ c → c.ctrlUp = true → c.badgerApplies = true →
    (c.grp[g]).mode = .standby → clearsBit 0 v m = true → m.getLsbD 1 = false →
    Runs (.groupDisable h g v m) c [.grp, .host, .mbx, .dom, .eva, .trace, .obs, .draws]
        (fun d => d.grp = vmod c.grp g (fun u => { u with enable := false }) ∧
      ∃ body, Answered ⟨h, 0x02, writeBody (reqAddr g) v m⟩ .ok body c d)) ∧
  (∀ c : Chip, ∀ h : HostRef, ∀ g : Group, ∀ v m : Word, TakesNext ⟨h, 0x02, writeBody (reqAddr g) v m⟩ c →
    CarriedOut ⟨h, 0x02, writeBody (reqAddr g) v m⟩ c → c.ctrlUp = true → c.sys.dev = .perGroup →
    c.badgerRuns = true → c.decides g = true → (c.grp[g]).mode = .precharge → clearsBit 0 v m = true → m.getLsbD 1 = false →
    Runs (.groupDisable h g v m) c [.grp, .host, .mbx, .dom, .eva, .trace, .obs, .draws]
        (fun d => d.grp = vmod c.grp g (fun u => { u with enable := false }) ∧
      d.host.aborts = c.host.aborts ++ [(.precharge g, some ⟨h, 0x02, writeBody (reqAddr g) v m⟩)] ∧
      Taken ⟨h, 0x02, writeBody (reqAddr g) v m⟩ c d)) ∧
  (∀ c : Chip, ∀ h : HostRef, ∀ g : Group, ∀ v m : Word, TakesNext ⟨h, 0x02, writeBody (reqAddr g) v m⟩ c →
    CarriedOut ⟨h, 0x02, writeBody (reqAddr g) v m⟩ c → c.ctrlUp = true → c.sys.dev = .perGroup →
    c.badgerRuns = true → c.decides g = true → ((c.grp[g]).mode = .softstart ∨ isRunning (c.grp[g]).mode = true) → (c.grp[g]).mode ≠ .sweep →
    (c.grp[g]).ramping = false → c.cutsAtOnce g = true → c.shdnAsked = false →
    clearsBit 0 v m = true → m.getLsbD 1 = false →
    Runs (.groupDisable h g v m) c [.sys, .tb, .ph, .grp, .le, .setpt, .cap, .sweep, .sett, .guards, .eva, .trace, .obs, .mbx, .dom, .nv, .cal, .log, .host, .draws]
        (fun d => (∀ j : Group, (d.grp[j]).mode = if g = j then .standby else (c.grp[j]).mode) ∧
      ∃ body, Answered ⟨h, 0x02, writeBody (reqAddr g) v m⟩ .ok body c d)) ∧
  (∀ c : Chip, ∀ h : HostRef, ∀ g : Group, ∀ v m : Word, TakesNext ⟨h, 0x02, writeBody (reqAddr g) v m⟩ c →
    CarriedOut ⟨h, 0x02, writeBody (reqAddr g) v m⟩ c → c.ctrlUp = true → c.sys.dev = .perGroup →
    c.badgerRuns = true → c.decides g = true → ((c.grp[g]).mode = .softstart ∨ isRunning (c.grp[g]).mode = true) → (c.grp[g]).mode ≠ .sweep →
    (c.grp[g]).ramping = false → c.cutsAtOnce g = false → clearsBit 0 v m = true → m.getLsbD 1 = false →
    Runs (.groupDisable h g v m) c [.sys, .tb, .ph, .grp, .le, .setpt, .cap, .sweep, .sett, .guards, .eva, .trace, .obs, .mbx, .dom, .nv, .cal, .log, .host, .draws]
        (fun d => d.grp = vmod c.grp g (fun u => { u with enable := false, stopping := true, ramping := true }) ∧
      ∃ body, Answered ⟨h, 0x02, writeBody (reqAddr g) v m⟩ .ok body c d)) ∧
  (∀ c : Chip, ∀ h : HostRef, ∀ g : Group, ∀ v m : Word, TakesNext ⟨h, 0x02, writeBody (reqAddr g) v m⟩ c →
    CarriedOut ⟨h, 0x02, writeBody (reqAddr g) v m⟩ c → c.ctrlUp = true → c.sys.dev = .perGroup →
    c.badgerRuns = true → c.decides g = true → (c.grp[g]).mode = .regulate → (c.grp[g]).ramping = false → (c.grp[g]).runSel = false → (c.grp[g]).cfg.chargeOk = true →
    c.gauge.lost = false → c.shdnAsked = false → setsBit 1 v m = true → m.getLsbD 0 = false →
    Runs (.runSelChange h g v m) c [.sys, .tb, .ph, .grp, .le, .setpt, .cap, .sweep, .sett, .guards, .eva, .trace, .obs, .mbx, .dom, .nv, .cal, .log, .host, .draws]
        (fun d => (∀ j : Group, (d.grp[j]).mode = if g = j then .charge else (c.grp[j]).mode) ∧
      ∃ body, Answered ⟨h, 0x02, writeBody (reqAddr g) v m⟩ .ok body c d)) ∧
  (∀ c : Chip, ∀ h : HostRef, ∀ g : Group, ∀ v m : Word, TakesNext ⟨h, 0x02, writeBody (reqAddr g) v m⟩ c →
    CarriedOut ⟨h, 0x02, writeBody (reqAddr g) v m⟩ c → c.ctrlUp = true → c.badgerApplies = true →
    (c.grp[g]).mode = .standby → clearsBit 1 v m = true → m.getLsbD 0 = false →
    Runs (.runSelChange h g v m) c [.grp, .host, .mbx, .dom, .eva, .trace, .obs, .draws]
        (fun d => d.grp = vmod c.grp g (fun u => { u with runSel := false }) ∧
      ∃ body, Answered ⟨h, 0x02, writeBody (reqAddr g) v m⟩ .ok body c d)) ∧
  (∀ c : Chip, ∀ h : HostRef, ∀ g : Group, ∀ v m : Word, TakesNext ⟨h, 0x02, writeBody (reqAddr g) v m⟩ c →
    CarriedOut ⟨h, 0x02, writeBody (reqAddr g) v m⟩ c → c.ctrlUp = true → c.badgerApplies = false →
    setsBit 0 v m = true →
    Runs (.groupEnable h g v m) c [.host, .mbx, .dom, .eva, .trace, .obs, .draws]
        (fun d => ∃ body, Answered ⟨h, 0x02, writeBody (reqAddr g) v m⟩ .wrongMode body c d))

/-- Each of a command that Owl takes next. WRITE_CMD outside the address map is answered ADDR_INVALID; to the register at 0x00010010, which takes no
host write, ACCESS_DENIED with the register's word; in either case nothing but the host port changes. WRITE_CMD that sets RST_STUCK of SYS_RST_CAUSE
clears the bit at a grant. HOST_SET_SELECT that can be carried out, where Badger applies writes and HOST_EN is set, and that covers a bit of SET: of
a defined set, on a device that decides for the group, it is in force as host selection, every mode stands, and no other group changes but by a swap
that Badger had asked for before; of an undefined set it is answered SET_UNDEFINED and no group changes. SHUTDOWN_REQUEST that sets bit 0, can be
carried out and is applied requests SHDN_START, in device SAFE with the Class A latch set also where Badger applies no other write. GAUGE_CMD_SAVE
that sets bit 0, with the gauge enabled and the store writable, waits for its answer; without the gauge it is answered SOURCE_DISABLED.
WARNING_CLEAR that sets bit 28 of a guard's STATUS, with a warning held, clears it at a grant, the block's faults and every other block standing. -/
def Obligations.HostWrites : Prop :=
  (∀ c : Chip, ∀ h : HostRef, ∀ a v m : Word, TakesNext ⟨h, 0x02, writeBody a.toNat v m⟩ c → mapped a.toNat = false →
    Runs (.writeCmd h a v m) c [.host] (fun d =>
      Answered ⟨h, 0x02, writeBody a.toNat v m⟩ .addrInvalid (leBytes 4 a.toNat ++ leBytes 4 0) c d)) ∧
  (∀ c : Chip, ∀ h : HostRef, ∀ v m : Word, TakesNext ⟨h, 0x02, writeBody 0x00010010 v m⟩ c →
    Runs (.writeCmd h 0x00010010 v m) c [.host] (fun d => Answered ⟨h, 0x02, writeBody 0x00010010 v m⟩ .accessDenied
      (leBytes 4 0x00010010 ++ leBytes 4 (c.regWord .host 0x00010010).toNat) c d)) ∧
  (∀ c : Chip, ∀ h : HostRef, ∀ v m : Word, TakesNext ⟨h, 0x02, writeBody rstCauseAddr v m⟩ c → c.powered = true → setsBit 4 v m = true →
    Runs (.writeCmd h 0x00000108 v m) c [.sys, .eva, .trace, .obs, .host, .draws] (fun d => d.sys = { c.sys with rstStuck := false } ∧ Granted c d ∧
      ∃ body, Answered ⟨h, 0x02, writeBody rstCauseAddr v m⟩ .ok body c d)) ∧
  (∀ c : Chip, ∀ h : HostRef, ∀ g : Group, ∀ v m : Word, TakesNext ⟨h, 0x02, writeBody (hselAddr g) v m⟩ c →
    CarriedOut ⟨h, 0x02, writeBody (hselAddr g) v m⟩ c → c.ctrlUp = true → c.badgerApplies = true →
    m.toNat % 16 ≠ 0 → (c.grp[g]).cfg.hostEn = true →
    (c.setRec g ((merge (BitVec.ofNat 32 (c.grp[g]).hsel) v m).toNat % 16)).defined = true → c.isMember g = false →
    Runs (.hostSetSelect h g v m) c [.sys, .tb, .ph, .grp, .le, .setpt, .cap, .sweep, .sett, .guards, .eva, .trace, .obs, .mbx, .dom, .nv, .cal, .log, .host, .draws]
        (fun d => (d.grp[g]).hsel = (merge (BitVec.ofNat 32 (c.grp[g]).hsel) v m).toNat % 16 ∧
      (d.grp[g]).selSet = (merge (BitVec.ofNat 32 (c.grp[g]).hsel) v m).toNat % 16 ∧ (d.grp[g]).selSrc = 2 ∧
      (c.setpt.pending = none → ∀ j : Group, j ≠ g → d.grp[j] = c.grp[j]) ∧ (∀ j : Group, (d.grp[j]).mode = (c.grp[j]).mode) ∧
      ∃ body, Answered ⟨h, 0x02, writeBody (hselAddr g) v m⟩ .ok body c d)) ∧
  (∀ c : Chip, ∀ h : HostRef, ∀ g : Group, ∀ v m : Word, TakesNext ⟨h, 0x02, writeBody (hselAddr g) v m⟩ c →
    CarriedOut ⟨h, 0x02, writeBody (hselAddr g) v m⟩ c → c.ctrlUp = true → c.badgerApplies = true →
    m.toNat % 16 ≠ 0 → (c.grp[g]).cfg.hostEn = true →
    (c.setRec g ((merge (BitVec.ofNat 32 (c.grp[g]).hsel) v m).toNat % 16)).defined = false →
    Runs (.hostSetSelect h g v m) c [.host, .mbx, .dom, .eva, .trace, .obs, .draws] (fun d =>
      ∃ body, Answered ⟨h, 0x02, writeBody (hselAddr g) v m⟩ .setUndefined body c d)) ∧
  (∀ c : Chip, ∀ h : HostRef, ∀ v m : Word, TakesNext ⟨h, 0x02, writeBody modeReqAddr v m⟩ c →
    CarriedOut ⟨h, 0x02, writeBody modeReqAddr v m⟩ c → (c.badgerApplies = true ∨ (c.latched = true ∧ c.sys.dev = .safe)) → c.outOfBoot = true →
    c.sys.dev ≠ .shutdown → setsBit 0 v m = true →
    Runs (.shutdownRequest h v m) c [.sys, .host, .mbx, .dom, .eva, .trace, .obs, .draws] (fun d =>
      d.sys = { c.sys with shdnReq := c.sys.shdnReq ++ [.host] } ∧ ∃ body, Answered ⟨h, 0x02, writeBody modeReqAddr v m⟩ .ok body c d)) ∧
  (∀ c : Chip, ∀ h : HostRef, ∀ v m : Word, TakesNext ⟨h, 0x02, writeBody gaugeCmdAddr v m⟩ c → c.ctrlUp = true → c.gauge.cfg.en = true →
    setsBit 0 v m = true → c.nv.readOnly = false →
    Runs (.gaugeCmdSave h v m) c [.host] (fun d => Taken ⟨h, 0x02, writeBody gaugeCmdAddr v m⟩ c d)) ∧
  (∀ c : Chip, ∀ h : HostRef, ∀ v m : Word, TakesNext ⟨h, 0x02, writeBody gaugeCmdAddr v m⟩ c → c.ctrlUp = true → c.gauge.cfg.en = false →
    Runs (.gaugeCmdSave h v m) c [.host] (fun d => ∃ body, Answered ⟨h, 0x02, writeBody gaugeCmdAddr v m⟩ .sourceDisabled body c d)) ∧
  (∀ c : Chip, ∀ h : HostRef, ∀ b : Block, ∀ v m : Word, TakesNext ⟨h, 0x02, writeBody (statusAddr b) v m⟩ c → c.powered = true →
    setsBit 28 v m = true → (c.guards[b]).c = true →
    Runs (.warningClear h b v m) c [.guards, .eva, .trace, .obs, .log, .host, .draws] (fun d => (d.guards[b]).c = false ∧
      (d.guards[b]).faults = (c.guards[b]).faults ∧ (∀ k : Block, k ≠ b → d.guards[k] = c.guards[k]) ∧ Granted c d ∧
      ∃ body, Answered ⟨h, 0x02, writeBody (statusAddr b) v m⟩ .ok body c d))

/-- FAULT_INJECT that Owl takes next, the device being powered: without factory test it is answered ACCESS_DENIED, and nothing but the host port
changes. In factory test a write that covers BLOCK and whose CTL names, after it, a block with a code that the block can have injected and a unit
that it has for the code, is counted and raises the code in the class that `injectedClass` gives: a warning, with the answer OK, a Class B fault
held, or a Class A fault latched. A warning of Owl or of Hedgehog, its domain being up, takes the domain down into a restart marked as injected, a
memory error with its warning at once; of Hedgehog down it is shown alone. In the unlock window, FACTORY_UNLOCK with the unlock value (a free
constant of the model) enters factory test and closes the window; with another value it closes the window with the warning 0x47, and so does
TMODE_IGNORED. Without a window neither changes anything. FAULT_FRAME of a port on the bus, with Owl up, sends the oldest waiting frame and leaves
the others, where no frame was dropped before it; where one was, the frame sent carries OVERFLOW and the mark is cleared. The other port stands. -/
def Obligations.FactoryTestAndFaultFrames : Prop :=
  (∀ c : Chip, ∀ h : HostRef, ∀ v m : Word, TakesNext ⟨h, 0x02, writeBody fiCtlAddr v m⟩ c → c.powered = true → c.sys.test = false →
    Runs (.faultInject h v m) c [.host] (fun d => ∃ body, Answered ⟨h, 0x02, writeBody fiCtlAddr v m⟩ .accessDenied body c d)) ∧
  (∀ c : Chip, ∀ h : HostRef, ∀ v m : Word, ∀ b : Block, ∀ code unit : Nat, TakesNext ⟨h, 0x02, writeBody fiCtlAddr v m⟩ c → c.powered = true → c.sys.test = true →
    m.toNat % 256 ≠ 0 → (merge (BitVec.ofNat 32 c.sys.fiCtl) v m).toNat % 2 ^ 24 = unit * 65536 + code * 256 + b.val → code < 256 →
    isBootFault code = false → hasUnit b code unit = true → c.injectedClass b code = some .c → b ≠ owlBlock → b ≠ hhBlock →
    Runs (.faultInject h v m) c [.sys, .tb, .ph, .grp, .le, .setpt, .cap, .sweep, .sett, .guards, .eva, .trace, .obs, .mbx, .dom, .nv, .cal, .log, .host, .draws]
        (fun d => Warned b code c d ∧ d.sys.fiCnt = c.sys.fiCnt + 1 ∧
      ∃ body, Answered ⟨h, 0x02, writeBody fiCtlAddr v m⟩ .ok body c d)) ∧
  (∀ c : Chip, ∀ h : HostRef, ∀ v m : Word, ∀ b : Block, ∀ code unit : Nat, TakesNext ⟨h, 0x02, writeBody fiCtlAddr v m⟩ c → c.powered = true → c.sys.test = true →
    m.toNat % 256 ≠ 0 → (merge (BitVec.ofNat 32 c.sys.fiCtl) v m).toNat % 2 ^ 24 = unit * 65536 + code * 256 + b.val → code < 256 →
    isBootFault code = false → hasUnit b code unit = true → c.injectedClass b code = some .b →
    Runs (.faultInject h v m) c [.sys, .tb, .ph, .grp, .le, .setpt, .cap, .sweep, .sett, .guards, .eva, .trace, .obs, .mbx, .dom, .nv, .cal, .log, .host, .draws]
        (fun d => Holds b code unit d ∧ d.sys.fiCnt = c.sys.fiCnt + 1)) ∧
  (∀ c : Chip, ∀ h : HostRef, ∀ v m : Word, ∀ b : Block, ∀ code unit : Nat, TakesNext ⟨h, 0x02, writeBody fiCtlAddr v m⟩ c → c.powered = true → c.sys.test = true →
    m.toNat % 256 ≠ 0 → (merge (BitVec.ofNat 32 c.sys.fiCtl) v m).toNat % 2 ^ 24 = unit * 65536 + code * 256 + b.val → code < 256 →
    isBootFault code = false → hasUnit b code unit = true → c.injectedClass b code = some .a →
    Runs (.faultInject h v m) c [.sys, .tb, .ph, .grp, .le, .setpt, .cap, .sweep, .sett, .guards, .eva, .trace, .obs, .mbx, .dom, .nv, .cal, .log, .host, .draws]
        (fun d => (d.guards[b]).aCode = code ∧ d.sys.fiCnt = c.sys.fiCnt + 1)) ∧
  (∀ c : Chip, ∀ h : HostRef, ∀ v m : Word, ∀ b : Block, ∀ k : Core, ∀ code unit : Nat, TakesNext ⟨h, 0x02, writeBody fiCtlAddr v m⟩ c → c.powered = true → c.sys.test = true →
    m.toNat % 256 ≠ 0 → (merge (BitVec.ofNat 32 c.sys.fiCtl) v m).toNat % 2 ^ 24 = unit * 65536 + code * 256 + b.val → code < 256 →
    isBootFault code = false → hasUnit b code unit = true → c.injectedClass b code = some .c →
    (k = .owl ∧ b = owlBlock ∨ k = .hedgehog ∧ b = hhBlock) → c.isUp k = true →
    Runs (.faultInject h v m) c [.sys, .tb, .ph, .grp, .le, .setpt, .cap, .sweep, .sett, .guards, .eva, .trace, .obs, .mbx, .dom, .nv, .cal, .log, .host, .draws]
        (fun d => d.isUp k = false ∧ (d.dom[coreIdx k]).restart = true ∧ (d.dom[coreIdx k]).inj = true ∧
      (code = 0x61 → Warned b code c d) ∧ d.sys.fiCnt = c.sys.fiCnt + 1)) ∧
  (∀ c : Chip, ∀ h : HostRef, ∀ v m : Word, ∀ code unit : Nat, TakesNext ⟨h, 0x02, writeBody fiCtlAddr v m⟩ c → c.powered = true → c.sys.test = true →
    m.toNat % 256 ≠ 0 → (merge (BitVec.ofNat 32 c.sys.fiCtl) v m).toNat % 2 ^ 24 = unit * 65536 + code * 256 + hhBlock.val → code < 256 →
    isBootFault code = false → hasUnit hhBlock code unit = true → c.injectedClass hhBlock code = some .c → c.isUp .hedgehog = false →
    Runs (.faultInject h v m) c [.sys, .tb, .ph, .grp, .le, .setpt, .cap, .sweep, .sett, .guards, .eva, .trace, .obs, .mbx, .dom, .nv, .cal, .log, .host, .draws]
        (fun d => Warned hhBlock code c d ∧ d.dom = c.dom ∧ d.sys.fiCnt = c.sys.fiCnt + 1)) ∧
  (∀ c : Chip, ∀ bs : List Byte, c.sys.unlockOpen = true → bs = Config.unlockValue →
    Runs (.factoryUnlock bs) c [.sys] (fun d => d.sys = { c.sys with unlockOpen := false, test := true })) ∧
  (∀ c : Chip, ∀ bs : List Byte, c.sys.unlockOpen = true → bs ≠ Config.unlockValue →
    Runs (.factoryUnlock bs) c [.sys, .guards, .eva, .trace, .obs, .nv, .log, .draws]
        (fun d => d.sys = { c.sys with unlockOpen := false } ∧ Warned sysBlock 0x47 c d)) ∧
  (∀ c : Chip, c.sys.unlockOpen = true →
    Runs (.tmodeIgnored) c [.sys, .guards, .eva, .trace, .obs, .nv, .log, .draws]
        (fun d => d.sys = { c.sys with unlockOpen := false } ∧ Warned sysBlock 0x47 c d)) ∧
  (∀ c : Chip, ∀ bs : List Byte, c.sys.unlockOpen = false → Runs (.tmodeIgnored) c []
      (fun d => d = c) ∧ Runs (.factoryUnlock bs) c [] (fun d => d = c)) ∧
  (∀ c : Chip, ∀ p : CanPort, ∀ f : List Byte, ∀ rest : List (List Byte), (c.host.ports[p]).faults = f :: rest → c.isUp .owl = true →
    (c.host.ports[p]).onBus = true → (c.host.ports[p]).overflow = false →
    Runs (.faultFrame p) c [.host] (fun d => (d.host.ports[p]).faults = rest ∧
      (d.host.ports[p]).out = (c.host.ports[p]).out ++ [⟨p, 0, 0x41, 0, .ok, f, (c.host.ports[p]).fd, (c.host.ports[p]).fd && (c.host.ports[p]).brs, c.sett.addr.val, c.host.netId⟩] ∧
      ∀ q : CanPort, q ≠ p → d.host.ports[q] = c.host.ports[q])) ∧
  (∀ c : Chip, ∀ p : CanPort, ∀ f : List Byte, ∀ rest : List (List Byte), (c.host.ports[p]).faults = f :: rest → c.isUp .owl = true →
    (c.host.ports[p]).onBus = true → (c.host.ports[p]).overflow = true → (∀ x ∈ f :: rest, x.length = 16) →
    Runs (.faultFrame p) c [.host] (fun d => (d.host.ports[p]).faults = rest ∧ (d.host.ports[p]).overflow = false ∧
      (∃ m : Message, (d.host.ports[p]).out = (c.host.ports[p]).out ++ [m] ∧ m.type = 0x41 ∧ (m.body.getD 10 0).getLsbD 2 = true) ∧
      ∀ q : CanPort, q ≠ p → d.host.ports[q] = c.host.ports[q]))

/-- FAULT_CLEAR that Owl takes next and that can be carried out. Of a block up to 44, or of all: where it names a latched Class A fault it is answered
CLASS_A_LATCHED, and where it names nothing held NO_FAULT, no guard changing in either case (a pending swap of Badger's goes first). Another block
is answered PARAM_RANGE. Of one block, no latched Class A fault being named, it leaves nothing in the block that it could clear, no fault of another
block changes, and it is answered OK, FAULT_ACTIVE or NO_FAULT. -/
def Obligations.FaultClears : Prop :=
  (∀ c : Chip, ∀ h : HostRef, ∀ block code : Nat, TakesNext ⟨h, 0x07, leBytes 1 block ++ leBytes 1 code ++ [0, 0]⟩ c →
    CarriedOut ⟨h, 0x07, leBytes 1 block ++ leBytes 1 code ++ [0, 0]⟩ c → (block ≤ 44 ∨ block = 0xFF) →
    ¬(1 ≤ code ∧ code ≤ 4 ∧ (blocksNamed block).any (fun b => (c.guards[b]).aCode == code) = true) → (blocksNamed block).any (c.holds code) = false →
    Runs (.faultClear h block code) c [.tb, .grp, .setpt, .sett, .host, .mbx, .dom, .eva, .trace, .obs, .draws] (fun d =>
      Answered ⟨h, 0x07, leBytes 1 block ++ leBytes 1 code ++ [0, 0]⟩ .noFault [] c d)) ∧
  (∀ c : Chip, ∀ h : HostRef, ∀ block code : Nat, TakesNext ⟨h, 0x07, leBytes 1 block ++ leBytes 1 code ++ [0, 0]⟩ c →
    CarriedOut ⟨h, 0x07, leBytes 1 block ++ leBytes 1 code ++ [0, 0]⟩ c → (block ≤ 44 ∨ block = 0xFF) →
    1 ≤ code → code ≤ 4 → (blocksNamed block).any (fun b => (c.guards[b]).aCode == code) = true →
    Runs (.faultClear h block code) c [.host, .mbx, .dom, .eva, .trace, .obs, .draws]
        (fun d => Answered ⟨h, 0x07, leBytes 1 block ++ leBytes 1 code ++ [0, 0]⟩ .classALatched [] c d)) ∧
  (∀ c : Chip, ∀ h : HostRef, ∀ block code : Nat, TakesNext ⟨h, 0x07, leBytes 1 block ++ leBytes 1 code ++ [0, 0]⟩ c →
    CarriedOut ⟨h, 0x07, leBytes 1 block ++ leBytes 1 code ++ [0, 0]⟩ c → 44 < block → block ≠ 0xFF →
    Runs (.faultClear h block code) c [.host, .mbx, .dom, .eva, .trace, .obs, .draws]
        (fun d => Answered ⟨h, 0x07, leBytes 1 block ++ leBytes 1 code ++ [0, 0]⟩ .paramRange [] c d)) ∧
  (∀ c : Chip, ∀ h : HostRef, ∀ b : Block, ∀ code : Nat, TakesNext ⟨h, 0x07, leBytes 1 b.val ++ leBytes 1 code ++ [0, 0]⟩ c →
    CarriedOut ⟨h, 0x07, leBytes 1 b.val ++ leBytes 1 code ++ [0, 0]⟩ c →
    ¬(1 ≤ code ∧ code ≤ 4 ∧ (c.guards[b]).aCode = code) →
    Runs (.faultClear h b.val code) c [.sys, .tb, .ph, .grp, .le, .setpt, .sweep, .sett, .guards, .eva, .trace, .obs, .mbx, .dom, .nv, .cal, .log, .host, .draws]
        (fun d => d.clearable b code = [] ∧ (∀ k : Block, k ≠ b → (d.guards[k]).faults = (c.guards[k]).faults) ∧
      ∃ r ∈ [Result.ok, .faultActive, .noFault], Answered ⟨h, 0x07, leBytes 1 b.val ++ leBytes 1 code ++ [0, 0]⟩ r [] c d))

/-- A frame that is cut short by an error, is not extended, carries another network number than the device's, or comes in a format that its port does
not take, changes nothing but its port's error counters and the state that follows from them; the other port stands, and a good frame with no error
before it takes 1 from a REC of 1 to 127. On a port that takes its format and has no reassembly open, a good frame of a command to the device's
network and address, with a tag, 4 to 64 bytes long, that is fragment 0 and not the last, opens a reassembly with its data after the frame header,
and is counted; with Owl down it wakes Owl. REASSEMBLY_TIMEOUT of a message in reassembly, more than 10 ms after its last fragment, abandons it and
counts it, and leaves the other port alone. HOST_ANS, Owl being up, grants the oldest answer, records its tag and the grant as LAST_TAG and
LAST_SEQ, and on a port that is on the bus adds its message to those sent. CAN_BUSOFF of a port on the bus counts it, drops the FAULT frames that
wait on it and warns with 0x62; CAN_BUSOFF_RECOVERY of a port that is bus-off makes it error-active with both error counters 0, and changes nothing
else. -/
def Obligations.CanFramesAndAnswers : Prop :=
  (∀ c : Chip, ∀ f : CanFrame, (f.good = false ∨ f.extended = false ∨ f.ident % 8192 ≠ c.host.netId ∨ (c.host.ports[f.port]).takes f.fd f.brs = false) →
    Runs (.canFrameRx f) c [.host, .draws] (fun d => (∀ p : CanPort, p ≠ f.port → d.host.ports[p] = c.host.ports[p]) ∧
      d.host.ports[f.port] = { c.host.ports[f.port] with
        rec_ := (d.host.ports[f.port]).rec_, tec := (d.host.ports[f.port]).tec, st := (d.host.ports[f.port]).st } ∧
      d.host = { c.host with ports := d.host.ports } ∧
      (f.good = true → f.recAdd = 0 → 1 ≤ (c.host.ports[f.port]).rec_ → (c.host.ports[f.port]).rec_ ≤ 127 → (c.host.ports[f.port]).onBus = true →
        (d.host.ports[f.port]).rec_ = (c.host.ports[f.port]).rec_ - 1) ∧
      (f.good = false → (c.host.ports[f.port]).onBus = true →
        (d.host.ports[f.port]).rec_ = min 255 ((c.host.ports[f.port]).rec_ + f.recAdd) ∧
        (d.host.ports[f.port]).tec = min 255 ((c.host.ports[f.port]).tec + f.tecAdd) ∧
        ((d.host.ports[f.port]).st = .passive ↔ 128 ≤ (d.host.ports[f.port]).tec ∨ 128 ≤ (d.host.ports[f.port]).rec_)))) ∧
  (∀ c : Chip, ∀ f : CanFrame, f.good = true → f.extended = true → f.ident / 2 ^ 25 % 2 = 0 → f.ident % 8192 = c.host.netId → f.ident / 8192 % 16 = c.sett.addr.val →
    f.ident / 2 ^ 17 % 256 ≠ 0xFF → (c.host.ports[f.port]).takes f.fd f.brs = true → 4 ≤ f.data.length → f.data.length ≤ 64 → numAt f.data 0 2 ≠ 0 →
    numAt f.data 2 1 = 0 → (c.host.ports[f.port]).reasm = [] →
    Runs (.canFrameRx f) c [.obs, .dom, .host, .draws]
        (fun d => (d.host.ports[f.port]).reasm = [⟨f.ident / 2 ^ 17 % 256, numAt f.data 0 2, 1, f.data.drop 4,
        f.ident / 8192 % 16 == 0xF, f.ident / 2 ^ 26 % 8, f.fd, f.brs, c.tb.count⟩] ∧
      (d.host.ports[f.port]).rx = (c.host.ports[f.port]).rx + 1 ∧ d.obs[(22 : Fin 32)] = c.obs[(22 : Fin 32)] + 1 ∧
      (c.isUp .owl = false → (d.dom[coreIdx .owl]).waking = true))) ∧
  (∀ c : Chip, ∀ p : CanPort, ∀ type tag : Nat, (c.host.ports[p]).reasm.any (fun r => r.type == type && r.tag == tag && decide (r.at_ + 10 * tkMs < c.tb.count)) = true →
    Runs (.reassemblyTimeout p type tag) c [.host]
        (fun d => (d.host.ports[p]).reasm = (c.host.ports[p]).reasm.filter (fun r => !(r.type == type && r.tag == tag)) ∧
      (d.host.ports[p]).abandon = satInc 0xFFFF (c.host.ports[p]).abandon ∧ ∀ q : CanPort, q ≠ p → d.host.ports[q] = c.host.ports[q])) ∧
  (∀ c : Chip, ∀ h : HostCmd, ∀ r : Result, ∀ body : List Byte, ∀ rest : List (HostCmd × Result × List Byte),
    c.host.answers = (h, r, body) :: rest → c.isUp .owl = true → (c.host.ports[h.ref.port]).onBus = true →
    Runs (.hostAns) c [.eva, .trace, .obs, .log, .host, .draws]
        (fun d => d.host.answers = rest ∧ d.host.last = h.ref.tag ∧ d.host.lastSeq = d.eva.seq ∧ d.host.lastValid = true ∧ Granted c d ∧
      (d.host.ports[h.ref.port]).out = (c.host.ports[h.ref.port]).out ++
        [⟨h.ref.port, h.ref.prio, h.type, h.ref.tag, r, body, h.ref.fd, h.ref.brs, c.sett.addr.val, c.host.netId⟩] ∧ d.obs[(21 : Fin 32)] = c.obs[(21 : Fin 32)] + 1)) ∧
  (∀ c : Chip, ∀ p : CanPort, (c.host.ports[p]).onBus = true →
    Runs (.canBusoff p) c [.guards, .eva, .trace, .obs, .nv, .log, .host, .draws]
        (fun d => (d.host.ports[p]).st = .busOff ∧ (d.host.ports[p]).faults = [] ∧
      (d.host.ports[p]).busOff = satInc 0xFFFF (c.host.ports[p]).busOff ∧ Warned hostBlock 0x62 c d)) ∧
  (∀ c : Chip, ∀ p : CanPort, (c.host.ports[p]).st = .busOff →
    Runs (.canBusoffRecovery p) c [.host]
        (fun d => d.host = { c.host with ports := vmod c.host.ports p (fun u => { u with st := .active, tec := 0, rec_ := 0 }) }))

/-- TELEM_GET, next for Owl to take, of one to sixteen items whose record fits is answered OK with the items of the snapshot published, which Owl opens
and closes for it at two grants; where the CLOSE returns STALE it opens, reads and closes again, at two grants more. Of other items it is answered
PARAM_RANGE. TELEM_SUB that Owl takes next, with its stream, priority, ports and items in range: period 0 ends the stream; within STREAM_MAX, the
shortest period and each named port's rate the stream starts; past STREAM_MAX or below the shortest period it is answered STREAM_LIMIT and no stream
changes. TELEM_STREAM of a running stream whose PERIOD_MS has passed, Owl being up, with no STALE to return, takes the items at two grants, and
counts SEQ on; with Owl down it counts SEQ on and does nothing else; of a stream that does not run it changes nothing. -/
def Obligations.HostTelemetry : Prop :=
  (∀ c : Chip, ∀ h : HostRef, ∀ items : List Nat, TakesNext ⟨h, 0x03, [BitVec.ofNat 8 items.length, 0, 0, 0] ++ itemBytes items⟩ c →
    itemsOk items = true → telemSize items ≤ 480 → c.snap.stale[coreIdx .owl] = false →
    Runs (.telemGet h items) c [.snap, .eva, .trace, .obs, .dom, .host, .draws]
        (fun d => d.snap.open_[coreIdx .owl] = none ∧ d.eva.seq = c.eva.seq + 2 ∧
      Answered ⟨h, 0x03, [BitVec.ofNat 8 items.length, 0, 0, 0] ++ itemBytes items⟩ .ok
        (leBytes 2 c.snap.gen.toNat ++ [BitVec.ofNat 8 items.length, 0] ++
          items.flatMap (c.itemRecord (if c.snap.pub then c.snap.bufB else c.snap.bufA))) c d)) ∧
  (∀ c : Chip, ∀ h : HostRef, ∀ items : List Nat, TakesNext ⟨h, 0x03, [BitVec.ofNat 8 items.length, 0, 0, 0] ++ itemBytes items⟩ c →
    itemsOk items = true → telemSize items ≤ 480 → c.snap.stale[coreIdx .owl] = true →
    Runs (.telemGet h items) c [.snap, .eva, .trace, .obs, .dom, .host, .draws]
        (fun d => d.snap.open_[coreIdx .owl] = none ∧ d.snap.stale[coreIdx .owl] = false ∧ d.eva.seq = c.eva.seq + 4 ∧
      Answered ⟨h, 0x03, [BitVec.ofNat 8 items.length, 0, 0, 0] ++ itemBytes items⟩ .ok
        (leBytes 2 c.snap.gen.toNat ++ [BitVec.ofNat 8 items.length, 0] ++
          items.flatMap (c.itemRecord (if c.snap.pub then c.snap.bufB else c.snap.bufA))) c d)) ∧
  (∀ c : Chip, ∀ h : HostRef, ∀ items : List Nat, TakesNext ⟨h, 0x03, [BitVec.ofNat 8 items.length, 0, 0, 0] ++ itemBytes items⟩ c →
    (itemsOk items = false ∨ 480 < telemSize items) →
    Runs (.telemGet h items) c [.host] (fun d => Answered ⟨h, 0x03, [BitVec.ofNat 8 items.length, 0, 0, 0] ++ itemBytes items⟩ .paramRange [] c d)) ∧
  (∀ c : Chip, ∀ h : HostRef, ∀ r : SubReq, ∀ s : Fin 8, TakesNext ⟨h, 0x04, subBody r⟩ c → r.stream = s.val → 1 ≤ r.prio → r.prio ≤ 7 → r.ports ≤ 3 →
    itemsOk r.items = true → 4 + telemSize r.items ≤ 480 → r.periodMs = 0 →
    Runs (.telemSub h r) c [.host] (fun d => d.host.streams = c.host.streams.set s none ∧
      Answered ⟨h, 0x04, subBody r⟩ .ok (leBytes 4 r.stream ++ leBytes 4 0) c d)) ∧
  (∀ c : Chip, ∀ h : HostRef, ∀ r : SubReq, ∀ s : Fin 8, TakesNext ⟨h, 0x04, subBody r⟩ c → r.stream = s.val → 1 ≤ r.prio → r.prio ≤ 7 → r.ports ≤ 3 →
    itemsOk r.items = true → 4 + telemSize r.items ≤ 480 → r.periodMs ≠ 0 → r.stream < c.host.streamMax → c.host.streamMin ≤ r.periodMs →
    (∀ p : CanPort, (portsOf r h.port).testBit p.val = true →
      c.host.chargedBy p s + streamRate c.host.ports[p] r.items r.periodMs ≤ (c.host.streamBps : Rat)) →
    Runs (.telemSub h r) c [.host, .draws]
        (fun d => ∃ seq : BitVec 16, d.host.streams = c.host.streams.set s (some ⟨r.prio, r.periodMs, portsOf r h.port, r.items, seq, c.tb.count⟩) ∧
      ∃ n : Nat, Answered ⟨h, 0x04, subBody r⟩ .ok (leBytes 4 r.stream ++ leBytes 4 n) c d)) ∧
  (∀ c : Chip, ∀ h : HostRef, ∀ r : SubReq, ∀ s : Fin 8, TakesNext ⟨h, 0x04, subBody r⟩ c → r.stream = s.val → 1 ≤ r.prio → r.prio ≤ 7 → r.ports ≤ 3 →
    itemsOk r.items = true → 4 + telemSize r.items ≤ 480 → r.periodMs ≠ 0 → (c.host.streamMax ≤ r.stream ∨ r.periodMs < c.host.streamMin) →
    Runs (.telemSub h r) c [.host] (fun d => d.host.streams = c.host.streams ∧ Answered ⟨h, 0x04, subBody r⟩ .streamLimit [] c d)) ∧
  (∀ c : Chip, ∀ k : Fin 8, ∀ x : Stream, c.host.streams[k] = some x → x.at_ + x.periodMs * tkMs ≤ c.tb.count → c.isUp .owl = true → c.snap.stale[coreIdx .owl] = false →
    Runs (.telemStream k) c [.snap, .eva, .trace, .obs, .host, .draws]
        (fun d => d.host.streams = c.host.streams.set k (some { x with seq := x.seq + 1, at_ := x.at_ + x.periodMs * tkMs }) ∧ d.eva.seq = c.eva.seq + 2)) ∧
  (∀ c : Chip, ∀ k : Fin 8, ∀ x : Stream, c.host.streams[k] = some x → x.at_ + x.periodMs * tkMs ≤ c.tb.count → c.isUp .owl = false →
    Runs (.telemStream k) c [.host]
        (fun d => d.host = { c.host with streams := c.host.streams.set k (some { x with seq := x.seq + 1, at_ := x.at_ + x.periodMs * tkMs }) })) ∧
  (∀ c : Chip, ∀ k : Fin 8, (∀ x : Stream, c.host.streams[k] = some x → c.tb.count < x.at_ + x.periodMs * tkMs) →
    Runs (.telemStream k) c [] (fun d => d = c))

/-- Each of a command that Owl takes next and that can be carried out. SWEEP_START that nothing refuses (`sweepRefusal`), of a group that spans no
devices, no SHDN_START of Badger's waiting, takes the group to SWEEP and no other group out of its mode, with the sweep in setup under the command's
tag, and is answered OK; one that is refused is answered with its refusal, no group and no sweep changing. SWEEP_ABORT of the sweep in progress that
this device originated, or of the chain-wide one that it has asked its head for, by its tag, requests its abort and waits for the grant; with no
sweep in progress it is answered ALREADY_DONE for a tag that has completed, and SWEEP_UNKNOWN for another. -/
def Obligations.SweepCommands : Prop :=
  (∀ c : Chip, ∀ h : HostRef, ∀ x : SweepDesc, ∀ g : Group, TakesNext ⟨h, 0x05, descBytes x⟩ c → CarriedOut ⟨h, 0x05, descBytes x⟩ c →
    c.sweepRefusal x = none → x.group = g.val → (c.sett.groups[g]).span = false → c.shdnAsked = false →
    Runs (.sweepStart h x) c [.sys, .tb, .ph, .grp, .le, .setpt, .sweep, .sett, .guards, .eva, .trace, .obs, .mbx, .dom, .nv, .cal, .log, .host, .draws]
        (fun d => (∀ j : Group, (d.grp[j]).mode = if g = j then .sweep else (c.grp[j]).mode) ∧ d.sweep.st = .setup ∧ d.sweep.tag = h.tag ∧
      d.sweep.group = g ∧ d.sweep.desc = x ∧ Answered ⟨h, 0x05, descBytes x⟩ .ok [] c d)) ∧
  (∀ c : Chip, ∀ h : HostRef, ∀ x : SweepDesc, ∀ r : Result, TakesNext ⟨h, 0x05, descBytes x⟩ c → CarriedOut ⟨h, 0x05, descBytes x⟩ c →
    c.sweepRefusal x = some r →
    Runs (.sweepStart h x) c [.host, .mbx, .dom, .eva, .trace, .obs, .draws] (fun d => Answered ⟨h, 0x05, descBytes x⟩ r [] c d)) ∧
  (∀ c : Chip, ∀ h : HostRef, ∀ tag : Nat, TakesNext ⟨h, 0x06, leBytes 2 tag ++ [0, 0]⟩ c → CarriedOut ⟨h, 0x06, leBytes 2 tag ++ [0, 0]⟩ c →
    c.sweep.ask ≠ some tag → c.sweep.st ≠ .idle → c.sweep.orig = true → c.sweep.tag = tag →
    Runs (.sweepAbort h tag) c [.sweep, .host, .mbx, .dom, .eva, .trace, .obs, .draws]
        (fun d => d.sweep = { c.sweep with abortReq := c.sweep.abortReq ++ [1] } ∧
      d.host.aborts = c.host.aborts ++ [(.sweep, some ⟨h, 0x06, leBytes 2 tag ++ [0, 0]⟩)] ∧ Taken ⟨h, 0x06, leBytes 2 tag ++ [0, 0]⟩ c d)) ∧
  (∀ c : Chip, ∀ h : HostRef, ∀ tag : Nat, TakesNext ⟨h, 0x06, leBytes 2 tag ++ [0, 0]⟩ c → CarriedOut ⟨h, 0x06, leBytes 2 tag ++ [0, 0]⟩ c →
    c.sweep.ask = some tag →
    Runs (.sweepAbort h tag) c [.sweep, .host, .mbx, .dom, .eva, .trace, .obs, .draws]
        (fun d => d.sweep = { c.sweep with askAbort := c.sweep.askAbort ++ [1] } ∧
      d.host.aborts = c.host.aborts ++ [(.sweep, some ⟨h, 0x06, leBytes 2 tag ++ [0, 0]⟩)] ∧ Taken ⟨h, 0x06, leBytes 2 tag ++ [0, 0]⟩ c d)) ∧
  (∀ c : Chip, ∀ h : HostRef, ∀ tag : Nat, TakesNext ⟨h, 0x06, leBytes 2 tag ++ [0, 0]⟩ c → CarriedOut ⟨h, 0x06, leBytes 2 tag ++ [0, 0]⟩ c → c.sweep.st = .idle →
    c.sweep.ask ≠ some tag → Runs (.sweepAbort h tag) c [.host, .mbx, .dom, .eva, .trace, .obs, .draws]
        (fun d => Answered ⟨h, 0x06, leBytes 2 tag ++ [0, 0]⟩
      (if c.sweep.completedTags.contains tag then .alreadyDone else .sweepUnknown) [] c d))

/-- Each of a command that Owl takes next, the store being unlocked unless said. NV_READ with a password that opens reads takes the count of failures to
0: for a key of 1 to 0x1F it is answered KEY_RESERVED, for a key with a visible record the record, at once or, where the operation in progress works
on a page that the record lies on, after that operation, and for one with none, or with an empty one, NOT_FOUND. With a wrong password it is
answered BAD_PASSWORD and counted, and the eighth failure locks the store and warns with 0x5E. In a locked store it is answered NV_LOCKED. NV_WRITE
with a password that opens writes takes the count of failures to 0: of at most 240 bytes under a key of 0x1000 to 0xFFFE, in a writable store with
fewer than eight user writes waiting and with room for it or no bytes to store, it joins the queue and waits for its operation; under a lower key it
is answered KEY_RESERVED; to a read-only store NV_READONLY. -/
def Obligations.NvAccess : Prop :=
  (∀ c : Chip, ∀ h : HostRef, ∀ pw : Word, ∀ key : Nat, TakesNext ⟨h, 0x08, leBytes 4 pw.toNat ++ leBytes 2 key ++ [0, 0]⟩ c → c.nv.locked = false →
    (c.nv.readPw = 0 ∨ c.nv.writePw = 0 ∨ pw = c.nv.readPw ∨ pw = c.nv.writePw) →
    Runs (.nvRead h pw key) c [.nv, .host] (fun d => d.nv = { c.nv with fails := 0 } ∧
      (1 ≤ key → key ≤ 0x1F → Answered ⟨h, 0x08, leBytes 4 pw.toNat ++ leBytes 2 key ++ [0, 0]⟩ .keyReserved [] c d) ∧
      (¬(1 ≤ key ∧ key ≤ 0x1F) → (∀ seq : BitVec 16, ∀ pay : List Byte, c.nv.lookup key = some (seq, pay) → pay ≠ [] →
        (c.nv.readBusy (fun r => r.key == key && r.seq == seq) = false →
          Answered ⟨h, 0x08, leBytes 4 pw.toNat ++ leBytes 2 key ++ [0, 0]⟩ .ok
            (leBytes 2 key ++ [BitVec.ofNat 8 pay.length, 0] ++ leBytes 2 seq.toNat ++ [0, 0] ++ pay) c d) ∧
        (c.nv.readBusy (fun r => r.key == key && r.seq == seq) = true →
          Taken ⟨h, 0x08, leBytes 4 pw.toNat ++ leBytes 2 key ++ [0, 0]⟩ c d ∧
          d.host.reads = c.host.reads ++ [(⟨h, 0x08, leBytes 4 pw.toNat ++ leBytes 2 key ++ [0, 0]⟩,
            leBytes 2 key ++ [BitVec.ofNat 8 pay.length, 0] ++ leBytes 2 seq.toNat ++ [0, 0] ++ pay)])) ∧
        (((c.nv.lookup key).map (·.2)).getD [] = [] →
          Answered ⟨h, 0x08, leBytes 4 pw.toNat ++ leBytes 2 key ++ [0, 0]⟩ .notFound [] c d)))) ∧
  (∀ c : Chip, ∀ h : HostRef, ∀ pw : Word, ∀ key : Nat, TakesNext ⟨h, 0x08, leBytes 4 pw.toNat ++ leBytes 2 key ++ [0, 0]⟩ c → c.nv.locked = false →
    c.nv.readPw ≠ 0 → c.nv.writePw ≠ 0 → pw ≠ c.nv.readPw → pw ≠ c.nv.writePw → c.nv.fails < 7 →
    Runs (.nvRead h pw key) c [.nv, .host] (fun d => d.nv = { c.nv with fails := c.nv.fails + 1 } ∧
      Answered ⟨h, 0x08, leBytes 4 pw.toNat ++ leBytes 2 key ++ [0, 0]⟩ .badPassword [] c d)) ∧
  (∀ c : Chip, ∀ h : HostRef, ∀ pw : Word, ∀ key : Nat, TakesNext ⟨h, 0x08, leBytes 4 pw.toNat ++ leBytes 2 key ++ [0, 0]⟩ c → c.nv.locked = false →
    c.nv.readPw ≠ 0 → c.nv.writePw ≠ 0 → pw ≠ c.nv.readPw → pw ≠ c.nv.writePw → 7 ≤ c.nv.fails →
    Runs (.nvRead h pw key) c [.guards, .eva, .trace, .obs, .dom, .nv, .log, .host, .draws] (fun d => d.nv.locked = true ∧ Warned nvsBlock 0x5E c d ∧
      Answered ⟨h, 0x08, leBytes 4 pw.toNat ++ leBytes 2 key ++ [0, 0]⟩ .badPassword [] c d)) ∧
  (∀ c : Chip, ∀ h : HostRef, ∀ pw : Word, ∀ key : Nat, TakesNext ⟨h, 0x08, leBytes 4 pw.toNat ++ leBytes 2 key ++ [0, 0]⟩ c → c.nv.locked = true →
    Runs (.nvRead h pw key) c [.host] (fun d => Answered ⟨h, 0x08, leBytes 4 pw.toNat ++ leBytes 2 key ++ [0, 0]⟩ .nvLocked [] c d)) ∧
  (∀ c : Chip, ∀ h : HostRef, ∀ pw : Word, ∀ key : Nat, ∀ pay : List Byte,
    TakesNext ⟨h, 0x09, leBytes 4 pw.toNat ++ leBytes 2 key ++ [BitVec.ofNat 8 pay.length, 0] ++ pay⟩ c → c.nv.locked = false →
    (c.nv.writePw = 0 ∨ pw = c.nv.writePw) → pay.length ≤ 240 → 0x1000 ≤ key → key ≤ 0xFFFE → c.nv.readOnly = false →
    (c.nv.queue.filter NvKind.isUser).length < 8 → (pay = [] ∨ ((c.nv.wouldHold key pay).1 ≤ 1024 ∧ (c.nv.wouldHold key pay).2 ≤ 65536)) →
    Runs (.nvWrite h pw key pay) c [.nv, .host] (fun d => d.nv = { c.nv with fails := 0, queue := c.nv.queue ++ [.record key pay (some h.tag)] } ∧
      Taken ⟨h, 0x09, leBytes 4 pw.toNat ++ leBytes 2 key ++ [BitVec.ofNat 8 pay.length, 0] ++ pay⟩ c d)) ∧
  (∀ c : Chip, ∀ h : HostRef, ∀ pw : Word, ∀ key : Nat, ∀ pay : List Byte,
    TakesNext ⟨h, 0x09, leBytes 4 pw.toNat ++ leBytes 2 key ++ [BitVec.ofNat 8 pay.length, 0] ++ pay⟩ c → c.nv.locked = false →
    (c.nv.writePw = 0 ∨ pw = c.nv.writePw) → pay.length ≤ 240 → key < 0x1000 →
    Runs (.nvWrite h pw key pay) c [.nv, .host] (fun d => d.nv = { c.nv with fails := 0 } ∧
      Answered ⟨h, 0x09, leBytes 4 pw.toNat ++ leBytes 2 key ++ [BitVec.ofNat 8 pay.length, 0] ++ pay⟩ .keyReserved [] c d)) ∧
  (∀ c : Chip, ∀ h : HostRef, ∀ pw : Word, ∀ key : Nat, ∀ pay : List Byte,
    TakesNext ⟨h, 0x09, leBytes 4 pw.toNat ++ leBytes 2 key ++ [BitVec.ofNat 8 pay.length, 0] ++ pay⟩ c → c.nv.locked = false →
    (c.nv.writePw = 0 ∨ pw = c.nv.writePw) → pay.length ≤ 240 → 0x1000 ≤ key → key ≤ 0xFFFE → c.nv.readOnly = true →
    Runs (.nvWrite h pw key pay) c [.nv, .host] (fun d => d.nv = { c.nv with fails := 0 } ∧
      Answered ⟨h, 0x09, leBytes 4 pw.toNat ++ leBytes 2 key ++ [BitVec.ofNat 8 pay.length, 0] ++ pay⟩ .nvReadonly [] c d))

/-- Each of a command that Owl takes next. LOG_READ of one to fourteen entries, with a password that opens reads in an unlocked store, is answered with
them, where the operation in progress works on a page of their records after that operation; of another number of entries PARAM_RANGE. CAL_SET of a
count or date that names a second of the calendar (`calSecs`) is granted at EVA_SEQ's new value, which becomes SET_SEQ; it sets the calendar to that
second with SET set, clears COARSE where the crystal runs, and in a writable store queues a stamp; of another count or date it is answered
INVALID_DATE. JOIN that can be carried out starts to train each enabled port that is DOWN, and where there is one it waits, until its window of 100
ms ends, which is also that training's; where there is none it is answered OK with the two ports' states. CFG_RELEASE sets CFG_RELEASED and is
answered OK. -/
def Obligations.LogCalendarJoin : Prop :=
  (∀ c : Chip, ∀ h : HostRef, ∀ pw : Word, ∀ first n : Nat, TakesNext ⟨h, 0x0A, leBytes 4 pw.toNat ++ leBytes 4 first ++ leBytes 1 n ++ [0, 0, 0]⟩ c →
    1 ≤ n → n ≤ 14 → c.nv.locked = false → (c.nv.readPw = 0 ∨ c.nv.writePw = 0 ∨ pw = c.nv.readPw ∨ pw = c.nv.writePw) →
    Runs (.logRead h pw first n) c [.nv, .host] (fun d =>
      (c.nv.readBusy (fun r => r.key == keyLog && decide (numAt r.payload 0 4 < first + n) && decide (first < numAt r.payload 0 4 + (r.payload.length - 4) / 32)) = false →
        Answered ⟨h, 0x0A, leBytes 4 pw.toNat ++ leBytes 4 first ++ leBytes 1 n ++ [0, 0, 0]⟩ .ok
          (leBytes 4 first ++ [BitVec.ofNat 8 n, 0, 0, 0] ++ (List.range n).flatMap (fun i => c.log.entryBytes (first + i))) c d) ∧
      (c.nv.readBusy (fun r => r.key == keyLog && decide (numAt r.payload 0 4 < first + n) && decide (first < numAt r.payload 0 4 + (r.payload.length - 4) / 32)) = true →
        Taken ⟨h, 0x0A, leBytes 4 pw.toNat ++ leBytes 4 first ++ leBytes 1 n ++ [0, 0, 0]⟩ c d ∧
        d.host.reads = c.host.reads ++ [(⟨h, 0x0A, leBytes 4 pw.toNat ++ leBytes 4 first ++ leBytes 1 n ++ [0, 0, 0]⟩,
          leBytes 4 first ++ [BitVec.ofNat 8 n, 0, 0, 0] ++ (List.range n).flatMap (fun i => c.log.entryBytes (first + i)))]))) ∧
  (∀ c : Chip, ∀ h : HostRef, ∀ pw : Word, ∀ first n : Nat, TakesNext ⟨h, 0x0A, leBytes 4 pw.toNat ++ leBytes 4 first ++ leBytes 1 n ++ [0, 0, 0]⟩ c →
    (n = 0 ∨ 14 < n) →
    Runs (.logRead h pw first n) c [.host] (fun d =>
      Answered ⟨h, 0x0A, leBytes 4 pw.toNat ++ leBytes 4 first ++ leBytes 1 n ++ [0, 0, 0]⟩ .paramRange [] c d)) ∧
  (∀ c : Chip, ∀ h : HostRef, ∀ r : CalReq, ∀ n : Nat, TakesNext ⟨h, 0x0B, calBody r⟩ c → calSecs r = some n →
    Runs (.calSet h r) c [.eva, .trace, .obs, .dom, .nv, .cal, .log, .host, .draws]
        (fun d => d.cal = { c.cal with sec := n, ended := false, set := true, coarse := c.cal.coarse && !c.cal.osc, setSeq := d.eva.seq, stampAt := c.cal.up } ∧
      Granted c d ∧ Answered ⟨h, 0x0B, calBody r⟩ .ok (leBytes 8 n) c d ∧
      (c.nv.readOnly = false → d.nv.queue = c.nv.queue ++ [d.calStampRecord]))) ∧
  (∀ c : Chip, ∀ h : HostRef, ∀ r : CalReq, TakesNext ⟨h, 0x0B, calBody r⟩ c → r ≠ .badForm → calSecs r = none →
    Runs (.calSet h r) c [.host] (fun d => Answered ⟨h, 0x0B, calBody r⟩ .invalidDate [] c d)) ∧
  (∀ c : Chip, ∀ h : HostRef, ∀ p : SettPort, TakesNext ⟨h, 0x0C, []⟩ c → CarriedOut ⟨h, 0x0C, []⟩ c →
    (if p.val = 0 then c.sett.upEn else c.sett.dnEn) = true → (c.sett.ports[p]).st = .down →
    Runs (.join h) c [.sett, .host, .mbx, .dom, .eva, .trace, .obs, .draws] (fun d =>
      (∀ q : SettPort, (d.sett.ports[q]).st = if (if q.val = 0 then c.sett.upEn else c.sett.dnEn) = true ∧ (c.sett.ports[q]).st = .down then .training
        else (c.sett.ports[q]).st) ∧
      (∃ ps : List SettPort, d.host.joinCmds = c.host.joinCmds ++ [(⟨h, 0x0C, []⟩, ps, c.tb.count + 100 * tkMs)] ∧
        ∀ q : SettPort, q ∈ ps ↔ (if q.val = 0 then c.sett.upEn else c.sett.dnEn) = true ∧ (c.sett.ports[q]).st = .down) ∧
      (∀ q : SettPort, (if q.val = 0 then c.sett.upEn else c.sett.dnEn) = true → (c.sett.ports[q]).st = .down →
        (d.sett.ports[q]).trainEnd = c.tb.count + 100 * tkMs) ∧ Taken ⟨h, 0x0C, []⟩ c d)) ∧
  (∀ c : Chip, ∀ h : HostRef, TakesNext ⟨h, 0x0C, []⟩ c → CarriedOut ⟨h, 0x0C, []⟩ c → (c.sett.upEn = false ∨ (c.sett.ports[(0 : SettPort)]).st ≠ .down) →
    (c.sett.dnEn = false ∨ (c.sett.ports[(1 : SettPort)]).st ≠ .down) →
    Runs (.join h) c [.host, .mbx, .dom, .eva, .trace, .obs, .draws] (fun d => Answered ⟨h, 0x0C, []⟩ .ok
      [BitVec.ofNat 8 (portCode (c.sett.ports[(0 : SettPort)]).st), BitVec.ofNat 8 (portCode (c.sett.ports[(1 : SettPort)]).st), 0, 0] c d)) ∧
  (∀ c : Chip, ∀ h : HostRef, TakesNext ⟨h, 0x0D, []⟩ c →
    Runs (.cfgRelease h) c [.sys, .host] (fun d => d.sys = { c.sys with cfgReleased := true } ∧ Answered ⟨h, 0x0D, []⟩ .ok [] c d))

/-- The first three of a command that Owl takes next. UPD_BEGIN of a multiple of 256 bytes that a package can have, with no bank on trial beside a
confirmed one, erases the bank it will write, withdraws a swap, which the bank state written then no longer carries, and opens a session with
nothing programmed; with the booted bank on trial and the other confirmed it is answered BANK_TRIAL. UPD_DATA of 8 to 472 bytes, in whole groups of
8 at a multiple of 8, in an open session that has not committed and within its length, whose bytes agree with those programmed before: the session's
bank then reads those bytes there and every other byte of both banks as before, the banks being canonical as every step keeps them. UPD_COMMIT with
no session is answered UPD_NO_SESSION, with bytes missing UPD_INCOMPLETE; whatever a check refuses, it is answered so and changes nothing but the
host port; with every check passed it waits. BANK_STATE_WRITE, requested at a commit's COMPLETE, clears the bank's flags, sets the swap, which the
bank state in flash then carries, and answers the commit; in a ride-through it changes nothing. -/
def Obligations.FirmwareUpdates : Prop :=
  (∀ c : Chip, ∀ h : HostRef, ∀ n : Nat, TakesNext ⟨h, 0x10, leBytes 4 n ++ [0, 0, 0, 0]⟩ c →
    ¬(c.sys.result ≠ .codeCorrupt ∧ (c.code.info c.sys.bank).trial = true ∧ (c.code.info c.updTarget).confirmed = true) → n % 256 = 0 → n ≤ packageMax →
    Runs (.updBegin h n) c [.code, .host] (fun d => d.code.bankMem c.updTarget = [] ∧ d.code.bankMem (!c.updTarget) = c.code.bankMem (!c.updTarget) ∧
      d.code.info0 = c.code.info0 ∧ d.code.info1 = c.code.info1 ∧ d.code.swap = none ∧
      (c.code.swap ≠ none → d.code.inForce.map (·.swap) = some none) ∧ d.host.updOpen = true ∧ d.host.updDone = false ∧
      d.host.updBank = c.updTarget ∧ d.host.updLen = n ∧ d.host.updMap = [] ∧
      Answered ⟨h, 0x10, leBytes 4 n ++ [0, 0, 0, 0]⟩ .ok [BitVec.ofNat 8 (bit c.updTarget).toNat, 0, 0, 0] c d)) ∧
  (∀ c : Chip, ∀ h : HostRef, ∀ n : Nat, TakesNext ⟨h, 0x10, leBytes 4 n ++ [0, 0, 0, 0]⟩ c → c.sys.result ≠ .codeCorrupt →
    (c.code.info c.sys.bank).trial = true → (c.code.info c.updTarget).confirmed = true →
    Runs (.updBegin h n) c [.host] (fun d => Answered ⟨h, 0x10, leBytes 4 n ++ [0, 0, 0, 0]⟩ .bankTrial [] c d)) ∧
  (∀ c : Chip, ∀ h : HostRef, ∀ off : Nat, ∀ data : List Byte, TakesNext ⟨h, 0x11, leBytes 4 off ++ data⟩ c → off % 8 = 0 → data.length % 8 = 0 →
    8 ≤ data.length → data.length ≤ 472 → c.host.updOpen = true → c.host.updDone = false → off + data.length ≤ c.host.updLen →
    c.sameBytes off data = true → BanksCanonical c →
    Runs (.updData h off data) c [.code, .host] (fun d =>
      (∀ i, i < data.length → memRead erased (d.code.bankMem c.host.updBank) (off + i) = data.getD i 0) ∧
      (∀ a, (a < off ∨ off + data.length ≤ a) →
        memRead erased (d.code.bankMem c.host.updBank) a = memRead erased (c.code.bankMem c.host.updBank) a) ∧
      d.code.bankMem (!c.host.updBank) = c.code.bankMem (!c.host.updBank) ∧
      ∃ n : Nat, Answered ⟨h, 0x11, leBytes 4 off ++ data⟩ .ok (leBytes 4 n) c d)) ∧
  (∀ c : Chip, ∀ h : HostRef, TakesNext ⟨h, 0x12, []⟩ c → c.host.updOpen = false →
    Runs (.updCommit h) c [.host] (fun d => Answered ⟨h, 0x12, []⟩ .updNoSession [] c d)) ∧
  (∀ c : Chip, ∀ h : HostRef, TakesNext ⟨h, 0x12, []⟩ c → c.host.updOpen = true → c.host.updDone = false → c.host.updBytes ≠ c.host.updLen →
    Runs (.updCommit h) c [.host] (fun d => Answered ⟨h, 0x12, []⟩ .updIncomplete [] c d)) ∧
  (∀ c : Chip, ∀ h : HostRef, ∀ r : Result, TakesNext ⟨h, 0x12, []⟩ c → c.commitCheck = .error r →
    Runs (.updCommit h) c [.host] (fun d => Answered ⟨h, 0x12, []⟩ r [] c d)) ∧
  (∀ c : Chip, ∀ h : HostRef, ∀ w : Bool × Nat, TakesNext ⟨h, 0x12, []⟩ c → c.commitCheck = .ok w →
    Runs (.updCommit h) c [.host] (fun d => d.host.commitReq = some w ∧ d.host.commitDone = false ∧ Taken ⟨h, 0x12, []⟩ c d)) ∧
  (∀ c : Chip, ∀ b : Bool, ∀ w : Bool × Nat, c.code.writeReq = some b → c.host.commitReq = some w → c.sys.ride = false →
    Runs (.bankStateWrite) c [.code, .host]
        (fun d => d.code.info b = {} ∧ d.code.swap = some b ∧ d.code.inForce.map (·.swap) = some (some b) ∧ d.code.writeReq = none ∧ d.host.updDone = true ∧
      d.code.bank0 = c.code.bank0 ∧ d.code.bank1 = c.code.bank1 ∧
      d.host.commitReq = none ∧ (∀ h : HostCmd, c.commitCmd = some h → d.host.answers = c.host.answers ++
        [(h, .ok, [BitVec.ofNat 8 (bit b).toNat, BitVec.ofNat 8 (bit w.1).toNat, 0, 0] ++ leBytes 4 w.2)]))) ∧
  (∀ c : Chip, c.sys.ride = true → Runs (.bankStateWrite) c [] (fun d => d = c))

/-- COMPLETE of an NV record in progress, neither complete nor aborted, is granted and the index names the record; of PRECHARGE on a device that decides
for the group, the group's request standing and neither an abort nor a SHDN_START of Badger's waiting, takes the group to SOFTSTART and no other
group out of its mode; of a commit that waits is granted and requests the bank-state write; of a sweep, none being in progress, it changes nothing.
ABORT that Owl takes next: of an NV_WRITE that waits or can still be aborted, it waits for its grant; of a commit that waits and is not complete,
the same; of a tag that no NV_WRITE known to the device has, it is answered TAG_UNKNOWN. ABORT_GRANT of the one abort that waits, at a grant: of an
NV_WRITE in the queue takes it out; of the one in progress keeps its record from being committed; of a PRECHARGE that has not completed, no
SHDN_START of Badger's waiting, takes the group to STANDBY and no other group out of its mode, and of one whose COMPLETE was granted before it
leaves every mode as it is; of a commit that is not complete drops it, the session staying open and the banks as before; of an NV write that has
completed changes no part of the store. -/
def Obligations.CompleteAndAbort : Prop :=
  (∀ c : Chip, ∀ o : NvOp, ∀ key : Nat, ∀ pay : List Byte, ∀ u : Option Nat, c.nv.op = some o → o.complete = false → o.aborted = false →
    o.kind = .record key pay u →
    Runs (.complete .nvWrite) c [.sys, .code, .tb, .ph, .grp, .le, .setpt, .cap, .sweep, .sett, .gauge, .guards, .eva, .trace, .obs, .mbx, .dom, .nv, .cal, .log, .host, .draws]
        (fun d => d.nv = { c.nv with op := some { o with complete := true }, index := indexSet c.nv.index key (c.nv.nextSeq key) pay } ∧
      Granted c d)) ∧
  (∀ c : Chip, ∀ g : Group, (c.grp[g]).mode = .precharge → (c.grp[g]).preReq = true → (c.grp[g]).preDone = false → c.decides g = true → c.shdnAsked = false →
    c.host.aborts = [] →
    Runs (.complete (.precharge g)) c [.sys, .code, .tb, .ph, .grp, .le, .setpt, .cap, .sweep, .sett, .gauge, .guards, .eva, .trace, .obs, .mbx, .dom, .nv, .cal, .log, .host, .draws]
        (fun d => ∀ j : Group, (d.grp[j]).mode = if g = j then .softstart else (c.grp[j]).mode)) ∧
  (∀ c : Chip, c.host.commitReq.isSome = true → c.host.commitDone = false →
    Runs (.complete .commit) c [.sys, .code, .tb, .ph, .grp, .le, .setpt, .cap, .sweep, .sett, .gauge, .guards, .eva, .trace, .obs, .mbx, .dom, .nv, .cal, .log, .host, .draws]
        (fun d => d.host.commitDone = true ∧ d.code = { c.code with writeReq := some c.host.updBank } ∧ Granted c d)) ∧
  (∀ c : Chip, c.sweep.st = .idle → Runs (.complete .sweep) c [] (fun d => d = c)) ∧
  (∀ c : Chip, ∀ h : HostRef, ∀ tag : Nat, TakesNext ⟨h, 0x0E, leBytes 2 tag ++ [BitVec.ofNat 8 0x09, 0]⟩ c →
    (c.nv.queuedTag tag = true ∨ c.nv.openTag tag = true) → (c.writeCmdOf tag).isSome = true →
    Runs (.abort h tag 0x09) c [.host]
        (fun d => d.host.aborts = c.host.aborts ++ [(.nvWrite, some ⟨h, 0x0E, leBytes 2 tag ++ [BitVec.ofNat 8 0x09, 0]⟩)] ∧
      Taken ⟨h, 0x0E, leBytes 2 tag ++ [BitVec.ofNat 8 0x09, 0]⟩ c d)) ∧
  (∀ c : Chip, ∀ h : HostRef, ∀ tag : Nat, TakesNext ⟨h, 0x0E, leBytes 2 tag ++ [BitVec.ofNat 8 0x12, 0]⟩ c →
    (c.commitCmd.map (·.ref.tag)) = some tag → c.host.commitReq.isSome = true → c.host.commitDone = false →
    Runs (.abort h tag 0x12) c [.host]
        (fun d => d.host.aborts = c.host.aborts ++ [(.commit, some ⟨h, 0x0E, leBytes 2 tag ++ [BitVec.ofNat 8 0x12, 0]⟩)] ∧
      Taken ⟨h, 0x0E, leBytes 2 tag ++ [BitVec.ofNat 8 0x12, 0]⟩ c d)) ∧
  (∀ c : Chip, ∀ h : HostRef, ∀ tag : Nat, TakesNext ⟨h, 0x0E, leBytes 2 tag ++ [BitVec.ofNat 8 0x09, 0]⟩ c → c.nv.queuedTag tag = false →
    c.nv.openTag tag = false → c.host.pending.any (fun x => x.type == 0x09 && x.ref.tag == tag) = false →
    c.host.waitingCmd tag 0x09 = none → c.host.wasAnswered tag 0x09 = false →
    Runs (.abort h tag 0x09) c [.host] (fun d => Answered ⟨h, 0x0E, leBytes 2 tag ++ [BitVec.ofNat 8 0x09, 0]⟩ .tagUnknown [] c d)) ∧
  (∀ c : Chip, ∀ a : HostCmd, c.host.aborts = [(.nvWrite, some a)] → c.nv.queuedTag a.target = true →
    Runs (.abortGrant .nvWrite) c [.sys, .tb, .ph, .grp, .le, .setpt, .cap, .sweep, .sett, .guards, .eva, .trace, .obs, .mbx, .dom, .nv, .cal, .log, .host, .draws]
        (fun d => d.nv = { c.nv with queue := c.nv.queue.filter (fun k => k.userTag != some a.target) } ∧
      d.host.aborts = [] ∧ Granted c d)) ∧
  (∀ c : Chip, ∀ a : HostCmd, ∀ o : NvOp, c.host.aborts = [(.nvWrite, some a)] → c.nv.queuedTag a.target = false → c.nv.openTag a.target = true →
    c.nv.op = some o →
    Runs (.abortGrant .nvWrite) c [.sys, .tb, .ph, .grp, .le, .setpt, .cap, .sweep, .sett, .guards, .eva, .trace, .obs, .mbx, .dom, .nv, .cal, .log, .host, .draws]
        (fun d => d.nv = { c.nv with op := some { o with aborted := true } } ∧ d.host.aborts = [] ∧ Granted c d)) ∧
  (∀ c : Chip, ∀ a : HostCmd, c.host.aborts = [(.nvWrite, some a)] → c.nv.queuedTag a.target = false → c.nv.openTag a.target = false →
    Runs (.abortGrant .nvWrite) c [.sys, .tb, .ph, .grp, .le, .setpt, .cap, .sweep, .sett, .guards, .eva, .trace, .obs, .mbx, .dom, .nv, .cal, .log, .host, .draws]
        (fun d => d.nv = c.nv ∧ d.host.aborts = [] ∧ Granted c d)) ∧
  (∀ c : Chip, ∀ g : Group, ∀ a : HostCmd, c.host.aborts = [(.precharge g, some a)] → ((c.grp[g]).preWon = true ∨ (c.grp[g]).preDone = true) →
    Runs (.abortGrant (.precharge g)) c [.sys, .tb, .ph, .grp, .le, .setpt, .cap, .sweep, .sett, .guards, .eva, .trace, .obs, .mbx, .dom, .nv, .cal, .log, .host, .draws]
        (fun d => (∀ j : Group, (d.grp[j]).mode = (c.grp[j]).mode) ∧ (d.grp[g]).preWon = false ∧ d.host.aborts = [])) ∧
  (∀ c : Chip, ∀ g : Group, ∀ a : HostCmd, c.host.aborts = [(.precharge g, some a)] → (c.grp[g]).mode = .precharge → (c.grp[g]).preDone = false →
    (c.grp[g]).preWon = false → c.shdnAsked = false →
    Runs (.abortGrant (.precharge g)) c [.sys, .tb, .ph, .grp, .le, .setpt, .cap, .sweep, .sett, .guards, .eva, .trace, .obs, .mbx, .dom, .nv, .cal, .log, .host, .draws]
        (fun d => (∀ j : Group, (d.grp[j]).mode = if g = j then .standby else (c.grp[j]).mode) ∧ d.host.aborts = [])) ∧
  (∀ c : Chip, ∀ a : HostCmd, c.host.aborts = [(.commit, some a)] → c.host.commitReq.isSome = true → c.host.commitDone = false →
    Runs (.abortGrant .commit) c [.sys, .tb, .ph, .grp, .le, .setpt, .cap, .sweep, .sett, .guards, .eva, .trace, .obs, .mbx, .dom, .nv, .cal, .log, .host, .draws]
        (fun d => d.host.commitReq = none ∧ d.host.aborts = [] ∧ d.host.updOpen = c.host.updOpen ∧ d.code = c.code ∧ Granted c d))

/-- NV_OP_START, out of SHUTDOWN, where operations may start and none is in progress: a record at the head of the queue, with room in the open sector,
is programmed there uncommitted, as the next version of its key, with its CRC at the sector's lowest free offset, and the pages that it lies on are
busy; a counter's increments at the head, with some to program outside carry-only mode, are in progress with the counter's values as before. With an
operation in progress it changes nothing. NV_OP_END of an operation that verified, in a mode per group: a counter's increments move from pending to
its stripe, so that every counter's value stands; a user's record that is complete and not aborted is marked committed in its sector, and the index
stands; a record sector's erase of at most four pulses leaves it blank with its erase counted and the other sectors as before. After each of the
three no operation is in progress, and after the first a read that has waited for its pages is answered. -/
def Obligations.NvOperations : Prop :=
  (∀ c : Chip, ∀ key : Nat, ∀ pay : List Byte, ∀ u : Option Nat, ∀ ks : List NvKind, ∀ i : Fin 54, c.nv.op = none → c.nv.readOnly = false →
    c.nvAllowed = true → c.sys.dev ≠ .shutdown → c.nv.queue = .record key pay u :: ks → c.nv.open_ = some i →
    (c.nv.sectors[i]).used + recordSize pay ≤ 4096 →
    Runs (.nvOpStart) c [.sys, .obs, .nv, .cal, .log]
        (fun d => d.nv.queue = ks ∧ d.nv.op = some { kind := .record key pay u, sector := i.val + 10, pages := pagesOf (c.nv.sectors[i]).used (8 + pay.length) } ∧
      d.nv.sectors = vmod c.nv.sectors i (fun s => { s with
        used := s.used + recordSize pay
        records := s.records ++ [NvRecord.new key (c.nv.nextSeq key) pay s.used] }) ∧
      d.nv.index = c.nv.index ∧ d.obs[(28 : Fin 32)] = c.obs[(28 : Fin 32)] + 1)) ∧
  (∀ c : Chip, ∀ k : Counter, ∀ ks : List NvKind, c.nv.op = none → c.nv.readOnly = false → c.nvAllowed = true → c.sys.dev ≠ .shutdown →
    c.nv.queue = .counterBit k :: ks → c.nv.carryOnly = false → 0 < c.nv.burst k →
    Runs (.nvOpStart) c [.sys, .obs, .nv, .cal, .log] (fun d => d.nv.queue = ks ∧
      d.nv.op = some ({ kind := .counterBit k, sector := (if c.nv.setB = true then 6 else 2) + k.val / 4, pages := pagesOf (1024 * (k.val % 4) + c.nv.stripe[k] / 8) 1 } : NvOp) ∧ d.nv.pending = c.nv.pending ∧
      d.nv.stripe = c.nv.stripe)) ∧
  (∀ c : Chip, c.nv.op.isSome = true → Runs (.nvOpStart) c [] (fun d => d = c)) ∧
  (∀ c : Chip, ∀ cells : NvCells, ∀ o : NvOp, ∀ k : Counter, c.nv.op = some o → o.kind = .counterBit k → c.sys.dev = .perGroup → cells.verified = true →
    Runs (.nvOpEnd cells) c [.sys, .code, .tb, .ph, .grp, .le, .setpt, .lcmd, .refs, .aux, .snap, .cap, .sweep, .sett, .gauge, .guards, .eva, .trace, .obs, .mbx, .dom, .nv, .cal, .log, .host, .latch, .draws]
        (fun d => d.nv.op = none ∧ d.nv.stripe = vmod c.nv.stripe k (· + c.nv.burst k) ∧
      d.nv.pending = vmod c.nv.pending k (· - c.nv.burst k) ∧ (∀ j : Counter, d.nv.counter j = c.nv.counter j) ∧ d.host.reads = [] ∧
      ∀ h : HostCmd, ∀ body : List Byte, c.host.reads = [(h, body)] → h ∈ c.host.pending → d.host.answers = c.host.answers ++ [(h, .ok, body)])) ∧
  (∀ c : Chip, ∀ cells : NvCells, ∀ o : NvOp, ∀ key : Nat, ∀ pay : List Byte, ∀ tag : Nat, ∀ i : Fin 54, ∀ r : NvRecord, c.nv.op = some o →
    o.kind = .record key pay (some tag) → o.sector = i.val + 10 → 0x1000 ≤ key → c.sys.dev = .perGroup → o.complete = true → o.aborted = false →
    cells.verified = true → (c.nv.sectors[i]).records.getLast? = some r →
    Runs (.nvOpEnd cells) c [.sys, .code, .tb, .ph, .grp, .le, .setpt, .lcmd, .refs, .aux, .snap, .cap, .sweep, .sett, .gauge, .guards, .eva, .trace, .obs, .mbx, .dom, .nv, .cal, .log, .host, .latch, .draws]
        (fun d => d.nv.op = none ∧ (d.nv.sectors[i]).records.getLast? = some { r with committed := true } ∧ d.nv.index = c.nv.index)) ∧
  (∀ c : Chip, ∀ cells : NvCells, ∀ o : NvOp, ∀ i : Fin 54, c.nv.op = some o → o.kind = .eraseRecord (sectorNo i) → o.sector = i.val + 10 →
    c.sys.dev = .perGroup → cells.verified = true → cells.pulses ≤ 4 →
    Runs (.nvOpEnd cells) c [.sys, .code, .tb, .ph, .grp, .le, .setpt, .lcmd, .refs, .aux, .snap, .cap, .sweep, .sett, .gauge, .guards, .eva, .trace, .obs, .mbx, .dom, .nv, .cal, .log, .host, .latch, .draws]
        (fun d => d.nv.op = none ∧ (d.nv.sectors[i]).records = [] ∧ (d.nv.sectors[i]).order = none ∧
      (d.nv.sectors[i]).erases = (c.nv.sectors[i]).erases + 1 ∧ ∀ j : Fin 54, j ≠ i → d.nv.sectors[j] = c.nv.sectors[j]))

/-- With Owl up and the store writable: NV_RECLAIM with fewer than two blank sectors, no reclaim in progress and out of SHUTDOWN puts the needed
records' copies and the erase of the full sector opened first ahead of what waits; JOURNAL_SWITCH with fewer than four free entries and no journal
erase held puts the erase of the other journal sector ahead; out of carry-only mode COUNTER_INCREMENT queues the increments of a counter that has
some to program and none queued, and COUNTER_SET_SWITCH with a full stripe and no sector to erase queues a CNT_CARRY that switches the set, and
CARRY_WRITE in carry-only mode, with 64 increments of a counter pending or 10 minutes after the last, one that does not, where none is held already;
CAL_STAMP out of BOOT and SHUTDOWN, an hour after the last, queues the calendar's stamp; LOG_FLUSH out of BOOT and SHUTDOWN, with an urgent entry,
seven entries or an oldest of 10 s waiting, queues one LOG record of up to seven entries, the log standing. MINUTE_COUNTERS_WAKE with 60 minutes
pending out of BOOT moves both minute counts to counters 5 and 6 and, with Owl down, wakes it. CALENDAR_END with the count at its end sets its bit. -/
def Obligations.NvHousekeeping : Prop :=
  (∀ c : Chip, ∀ i : Fin 54, c.isUp .owl = true → c.nv.gc = false → c.nv.readOnly = false → c.sys.dev ≠ .shutdown →
    c.nv.tally NvSector.blank < 2 → c.nv.oldestFull = some i →
    Runs (.nvReclaim) c [.nv] (fun d => d.nv = { c.nv with gc := true, queue := c.copiesOf i ++ [.eraseRecord (sectorNo i)] ++ c.nv.queue })) ∧
  (∀ c : Chip, c.isUp .owl = true → c.nv.journalFree < 4 → c.nv.holds (· == .eraseJournal) = false → c.nv.readOnly = false →
    Runs (.journalSwitch) c [.nv] (fun d => d.nv = { c.nv with queue := .eraseJournal :: c.nv.queue })) ∧
  (∀ c : Chip, ∀ k : Counter, c.isUp .owl = true → c.nv.carryOnly = false → 1 ≤ c.nv.burst k → c.nv.holds (· == .counterBit k) = false →
    c.nv.readOnly = false → Runs (.counterIncrement k) c [.nv] (fun d => d.nv = { c.nv with queue := c.nv.queue ++ [.counterBit k] })) ∧
  (∀ c : Chip, c.isUp .owl = true → c.nv.carryOnly = false → c.nv.stripeFull = true → c.nv.stale = [] → c.nv.holds (· == .carry true) = false →
    c.nv.readOnly = false → Runs (.counterSetSwitch) c [.nv] (fun d => d.nv = { c.nv with queue := c.nv.queue ++ [.carry true] })) ∧
  (∀ c : Chip, c.isUp .owl = true → c.nv.carryOnly = true → c.nv.holds (· == .carry false) = false → c.nv.readOnly = false →
    ((∃ k : Counter, 64 ≤ c.nv.pending[k]) ∨ c.nv.carryAt + 600000 * tkMs ≤ c.tb.count) →
    Runs (.carryWrite) c [.nv] (fun d => d.nv = { c.nv with queue := c.nv.queue ++ [.carry false], carryAt := c.tb.count })) ∧
  (∀ c : Chip, c.outOfBoot = true → (60 ≤ c.nv.runMin ∨ 60 ≤ c.nv.onMin) →
    Runs (.minuteCountersWake) c [.dom, .nv]
        (fun d => d.nv.runMin = 0 ∧ d.nv.onMin = 0 ∧ d.nv.pending[(5 : Fin 16)] = c.nv.pending[(5 : Fin 16)] + c.nv.runMin ∧
      d.nv.pending[(6 : Fin 16)] = c.nv.pending[(6 : Fin 16)] + c.nv.onMin ∧ (c.isUp .owl = false → (d.dom[coreIdx .owl]).waking = true))) ∧
  (∀ c : Chip, c.isUp .owl = true → c.outOfBoot = true → c.sys.dev ≠ .shutdown → c.nv.readOnly = false → c.cal.stampAt + 3600 ≤ c.cal.up →
    Runs (.calStamp) c [.nv, .cal]
        (fun d => d.nv = { c.nv with queue := c.nv.queue ++ [c.calStampRecord] } ∧ d.cal = { c.cal with stampAt := c.cal.up })) ∧
  (∀ c : Chip, c.powered = true → c.cal.sec = calEnd → Runs (.calendarEnd) c [.cal] (fun d => d.cal = { c.cal with ended := true })) ∧
  (∀ c : Chip, c.isUp .owl = true → c.outOfBoot = true → c.sys.dev ≠ .shutdown → c.nv.readOnly = false → c.logsLeft ≠ [] →
    (c.log.urgent = true ∨ 7 ≤ c.logsLeft.length ∨ c.log.oldest + 10 ≤ c.cal.up) →
    Runs (.logFlush) c [.nv, .log] (fun d => d.nv = { c.nv with queue := c.nv.queue ++ [.record keyLog (logRecord (c.logsLeft.take 7)) none] } ∧
      d.log.entries = c.log.entries))

/-- With the gauge running. GAUGE_SLOT at the slot's tick, 600 000 clocks after the one before, passes time to it and counts one slot; at the slot that
ends a second it requests SECOND. GAUGE_STAT.CHOP then says whether the slot that begins is one of the chop. In the chop of the internal modulator
no sample enters the books. Outside it, but for the slot that follows a chop, and while the books do not saturate: a code in range, the input not
lost, enters as the code less its offsets; a code out of range, or any with the input lost, enters as the last valid sample and is counted held.
GAUGE_INPUT_LOST of a valid input, after sixteen samples out of range or with an external modulator, loses it, wakes Hedgehog and tells Badger, with
fault 0x2E held while a group charges and the warning 0x2E while none does. GAUGE_INPUT_VALID of a lost input after 64 samples in range makes it
valid, wakes Hedgehog and tells Badger. With the gauge running. HEDGEHOG_SECOND that has been requested is counted by SEC and OBS counter 30 and
clears its request; with Hedgehog down it wakes it; Q stands, the age of the stored record grows, and outside a watchdog restart QMARK goes to Q
and, in CHARGE, the newest message is one of limits. CHG_LIMITS whose words can pass, of a charging group, leaves Hedgehog's messages and is kept
with its time. CHARGE_LIMIT_TIMEOUT with the charging group in CHARGE and three seconds gone since the last limits, or none received, marks the
limits zero and, no change waiting for a swap, presents a CHG_I of 0 with CHG_V as it was. -/
def Obligations.GaugeSamplesAndSeconds : Prop :=
  (∀ c : Chip, ∀ t : Nat, ∀ code : Int, ∀ ok : Bool, c.gaugeOn = true → t = c.gauge.s + 600000 * c.gauge.slot → c.gauge.inChop = true →
    Runs (.gaugeSlot t code ok) c [.tb, .sett, .gauge, .guards, .eva, .trace, .obs, .nv, .log, .draws]
        (fun d => d.gauge.slot = c.gauge.slot + 1 ∧ d.gauge.q = c.gauge.q ∧ d.gauge.nSince = c.gauge.nSince ∧
      d.gauge.chop = d.gauge.inChop ∧ d.tb.count = max c.tb.count t)) ∧
  (∀ c : Chip, ∀ t : Nat, ∀ code : Int, ∀ ok : Bool, c.gaugeOn = true → t = c.gauge.s + 600000 * c.gauge.slot → c.gauge.inChop = false →
    (c.gauge.cfg.ext = true ∨ c.gauge.slot % 4000 ≠ 8) →
    c.gauge.outOfRange code ok = false → c.gauge.lost = false → (c.gauge.q + (code - c.gauge.cfg.offs - c.gauge.offsChop)).natAbs ≤ 2 ^ 63 - 1 →
    Runs (.gaugeSlot t code ok) c [.tb, .sett, .gauge, .guards, .eva, .trace, .obs, .nv, .log, .draws] (fun d => d.gauge.slot = c.gauge.slot + 1 ∧
      d.gauge.q = c.gauge.q + (code - c.gauge.cfg.offs - c.gauge.offsChop) ∧ d.gauge.nSince = c.gauge.nSince + 1 ∧ d.gauge.hold = false ∧
      d.gauge.rawValid = true ∧ d.gauge.chop = d.gauge.inChop ∧ d.tb.count = max c.tb.count t)) ∧
  (∀ c : Chip, ∀ t : Nat, ∀ code : Int, ∀ ok : Bool, c.gaugeOn = true → t = c.gauge.s + 600000 * c.gauge.slot → c.gauge.inChop = false →
    (c.gauge.cfg.ext = true ∨ c.gauge.slot % 4000 ≠ 8) →
    (c.gauge.outOfRange code ok = true ∨ c.gauge.lost = true) → (c.gauge.q + c.gauge.lastValid).natAbs ≤ 2 ^ 63 - 1 →
    Runs (.gaugeSlot t code ok) c [.tb, .sett, .gauge, .guards, .eva, .trace, .obs, .nv, .log, .draws]
        (fun d => d.gauge.slot = c.gauge.slot + 1 ∧ d.gauge.q = c.gauge.q + c.gauge.lastValid ∧
      d.gauge.holdSmp = satInc 0xFFFFFFFF c.gauge.holdSmp ∧ d.gauge.hold = true ∧ d.tb.count = max c.tb.count t)) ∧
  (∀ c : Chip, ∀ t : Nat, ∀ code : Int, ∀ ok : Bool, c.gaugeOn = true → t = c.gauge.s + 600000 * c.gauge.slot →
    c.gauge.slot % 4000 = (if c.gauge.cfg.ext then 0 else 8) →
    Runs (.gaugeSlot t code ok) c [.tb, .sett, .gauge, .guards, .eva, .trace, .obs, .nv, .log, .draws]
        (fun d => d.gauge.slot = c.gauge.slot + 1 ∧ d.gauge.secReq = true ∧ d.gauge.chop = false ∧ d.tb.count = max c.tb.count t)) ∧
  (∀ c : Chip, c.gaugeOn = true → c.gauge.lost = false → (c.gauge.cfg.ext = true ∨ 16 ≤ c.gauge.oorRun) →
    c.grp.toList.any (fun u => u.mode == .charge) = true →
    Runs (.gaugeInputLost) c [.sys, .tb, .ph, .grp, .le, .setpt, .sweep, .sett, .gauge, .guards, .eva, .trace, .obs, .dom, .nv, .cal, .log, .host, .draws]
        (fun d => d.gauge.lost = true ∧ d.gauge.out = c.gauge.out ++ [.input true] ∧ Holds gaugeBlock 0x2E 0xFF d ∧
      (c.isUp .hedgehog = false → (d.dom[coreIdx .hedgehog]).waking = true))) ∧
  (∀ c : Chip, c.gaugeOn = true → c.gauge.lost = false → (c.gauge.cfg.ext = true ∨ 16 ≤ c.gauge.oorRun) →
    c.grp.toList.any (fun u => u.mode == .charge) = false →
    Runs (.gaugeInputLost) c [.sys, .tb, .ph, .grp, .le, .setpt, .sweep, .sett, .gauge, .guards, .eva, .trace, .obs, .dom, .nv, .cal, .log, .host, .draws]
        (fun d => d.gauge.lost = true ∧ d.gauge.out = c.gauge.out ++ [.input true] ∧ Warned gaugeBlock 0x2E c d ∧
      (c.isUp .hedgehog = false → (d.dom[coreIdx .hedgehog]).waking = true))) ∧
  (∀ c : Chip, c.gaugeOn = true → c.gauge.lost = true → 64 ≤ c.gauge.inRun →
    Runs (.gaugeInputValid) c [.gauge, .dom] (fun d => d.gauge = { c.gauge with lost := false, oorRun := 0, out := c.gauge.out ++ [.input false] } ∧
      (c.isUp .hedgehog = false → (d.dom[coreIdx .hedgehog]).waking = true))) ∧
  (∀ c : Chip, c.gaugeOn = true → c.gauge.secReq = true →
    Runs (.hedgehogSecond) c [.gauge, .guards, .eva, .trace, .obs, .dom, .nv, .log, .draws]
        (fun d => d.gauge.secReq = false ∧ d.gauge.sec = c.gauge.sec + 1 ∧ d.obs[(30 : Fin 32)] = c.obs[(30 : Fin 32)] + 1 ∧
      d.gauge.q = c.gauge.q ∧ (c.isUp .hedgehog = false → (d.dom[coreIdx .hedgehog]).waking = true) ∧
      d.gauge.nvAge = satInc 0xFFFFFFFF c.gauge.nvAge ∧
      d.gauge.qmark = (if (c.dom[coreIdx .hedgehog]).restart then c.gauge.qmark else c.gauge.q) ∧
      ((c.dom[coreIdx .hedgehog]).restart = false → c.gauge.grpMode = .charge → ∃ i v : Nat, d.gauge.out.getLast? = some (.chgLimits i v)))) ∧
  (∀ c : Chip, ∀ g : Group, ∀ i v : Nat, c.canPass .hb (messageWords 0x40 i (leBytes 3 v)) = true → c.gaugeOn = true → c.chgGroup = some g →
    Runs (.chgLimits i v) c [.setpt, .gauge, .eva, .trace, .obs, .mbx, .dom, .draws] (fun d => d.gauge = { c.gauge with
      out := c.gauge.out.erase (.chgLimits i v), limAt := some c.tb.count, limI := i, limV := v, limZero := false })) ∧
  (∀ c : Chip, ∀ g : Group, c.chgGroup = some g → c.gaugeOn = true → (c.grp[g]).mode = .charge →
    (∀ t, c.gauge.limAt = some t → t + 3 * tkSec ≤ c.tb.count) →
    Runs (.chargeLimitTimeout) c [.setpt, .gauge] (fun d => d.gauge = { c.gauge with limZero := true } ∧
      (c.setpt.pending = none → (d.setpt.shadow[g]).chgI = 0 ∧ (d.setpt.shadow[g]).chgV = (c.setpt.shadow[g]).chgV ∧ d.setpt.active = c.setpt.active)))

/-- Each of a message whose words can pass, with the gauge running but for SHDN. GAUGE_INPUT and CAL are taken as given, and change no part but the
gauge and those that the passing of the words changes. GROUP_STATE of the charging group is taken: in CHARGE limits are sent, out of it FULL and the
termination time go to 0; of another group only the words pass. SHDN, in SHUTDOWN at the gauge's step with the estimates started, makes a record of
the next generation. GAUGE_SAVE's tag waits for a record, which is formed at once where Hedgehog may hand one over and is the one that the tag waits
for; in a store that is read-only it does not wait. NV_STATE's two bits are taken. GAUGE_RECORD before the estimates have started: 56 bytes of
format 1 start them with the record's SOC and generation, its cycles where no discharge was counted before, and its FCC, or the design capacity
where nothing is learned; any other start them anew from the design capacity, with the warning 0x78. GAUGE_INPUT whose words cannot pass changes
nothing. -/
def Obligations.GaugeMessages : Prop :=
  (∀ c : Chip, ∀ lost : Bool, c.canPass .hb (messageWords 0x41 (bit lost).toNat []) = true → c.gaugeOn = true →
    Runs (.gaugeInput lost) c [.gauge, .mbx, .dom, .eva, .trace, .obs, .draws]
        (fun d => d.gauge = { c.gauge with out := c.gauge.out.erase (.input lost), badgerLost := lost })) ∧
  (∀ c : Chip, ∀ lost : Bool, c.canPass .hb (messageWords 0x41 (bit lost).toNat []) = false → Runs (.gaugeInput lost) c [] (fun d => d = c)) ∧
  (∀ c : Chip, ∀ g : Group, ∀ m : Mode, ∀ dir : Nat, c.canPass .bh (messageWords 0x30 (g.val * 2 ^ 20 + modeCode m * 2 ^ 16 + dir * 256) []) = true →
    c.gaugeOn = true → c.gauge.cfg.chgGroup = g.val → m ≠ .charge →
    Runs (.groupState g m dir) c [.gauge, .guards, .eva, .trace, .obs, .mbx, .dom, .nv, .log, .draws]
        (fun d => d.gauge = { c.gauge with grpMode := m, grpDir := dir, full := false, termRun := 0 })) ∧
  (∀ c : Chip, ∀ g : Group, ∀ dir : Nat, c.canPass .bh (messageWords 0x30 (g.val * 2 ^ 20 + modeCode .charge * 2 ^ 16 + dir * 256) []) = true →
    c.gaugeOn = true → c.gauge.cfg.chgGroup = g.val →
    Runs (.groupState g .charge dir) c [.gauge, .guards, .eva, .trace, .obs, .mbx, .dom, .nv, .log, .draws]
        (fun d => d.gauge.grpMode = .charge ∧ d.gauge.grpDir = dir ∧
      ∃ i v : Nat, d.gauge.out = c.gauge.out ++ [.chgLimits i v])) ∧
  (∀ c : Chip, ∀ g : Group, ∀ m : Mode, ∀ dir : Nat, c.canPass .bh (messageWords 0x30 (g.val * 2 ^ 20 + modeCode m * 2 ^ 16 + dir * 256) []) = true →
    c.gauge.cfg.chgGroup ≠ g.val → Runs (.groupState g m dir) c [.mbx, .dom, .eva, .trace, .obs, .draws] (fun d => d.gauge = c.gauge)) ∧
  (∀ c : Chip, c.canPass .bh (messageWords 0x31 0 []) = true → c.sys.dev = .shutdown → c.sys.shdn = .gauge → c.gauge.started = true →
    Runs (.shdn) c [.gauge, .eva, .trace, .obs, .mbx, .dom, .draws]
        (fun d => d.gauge.gen = c.gauge.gen + 1 ∧ d.gauge.deferred = none ∧ ∃ bs : List Byte, d.gauge.out = c.gauge.out ++ [.record bs])) ∧
  (∀ c : Chip, ∀ tag : Nat, c.canPass .oh (taggedWords 0x50 tag []) = true → c.gaugeOn = true →
    c.nv.readOnly = false →
    Runs (.gaugeSave tag) c [.gauge, .eva, .trace, .obs, .mbx, .dom, .host, .draws]
        (fun d => d.gauge.saves.map (·.1) = c.gauge.saves.map (·.1) ++ [tag] ∧
      (c.mayHandOver = true → d.gauge.saves.getLast? = some (tag, some (c.gauge.gen + 1)) ∧ d.gauge.gen = c.gauge.gen + 1 ∧
        ∃ bs : List Byte, d.gauge.out = c.gauge.out ++ [.record bs]))) ∧
  (∀ c : Chip, ∀ tag : Nat, c.canPass .oh (taggedWords 0x50 tag []) = true → c.gaugeOn = true → c.nv.readOnly = true →
    Runs (.gaugeSave tag) c [.gauge, .eva, .trace, .obs, .mbx, .dom, .host, .draws]
        (fun d => d.gauge.saves.map (·.1) = (c.gauge.saves.map (·.1)).filter (· != tag))) ∧
  (∀ c : Chip, ∀ set : Bool, ∀ n : Nat, c.canPass .oh (messageWords 0x51 (bit set).toNat (leBytes 5 n)) = true → c.gaugeOn = true →
    Runs (.cal set n) c [.gauge, .mbx, .dom, .eva, .trace, .obs, .draws] (fun d => d.gauge = { c.gauge with calSet := set, calSecs := n })) ∧
  (∀ c : Chip, ∀ w r : Bool, c.canPass .oh (messageWords 0x52 (bit w + 2 * bit r).toNat []) = true → c.gaugeOn = true →
    Runs (.nvState w r) c [.gauge, .guards, .eva, .trace, .obs, .mbx, .dom, .nv, .log, .draws]
        (fun d => d.gauge.nvWritable = w ∧ d.gauge.nvReadOnly = r)) ∧
  (∀ c : Chip, ∀ bs : List Byte, c.canPass .oh (messageWords 0x53 bs.length bs) = true → c.gaugeOn = true → c.gauge.started = false →
    bs.length = 56 → bs.headD 0 = 1 →
    Runs (.gaugeRecord bs) c [.gauge, .mbx, .dom, .eva, .trace, .obs, .draws] (fun d => d.gauge.started = true ∧ d.gauge.reply = none ∧
      d.gauge.fcc = f32 (if c.gauge.cfg.learn then wordAt bs 16 else c.gauge.cfg.designAh) ∧
      (c.gauge.earlyOut = 0 → d.gauge.cycles = wordAt bs 36) ∧ d.gauge.soc = numAt bs 32 2 ∧ d.gauge.gen = numAt bs 48 4 ∧ d.gauge.early = 0)) ∧
  (∀ c : Chip, ∀ bs : List Byte, c.canPass .oh (messageWords 0x53 bs.length bs) = true → c.gaugeOn = true → c.gauge.started = false →
    ¬(bs.length = 56 ∧ bs.headD 0 = 1) →
    Runs (.gaugeRecord bs) c [.gauge, .guards, .eva, .trace, .obs, .mbx, .dom, .nv, .log, .draws]
        (fun d => d.gauge.started = true ∧ d.gauge.noRecord = true ∧ d.gauge.fcc = f32 c.gauge.cfg.designAh ∧
      (d.guards[gaugeBlock]).c = true ∧ (d.guards[gaugeBlock]).cCode = 0x78))

/-- Each of a message whose words can pass, with Owl running. RECORD to a writable store joins the NV queue where no gauge record waits there, and
answers the SAVEs that wait for it or for one before it; else it takes the place of the one that waits. With the log within its rate and the store
writable, LOG adds one log entry of the gauge, and MODE of a group and FAULT one entry each to a log that holds none. AH adds to counter 7 and COUNT
to its counter. RECORD_REQ is answered with the record found under the gauge's key, or none. DONE of a command that Badger carries out and that
waits answers it with the result, without a body but for WRITE_CMD. SWEEP_END of a sweep whose end is owed sends the end report as the newest
message on every enabled port on the bus, and is owed no more. COUNT whose words cannot pass changes nothing. -/
def Obligations.OwlMessages : Prop :=
  (∀ c : Chip, ∀ bs : List Byte, c.canPass .ho (messageWords 0x60 56 bs) = true → c.owlRuns = true → bs.length = 56 → c.nv.readOnly = false →
    c.nv.queue.any NvKind.isGauge = false →
    Runs (.record bs) c [.sys, .gauge, .eva, .trace, .obs, .mbx, .dom, .nv, .cal, .log, .host, .draws]
        (fun d => d.nv = { c.nv with queue := c.nv.queue ++ [.record keyGauge bs none] } ∧ d.gauge.saves = c.gauge.saves.filter (fun s => !decide (s.2.getD (2 ^ 32) ≤ numAt bs 48 4)) ∧
      d.gauge.out = c.gauge.out.erase (.record bs))) ∧
  (∀ c : Chip, ∀ bs : List Byte, c.canPass .ho (messageWords 0x60 56 bs) = true → c.owlRuns = true → bs.length = 56 → c.nv.readOnly = false →
    c.nv.queue.any NvKind.isGauge = true →
    Runs (.record bs) c [.sys, .gauge, .eva, .trace, .obs, .mbx, .dom, .nv, .cal, .log, .host, .draws]
        (fun d => d.nv = { c.nv with queue := c.nv.queue.map (mergeRecord bs) })) ∧
  (∀ c : Chip, ∀ code unit : Nat, c.canPass .ho (messageWords 0x61 (code * 2 ^ 16 + unit * 256) []) = true → c.owlRuns = true →
    (c.log.rateSec ≠ c.cal.up ∨ c.log.rateN < 64) → c.nv.readOnly = false →
    Runs (.log code unit) c [.eva, .trace, .obs, .mbx, .dom, .log, .draws]
        (fun d => d.log.next = (c.log.next + 1) % 2 ^ 32 ∧ ∃ e : LogEntry, d.log.entries.getLast? = some (c.log.next, e) ∧
      e.block = gaugeBlock.val ∧ e.code = code ∧ e.unit = unit ∧ e.seq = d.eva.seq)) ∧
  (∀ c : Chip, ∀ g : Group, ∀ m : Mode, ∀ k : Cause, c.canPass .bo (messageWords 0x21 (g.val * 2 ^ 20 + modeCode m * 2 ^ 16 + causeCode k * 256) []) = true →
    c.owlRuns = true → c.log.entries = [] → (c.log.rateSec ≠ c.cal.up ∨ c.log.rateN < 64) → c.nv.readOnly = false →
    Runs (.mode (.group g) m k) c [.eva, .trace, .obs, .mbx, .dom, .log, .draws]
        (fun d => ∃ e : LogEntry, d.log.entries = [(c.log.next, e)] ∧ e.block = 0x80 ∧ e.code = modeCode m ∧ e.unit = g.val)) ∧
  (∀ c : Chip, ∀ b : Block, ∀ code unit : Nat, c.canPass .bo (messageWords 0x22 (b.val * 2 ^ 16 + code * 256 + unit) []) = true →
    c.owlRuns = true → c.log.entries = [] → (c.log.rateSec ≠ c.cal.up ∨ c.log.rateN < 64) → c.nv.readOnly = false →
    Runs (.fault b code unit) c [.eva, .trace, .obs, .mbx, .dom, .log, .draws]
        (fun d => ∃ e : LogEntry, d.log.entries = [(c.log.next, e)] ∧ e.block = b.val ∧ e.code = code ∧ e.unit = unit)) ∧
  (∀ c : Chip, ∀ n : Nat, c.canPass .ho (messageWords 0x62 n []) = true → c.owlRuns = true →
    Runs (.ah n) c [.gauge, .eva, .trace, .obs, .mbx, .dom, .nv, .draws] (fun d => d.nv = { c.nv with pending := vmod c.nv.pending 7 (· + n) } ∧
    d.gauge = { c.gauge with out := c.gauge.out.erase (.ah n) })) ∧
  (∀ c : Chip, c.canPass .ho (messageWords 0x63 0 []) = true → c.owlRuns = true → Runs (.recordReq) c [.gauge, .eva, .trace, .obs, .mbx, .dom, .draws]
      (fun d => d.gauge = { c.gauge with
    out := c.gauge.out.erase .recordReq, reply := some ((c.nv.find keyGauge).getD []) })) ∧
  (∀ c : Chip, ∀ tag n : Nat, ∀ h : HostCmd, ∀ r : Result, c.canPass .bo (messageWords 0x20 (tag % 2 ^ 16 * 256 + n % 256) []) = true → c.owlRuns = true →
    c.host.pending.find? (fun h => h.carried && h.ref.tag == tag) = some h →
    resultOf n = some r → Runs (.done tag n) c [.eva, .trace, .obs, .mbx, .dom, .host, .draws]
        (fun d => ∃ body : List Byte, (h.type ≠ 0x02 → body = []) ∧
      d.host.answers = c.host.answers ++ [(h, r, body)] ∧ d.host.pending = c.host.pending.erase h)) ∧
  (∀ c : Chip, ∀ n : Nat, ∀ k : Counter, c.canPass .bo (messageWords 0x23 (n * 256 + k.val) []) = true → c.owlRuns = true →
    Runs (.count n k) c [.eva, .trace, .obs, .mbx, .dom, .nv, .draws] (fun d => d.nv = { c.nv with pending := vmod c.nv.pending k (· + n) })) ∧
  (∀ c : Chip, ∀ n : Nat, ∀ k : Counter, c.canPass .bo (messageWords 0x23 (n * 256 + k.val) []) = false → Runs (.count n k) c [] (fun d => d = c)) ∧
  (∀ c : Chip, ∀ tag cause t k points : Nat, ∀ orig : Address, ∀ seq : Word, c.canPass .bo (messageWords 0x24 (tag * 256 + cause) []) = true →
    c.owlRuns = true → c.sweep.owed.find? (fun o => o.1 == tag) = some (t, k, points, orig, seq) →
    Runs (.sweepEnd tag cause) c [.sweep, .eva, .trace, .obs, .mbx, .dom, .host, .draws]
        (fun d => d.sweep = { c.sweep with owed := c.sweep.owed.erase (t, k, points, orig, seq) } ∧
      ∀ p : CanPort, (c.host.ports[p]).en = true → (c.host.ports[p]).onBus = true →
        ((d.host.ports[p]).out.getLast?.map (fun m => (m.type, m.body.take 4))) = some (0x42,
          leBytes 2 tag ++ [BitVec.ofNat 8 (resultCode (sweepResult cause)), BitVec.ofNat 8 cause])))

/-- The rows of flits share one arrival, stated here of HEAD_CLAIM. In a domain that is down, in hold-up or at a port that is not UP it changes nothing.
Out of hold-up, at a port that is UP: the device's own flit, and a second copy, are counted, their credit goes back in a CREDIT pair of its own, and
nothing is sent or claimed; its own shows that every link is up. One that ends badly is neither heard nor counted as received, its bad CRC is
counted, and where it is forwarded and another port is UP and idle, with a credit of its VC and nothing waiting, it leaves by that port cut. One
that is delivered is granted once and its source is heard; a claim from a lower address ends this device's own. One to another destination than this
device's address alone leaves unchanged, but for its hop count one higher, by the other port, where that is UP and idle with a credit of its VC and
nothing waiting; after seven hops nothing is sent. CREDIT of one to eight credits on a port that is UP with nothing waiting adds them up to eight,
and changes nothing else; one credit lets the one waiting flit of its VC go, out of hold-up by an idle port. FLIT_DROP takes the flit that waits
first, another device's and waiting for 2400 TK, out of the port's queue and counts it. -/
def Obligations.ChainFlits : Prop :=
  (∀ c : Chip, ∀ f : FlitHdr, ∀ a : Address, (c.ctrlUp = false ∨ c.sys.holdup = true ∨ (c.sett.ports[f.port]).st ≠ .up) → Runs (.headClaim f a) c []
      (fun d => d = c)) ∧
  (∀ c : Chip, ∀ f : FlitHdr, ∀ a : Address, c.ctrlUp = true → c.sys.holdup = false → (c.sett.ports[f.port]).st = .up → f.crc = .good →
    (f.src = c.sett.addr ∨ c.duplicate f (FlitBody.headClaim a).vc = true) →
    Runs (.headClaim f a) c [.sett, .obs]
        (fun d => (d.sett.ports[f.port]).rx = (c.sett.ports[f.port]).rx + 1 ∧ d.obs[(24 : Fin 32)] = c.obs[(24 : Fin 32)] + 1 ∧
      (d.sett.ports[f.port]).returned = vmod (c.sett.ports[f.port]).returned (FlitBody.headClaim a).vc (· + 1) ∧
      (d.sett.ports[f.port]).pairs = (c.sett.ports[f.port]).pairs ++ [.k28 6, .data (BitVec.ofNat 8 (3 * 64 + 1))] ∧
      (f.src = c.sett.addr → d.sett.linksUp = true) ∧
      d.sett.claimAt = c.sett.claimAt ∧ d.sett.tx = c.sett.tx)) ∧
  (∀ c : Chip, ∀ f : FlitHdr, ∀ a : Address, c.ctrlUp = true → c.sys.holdup = false → (c.sett.ports[f.port]).st = .up → f.crc ≠ .good →
    Runs (.headClaim f a) c [.sett, .obs, .draws] (fun d => d.sett.peers = c.sett.peers ∧ d.sett.claimAt = c.sett.claimAt ∧
      (d.sett.ports[f.port]).rx = (c.sett.ports[f.port]).rx ∧
      (d.sett.ports[f.port]).crcErr = (if f.crc = .bad then satInc 0xFFFF (c.sett.ports[f.port]).crcErr else (c.sett.ports[f.port]).crcErr) ∧
      ((f.src = c.sett.addr ∨ f.dst = c.sett.addr.val ∨ 7 ≤ f.hops) → d.sett.tx = c.sett.tx) ∧
      ∀ q : SettPort, q ≠ f.port → f.src ≠ c.sett.addr → f.dst ≠ c.sett.addr.val → f.hops < 7 → (c.sett.ports[q]).st = .up →
        (c.sett.ports[q]).busyUntil ≤ c.tb.count → 0 < (c.sett.ports[q]).txCred[(3 : Fin 4)] → (c.sett.ports[q]).wait = [] →
        d.sett.tx = c.sett.tx ++ [(q, ⟨f.src, f.dst, f.hops + 1, f.seq, .headClaim a, true⟩)])) ∧
  (∀ c : Chip, ∀ f : FlitHdr, ∀ a : Address, Delivers f (.headClaim a) c →
    Runs (.headClaim f a) c [.sett, .eva, .trace, .obs, .draws] (fun d => Granted c d ∧ (d.sett.peers[f.src]).heard = some c.tb.count ∧
      d.sett.claimAt = if a < c.sett.addr then none else c.sett.claimAt)) ∧
  (∀ c : Chip, ∀ f : FlitHdr, ∀ a : Address, c.ctrlUp = true → c.sys.holdup = false → (c.sett.ports[f.port]).st = .up → f.crc = .good → f.src ≠ c.sett.addr →
    c.duplicate f (FlitBody.headClaim a).vc = false → f.dst ≠ c.sett.addr.val →
    Runs (.headClaim f a) c [.sett, .eva, .trace, .obs, .draws] (fun d =>
      (7 ≤ f.hops → d.sett.tx = c.sett.tx) ∧
      ∀ q : SettPort, q ≠ f.port → f.hops < 7 → (c.sett.ports[q]).st = .up →
        (c.sett.ports[q]).busyUntil ≤ c.tb.count → 0 < (c.sett.ports[q]).txCred[(3 : Fin 4)] → (c.sett.ports[q]).wait = [] →
        d.sett.tx = c.sett.tx ++ [(q, ⟨f.src, f.dst, f.hops + 1, f.seq, .headClaim a, false⟩)])) ∧
  (∀ c : Chip, ∀ p : SettPort, ∀ vc : Fin 4, ∀ n : Nat, (c.sett.ports[p]).st = .up → 1 ≤ n → n ≤ 8 → (c.sett.ports[p]).wait = [] →
    Runs (.credit p vc n) c [.sett] (fun d => d.sett =
      { c.sett with ports := vmod c.sett.ports p (fun u => { u with txCred := vmod u.txCred vc (fun k => min 8 (k + n)) }) })) ∧
  (∀ c : Chip, ∀ p : SettPort, ∀ x : Flit, ∀ t : Nat, (c.sett.ports[p]).st = .up → (c.sett.ports[p]).wait = [⟨none, x, t⟩] → (c.sett.ports[p]).txCred[x.body.vc] = 0 →
    c.sys.holdup = false → (c.sett.ports[p]).busyUntil ≤ c.tb.count →
    Runs (.credit p x.body.vc 1) c [.sett, .obs]
        (fun d => d.sett.tx = c.sett.tx ++ [(p, x)] ∧ (d.sett.ports[p]).wait = [] ∧ (d.sett.ports[p]).txCred[x.body.vc] = 0)) ∧
  (∀ c : Chip, ∀ p q : SettPort, ∀ x : Flit, ∀ t : Nat, ∀ rest : List Waiting, (c.sett.ports[p]).wait = ⟨some q, x, t⟩ :: rest → t + 2400 ≤ c.tb.count →
    Runs (.flitDrop p) c [.sett]
        (fun d => (d.sett.ports[p]).wait = rest ∧ (d.sett.ports[p]).drops = satInc 0xFFFFFFFF (c.sett.ports[p]).drops ∧ d.sett.tx = c.sett.tx))

/-- In a chain out of BOOT and hold-up, with the timebase neither acquiring nor free-running, LINK_UP of a port in training whose window is open: a
partner that the wiring asks for, of the same build, brings it UP at a grant with the partner's address, its delay, the mean of the exchanges, and
eight credits on every VC, no group led and no topology formed; a partner that breaks the wiring warns with 0x55 and one of another build with 0x56,
the port going DOWN with that cause. TRAINING_TIMEOUT at the end of the port's window takes the port DOWN, and answers the JOIN whose window has
ended, MBX_BO being free: OK where every port that it started is UP, else JOIN_PARTIAL. LINK_DOWN of a port that is UP, for a lost LOCK, three bad
CRCs within 2400 TK, credits that a waiting flit has lacked for 4800 TK, or active hold-up, on a device that builds no topology and has no sweep,
takes it DOWN at two grants with its cause, counts it in DOWNS and hardware counter 15, and warns with 0x57 and the cause as its value.
LINK_DOWN_FLIT delivered at such a device is granted, and the evidence of both ways to each device and of every link is dropped. -/
def Obligations.ChainPorts : Prop :=
  (∀ c : Chip, ∀ p : SettPort, ∀ i : TrainInput, c.chained = true → c.sys.holdup = false → (c.sett.ports[p]).st = .training → c.tb.st ≠ .acquire → c.tb.st ≠ .freerun →
    c.tb.count < (c.sett.ports[p]).trainEnd → c.partnerOk p i = true → i.build = c.sett.build → c.sett.formed = false → LeadsNone c →
    Runs (.linkUp p i) c [.sett, .eva, .trace, .obs, .draws] (fun d => (d.sett.ports[p]).st = .up ∧ (d.sett.ports[p]).peer = i.peer ∧
      (d.sett.ports[p]).peerValid = true ∧ (d.sett.ports[p]).dly = hopDelay i.exchanges % 2 ^ 20 ∧ (d.sett.ports[p]).txCred = Vector.replicate 4 8 ∧
      (d.sett.ports[p]).trained = (c.sett.ports[p]).trained + 1 ∧ Granted c d)) ∧
  (∀ c : Chip, ∀ p : SettPort, ∀ i : TrainInput, c.chained = true → c.sys.holdup = false → (c.sett.ports[p]).st = .training → c.tb.st ≠ .acquire → c.tb.st ≠ .freerun →
    c.tb.count < (c.sett.ports[p]).trainEnd → c.partnerOk p i = false →
    Runs (.linkUp p i) c [.sys, .tb, .ph, .grp, .le, .setpt, .cap, .sweep, .sett, .guards, .eva, .trace, .obs, .mbx, .dom, .nv, .cal, .log, .host, .draws]
        (fun d => Warned (settPortBlock p) 0x55 c d ∧ (d.sett.ports[p]).st = .down ∧ (d.sett.ports[p]).cause = .miswire)) ∧
  (∀ c : Chip, ∀ p : SettPort, ∀ i : TrainInput, c.chained = true → c.sys.holdup = false → (c.sett.ports[p]).st = .training → c.tb.st ≠ .acquire → c.tb.st ≠ .freerun →
    c.tb.count < (c.sett.ports[p]).trainEnd → c.partnerOk p i = true → i.build ≠ c.sett.build →
    Runs (.linkUp p i) c [.sys, .tb, .ph, .grp, .le, .setpt, .cap, .sweep, .sett, .guards, .eva, .trace, .obs, .mbx, .dom, .nv, .cal, .log, .host, .draws]
        (fun d => Warned (settPortBlock p) 0x56 c d ∧ (d.sett.ports[p]).st = .down ∧ (d.sett.ports[p]).cause = .build)) ∧
  (∀ c : Chip, ∀ p : SettPort, c.chained = true → (c.sett.ports[p]).st = .training → (c.sett.ports[p]).trainEnd ≤ c.tb.count →
    Runs (.trainingTimeout p) c [.sett, .eva, .trace, .obs, .mbx, .dom, .host, .draws]
        (fun d => (d.sett.ports[p]).st = .down ∧ (d.sett.ports[p]).cause = .timeout)) ∧
  (∀ c : Chip, ∀ p : SettPort, ∀ h : HostCmd, ∀ ps : List SettPort, ∀ e : Nat, c.host.joinCmds = [(h, ps, e)] → e ≤ c.tb.count → h ∈ c.host.pending →
    (c.badgerRuns = false ∨ (c.isUp .owl = true ∧ (c.mbx[mbxIdx .bo]).full = false)) →
    Runs (.trainingTimeout p) c [.sett, .eva, .trace, .obs, .mbx, .dom, .host, .draws]
        (fun d => d.host.joinCmds = [] ∧ ∃ body : List Byte, d.host.answers = c.host.answers ++
      [(h, if ∀ q ∈ ps, (d.sett.ports[q]).st = .up then .ok else .joinPartial, body)])) ∧
  (∀ c : Chip, ∀ p : SettPort, ∀ k : LinkCause, c.ctrlUp = true → (c.sett.ports[p]).st = .up → (k = .lock ∨ k = .crc ∧ (c.sett.ports[p]).threeBad = true ∨
      k = .starved ∧ (c.sett.ports[p]).starved c.tb.count = true ∨ k = .holdup ∧ c.sys.holdup = true) →
    c.isHead = false → c.sett.rebuilds = false →
    c.sweep.st = .idle → c.sweep.headTag = none → c.sweep.ask = none →
    Runs (.linkDown p k) c [.sys, .tb, .ph, .grp, .le, .setpt, .cap, .sweep, .sett, .guards, .eva, .trace, .obs, .mbx, .dom, .nv, .cal, .log, .host, .draws]
        (fun d => (d.sett.ports[p]).st = .down ∧ (d.sett.ports[p]).cause = k ∧ (d.sett.ports[p]).downs = (c.sett.ports[p]).downs + 1 ∧
      (d.guards[settPortBlock p]).c = true ∧ (d.guards[settPortBlock p]).cCode = 0x57 ∧
      ((d.guards[settPortBlock p]).hist[(d.guards[settPortBlock p]).newest]).d0 = BitVec.ofNat 32 (linkCode k) ∧
      d.nv.pending[(15 : Fin 16)] = c.nv.pending[(15 : Fin 16)] + 1 ∧ d.eva.seq = c.eva.seq + 2)) ∧
  (∀ c : Chip, ∀ f : FlitHdr, ∀ p : SettPort, ∀ k : LinkCause, Delivers f (.linkDown p k) c → c.isHead = false → c.sett.rebuilds = false → c.sweep.st = .idle →
    c.sweep.headTag = none → c.sweep.ask = none →
    Runs (.linkDownFlit f p k) c [.sweep, .sett, .eva, .trace, .obs, .draws] (fun d => Granted c d ∧ d.sett.linksUp = false ∧
      ∀ a : Address, (d.sett.peers[a]).viaUp = false ∧ (d.sett.peers[a]).viaDn = false))

/-- In a chain out of BOOT. EPOCH_SEND at a multiple of 24 000 of TB_COUNT by a head whose chain time is set, or that forms the chain after BOOT or has
listened in vain for a local head (`headMaySend`), with a port UP, passes time to its tick and takes the next SEQ of its VC. EPOCH delivered at a
member sets chain time from its time stamp, its correction and the port's delay at the tick of the capture, and takes the head, the hops, the slope
and the time of the delivery; at a head whose chain time is set it leaves chain time and the role as they are. HEAD_SILENT at a member that has
heard an epoch but none for 76 800 TK, and was not silent, makes it silent and counts it; FORM_TMAX_NO_EPOCH at one that has heard none by FORM_TMAX
from the end of BOOT makes it silent; in both it claims the head now where it has the lowest address that it reaches, and else its claim stands as
it was. -/
def Obligations.ChainTime : Prop :=
  (∀ c : Chip, ∀ t : Nat, c.chained = true → c.isHead = true → t % 24000 = 0 → c.sett.ports.toList.any (fun p => p.st == .up) = true → c.headMaySend t = true →
    Runs (.epochSend t) c [.tb, .sett, .trace, .obs, .draws]
        (fun d => d.sett.ctSet = true ∧ d.sett.seqs[(0 : Fin 4)] = (c.sett.seqs[(0 : Fin 4)] + 1) % 256 ∧ d.tb.count = max c.tb.count t)) ∧
  (∀ c : Chip, ∀ f : FlitHdr, ∀ t : Nat, ∀ e : EpochPay, c.chained = true → Delivers f (.epoch e) (c.elapseTo t) → c.sett.role = .member →
    Runs (.epoch f t e) c [.tb, .le, .sweep, .sett, .guards, .eva, .trace, .obs, .nv, .log, .draws]
        (fun d => d.sett.ctSet = true ∧ d.sett.head = e.head ∧ d.sett.hops = f.hops ∧ d.sett.slope = e.slope ∧
      d.sett.ctOfs = (e.tstamp : Int) * 128 + e.corr + (c.sett.ports[f.port]).dly - 128 * (t : Int) ∧ d.sett.isSilent = false ∧ d.sett.baseAt = some t ∧
      d.sett.epochAt = some (max c.tb.count t))) ∧
  (∀ c : Chip, ∀ f : FlitHdr, ∀ t : Nat, ∀ e : EpochPay, c.chained = true → Delivers f (.epoch e) (c.elapseTo t) → c.sett.role = .head → c.sett.ctSet = true →
    Runs (.epoch f t e) c [.tb, .sett, .trace, .obs, .draws]
        (fun d => d.sett.ctOfs = c.sett.ctOfs ∧ d.sett.epochs = c.sett.epochs ∧ d.sett.role = .head)) ∧
  (∀ c : Chip, ∀ t : Nat, c.sett.epochAt = some t → c.chained = true → c.sett.role = .member → c.sett.isSilent = false → t + 76800 ≤ c.tb.count →
    Runs (.headSilent) c [.sett, .obs] (fun d => d.sett.isSilent = true ∧ d.sett.silent = c.sett.silent + 1 ∧
      d.sett.claimAt = if c.lowestHere = true then some c.tb.count else c.sett.claimAt)) ∧
  (∀ c : Chip, c.sett.epochAt = none → c.chained = true → c.sett.role = .member → c.sett.isSilent = false →
    c.sett.bootAt + c.sett.formTmax * tkMs ≤ c.tb.count →
    Runs (.formTmaxNoEpoch) c [.sett, .obs]
        (fun d => d.sett.isSilent = true ∧ d.sett.claimAt = if c.lowestHere = true then some c.tb.count else c.sett.claimAt))

/-- On a device without spanning groups and without a sweep. FORMATION_END at a head that acts as one (its chain time set, or no port UP: R463) and is
in formation, that reaches every device, or at FORM_TMAX from the end of BOOT, takes on a topology of the next generation over the devices it
reaches, in their order, with itself as head, a ring where it knows every link to be up and a line where a device is missing. TOPO delivered at a
member is counted and taken on: its generation, reachable set, order, head and state. LOCAL_HEAD at a member whose claim has stood for 24 000 TK
makes it local head of an island: its chain time set, at its own rate, its claim ended, and a topology of the next generation. -/
def Obligations.ChainTopology : Prop :=
  (∀ c : Chip, c.chained = true → c.sett.role = .head → c.actsHead = true → c.sett.st = .forming →
    (c.allReachable = true ∨ c.sett.bootAt + c.sett.formTmax * tkMs ≤ c.tb.count) → NoSpans c → c.sweep.st = .idle →
    Runs (.formationEnd) c [.sys, .tb, .ph, .grp, .le, .setpt, .cap, .sweep, .sett, .guards, .eva, .trace, .obs, .mbx, .dom, .nv, .cal, .log, .host, .draws]
        (fun d => d.sett.formed = true ∧ d.sett.gen = c.sett.gen + 1 ∧ d.sett.reach = c.reachNow ∧ d.sett.head = c.sett.addr ∧
      d.sett.order = c.topoOrder ∧ (d.sett.st = .ring ∨ d.sett.st = .line) ∧ (c.ringWhole = true → d.sett.st = .ring) ∧
      (c.allReachable = false → d.sett.st = .line))) ∧
  (∀ c : Chip, ∀ f : FlitHdr, ∀ r : TopoPay, Delivers f (.topo r) c → c.sett.role = .member → NoSpans c → c.sweep.st = .idle →
    Runs (.topo f r) c [.sys, .tb, .ph, .grp, .le, .setpt, .cap, .sweep, .sett, .guards, .eva, .trace, .obs, .mbx, .dom, .nv, .cal, .log, .host, .draws]
        (fun d => d.sett.formed = true ∧ d.sett.gen = BitVec.ofNat 8 r.gen ∧ d.sett.reach = r.reach ∧ d.sett.head = r.head ∧ d.sett.st = r.state ∧ d.sett.order = r.order ∧ d.sett.rebuilds = false ∧
      d.sett.topos = c.sett.topos + 1)) ∧
  (∀ c : Chip, ∀ t : Nat, c.sett.claimAt = some t → c.chained = true → c.sett.role = .member → t + 24000 ≤ c.tb.count → NoSpans c → c.sweep.st = .idle →
    Runs (.localHead) c [.sys, .tb, .ph, .grp, .le, .setpt, .cap, .sweep, .sett, .guards, .eva, .trace, .obs, .mbx, .dom, .nv, .cal, .log, .host, .draws]
        (fun d => d.sett.role = .localHead ∧ d.sett.head = c.sett.addr ∧ d.sett.claimAt = none ∧ d.sett.ctSet = true ∧ d.sett.rate = 0 ∧
      d.sett.st = .island ∧ d.sett.gen = c.sett.gen + 1 ∧ d.sett.formed = true))

/-- In a chain out of BOOT and hold-up: SHARE_SEND by a device that leads a group, as chain time passes a multiple of SHARE_INT, passes time to its
tick, keeps the IREF it sends and takes the next SEQ of its VC; REPORT_SEND, as chain time passes a multiple of 24 000 plus 2400 for each step of
its address, takes the next SEQ of its VC. SHARE delivered from a member's leader that is not in SAFE is taken: its time, mode and healthy count,
and a valid IREF waits for IREF_RX, which is granted and puts it in use for that group alone. REPORT delivered at a device that leads no group and
builds no topology is kept with its time, and the source counts as heard; SAFE of the source stands only while every group of it reports SAFE.
DEVICE_UNREACHABLE, at such a device, of a device not heard for more than 48 000 TK forgets when it was heard. DEVICE_SAFE delivered where no group
is led is granted and kept, and a member of that device's groups requests LEADER_LOST. LEAD_CLAIM delivered where no group spans is granted and
kept. PHASE_LOST delivered at a leader whose group does not switch is granted: that device's phases of the group count as none, and the leader
counts again. LEADER_TIMEOUT at a member that has heard no SHARE for three SHARE_INT and 4800 TK requests LEADER_LOST, and changes nothing else. -/
def Obligations.SpanningData : Prop :=
  (∀ c : Chip, ∀ t : Nat, ∀ g : Group, c.chained = true → c.isLeader g = true → c.sys.holdup = false → c.passes t c.sett.shareInt 0 = true →
    Runs (.shareSend t) c [.tb, .sett, .trace, .obs]
        (fun d => d.sett.seqs[(1 : Fin 4)] = (c.sett.seqs[(1 : Fin 4)] + 1) % 256 ∧ (d.sett.groups[g]).irefHas = true ∧
      d.tb.count = max c.tb.count t)) ∧
  (∀ c : Chip, ∀ f : FlitHdr, ∀ r : SharePay, ∀ g : Group, Delivers f (.share r) c → c.isMember g = true → (r.recs[g]).present = true →
    (c.sett.groups[g]).leaderAddr = f.src → (c.sett.peers[f.src]).safe = false →
    Runs (.share f r) c [.sys, .tb, .ph, .grp, .le, .setpt, .sweep, .sett, .guards, .eva, .trace, .obs, .nv, .cal, .log, .host, .draws]
        (fun d => (d.sett.groups[g]).shareAt = some c.tb.count ∧ (d.sett.groups[g]).leaderOk = true ∧
      (d.sett.groups[g]).leadMode = (r.recs[g]).mode ∧ (d.sett.groups[g]).healthy = (r.recs[g]).healthy ∧
      (d.sett.groups[g]).irefPend = if (r.recs[g]).valid = true then some (r.recs[g]).iref else (c.sett.groups[g]).irefPend)) ∧
  (∀ c : Chip, ∀ g : Group, ∀ v : Int, (c.sett.groups[g]).irefPend = some v →
    Runs (.irefRx g) c [.sett, .eva, .trace, .obs, .draws]
        (fun d => (d.sett.groups[g]).irefUse = v ∧ (d.sett.groups[g]).irefPend = none ∧ Granted c d ∧
      ∀ k : Group, k ≠ g → d.sett.groups[k] = c.sett.groups[k])) ∧
  (∀ c : Chip, ∀ t : Nat, c.chained = true → c.passes t 24000 (2400 * c.sett.addr.val) = true →
    Runs (.reportSend t) c [.tb, .sett, .trace, .obs] (fun d => d.sett.seqs[(1 : Fin 4)] = (c.sett.seqs[(1 : Fin 4)] + 1) % 256)) ∧
  (∀ c : Chip, ∀ f : FlitHdr, ∀ t : Nat, ∀ r : Vector ReportRec 4, c.chained = true → Delivers f (.report r) (c.elapseTo t) → LeadsNone c → c.isHead = false → c.sett.rebuilds = false →
    Runs (.report f t r) c [.tb, .sett, .trace, .obs, .draws] (fun d => (d.sett.peers[f.src]).reports = r ∧
      (d.sett.peers[f.src]).reportAt = some (max c.tb.count t) ∧ (d.sett.peers[f.src]).heard = some (max c.tb.count t) ∧
      (d.sett.peers[f.src]).safe = ((c.sett.peers[f.src]).safe && r.toList.all (·.safe)))) ∧
  (∀ c : Chip, ∀ a : Address, ∀ t : Nat, (c.sett.peers[a]).heard = some t → c.chained = true → t + 48000 < c.tb.count → LeadsNone c → c.isHead = false → c.sett.rebuilds = false →
    Runs (.deviceUnreachable a) c [.sett] (fun d => d.sett = { c.sett with peers := vmod c.sett.peers a (fun u => { u with heard := none }) })) ∧
  (∀ c : Chip, ∀ f : FlitHdr, Delivers f .deviceSafe c → LeadsNone c →
    Runs (.deviceSafe f) c [.sett, .eva, .trace, .obs, .draws] (fun d => (d.sett.peers[f.src]).safe = true ∧ Granted c d ∧
      ∀ g : Group, c.isMember g = true → (c.sett.groups[g]).leaderAddr = f.src → (c.sett.groups[g]).leaderOk = true →
        (d.sett.groups[g]).leaderOk = false ∧ (d.sett.groups[g]).lostReq = true)) ∧
  (∀ c : Chip, ∀ f : FlitHdr, ∀ groups : Nat, Delivers f (.leadClaim groups) c → NoSpans c →
    Runs (.leadClaim f groups) c [.sett, .eva, .trace, .obs, .draws] (fun d => (d.sett.peers[f.src]).leads = groups ∧ Granted c d)) ∧
  (∀ c : Chip, ∀ f : FlitHdr, ∀ g : Group, Delivers f (.phaseLost g) c → c.isLeader g = true → isSwitchingMode (c.grp[g]).mode = false →
    Runs (.phaseLost f g) c [.sett, .eva, .trace, .obs, .draws] (fun d => ((d.sett.peers[f.src]).reports[g]).safe = true ∧
      ((d.sett.peers[f.src]).reports[g]).healthy = 0 ∧ (d.sett.groups[g]).healthy = d.healthyAll g ∧ Granted c d)) ∧
  (∀ c : Chip, ∀ g : Group, ∀ t : Nat, (c.sett.groups[g]).shareAt = some t → c.isMember g = true → (c.sett.groups[g]).leaderOk = true →
    t + 3 * c.sett.shareInt + 4800 ≤ c.tb.count →
    Runs (.leaderTimeout g) c [.sett] (fun d => d.sett =
      { c.sett with groups := vmod c.sett.groups g (fun s => { s with leaderOk := false, lostReq := true }) }))

/-- With group modes and, for a change of mode, no SHDN_START of Badger's waiting, LEADER_LOST that has been requested takes a running group to DERATED
in droop fallback, and a group in a start to STANDBY; the leader's floor and its right to start end. MODE_ORDER delivered from a member's leader: in
a running mode, the gauge input not lost, an order that R201 lists takes the group to the mode ordered, in droop fallback only STANDBY or SAFE; one
that R201 does not list, and is not the present mode, leaves the mode; in STANDBY a start ordered begins, with the order's S0, where the group may
start then; an order of STANDBY or SAFE ends the right to start. SET_ORDER from the leader, the group out of SWEEP, of a defined set selects it with
source 3 at the grant; of an undefined one it is granted and no group changes. SEL_FWD delivered at the leader, its group out of SWEEP, of a defined
set selects it with the source given at the grant. FCAST_FWD delivered at the leader of a group in REGULATE is granted and leaves an open
preparation of its port, source and step. PH_FLOOR from the leader is granted and taken. RESUME from the leader of a group in droop fallback is
granted and ends it: the leader is there again, at this time, and has ordered the group. -/
def Obligations.SpanningOrders : Prop :=
  (∀ c : Chip, ∀ g : Group, (c.sett.groups[g]).lostReq = true → c.sys.dev = .perGroup → isRunning (c.grp[g]).mode = true → c.shdnAsked = false →
    Runs (.leaderLost g) c [.sys, .tb, .ph, .grp, .le, .setpt, .sweep, .sett, .guards, .eva, .trace, .obs, .nv, .cal, .log, .host, .draws]
        (fun d => (d.grp[g]).mode = .derated ∧ (d.sett.groups[g]).droop = true ∧ (d.sett.groups[g]).lostReq = false ∧
      (d.grp[g]).floor = 0 ∧ (d.sett.groups[g]).floor = 0 ∧ (d.sett.groups[g]).ordered = false)) ∧
  (∀ c : Chip, ∀ g : Group, (c.sett.groups[g]).lostReq = true → c.sys.dev = .perGroup → ((c.grp[g]).mode = .precharge ∨ (c.grp[g]).mode = .softstart) →
    c.shdnAsked = false →
    Runs (.leaderLost g) c [.sys, .tb, .ph, .grp, .le, .setpt, .sweep, .sett, .guards, .eva, .trace, .obs, .nv, .cal, .log, .host, .draws]
        (fun d => (d.grp[g]).mode = .standby ∧ (d.sett.groups[g]).lostReq = false)) ∧
  (∀ c : Chip, ∀ f : FlitHdr, ∀ g : Group, ∀ m : Mode, ∀ k : Cause, ∀ s0 : Nat, Delivers f (.modeOrder g m k s0) c → c.fromLeader f g = true →
    c.sys.dev = .perGroup → isRunning (c.grp[g]).mode = true → c.gauge.lost = false → c.shdnAsked = false →
    listed (c.grp[g]).mode m = true → ((c.sett.groups[g]).droop = false ∨ m = .standby ∨ m = .safe) →
    Runs (.modeOrder f g m k s0) c [.sys, .tb, .ph, .grp, .le, .setpt, .sweep, .sett, .guards, .eva, .trace, .obs, .nv, .cal, .log, .host, .draws]
        (fun d => (d.grp[g]).mode = m)) ∧
  (∀ c : Chip, ∀ f : FlitHdr, ∀ g : Group, ∀ m : Mode, ∀ k : Cause, ∀ s0 : Nat, Delivers f (.modeOrder g m k s0) c → c.fromLeader f g = true →
    c.sys.dev = .perGroup → isRunning (c.grp[g]).mode = true → m ≠ (c.grp[g]).mode → listed (c.grp[g]).mode m = false →
    Runs (.modeOrder f g m k s0) c [.sys, .tb, .ph, .grp, .le, .setpt, .sweep, .sett, .guards, .eva, .trace, .obs, .nv, .cal, .log, .host, .draws]
        (fun d => Granted c d ∧ ∀ j : Group, (d.grp[j]).mode = (c.grp[j]).mode)) ∧
  (∀ c : Chip, ∀ f : FlitHdr, ∀ g : Group, ∀ m : Mode, ∀ k : Cause, ∀ s0 : Nat, Delivers f (.modeOrder g m k s0) c → c.fromLeader f g = true →
    (c.grp[g]).mode = .standby → (m = .precharge ∨ m = .softstart) → (c.modSg g (fun s => { s with ordered := true })).mayStart g = true → c.shdnAsked = false →
    Runs (.modeOrder f g m k s0) c [.sys, .tb, .ph, .grp, .le, .setpt, .sweep, .sett, .guards, .eva, .trace, .obs, .nv, .cal, .log, .host, .draws]
        (fun d => (d.grp[g]).mode = m ∧ (d.sett.groups[g]).s0 = s0)) ∧
  (∀ c : Chip, ∀ f : FlitHdr, ∀ g : Group, ∀ m : Mode, ∀ k : Cause, ∀ s0 : Nat, Delivers f (.modeOrder g m k s0) c → c.fromLeader f g = true →
    (m = .standby ∨ m = .safe) →
      Runs (.modeOrder f g m k s0) c [.sys, .tb, .ph, .grp, .le, .setpt, .sweep, .sett, .guards, .eva, .trace, .obs, .nv, .cal, .log, .host, .draws]
        (fun d => (d.sett.groups[g]).ordered = false)) ∧
  (∀ c : Chip, ∀ f : FlitHdr, ∀ g : Group, ∀ set : Fin 16, Delivers f (.setOrder g set.val) c → c.fromLeader f g = true →
    (c.setRec g set.val).defined = true → (c.grp[g]).mode ≠ .sweep →
    Runs (.setOrder f g set) c [.grp, .le, .setpt, .sweep, .sett, .eva, .trace, .obs, .draws]
        (fun d => (d.grp[g]).selSet = set.val ∧ (d.grp[g]).selSrc = 3 ∧ (d.grp[g]).selSeq = d.eva.seq ∧ Granted c d)) ∧
  (∀ c : Chip, ∀ f : FlitHdr, ∀ g : Group, ∀ set : Fin 16, Delivers f (.setOrder g set.val) c → (c.setRec g set.val).defined = false →
    Runs (.setOrder f g set) c [.sett, .eva, .trace, .obs, .draws] (fun d => Granted c d)) ∧
  (∀ c : Chip, ∀ f : FlitHdr, ∀ g : Group, ∀ set : Fin 16, ∀ src : Nat, Delivers f (.selFwd g set.val src) c → c.isLeader g = true →
    (c.setRec g set.val).defined = true → (c.grp[g]).mode ≠ .sweep →
    Runs (.selFwd f g set src) c [.grp, .le, .setpt, .sweep, .sett, .eva, .trace, .obs, .draws]
        (fun d => (d.grp[g]).selSet = set.val ∧ (d.grp[g]).selSrc = src ∧ (d.grp[g]).selSeq = d.eva.seq ∧ Granted c d)) ∧
  (∀ c : Chip, ∀ f : FlitHdr, ∀ p : LcmdPort, ∀ frame : List Byte, ∀ te : Nat, Delivers f (.fcastFwd p frame te) c →
    c.isLeader (frameGroup frame) = true → (c.grp[frameGroup frame]).mode = .regulate →
    Runs (.fcastFwd f p frame te) c [.sys, .tb, .ph, .grp, .le, .setpt, .sweep, .sett, .guards, .eva, .trace, .obs, .nv, .cal, .log, .host, .draws]
        (fun d => Granted c d ∧ ∃ q ∈ (d.grp[frameGroup frame]).preps,
      q.port = p ∧ q.src = f.src ∧ q.step = frameStep frame ∧ q.closed = false)) ∧
  (∀ c : Chip, ∀ f : FlitHdr, ∀ g : Group, ∀ floor : Nat, Delivers f (.phFloor g floor) c → c.fromLeader f g = true →
    Runs (.phFloor f g floor) c [.grp, .setpt, .sett, .eva, .trace, .obs, .draws]
        (fun d => (d.grp[g]).floor = floor ∧ (d.sett.groups[g]).floor = floor % 256 ∧ Granted c d)) ∧
  (∀ c : Chip, ∀ f : FlitHdr, ∀ g : Group, Delivers f (.resume g) c → c.fromLeader f g = true → (c.sett.groups[g]).droop = true →
    Runs (.resume f g) c [.setpt, .sett, .eva, .trace, .obs, .draws]
        (fun d => (d.sett.groups[g]).droop = false ∧ (d.sett.groups[g]).leaderOk = true ∧ (d.sett.groups[g]).ordered = true ∧
      (d.sett.groups[g]).shareAt = some c.tb.count ∧ Granted c d))

/-- SW_REQ delivered at a head that acts as one (R463) is granted and sends one flit: where a sweep is scheduled already nothing else changes; where
none is, and no group spans this device, the sweep asked for is scheduled, its T_0 a multiple of 24 000. SW_SETUP delivered at a member that carries
the group, is no head and did not ask, is granted and answered by one flit: where nothing refuses the sweep it is in setup under the flit's tag,
description and T_0; where something does, at a device whose group spans, no sweep changes. At the member that asked for it, it answers the
SWEEP_START that waits, MBX_BO being free, and takes the sweep up with the aborts that wait for it. SW_ACK delivered at the head of the sweep
scheduled is granted, and takes its source off the answers awaited, with what it refuses. SWEEP_SETUP_TIMEOUT: with an answer refused of a sweep of
this device's own, the sweep is scheduled no more and its abort requested with cause 9, whether it runs or is only asked for; with answers missing
240 000 TK before T_0 of another device's, it is scheduled no more and one flit is sent. SW_DONE delivered at the originator that it names is
granted and takes its source off the devices awaited, the last requesting COMPLETE, and one that names another originator changes no sweep;
SW_DONE_TIMEOUT with devices awaited 2 400 000 TK after T_end requests the abort with cause 0x0A; SW_ABORT delivered at the originator that it names
is granted and requests the abort with its cause. SW_END delivered for a chain-wide sweep in progress, of its tag and originator, ends it with its
cause, counted as aborted or completed; of a sweep that no part of this device holds it changes no sweep; an aborted end of the completed one whose
results stand in capture memory requests their release and counts it as aborted. -/
def Obligations.SweepProtocol : Prop :=
  (∀ c : Chip, ∀ f : FlitHdr, ∀ tag : Nat, ∀ w : SweepDesc, Delivers f (.swReq tag w) c → c.actsHead = true → c.sweep.headTag.isSome = true →
    Runs (.swReq f tag w) c [.sett, .eva, .trace, .obs, .draws]
        (fun d => d.sett.seqs[(2 : Fin 4)] = (c.sett.seqs[(2 : Fin 4)] + 1) % 256 ∧ Granted c d)) ∧
  (∀ c : Chip, ∀ f : FlitHdr, ∀ tag : Nat, ∀ w : SweepDesc, Delivers f (.swReq tag w) c → c.actsHead = true → c.sweep.headTag = none → NoSpans c →
    Runs (.swReq f tag w) c [.sweep, .sett, .eva, .trace, .obs, .draws] (fun d => d.sweep.headTag = some (tag, f.src) ∧ d.sweep.headT0 % 24000 = 0 ∧
      d.sweep.ackBad = false ∧ d.sett.seqs[(2 : Fin 4)] = (c.sett.seqs[(2 : Fin 4)] + 1) % 256 ∧ Granted c d)) ∧
  (∀ c : Chip, ∀ f : FlitHdr, ∀ tag : Nat, ∀ orig : Address, ∀ w : SweepDesc, ∀ t0 : Nat, Delivers f (.swSetup tag orig w t0) c →
    c.isMember (Fin.ofNat 4 w.group) = true → c.phasesOf (Fin.ofNat 4 w.group) ≠ [] → orig ≠ c.sett.addr → c.sett.head ≠ c.sett.addr →
    c.sweepRefusal w = none →
    Runs (.swSetup f tag orig w t0) c [.sweep, .sett, .eva, .trace, .obs, .draws]
        (fun d => d.sweep.st = .setup ∧ d.sweep.chain = true ∧ d.sweep.tag = tag ∧
      d.sweep.origAddr = orig ∧ d.sweep.desc = w ∧ d.sweep.tNext = t0 ∧ d.sweep.t0Known = true ∧
      d.sett.seqs[(2 : Fin 4)] = (c.sett.seqs[(2 : Fin 4)] + 1) % 256 ∧ Granted c d)) ∧
  (∀ c : Chip, ∀ f : FlitHdr, ∀ tag : Nat, ∀ orig : Address, ∀ w : SweepDesc, ∀ t0 : Nat, Delivers f (.swSetup tag orig w t0) c →
    (c.sett.groups[Fin.ofNat 4 w.group]).span = true → c.phasesOf (Fin.ofNat 4 w.group) ≠ [] → orig ≠ c.sett.addr → c.sett.head ≠ c.sett.addr →
    (c.sweepRefusal w).isSome = true →
    Runs (.swSetup f tag orig w t0) c [.sett, .eva, .trace, .obs, .draws] (fun d =>
      d.sett.seqs[(2 : Fin 4)] = (c.sett.seqs[(2 : Fin 4)] + 1) % 256 ∧ Granted c d)) ∧
  (∀ c : Chip, ∀ f : FlitHdr, ∀ tag : Nat, ∀ w : SweepDesc, ∀ t0 : Nat, ∀ h : HostCmd, Delivers f (.swSetup tag c.sett.addr w t0) c →
    c.isMember (Fin.ofNat 4 w.group) = true → c.phasesOf (Fin.ofNat 4 w.group) ≠ [] → c.sett.head ≠ c.sett.addr → c.sweep.ask = some tag →
    c.host.sweepCmd = some h → h ∈ c.host.pending → (c.badgerRuns = false ∨ (c.isUp .owl = true ∧ (c.mbx[mbxIdx .bo]).full = false)) →
    c.sweepRefusal w = none →
    Runs (.swSetup f tag c.sett.addr w t0) c [.sys, .tb, .ph, .grp, .le, .setpt, .sweep, .sett, .guards, .eva, .trace, .obs, .mbx, .dom, .nv, .cal, .log, .host, .draws]
        (fun d => d.sweep.st = .setup ∧ d.sweep.chain = true ∧ d.sweep.orig = true ∧ d.sweep.tag = tag ∧
      d.sweep.ask = none ∧ d.sweep.abortReq = c.sweep.askAbort ∧ d.host.sweepCmd = none ∧ d.host.answers = c.host.answers ++ [(h, .ok, [])])) ∧
  (∀ c : Chip, ∀ f : FlitHdr, ∀ tag : Nat, ∀ w : SweepOwner, ∀ answer : Nat, Delivers f (.swAck tag w.orig w.group answer) c →
    c.sweep.headTag = some (tag, w.orig) →
    Runs (.swAck f tag w answer) c [.sweep, .sett, .eva, .trace, .obs, .draws] (fun d => Granted c d ∧ d.sweep =
      { c.sweep with acksLeft := c.sweep.acksLeft.filter (· != f.src), ackBad := c.sweep.ackBad || answer != 0 })) ∧
  (∀ c : Chip, ∀ tag : Nat, c.sweep.headTag = some (tag, c.sett.addr) → c.sweep.ackBad = true → c.sweep.ask = some tag →
    Runs (.sweepSetupTimeout) c [.sweep] (fun d => d.sweep =
      { c.sweep with acksLeft := [], ackBad := false, headTag := none, askAbort := c.sweep.askAbort ++ [9] })) ∧
  (∀ c : Chip, ∀ tag : Nat, c.sweep.headTag = some (tag, c.sett.addr) → c.sweep.ackBad = true → c.sweep.ask ≠ some tag → c.originates tag = true →
    Runs (.sweepSetupTimeout) c [.sweep] (fun d => d.sweep =
      { c.sweep with acksLeft := [], ackBad := false, headTag := none, abortReq := c.sweep.abortReq ++ [9] })) ∧
  (∀ c : Chip, ∀ tag : Nat, ∀ orig : Address, c.sweep.headTag = some (tag, orig) → orig ≠ c.sett.addr → c.sweep.acksLeft ≠ [] →
    ((c.sweep.headT0 - 240000 : Nat) : Int) * 128 ≤ c.chainTime128 →
    Runs (.sweepSetupTimeout) c [.sweep, .sett, .obs] (fun d => d.sweep = { c.sweep with acksLeft := [], ackBad := false, headTag := none } ∧
      d.sett.seqs[(2 : Fin 4)] = (c.sett.seqs[(2 : Fin 4)] + 1) % 256)) ∧
  (∀ c : Chip, ∀ f : FlitHdr, ∀ w : SweepName, ∀ written : Nat, Delivers f (.swDone w.tag w.owner.orig w.owner.group written) c →
    w.owner.orig ≠ c.sett.addr → Runs (.swDone f w written) c [.sett, .eva, .trace, .obs, .draws] (fun d => Granted c d)) ∧
  (∀ c : Chip, ∀ f : FlitHdr, ∀ w : SweepName, ∀ written : Nat, Delivers f (.swDone w.tag w.owner.orig w.owner.group written) c →
    w.owner.orig = c.sett.addr → c.originates w.tag = true →
    Runs (.swDone f w written) c [.sweep, .sett, .eva, .trace, .obs, .draws]
        (fun d => Granted c d ∧ d.sweep.donesLeft = c.sweep.donesLeft.filter (· != f.src) ∧
      (d.sweep.donesLeft = [] → d.sweep.request = true))) ∧
  (∀ c : Chip, c.originates c.sweep.tag = true → c.sweep.request = false → c.sweep.donesLeft ≠ [] → c.sweep.t0Known = true →
    ((c.sweep.tEnd + 2400000 : Nat) : Int) * 128 ≤ c.chainTime128 →
    Runs (.swDoneTimeout) c [.sweep] (fun d => d.sweep = { c.sweep with abortReq := c.sweep.abortReq ++ [0x0A] })) ∧
  (∀ c : Chip, ∀ f : FlitHdr, ∀ w : SweepName, ∀ cause : Nat, Delivers f (.swAbort w.tag w.owner.orig w.owner.group cause) c →
    w.owner.orig = c.sett.addr → c.sweep.ask = some w.tag →
    Runs (.swAbort f w cause) c [.sweep, .sett, .eva, .trace, .obs, .draws]
        (fun d => Granted c d ∧ d.sweep = { c.sweep with askAbort := c.sweep.askAbort ++ [cause] })) ∧
  (∀ c : Chip, ∀ f : FlitHdr, ∀ w : SweepName, ∀ cause : Nat, Delivers f (.swAbort w.tag w.owner.orig w.owner.group cause) c →
    w.owner.orig = c.sett.addr → c.sweep.ask ≠ some w.tag → c.originates w.tag = true →
    Runs (.swAbort f w cause) c [.sweep, .sett, .eva, .trace, .obs, .draws]
        (fun d => Granted c d ∧ d.sweep = { c.sweep with abortReq := c.sweep.abortReq ++ [cause] })) ∧
  (∀ c : Chip, ∀ f : FlitHdr, ∀ w : SweepName, ∀ cause : Nat, ∀ aborted : Bool, Delivers f (.swEnd w.tag w.owner.orig w.owner.group aborted cause) c →
    c.sweep.origAddr ≠ w.owner.orig → c.sweep.capOrig ≠ w.owner.orig → c.sweep.headTag ≠ some (w.tag, w.owner.orig) →
    Runs (.swEnd f w aborted cause) c [.sett, .eva, .trace, .obs, .draws] (fun d => Granted c d)) ∧
  (∀ c : Chip, ∀ f : FlitHdr, ∀ w : SweepName, ∀ cause : Nat, Delivers f (.swEnd w.tag w.owner.orig w.owner.group true cause) c → c.sweep.st = .idle →
    c.sweep.cap = .completed → c.sweep.capChain = true → c.sweep.capTag = w.tag → c.sweep.capOrig = w.owner.orig →
    Runs (.swEnd f w true cause) c [.sys, .tb, .ph, .grp, .le, .setpt, .cap, .sweep, .sett, .guards, .eva, .trace, .obs, .mbx, .dom, .nv, .cal, .log, .host, .draws]
        (fun d => d.sweep.releaseReq = true ∧ d.sweep.aborted = c.sweep.aborted + 1 ∧ d.sweep.lastTag = w.tag ∧
      d.sweep.lastCause = cause ∧ Granted c d)) ∧
  (∀ c : Chip, ∀ f : FlitHdr, ∀ w : SweepName, ∀ cause : Nat, ∀ aborted : Bool, Delivers f (.swEnd w.tag w.owner.orig w.owner.group aborted cause) c →
    c.sweep.st ≠ .idle → c.sweep.chain = true → c.sweep.tag = w.tag → c.sweep.origAddr = w.owner.orig →
    Runs (.swEnd f w aborted cause) c [.sys, .tb, .ph, .grp, .le, .setpt, .cap, .sweep, .sett, .guards, .eva, .trace, .obs, .mbx, .dom, .nv, .cal, .log, .host, .draws]
        (fun d => d.sweep.st = .idle ∧ d.sweep.windowOpen = false ∧ d.sweep.lastTag = w.tag ∧ d.sweep.lastCause = cause ∧
      d.sweep.aborted = (if aborted = true then c.sweep.aborted + 1 else c.sweep.aborted) ∧
      d.sweep.completed = (if aborted = true then c.sweep.completed else c.sweep.completed + 1)))

/-- CAP_GRANT of a sweep in setup, capture memory being nobody's and canonical as every step keeps it, is granted and gives it to the sweep: the header
reads running, every entry reads 0 and what lies from 0x4100 on stands. CAP_RELEASE that is requested is granted and gives it back.
SWEEP_POINT_START of the first point of a sweep on one device whose T_0 is not known, the memory being its own and a point left, runs the sweep: its
T_0 is the tick, and the window closes and the next point comes where `planWindow` says. SWEEP_WINDOW_CLOSE at or after the window's end closes it,
counts the point as passed and, on a device that injects, as written, and stops the injection; the last point takes the sweep to its end, and on one
device requests COMPLETE. COMPLETE that is requested ends the sweep with cause 0 and counts it as completed, at its originator with its tag;
ABORT_GRANT of a sweep in progress, or of one that this device has asked for, ends it with the first cause that waits and counts it as aborted; with
no sweep in progress the one host abort that waits is taken, the sweep unit standing as it was. -/
def Obligations.SweepPoints : Prop :=
  (∀ c : Chip, c.sweep.st = .setup → c.sweep.cap = .nobody → CaptureCanonical c →
    Runs (.capGrant) c [.cap, .sweep, .eva, .trace, .obs, .draws] (fun d => Granted c d ∧ d.sweep = { c.sweep with
        cap := .running, capTag := c.sweep.tag, capOrig := c.sweep.origAddr, capChain := c.sweep.chain } ∧ memRead 0 d.cap 2 = 1 ∧
      (∀ a : Nat, 0x100 ≤ a → a < 0x4100 → memRead 0 d.cap a = 0) ∧ ∀ a : Nat, 0x4100 ≤ a → memRead 0 d.cap a = memRead 0 c.cap a)) ∧
  (∀ c : Chip, c.sweep.releaseReq = true → c.sweep.cap ≠ .nobody →
    Runs (.capRelease) c [.sweep, .eva, .trace, .obs, .draws]
        (fun d => Granted c d ∧ d.sweep = { c.sweep with cap := .nobody, capTag := 0, releaseReq := false })) ∧
  (∀ c : Chip, ∀ t : Nat, c.sweep.st = .setup → c.sweep.cap = .running → c.sweep.capTag = c.sweep.tag → c.sweep.windowOpen = false →
    c.sweep.next < c.sweep.desc.points → c.ctrlUp = true → c.sweep.t0Known = false → c.sweep.chain = false →
    Runs (.sweepPointStart t) c [.tb, .le, .cap, .sweep, .sett, .trace, .obs]
        (fun d => d.sweep.st = .running ∧ d.sweep.point = c.sweep.next ∧ d.sweep.t0 = t ∧ d.sweep.t0Known = true ∧
      d.sweep.inc = planInc c.sweep.desc c.sweep.next ∧ d.sweep.windowOpen = true ∧ d.sweep.tClose = t + planWindow c.sweep.desc c.sweep.next ∧
      d.sweep.tNext = t + planWindow c.sweep.desc c.sweep.next + 24000 ∧ d.tb.count = max c.tb.count t)) ∧
  (∀ c : Chip, c.sweep.st = .running → c.sweep.windowOpen = true → c.sweep.tClose ≤ c.tb.count →
    Runs (.sweepWindowClose) c [.le, .cap, .sweep, .sett, .obs, .draws] (fun d => d.sweep.windowOpen = false ∧ d.sweep.next = c.sweep.next + 1 ∧
      d.sweep.done = (if c.sweep.engine.isSome = true then c.sweep.done + 1 else c.sweep.done) ∧
      (∀ e : Engine, c.sweep.engine = some e → (d.le[e]).inj.run = false) ∧
      (c.sweep.next + 1 < c.sweep.desc.points → d.sweep.st = .running) ∧
      (c.sweep.desc.points ≤ c.sweep.next + 1 → d.sweep.st = .ending ∧ (c.sweep.chain = false → d.sweep.request = true)))) ∧
  (∀ c : Chip, c.sweep.st ≠ .idle → c.sweep.request = true →
    Runs (.complete .sweep) c [.sys, .code, .tb, .ph, .grp, .le, .setpt, .cap, .sweep, .sett, .gauge, .guards, .eva, .trace, .obs, .mbx, .dom, .nv, .cal, .log, .host, .draws]
        (fun d => d.sweep.st = .idle ∧ d.sweep.request = false ∧ d.sweep.lastTag = c.sweep.tag ∧ d.sweep.lastCause = 0 ∧
      d.sweep.completed = c.sweep.completed + 1 ∧ d.sweep.completedTags = c.sweep.completedTags ++ if c.sweep.orig = true then [c.sweep.tag] else [])) ∧
  (∀ c : Chip, ∀ tag cause : Nat, ∀ rest : List Nat, c.sweep.ask = some tag → c.sweep.askAbort = cause :: rest →
    Runs (.abortGrant .sweep) c [.sys, .tb, .ph, .grp, .le, .setpt, .cap, .sweep, .sett, .guards, .eva, .trace, .obs, .mbx, .dom, .nv, .cal, .log, .host, .draws]
        (fun d => d.sweep.ask = none ∧ d.sweep.askAbort = [] ∧ d.sweep.st = c.sweep.st ∧ d.sweep.lastTag = tag ∧
      d.sweep.lastCause = cause ∧ d.sweep.aborted = c.sweep.aborted + 1)) ∧
  (∀ c : Chip, ∀ cause : Nat, ∀ rest : List Nat, c.sweep.abortReq = cause :: rest → c.sweep.st ≠ .idle →
    (c.sweep.ask = none ∨ c.sweep.askAbort = []) →
    Runs (.abortGrant .sweep) c [.sys, .tb, .ph, .grp, .le, .setpt, .cap, .sweep, .sett, .guards, .eva, .trace, .obs, .mbx, .dom, .nv, .cal, .log, .host, .draws]
        (fun d => d.sweep.st = .idle ∧ d.sweep.abortReq = [] ∧ d.sweep.lastTag = c.sweep.tag ∧ d.sweep.lastCause = cause ∧
      d.sweep.aborted = c.sweep.aborted + 1)) ∧
  (∀ c : Chip, ∀ a : HostCmd, c.sweep.st = .idle → (c.sweep.ask = none ∨ c.sweep.askAbort = []) → c.host.aborts = [(.sweep, some a)] →
    Runs (.abortGrant .sweep) c [.host, .mbx, .dom, .eva, .trace, .obs, .draws] (fun d => d.host.aborts = []))

/-- While a swap is pending, SWAP_REQUEST leaves the whole block as it is, so it has no effect on ACTIVE; and Badger, which has something further to
publish, keeps it behind the pending swap and requests no second one: the pending swap, SHADOW and ACTIVE stay. -/
def Obligations.SwapRefused : Prop :=
  ∀ c : Chip, ∀ chs : List Change, c.setpt.pending = some chs →
    Runs (.swapRequest) c [] (fun d => d = c) ∧
    ∀ ch : Change, (c.submit ch).setpt.pending = some chs ∧ (c.submit ch).setpt.active = c.setpt.active ∧
      (c.submit ch).setpt.shadow = c.setpt.shadow ∧ (c.submit ch).setpt.waiting = c.setpt.waiting ++ [ch]

/-- A Class B fault raised by a group's own block against a group out of STANDBY and SAFE takes that group to SAFE at the grant, and leaves the mode of
every other group, no SHDN_START of Badger's waiting and, for an overvoltage, no group's own. -/
def Obligations.FaultTakesGroupToSafe : Prop :=
  ∀ c : Chip, ∀ g : Group, ∀ code : Nat, ∀ d0 : Word, c.powered = true → c.sys.dev = .perGroup →
    (code = 0x20 ∨ code = 0x21 ∨ 0x23 ≤ code ∧ code ≤ 0x26) → (∀ f ∈ (c.guards[grpBlock g]).faults, f.code ≠ code) →
    (c.grp[g]).mode ≠ .standby → (c.grp[g]).mode ≠ .safe → c.shdnAsked = false → (code = 0x20 → c.ovWaiting = []) →
    Runs (.faultRaise (grpBlock g) .b code g.val d0) c [.sys, .tb, .ph, .grp, .le, .setpt, .sweep, .sett, .guards, .eva, .trace, .obs, .nv, .cal, .log, .host, .draws]
        (fun d => Holds (grpBlock g) code g.val d ∧
      ∀ j : Group, (d.grp[j]).mode = if g = j then .safe else (c.grp[j]).mode)

/-- A step of a state with a command at the front of its queue is that command run on the state with the queue's rest, first in, first out. With nothing
waiting a step answers a next state with nothing waiting; that one tick of the timebase passes in it is the model's choice (log 3). -/
def Obligations.StepTakesFront : Prop :=
  (∀ i : Instr, ∀ q : List Instr, ∀ c : Chip, step ⟨i :: q, c⟩ = exec i ⟨q, c⟩) ∧
  (∀ c : Chip, ∃ d : Chip, step ⟨[], c⟩ = .next ⟨[], d⟩ ∧ (c.ctrlUp = true → d.tb.count = c.tb.count + 1))

/-- Whatever the block's state, every command answers a next state, in which the commands waiting behind it still wait, and the block after it does not
depend on them: no command ends in a fault or a refusal. -/
def Obligations.EveryCommandAnswers : Prop :=
  ∀ i : Instr, ∀ c : Chip, ∃ d : Chip, ∀ q : List Instr, exec i ⟨q, c⟩ = .next ⟨q, d⟩

/-- No command but UPD_BEGIN, which erases the target bank, and UPD_DATA, which programs it, changes a byte of either code bank: from whatever state it
runs, the bytes of both banks stand. -/
def Obligations.OnlyUpdatesWriteBanks : Prop :=
  ∀ i : Instr, ∀ c d : Chip, ∀ q : List Instr, exec i ⟨q, c⟩ = .next ⟨q, d⟩ →
    (∀ h : HostRef, ∀ n : Nat, i ≠ .updBegin h n) → (∀ h : HostRef, ∀ off : Nat, ∀ data : List Byte, i ≠ .updData h off data) →
    d.code.bank0 = c.code.bank0 ∧ d.code.bank1 = c.code.bank1

/-- With power-on reset held the device is in OFF, EVSEQ and EVA_WRAP read 0, no command waits, every mailbox is empty, every observation counter reads
0, no guard block holds a fault, TB_COUNT is 0, and nothing is published. -/
def Obligations.ResetState : Prop :=
  State.reset.pending = [] ∧ State.reset.chip.sys.dev = .off ∧ State.reset.chip.eva.seq = 0 ∧ State.reset.chip.eva.wrap = 0 ∧
  State.reset.chip.tb.count = 0 ∧ (∀ m : Fin 6, (State.reset.chip.mbx[m]).full = false) ∧ (∀ k : Fin 32, State.reset.chip.obs[k] = 0) ∧
  (∀ b : Block, (State.reset.chip.guards[b]).faults = []) ∧ State.reset.chip.setpt.pending = none

/-- With power-on reset held, capture memory and both code banks have their canonical form, the books of every mailbox balance, OBS counter 0 agrees
with EVSEQ and EVA_WRAP, and the log is within its bound. -/
def Obligations.ResetMeetsInvariants : Prop :=
  CaptureCanonical State.reset.chip ∧ BanksCanonical State.reset.chip ∧ MailboxBooks State.reset.chip ∧ GrantsCounted State.reset.chip ∧
  LogBounded State.reset.chip

/-- From every state whose capture memory and code banks have their canonical form (addresses strictly rising, no entry that reads as an unlisted
address does), any step, of any command or idle, answers a state in which they have it again. -/
def Obligations.StepKeepsMemoryCanonical : Prop :=
  ∀ s t : State, CaptureCanonical s.chip → BanksCanonical s.chip → step s = .next t → CaptureCanonical t.chip ∧ BanksCanonical t.chip

/-- From every state in which each mailbox has _WRITTEN = _READ + FULL, OBS counter 0 counts the same grants as EVSEQ and EVA_WRAP, and the log is
within its bound, any step of any command, or an idle one, answers a state in which all three hold again. -/
def Obligations.StepKeepsBooks : Prop :=
  ∀ s t : State, step s = .next t →
    (MailboxBooks s.chip → MailboxBooks t.chip) ∧ (GrantsCounted s.chip → GrantsCounted t.chip) ∧ (LogBounded s.chip → LogBounded t.chip)
end

