-- ==== Sys2Proof/Laws/Bank.lean ====
section
/-!
SUPPORT. The choice of a code bank and every write of the bank state leave the content of both banks alone.
-/

namespace Sys2Proof.Machine

theorem CodeUnit.setInfo_banks (u : CodeUnit) (b : Bool) (i : BankInfo) :
    (u.setInfo b i).bank0 = u.bank0 ∧ (u.setInfo b i).bank1 = u.bank1 := by
  cases b <;> exact ⟨rfl, rfl⟩

theorem CodeUnit.readState_banks (u : CodeUnit) : u.readState.bank0 = u.bank0 ∧ u.readState.bank1 = u.bank1 := by
  unfold CodeUnit.readState
  split <;> exact ⟨rfl, rfl⟩

theorem CodeUnit.writeState_banks (u : CodeUnit) : u.writeState.bank0 = u.bank0 ∧ u.writeState.bank1 = u.bank1 := by
  unfold CodeUnit.writeState
  extract_lets
  split <;> exact ⟨rfl, rfl⟩

theorem CodeUnit.eraseOther_banks (u : CodeUnit) : u.eraseOther.bank0 = u.bank0 ∧ u.eraseOther.bank1 = u.bank1 := by
  unfold CodeUnit.eraseOther
  split <;> exact ⟨rfl, rfl⟩

theorem CodeUnit.changeState_banks (u v : CodeUnit) : (u.changeState v).bank0 = v.bank0 ∧ (u.changeState v).bank1 = v.bank1 := by
  unfold CodeUnit.changeState
  split
  · exact ⟨rfl, rfl⟩
  · exact v.writeState_banks

theorem CodeUnit.attempt_banks (u : CodeUnit) (b : Bool) : (u.attempt b).bank0 = u.bank0 ∧ (u.attempt b).bank1 = u.bank1 := by
  unfold CodeUnit.attempt
  extract_lets
  split
  · exact CodeUnit.setInfo_banks ..
  · exact ⟨rfl, rfl⟩

theorem CodeUnit.takeSwap_banks (u : CodeUnit) (p : Bool) : (u.takeSwap p).bank0 = u.bank0 ∧ (u.takeSwap p).bank1 = u.bank1 := by
  unfold CodeUnit.takeSwap
  split
  · split
    · exact CodeUnit.setInfo_banks ..
    · exact ⟨rfl, rfl⟩
  · exact ⟨rfl, rfl⟩

theorem CodeUnit.fallBack_banks (u : CodeUnit) (b : Bool) : (u.fallBack b).code.bank0 = u.bank0 ∧ (u.fallBack b).code.bank1 = u.bank1 := by
  unfold CodeUnit.fallBack
  extract_lets i
  split
  · exact ⟨rfl, rfl⟩
  split
  · exact CodeUnit.setInfo_banks ..
  split
  · exact u.attempt_banks (!b)
  · dsimp only
    split
    · exact CodeUnit.setInfo_banks ..
    · exact ⟨rfl, rfl⟩

theorem CodeUnit.chooseBank_banks (u : CodeUnit) (p : Bool) : (u.chooseBank p).code.bank0 = u.bank0 ∧ (u.chooseBank p).code.bank1 = u.bank1 := by
  unfold CodeUnit.chooseBank
  extract_lets v b i
  have hv : v.bank0 = u.bank0 ∧ v.bank1 = u.bank1 := u.takeSwap_banks p
  have info : ∀ j, (v.setInfo b j).bank0 = u.bank0 ∧ (v.setInfo b j).bank1 = u.bank1 := fun j => by
    rw [(v.setInfo_banks b j).1, (v.setInfo_banks b j).2]; exact hv
  have fall : ∀ w : CodeUnit, (w.bank0 = u.bank0 ∧ w.bank1 = u.bank1) →
      (w.fallBack b).code.bank0 = u.bank0 ∧ (w.fallBack b).code.bank1 = u.bank1 := fun w hw => by
    rw [(w.fallBack_banks b).1, (w.fallBack_banks b).2]; exact hw
  split
  · exact fall _ hv
  split
  · exact fall _ (info _)
  split
  · show (v.attempt b).bank0 = _ ∧ (v.attempt b).bank1 = _
    rw [(v.attempt_banks b).1, (v.attempt_banks b).2]; exact hv
  · refine fall _ ?_
    split
    · exact info _
    · exact hv

theorem CodeUnit.pick_banks (u : CodeUnit) (p : Bool) : (u.pick p).code.bank0 = u.bank0 ∧ (u.pick p).code.bank1 = u.bank1 := by
  unfold CodeUnit.pick
  extract_lets v q
  show (v.changeState q.code).bank0 = _ ∧ (v.changeState q.code).bank1 = _
  rw [(v.changeState_banks q.code).1, (v.changeState_banks q.code).2, (v.chooseBank_banks p).1, (v.chooseBank_banks p).2]
  exact u.readState_banks

theorem CodeUnit.confirm_banks (u : CodeUnit) (b : Bool) : (u.confirm b).bank0 = u.bank0 ∧ (u.confirm b).bank1 = u.bank1 := by
  unfold CodeUnit.confirm
  rw [(CodeUnit.eraseOther_banks _).1, (CodeUnit.eraseOther_banks _).2, (u.changeState_banks _).1, (u.changeState_banks _).2]
  exact CodeUnit.setInfo_banks ..

/-- A change that leaves the banks' content leaves its canonical form. -/
theorem banks_canonical {u v : CodeUnit} (e : v.bank0 = u.bank0 ∧ v.bank1 = u.bank1)
    (h : memWf erased u.bank0 = true ∧ memWf erased u.bank1 = true) : memWf erased v.bank0 = true ∧ memWf erased v.bank1 = true := by
  rw [e.1, e.2]; exact h

end Sys2Proof.Machine
end

