-- ==== Sys2Proof/Laws/Memory.lean ====
section
/-!
SUPPORT. The laws of a byte memory: every operation keeps the canonical form, a read after a write gives the byte written
there and the old byte elsewhere, and an erased range reads as the fill value.
-/

-- one theorem after another: the checks of a large package would else hold too many threads at once
set_option Elab.async false

namespace Sys2Proof.Machine

/-- The canonical form: addresses rise strictly, and no entry holds the fill value. -/
theorem memWf_iff (f : Byte) (m : Memory) :
    memWf f m = true ↔ m.Pairwise (fun c d => c.1 < d.1) ∧ ∀ c ∈ m, c.2 ≠ f := by
  induction m with
  | nil => simp [memWf]
  | cons c m ih =>
    cases m with
    | nil => simp [memWf]
    | cons d r =>
      simp only [memWf, Bool.and_eq_true, bne_iff_ne, decide_eq_true_eq, ih]
      simp only [List.pairwise_cons, List.forall_mem_cons]
      constructor
      · rintro ⟨⟨h1, h2⟩, ⟨h3, h4⟩, h5, h6⟩
        exact ⟨⟨⟨h2, fun x hx => Nat.lt_trans h2 (h3 x hx)⟩, h3, h4⟩, h1, h5, h6⟩
      · rintro ⟨⟨⟨h2, _⟩, h3, h4⟩, h1, h5, h6⟩
        exact ⟨⟨h1, h2⟩, ⟨h3, h4⟩, h5, h6⟩

theorem memWf_tail {f : Byte} {c : Host.Cell} {m : Memory} (h : memWf f (c :: m) = true) : memWf f m = true := by
  rw [memWf_iff] at h ⊢
  exact ⟨(List.pairwise_cons.1 h.1).2, fun x hx => h.2 x (List.mem_cons_of_mem _ hx)⟩

/-- An entry of the memory after a write is the one written or one that was there. -/
theorem mem_memWrite {f : Byte} {m : Memory} {a : Nat} {b : Byte} {c : Host.Cell} (h : c ∈ memWrite f m a b) :
    (c = (a, b) ∧ b ≠ f) ∨ c ∈ m := by
  induction m with
  | nil =>
    unfold memWrite at h
    split at h
    · cases h
    · simp_all
  | cons d r ih =>
    unfold memWrite at h
    split at h
    · split at h
      · exact .inr h
      · rcases List.mem_cons.1 h with rfl | h
        · exact .inl ⟨rfl, ‹_›⟩
        · exact .inr h
    · split at h
      · split at h
        · exact .inr (List.mem_cons_of_mem _ h)
        · rcases List.mem_cons.1 h with rfl | h
          · exact .inl ⟨rfl, ‹_›⟩
          · exact .inr (List.mem_cons_of_mem _ h)
      · rcases List.mem_cons.1 h with rfl | h
        · exact .inr List.mem_cons_self
        · rcases ih h with h | h
          · exact .inl h
          · exact .inr (List.mem_cons_of_mem _ h)

theorem memWrite_wf {f : Byte} {m : Memory} (a : Nat) (b : Byte) (h : memWf f m = true) : memWf f (memWrite f m a b) = true := by
  induction m with
  | nil =>
    unfold memWrite
    split <;> simp_all [memWf]
  | cons d r ih =>
    have hr := ih (memWf_tail h)
    have h' := (memWf_iff _ _).1 h
    have hp := List.pairwise_cons.1 h'.1
    unfold memWrite
    split
    · split
      · exact h
      · rw [memWf_iff, List.pairwise_cons]
        refine ⟨⟨fun x hx => ?_, h'.1⟩, fun x hx => ?_⟩
        · rcases List.mem_cons.1 hx with rfl | hx
          · assumption
          · exact Nat.lt_trans ‹_› (hp.1 x hx)
        · rcases List.mem_cons.1 hx with rfl | hx
          · assumption
          · exact h'.2 x hx
    · split
      · split
        · exact memWf_tail h
        · rename_i e _
          rw [memWf_iff, List.pairwise_cons]
          refine ⟨⟨fun x hx => ?_, hp.2⟩, fun x hx => ?_⟩
          · show a < x.1
            rw [e]; exact hp.1 x hx
          · rcases List.mem_cons.1 hx with rfl | hx
            · assumption
            · exact h'.2 x (List.mem_cons_of_mem _ hx)
      · rw [memWf_iff, List.pairwise_cons]
        have hw := (memWf_iff _ _).1 hr
        refine ⟨⟨fun x hx => ?_, hw.1⟩, fun x hx => ?_⟩
        · rcases mem_memWrite hx with ⟨rfl, _⟩ | hx
          · show d.1 < a
            omega
          · exact hp.1 x hx
        · rcases List.mem_cons.1 hx with rfl | hx
          · exact h'.2 _ List.mem_cons_self
          · exact hw.2 x hx

theorem memWriteBytes_wf {f : Byte} {m : Memory} (a : Nat) (bs : List Byte) (h : memWf f m = true) :
    memWf f (memWriteBytes f m a bs) = true := by
  induction bs generalizing m a with
  | nil => exact h
  | cons b bs ih => exact ih (a + 1) (memWrite_wf a b h)

theorem memErase_wf {f : Byte} {m : Memory} (lo hi : Nat) (h : memWf f m = true) : memWf f (memErase m lo hi) = true := by
  rw [memWf_iff] at h ⊢
  exact ⟨h.1.filter _, fun c hc => h.2 c (List.mem_filter.1 hc).1⟩

theorem memRead_absent {f : Byte} {m : Memory} {a : Nat} (h : ∀ c ∈ m, c.1 ≠ a) : memRead f m a = f := by
  induction m with
  | nil => rfl
  | cons c m ih =>
    unfold memRead
    rw [if_neg (h c List.mem_cons_self)]
    exact ih (fun x hx => h x (List.mem_cons_of_mem _ hx))

/-- A read after a write of one byte. -/
theorem memRead_memWrite {f : Byte} {m : Memory} (a : Nat) (b : Byte) (x : Nat) (h : memWf f m = true) :
    memRead f (memWrite f m a b) x = if x = a then b else memRead f m x := by
  induction m with
  | nil =>
    unfold memWrite
    split <;> split <;> simp_all [memRead]
    omega
  | cons d r ih =>
    have hr := ih (memWf_tail h)
    have hp := List.pairwise_cons.1 ((memWf_iff _ _).1 h).1
    unfold memWrite
    split
    · have late : ∀ c ∈ d :: r, c.1 ≠ a := by
        intro c hc
        rcases List.mem_cons.1 hc with rfl | hc
        · omega
        · have := hp.1 c hc; omega
      split
      · split
        · subst_vars; exact memRead_absent late
        · rfl
      · split
        · subst_vars; simp [memRead]
        · simp only [memRead]; rw [if_neg (by omega)]
    · split
      · rename_i e
        have late : ∀ c ∈ r, c.1 ≠ a := by
          intro c hc
          have := hp.1 c hc; omega
        split
        · split
          · subst_vars; exact memRead_absent late
          · rw [memRead, if_neg (by omega)]
        · split
          · subst_vars; simp [memRead]
          · simp only [memRead]; rw [if_neg (by omega), if_neg (by omega)]
      · simp only [memRead, hr]
        split
        · rw [if_neg (by omega)]
        · rfl

/-- A read after an erase: the erased range reads as the fill value, every other byte as before. -/
theorem memRead_memErase {f : Byte} {m : Memory} (lo hi x : Nat) :
    memRead f (memErase m lo hi) x = if lo ≤ x ∧ x ≤ hi then f else memRead f m x := by
  induction m with
  | nil => simp [memErase, memRead]
  | cons c m ih =>
    simp only [memErase] at ih ⊢
    by_cases hc : c.1 < lo ∨ hi < c.1
    · rw [List.filter_cons_of_pos (by simpa using hc)]
      simp only [memRead, ih]
      split
      · rw [if_neg (by omega)]
      · rfl
    · rw [List.filter_cons_of_neg (by simpa using hc), ih]
      simp only [memRead]
      split
      · rfl
      · rw [if_neg (by omega)]

end Sys2Proof.Machine
end

