-- ==== Sys2Proof/Laws/Moves.lean ====
section
/-!
SUPPORT. How a change of the block is put together from smaller ones. `Moves ps c d` says of a change from `c` to `d` all that later
proofs cite: only the listed parts may differ, and each invariant of Safety.lean that holds of `c` holds of `d`. It holds of doing
nothing, follows from one change to the next, and an update of one part keeps every other part.
-/

-- one theorem after another: the checks of a large package would else hold too many threads at once
set_option Elab.async false

namespace Sys2Proof.Machine
open Sys2Proof

/-- A change that leaves all but the listed parts alone and keeps the invariants. -/
structure Moves (ps : List Part) (c d : Chip) : Prop where
  keep : Keeps ps c d
  cap : CaptureCanonical c → CaptureCanonical d
  banks : BanksCanonical c → BanksCanonical d
  books : MailboxBooks c → MailboxBooks d
  counted : GrantsCounted c → GrantsCounted d
  bound : LogBounded c → LogBounded d

theorem keeps_refl (ps : List Part) (c : Chip) : Keeps ps c c := ⟨by
  intro p _; cases p <;> rfl⟩

theorem keeps_trans {ps : List Part} {c d e : Chip} (h : Keeps ps c d) (k : Keeps ps d e) : Keeps ps c e := by
  refine ⟨fun p hp => ?_⟩
  have h1 := h.same p hp
  have h2 := k.same p hp
  cases p <;> exact Eq.trans h2 h1

theorem keeps_mono {ps qs : List Part} {c d : Chip} (h : Keeps ps c d) (sub : ∀ p ∈ ps, p ∈ qs) : Keeps qs c d :=
  ⟨fun p hp => h.same p (fun m => hp (sub p m))⟩

theorem moves_refl (ps : List Part) (c : Chip) : Moves ps c c := ⟨keeps_refl ps c, id, id, id, id, id⟩

theorem moves_trans {ps : List Part} {c d e : Chip} (h : Moves ps c d) (k : Moves ps d e) : Moves ps c e :=
  ⟨keeps_trans h.keep k.keep, fun x => k.cap (h.cap x), fun x => k.banks (h.banks x), fun x => k.books (h.books x),
    fun x => k.counted (h.counted x), fun x => k.bound (h.bound x)⟩

theorem moves_mono {ps qs : List Part} {c d : Chip} (h : Moves ps c d) (sub : ∀ p ∈ ps, p ∈ qs) : Moves qs c d :=
  ⟨keeps_mono h.keep sub, h.cap, h.banks, h.books, h.counted, h.bound⟩

theorem moves_then {ps qs : List Part} {c d e : Chip} (h : Moves qs c d) (k : Moves ps d e) (sub : ∀ p ∈ ps, p ∈ qs) : Moves qs c e :=
  moves_trans h (moves_mono k sub)

theorem moves_foldl {α : Type} {ps : List Part} {c e : Chip} (l : List α) (f : Chip → α → Chip) (h : Moves ps c e)
    (k : ∀ d x, Moves ps d (f d x)) : Moves ps c (l.foldl f e) := by
  induction l generalizing e with
  | nil => exact h
  | cons x xs ih => exact ih (moves_trans h (k e x))

theorem moves_cut {T : List Part} {c e : Chip} (x : Chip) (h : Moves T c x) (k : Moves T c x → Moves T c e) : Moves T c e := k h

theorem moves_fst {α : Type} {T : List Part} {c a : Chip} {b : α} {p : Chip × α} (e : p = (a, b)) (h : Moves T c p.1) : Moves T c a := by
  subst e; exact h

theorem moves_snd {α : Type} {T : List Part} {c b : Chip} {a : α} {p : α × Chip} (e : p = (a, b)) (h : Moves T c p.2) : Moves T c b := by
  subst e; exact h

theorem moves_ite {T : List Part} {c a b : Chip} {p : Prop} [Decidable p] (h : p → Moves T c a) (k : ¬p → Moves T c b) :
    Moves T c (if p then a else b) := by
  split
  · exact h ‹_›
  · exact k ‹_›

theorem moves_dite {T : List Part} {c : Chip} {p : Prop} [Decidable p] {a : p → Chip} {b : ¬p → Chip} (h : ∀ q, Moves T c (a q))
    (k : ∀ q, Moves T c (b q)) : Moves T c (if q : p then a q else b q) := by
  split
  · exact h ‹_›
  · exact k ‹_›

/-- A block written out field by field, against the block it was made from: each part is the old one or is listed, and the six parts
that the invariants speak of keep them. -/
theorem moves_mk {T : List Part} {c e : Chip}
    {a1 a2 a3 a4 a5 a6 a7 a8 a9 a10 a11 a12 a13 a14 a15 a16 a17 a18 a19 a20 a21 a22 a23 a24 a25 a26 a27}
    (h1 : a1 = e.sys ∨ Part.sys ∈ T) (h2 : a2 = e.code ∨ Part.code ∈ T) (h3 : a3 = e.tb ∨ Part.tb ∈ T) (h4 : a4 = e.ph ∨ Part.ph ∈ T) (h5 : a5 = e.grp ∨ Part.grp ∈ T) (h6 : a6 = e.le ∨ Part.le ∈ T) (h7 : a7 = e.setpt ∨ Part.setpt ∈ T) (h8 : a8 = e.lcmd ∨ Part.lcmd ∈ T) (h9 : a9 = e.refs ∨ Part.refs ∈ T) (h10 : a10 = e.aux ∨ Part.aux ∈ T) (h11 : a11 = e.snap ∨ Part.snap ∈ T) (h12 : a12 = e.cap ∨ Part.cap ∈ T) (h13 : a13 = e.sweep ∨ Part.sweep ∈ T) (h14 : a14 = e.sett ∨ Part.sett ∈ T) (h15 : a15 = e.gauge ∨ Part.gauge ∈ T) (h16 : a16 = e.guards ∨ Part.guards ∈ T) (h17 : a17 = e.eva ∨ Part.eva ∈ T) (h18 : a18 = e.trace ∨ Part.trace ∈ T) (h19 : a19 = e.obs ∨ Part.obs ∈ T) (h20 : a20 = e.mbx ∨ Part.mbx ∈ T) (h21 : a21 = e.dom ∨ Part.dom ∈ T) (h22 : a22 = e.nv ∨ Part.nv ∈ T) (h23 : a23 = e.cal ∨ Part.cal ∈ T) (h24 : a24 = e.log ∨ Part.log ∈ T) (h25 : a25 = e.host ∨ Part.host ∈ T) (h26 : a26 = e.latch ∨ Part.latch ∈ T) (h27 : a27 = e.draws ∨ Part.draws ∈ T)
    (hk : Moves T c e)
    (wcap : memWf 0 e.cap = true → memWf 0 a12 = true := by intro h; exact h)
    (wcode : memWf erased e.code.bank0 = true ∧ memWf erased e.code.bank1 = true → memWf erased a2.bank0 = true ∧ memWf erased a2.bank1 = true := by
      intro h; first | exact h | exact banks_canonical (CodeUnit.setInfo_banks ..) h | exact banks_canonical (CodeUnit.confirm_banks ..) h | exact banks_canonical (CodeUnit.eraseOther_banks ..) h)
    (wmbx : MailboxBooks e → ∀ m : Fin 6, Balanced a20[m] := by intro h; exact h)
    (wlog : e.log.entries.length ≤ 2048 → a24.entries.length ≤ 2048 := by intro h; exact h)
    (wobs : GrantsCounted e → a19[(0 : Fin 32)] = BitVec.ofNat 48 (a17.wrap.toNat * 2 ^ 32 + a17.seq.toNat) := by intro h; exact h) :
    Moves T c ⟨a1, a2, a3, a4, a5, a6, a7, a8, a9, a10, a11, a12, a13, a14, a15, a16, a17, a18, a19, a20, a21, a22, a23, a24, a25, a26, a27⟩ := by
  refine moves_trans hk ⟨⟨fun p hp => ?_⟩, wcap, wcode, wmbx, wobs, wlog⟩
  cases p <;> simp only [Part.Same] <;> simp_all

theorem moves_set_sys {T : List Part} {c e : Chip} {x} (h : Moves T c e) (m : Part.sys ∈ T) : Moves T c { e with sys := x } :=
  moves_mk (.inr m) (.inl rfl) (.inl rfl) (.inl rfl) (.inl rfl) (.inl rfl) (.inl rfl) (.inl rfl) (.inl rfl) (.inl rfl) (.inl rfl) (.inl rfl) (.inl rfl) (.inl rfl) (.inl rfl) (.inl rfl) (.inl rfl) (.inl rfl) (.inl rfl) (.inl rfl) (.inl rfl) (.inl rfl) (.inl rfl) (.inl rfl) (.inl rfl) (.inl rfl) (.inl rfl) h

theorem moves_set_code {T : List Part} {c e : Chip} {x} (h : Moves T c e) (m : Part.code ∈ T) (wcode : memWf erased e.code.bank0 = true ∧ memWf erased e.code.bank1 = true → memWf erased x.bank0 = true ∧ memWf erased x.bank1 = true := by
      intro h; first | exact h | exact banks_canonical (CodeUnit.setInfo_banks ..) h | exact banks_canonical (CodeUnit.confirm_banks ..) h | exact banks_canonical (CodeUnit.eraseOther_banks ..) h) : Moves T c { e with code := x } :=
  moves_mk (.inl rfl) (.inr m) (.inl rfl) (.inl rfl) (.inl rfl) (.inl rfl) (.inl rfl) (.inl rfl) (.inl rfl) (.inl rfl) (.inl rfl) (.inl rfl) (.inl rfl) (.inl rfl) (.inl rfl) (.inl rfl) (.inl rfl) (.inl rfl) (.inl rfl) (.inl rfl) (.inl rfl) (.inl rfl) (.inl rfl) (.inl rfl) (.inl rfl) (.inl rfl) (.inl rfl) h (wcode := wcode)

theorem moves_set_tb {T : List Part} {c e : Chip} {x} (h : Moves T c e) (m : Part.tb ∈ T) : Moves T c { e with tb := x } :=
  moves_mk (.inl rfl) (.inl rfl) (.inr m) (.inl rfl) (.inl rfl) (.inl rfl) (.inl rfl) (.inl rfl) (.inl rfl) (.inl rfl) (.inl rfl) (.inl rfl) (.inl rfl) (.inl rfl) (.inl rfl) (.inl rfl) (.inl rfl) (.inl rfl) (.inl rfl) (.inl rfl) (.inl rfl) (.inl rfl) (.inl rfl) (.inl rfl) (.inl rfl) (.inl rfl) (.inl rfl) h

theorem moves_set_ph {T : List Part} {c e : Chip} {x} (h : Moves T c e) (m : Part.ph ∈ T) : Moves T c { e with ph := x } :=
  moves_mk (.inl rfl) (.inl rfl) (.inl rfl) (.inr m) (.inl rfl) (.inl rfl) (.inl rfl) (.inl rfl) (.inl rfl) (.inl rfl) (.inl rfl) (.inl rfl) (.inl rfl) (.inl rfl) (.inl rfl) (.inl rfl) (.inl rfl) (.inl rfl) (.inl rfl) (.inl rfl) (.inl rfl) (.inl rfl) (.inl rfl) (.inl rfl) (.inl rfl) (.inl rfl) (.inl rfl) h

theorem moves_set_grp {T : List Part} {c e : Chip} {x} (h : Moves T c e) (m : Part.grp ∈ T) : Moves T c { e with grp := x } :=
  moves_mk (.inl rfl) (.inl rfl) (.inl rfl) (.inl rfl) (.inr m) (.inl rfl) (.inl rfl) (.inl rfl) (.inl rfl) (.inl rfl) (.inl rfl) (.inl rfl) (.inl rfl) (.inl rfl) (.inl rfl) (.inl rfl) (.inl rfl) (.inl rfl) (.inl rfl) (.inl rfl) (.inl rfl) (.inl rfl) (.inl rfl) (.inl rfl) (.inl rfl) (.inl rfl) (.inl rfl) h

theorem moves_set_le {T : List Part} {c e : Chip} {x} (h : Moves T c e) (m : Part.le ∈ T) : Moves T c { e with le := x } :=
  moves_mk (.inl rfl) (.inl rfl) (.inl rfl) (.inl rfl) (.inl rfl) (.inr m) (.inl rfl) (.inl rfl) (.inl rfl) (.inl rfl) (.inl rfl) (.inl rfl) (.inl rfl) (.inl rfl) (.inl rfl) (.inl rfl) (.inl rfl) (.inl rfl) (.inl rfl) (.inl rfl) (.inl rfl) (.inl rfl) (.inl rfl) (.inl rfl) (.inl rfl) (.inl rfl) (.inl rfl) h

theorem moves_set_setpt {T : List Part} {c e : Chip} {x} (h : Moves T c e) (m : Part.setpt ∈ T) : Moves T c { e with setpt := x } :=
  moves_mk (.inl rfl) (.inl rfl) (.inl rfl) (.inl rfl) (.inl rfl) (.inl rfl) (.inr m) (.inl rfl) (.inl rfl) (.inl rfl) (.inl rfl) (.inl rfl) (.inl rfl) (.inl rfl) (.inl rfl) (.inl rfl) (.inl rfl) (.inl rfl) (.inl rfl) (.inl rfl) (.inl rfl) (.inl rfl) (.inl rfl) (.inl rfl) (.inl rfl) (.inl rfl) (.inl rfl) h

theorem moves_set_lcmd {T : List Part} {c e : Chip} {x} (h : Moves T c e) (m : Part.lcmd ∈ T) : Moves T c { e with lcmd := x } :=
  moves_mk (.inl rfl) (.inl rfl) (.inl rfl) (.inl rfl) (.inl rfl) (.inl rfl) (.inl rfl) (.inr m) (.inl rfl) (.inl rfl) (.inl rfl) (.inl rfl) (.inl rfl) (.inl rfl) (.inl rfl) (.inl rfl) (.inl rfl) (.inl rfl) (.inl rfl) (.inl rfl) (.inl rfl) (.inl rfl) (.inl rfl) (.inl rfl) (.inl rfl) (.inl rfl) (.inl rfl) h

theorem moves_set_refs {T : List Part} {c e : Chip} {x} (h : Moves T c e) (m : Part.refs ∈ T) : Moves T c { e with refs := x } :=
  moves_mk (.inl rfl) (.inl rfl) (.inl rfl) (.inl rfl) (.inl rfl) (.inl rfl) (.inl rfl) (.inl rfl) (.inr m) (.inl rfl) (.inl rfl) (.inl rfl) (.inl rfl) (.inl rfl) (.inl rfl) (.inl rfl) (.inl rfl) (.inl rfl) (.inl rfl) (.inl rfl) (.inl rfl) (.inl rfl) (.inl rfl) (.inl rfl) (.inl rfl) (.inl rfl) (.inl rfl) h

theorem moves_set_aux {T : List Part} {c e : Chip} {x} (h : Moves T c e) (m : Part.aux ∈ T) : Moves T c { e with aux := x } :=
  moves_mk (.inl rfl) (.inl rfl) (.inl rfl) (.inl rfl) (.inl rfl) (.inl rfl) (.inl rfl) (.inl rfl) (.inl rfl) (.inr m) (.inl rfl) (.inl rfl) (.inl rfl) (.inl rfl) (.inl rfl) (.inl rfl) (.inl rfl) (.inl rfl) (.inl rfl) (.inl rfl) (.inl rfl) (.inl rfl) (.inl rfl) (.inl rfl) (.inl rfl) (.inl rfl) (.inl rfl) h

theorem moves_set_snap {T : List Part} {c e : Chip} {x} (h : Moves T c e) (m : Part.snap ∈ T) : Moves T c { e with snap := x } :=
  moves_mk (.inl rfl) (.inl rfl) (.inl rfl) (.inl rfl) (.inl rfl) (.inl rfl) (.inl rfl) (.inl rfl) (.inl rfl) (.inl rfl) (.inr m) (.inl rfl) (.inl rfl) (.inl rfl) (.inl rfl) (.inl rfl) (.inl rfl) (.inl rfl) (.inl rfl) (.inl rfl) (.inl rfl) (.inl rfl) (.inl rfl) (.inl rfl) (.inl rfl) (.inl rfl) (.inl rfl) h

theorem moves_set_cap {T : List Part} {c e : Chip} {x} (h : Moves T c e) (m : Part.cap ∈ T) (wcap : memWf 0 e.cap = true → memWf 0 x = true := by intro h; exact h) : Moves T c { e with cap := x } :=
  moves_mk (.inl rfl) (.inl rfl) (.inl rfl) (.inl rfl) (.inl rfl) (.inl rfl) (.inl rfl) (.inl rfl) (.inl rfl) (.inl rfl) (.inl rfl) (.inr m) (.inl rfl) (.inl rfl) (.inl rfl) (.inl rfl) (.inl rfl) (.inl rfl) (.inl rfl) (.inl rfl) (.inl rfl) (.inl rfl) (.inl rfl) (.inl rfl) (.inl rfl) (.inl rfl) (.inl rfl) h (wcap := wcap)

theorem moves_set_sweep {T : List Part} {c e : Chip} {x} (h : Moves T c e) (m : Part.sweep ∈ T) : Moves T c { e with sweep := x } :=
  moves_mk (.inl rfl) (.inl rfl) (.inl rfl) (.inl rfl) (.inl rfl) (.inl rfl) (.inl rfl) (.inl rfl) (.inl rfl) (.inl rfl) (.inl rfl) (.inl rfl) (.inr m) (.inl rfl) (.inl rfl) (.inl rfl) (.inl rfl) (.inl rfl) (.inl rfl) (.inl rfl) (.inl rfl) (.inl rfl) (.inl rfl) (.inl rfl) (.inl rfl) (.inl rfl) (.inl rfl) h

theorem moves_set_sett {T : List Part} {c e : Chip} {x} (h : Moves T c e) (m : Part.sett ∈ T) : Moves T c { e with sett := x } :=
  moves_mk (.inl rfl) (.inl rfl) (.inl rfl) (.inl rfl) (.inl rfl) (.inl rfl) (.inl rfl) (.inl rfl) (.inl rfl) (.inl rfl) (.inl rfl) (.inl rfl) (.inl rfl) (.inr m) (.inl rfl) (.inl rfl) (.inl rfl) (.inl rfl) (.inl rfl) (.inl rfl) (.inl rfl) (.inl rfl) (.inl rfl) (.inl rfl) (.inl rfl) (.inl rfl) (.inl rfl) h

theorem moves_set_gauge {T : List Part} {c e : Chip} {x} (h : Moves T c e) (m : Part.gauge ∈ T) : Moves T c { e with gauge := x } :=
  moves_mk (.inl rfl) (.inl rfl) (.inl rfl) (.inl rfl) (.inl rfl) (.inl rfl) (.inl rfl) (.inl rfl) (.inl rfl) (.inl rfl) (.inl rfl) (.inl rfl) (.inl rfl) (.inl rfl) (.inr m) (.inl rfl) (.inl rfl) (.inl rfl) (.inl rfl) (.inl rfl) (.inl rfl) (.inl rfl) (.inl rfl) (.inl rfl) (.inl rfl) (.inl rfl) (.inl rfl) h

theorem moves_set_guards {T : List Part} {c e : Chip} {x} (h : Moves T c e) (m : Part.guards ∈ T) : Moves T c { e with guards := x } :=
  moves_mk (.inl rfl) (.inl rfl) (.inl rfl) (.inl rfl) (.inl rfl) (.inl rfl) (.inl rfl) (.inl rfl) (.inl rfl) (.inl rfl) (.inl rfl) (.inl rfl) (.inl rfl) (.inl rfl) (.inl rfl) (.inr m) (.inl rfl) (.inl rfl) (.inl rfl) (.inl rfl) (.inl rfl) (.inl rfl) (.inl rfl) (.inl rfl) (.inl rfl) (.inl rfl) (.inl rfl) h

theorem moves_set_eva {T : List Part} {c e : Chip} {x} (h : Moves T c e) (m : Part.eva ∈ T) (wseq : x.seq = e.eva.seq ∧ x.wrap = e.eva.wrap := by exact ⟨rfl, rfl⟩) : Moves T c { e with eva := x } :=
  moves_mk (.inl rfl) (.inl rfl) (.inl rfl) (.inl rfl) (.inl rfl) (.inl rfl) (.inl rfl) (.inl rfl) (.inl rfl) (.inl rfl) (.inl rfl) (.inl rfl) (.inl rfl) (.inl rfl) (.inl rfl) (.inl rfl) (.inr m) (.inl rfl) (.inl rfl) (.inl rfl) (.inl rfl) (.inl rfl) (.inl rfl) (.inl rfl) (.inl rfl) (.inl rfl) (.inl rfl) h (wobs := fun h => by rw [wseq.1, wseq.2]; exact h)

theorem moves_set_trace {T : List Part} {c e : Chip} {x} (h : Moves T c e) (m : Part.trace ∈ T) : Moves T c { e with trace := x } :=
  moves_mk (.inl rfl) (.inl rfl) (.inl rfl) (.inl rfl) (.inl rfl) (.inl rfl) (.inl rfl) (.inl rfl) (.inl rfl) (.inl rfl) (.inl rfl) (.inl rfl) (.inl rfl) (.inl rfl) (.inl rfl) (.inl rfl) (.inl rfl) (.inr m) (.inl rfl) (.inl rfl) (.inl rfl) (.inl rfl) (.inl rfl) (.inl rfl) (.inl rfl) (.inl rfl) (.inl rfl) h

theorem moves_set_obs {T : List Part} {c e : Chip} {x} (h : Moves T c e) (m : Part.obs ∈ T) (w0 : x[(0 : Fin 32)] = e.obs[(0 : Fin 32)]) : Moves T c { e with obs := x } :=
  moves_mk (.inl rfl) (.inl rfl) (.inl rfl) (.inl rfl) (.inl rfl) (.inl rfl) (.inl rfl) (.inl rfl) (.inl rfl) (.inl rfl) (.inl rfl) (.inl rfl) (.inl rfl) (.inl rfl) (.inl rfl) (.inl rfl) (.inl rfl) (.inl rfl) (.inr m) (.inl rfl) (.inl rfl) (.inl rfl) (.inl rfl) (.inl rfl) (.inl rfl) (.inl rfl) (.inl rfl) h (wobs := fun h => by rw [w0]; exact h)

theorem moves_set_mbx {T : List Part} {c e : Chip} {x} (h : Moves T c e) (m : Part.mbx ∈ T) (wmbx : MailboxBooks e → ∀ m : Fin 6, Balanced x[m] := by intro h; exact h) : Moves T c { e with mbx := x } :=
  moves_mk (.inl rfl) (.inl rfl) (.inl rfl) (.inl rfl) (.inl rfl) (.inl rfl) (.inl rfl) (.inl rfl) (.inl rfl) (.inl rfl) (.inl rfl) (.inl rfl) (.inl rfl) (.inl rfl) (.inl rfl) (.inl rfl) (.inl rfl) (.inl rfl) (.inl rfl) (.inr m) (.inl rfl) (.inl rfl) (.inl rfl) (.inl rfl) (.inl rfl) (.inl rfl) (.inl rfl) h (wmbx := wmbx)

theorem moves_set_dom {T : List Part} {c e : Chip} {x} (h : Moves T c e) (m : Part.dom ∈ T) : Moves T c { e with dom := x } :=
  moves_mk (.inl rfl) (.inl rfl) (.inl rfl) (.inl rfl) (.inl rfl) (.inl rfl) (.inl rfl) (.inl rfl) (.inl rfl) (.inl rfl) (.inl rfl) (.inl rfl) (.inl rfl) (.inl rfl) (.inl rfl) (.inl rfl) (.inl rfl) (.inl rfl) (.inl rfl) (.inl rfl) (.inr m) (.inl rfl) (.inl rfl) (.inl rfl) (.inl rfl) (.inl rfl) (.inl rfl) h

theorem moves_set_nv {T : List Part} {c e : Chip} {x} (h : Moves T c e) (m : Part.nv ∈ T) : Moves T c { e with nv := x } :=
  moves_mk (.inl rfl) (.inl rfl) (.inl rfl) (.inl rfl) (.inl rfl) (.inl rfl) (.inl rfl) (.inl rfl) (.inl rfl) (.inl rfl) (.inl rfl) (.inl rfl) (.inl rfl) (.inl rfl) (.inl rfl) (.inl rfl) (.inl rfl) (.inl rfl) (.inl rfl) (.inl rfl) (.inl rfl) (.inr m) (.inl rfl) (.inl rfl) (.inl rfl) (.inl rfl) (.inl rfl) h

theorem moves_set_cal {T : List Part} {c e : Chip} {x} (h : Moves T c e) (m : Part.cal ∈ T) : Moves T c { e with cal := x } :=
  moves_mk (.inl rfl) (.inl rfl) (.inl rfl) (.inl rfl) (.inl rfl) (.inl rfl) (.inl rfl) (.inl rfl) (.inl rfl) (.inl rfl) (.inl rfl) (.inl rfl) (.inl rfl) (.inl rfl) (.inl rfl) (.inl rfl) (.inl rfl) (.inl rfl) (.inl rfl) (.inl rfl) (.inl rfl) (.inl rfl) (.inr m) (.inl rfl) (.inl rfl) (.inl rfl) (.inl rfl) h

theorem moves_set_log {T : List Part} {c e : Chip} {x} (h : Moves T c e) (m : Part.log ∈ T) (wlog : e.log.entries.length ≤ 2048 → x.entries.length ≤ 2048 := by intro h; exact h) : Moves T c { e with log := x } :=
  moves_mk (.inl rfl) (.inl rfl) (.inl rfl) (.inl rfl) (.inl rfl) (.inl rfl) (.inl rfl) (.inl rfl) (.inl rfl) (.inl rfl) (.inl rfl) (.inl rfl) (.inl rfl) (.inl rfl) (.inl rfl) (.inl rfl) (.inl rfl) (.inl rfl) (.inl rfl) (.inl rfl) (.inl rfl) (.inl rfl) (.inl rfl) (.inr m) (.inl rfl) (.inl rfl) (.inl rfl) h (wlog := wlog)

theorem moves_set_host {T : List Part} {c e : Chip} {x} (h : Moves T c e) (m : Part.host ∈ T) : Moves T c { e with host := x } :=
  moves_mk (.inl rfl) (.inl rfl) (.inl rfl) (.inl rfl) (.inl rfl) (.inl rfl) (.inl rfl) (.inl rfl) (.inl rfl) (.inl rfl) (.inl rfl) (.inl rfl) (.inl rfl) (.inl rfl) (.inl rfl) (.inl rfl) (.inl rfl) (.inl rfl) (.inl rfl) (.inl rfl) (.inl rfl) (.inl rfl) (.inl rfl) (.inl rfl) (.inr m) (.inl rfl) (.inl rfl) h

theorem moves_set_latch {T : List Part} {c e : Chip} {x} (h : Moves T c e) (m : Part.latch ∈ T) : Moves T c { e with latch := x } :=
  moves_mk (.inl rfl) (.inl rfl) (.inl rfl) (.inl rfl) (.inl rfl) (.inl rfl) (.inl rfl) (.inl rfl) (.inl rfl) (.inl rfl) (.inl rfl) (.inl rfl) (.inl rfl) (.inl rfl) (.inl rfl) (.inl rfl) (.inl rfl) (.inl rfl) (.inl rfl) (.inl rfl) (.inl rfl) (.inl rfl) (.inl rfl) (.inl rfl) (.inl rfl) (.inr m) (.inl rfl) h

theorem moves_set_draws {T : List Part} {c e : Chip} {x} (h : Moves T c e) (m : Part.draws ∈ T) : Moves T c { e with draws := x } :=
  moves_mk (.inl rfl) (.inl rfl) (.inl rfl) (.inl rfl) (.inl rfl) (.inl rfl) (.inl rfl) (.inl rfl) (.inl rfl) (.inl rfl) (.inl rfl) (.inl rfl) (.inl rfl) (.inl rfl) (.inl rfl) (.inl rfl) (.inl rfl) (.inl rfl) (.inl rfl) (.inl rfl) (.inl rfl) (.inl rfl) (.inl rfl) (.inl rfl) (.inl rfl) (.inl rfl) (.inr m) h

end Sys2Proof.Machine
end

