-- ==== Sys2Proof/Laws/FrameOps.lean ====
section
/-!
SUPPORT. What the operations of Machine/Ops.lean leave alone: for each, the parts of the device that it may change.
-/

-- one theorem after another: the checks of a large package would else hold too many threads at once
set_option Elab.async false

namespace Sys2Proof.Machine
open Sys2Proof

theorem Chip.modPh_moves (p : Phase) (f : PhaseUnit → PhaseUnit) (c : Chip) : Moves [.ph] c (Chip.modPh p f c) := by
  unfold Chip.modPh
  exact moves_set_ph (moves_refl _ _) (by decide)

theorem Chip.modPl_moves (p : Phase) (f : Placer → Placer) (c : Chip) : Moves [.ph] c (Chip.modPl p f c) := by
  unfold Chip.modPl
  exact moves_then (moves_refl _ _) (Chip.modPh_moves ..) (by decide)

theorem Chip.modConv_moves (p : Phase) (f : PhaseConv → PhaseConv) (c : Chip) : Moves [.ph] c (Chip.modConv p f c) := by
  unfold Chip.modConv
  exact moves_then (moves_refl _ _) (Chip.modPh_moves ..) (by decide)

theorem Chip.modBal_moves (p : Phase) (f : PhaseBal → PhaseBal) (c : Chip) : Moves [.ph] c (Chip.modBal p f c) := by
  unfold Chip.modBal
  exact moves_then (moves_refl _ _) (Chip.modPh_moves ..) (by decide)

theorem Chip.modGrp_moves (g : Group) (f : GroupUnit → GroupUnit) (c : Chip) : Moves [.grp] c (Chip.modGrp g f c) := by
  unfold Chip.modGrp
  exact moves_set_grp (moves_refl _ _) (by decide)

theorem Chip.modGv_moves (g : Group) (f : GroupConv → GroupConv) (c : Chip) : Moves [.grp] c (Chip.modGv g f c) := by
  unfold Chip.modGv
  exact moves_then (moves_refl _ _) (Chip.modGrp_moves ..) (by decide)

theorem Chip.modGb_moves (g : Group) (f : GroupBal → GroupBal) (c : Chip) : Moves [.grp] c (Chip.modGb g f c) := by
  unfold Chip.modGb
  exact moves_then (moves_refl _ _) (Chip.modGrp_moves ..) (by decide)

theorem Chip.modLe_moves (e : Engine) (f : EngineUnit → EngineUnit) (c : Chip) : Moves [.le] c (Chip.modLe e f c) := by
  unfold Chip.modLe
  exact moves_set_le (moves_refl _ _) (by decide)

theorem Chip.modLcmd_moves (p : LcmdPort) (f : LcmdUnit → LcmdUnit) (c : Chip) : Moves [.lcmd] c (Chip.modLcmd p f c) := by
  unfold Chip.modLcmd
  exact moves_set_lcmd (moves_refl _ _) (by decide)

theorem Chip.modGuard_moves (b : Block) (f : Guard → Guard) (c : Chip) : Moves [.guards] c (Chip.modGuard b f c) := by
  unfold Chip.modGuard
  exact moves_set_guards (moves_refl _ _) (by decide)

theorem Chip.onSett_moves (f : SettUnit → SettUnit) (c : Chip) : Moves [.sett] c (Chip.onSett f c) := by
  unfold Chip.onSett
  exact moves_set_sett (moves_refl _ _) (by decide)

theorem Chip.modPort_moves (p : SettPort) (f : SettPortUnit → SettPortUnit) (c : Chip) : Moves [.sett] c (Chip.modPort p f c) := by
  unfold Chip.modPort
  exact moves_set_sett (moves_refl _ _) (by decide)

theorem Chip.modSg_moves (g : Group) (f : SettGroup → SettGroup) (c : Chip) : Moves [.sett] c (Chip.modSg g f c) := by
  unfold Chip.modSg
  exact moves_set_sett (moves_refl _ _) (by decide)

theorem Chip.modPeer_moves (a : Address) (f : PeerInfo → PeerInfo) (c : Chip) : Moves [.sett] c (Chip.modPeer a f c) := by
  unfold Chip.modPeer
  exact moves_set_sett (moves_refl _ _) (by decide)

theorem Chip.modCan_moves (p : CanPort) (f : CanUnit → CanUnit) (c : Chip) : Moves [.host] c (Chip.modCan p f c) := by
  unfold Chip.modCan
  exact moves_set_host (moves_refl _ _) (by decide)

theorem Chip.modDom_moves (k : Fin 3) (f : DomainUnit → DomainUnit) (c : Chip) : Moves [.dom] c (Chip.modDom k f c) := by
  unfold Chip.modDom
  exact moves_set_dom (moves_refl _ _) (by decide)

theorem Chip.modMbx_moves (m : Fin 6) (f : MailboxUnit → MailboxUnit) (c : Chip) (hf : Balanced c.mbx[m] → Balanced (f c.mbx[m])) :
    Moves [.mbx] c (Chip.modMbx m f c) := by
  unfold Chip.modMbx
  refine moves_set_mbx (moves_refl _ _) (by decide) (fun h k => ?_)
  by_cases e : m = k
  · subst e
    show Balanced ((c.mbx.set m (f c.mbx[m]))[m.val])
    rw [Vector.getElem_set_self]; exact hf (h m)
  · show Balanced ((c.mbx.set m (f c.mbx[m]))[k.val])
    rw [Vector.getElem_set_ne _ _ (fun x => e (Fin.ext x))]; exact h k

theorem Chip.count_moves (k : Fin 32) (n : Nat) (c : Chip) (hk : k ≠ 0 := by decide) : Moves [.obs] c (Chip.count k n c) := by
  unfold Chip.count
  refine moves_set_obs (moves_refl _ _) (by decide) ?_
  exact Vector.getElem_set_ne k.isLt (by omega) (fun e => hk (Fin.ext e))

theorem Chip.bump_moves (k : Counter) (n : Nat) (c : Chip) : Moves [.nv] c (Chip.bump k n c) := by
  unfold Chip.bump
  exact moves_set_nv (moves_refl _ _) (by decide)

theorem Chip.draw_moves (place : Nat) (c : Chip) : Moves [.draws] c (Chip.draw place c).2 := by
  unfold Chip.draw
  dsimp only
  exact moves_set_draws (moves_refl _ _) (by decide)

theorem Chip.pushTrace_moves (r : TraceRec) (c : Chip) : Moves [.trace, .obs] c (Chip.pushTrace r c) := by
  unfold Chip.pushTrace
  extract_lets +onlyGivenNames x
  clear_value x
  extract_lets +onlyGivenNames x
  clear_value x
  extract_lets +onlyGivenNames x
  unfold x
  refine moves_ite (fun _ => ?_) (fun _ => ?_)
  · exact moves_set_trace (moves_refl _ _) (by decide)
  · refine moves_ite (fun _ => ?_) (fun _ => ?_)
    · refine moves_then ?_ (Chip.count_moves ..) (by decide)
      exact moves_set_trace (moves_refl _ _) (by decide)
    · refine moves_ite (fun _ => ?_) (fun _ => ?_)
      · exact moves_set_trace (moves_refl _ _) (by decide)
      · extract_lets +onlyGivenNames x
        clear_value x
        extract_lets +onlyGivenNames x
        clear_value x
        refine moves_ite (fun _ => ?_) (fun _ => ?_)
        · refine moves_then ?_ (Chip.count_moves ..) (by decide)
          exact moves_set_trace (moves_refl _ _) (by decide)
        · exact moves_set_trace (moves_refl _ _) (by decide)

/-- One more grant: EVSEQ with EVA_WRAP, and the 48-bit count. -/
theorem grant_counts (s w : Word) :
    BitVec.ofNat 48 (w.toNat * 2 ^ 32 + s.toNat) + 1 =
      BitVec.ofNat 48 ((if s + 1 = 0 then w + 1 else w).toNat * 2 ^ 32 + (s + 1).toNat) := by
  have o : (1 : BitVec 48) = BitVec.ofNat 48 1 := rfl
  rw [o, ← BitVec.ofNat_add]
  apply BitVec.eq_of_toNat_eq
  rw [BitVec.toNat_ofNat, BitVec.toNat_ofNat]
  have hs := s.isLt
  have hw := w.isLt
  have e : (s + 1).toNat = (s.toNat + 1) % 4294967296 := BitVec.toNat_add s 1
  have f : (w + 1).toNat = (w.toNat + 1) % 4294967296 := BitVec.toNat_add w 1
  split
  · rename_i z
    rw [z] at e ⊢
    have e' : 0 = (s.toNat + 1) % 4294967296 := e
    rw [f]
    have g : BitVec.toNat (0 : Word) = 0 := rfl
    rw [g]
    omega
  · rename_i z
    rw [e]
    have : (s.toNat + 1) % 4294967296 ≠ 0 := by
      rw [← e]; intro k; exact z (BitVec.eq_of_toNat_eq k)
    omega

theorem Chip.grantAs_moves (input : Nat) (i : GrantInfo) (c : Chip) : Moves [.eva, .trace, .obs, .draws] c (Chip.grantAs input i c) := by
  unfold Chip.grantAs
  extract_lets seq wrap s eva x
  have hs : eva.seq = seq := by unfold eva; split <;> rfl
  have hw : eva.wrap = wrap := by unfold eva; split <;> rfl
  have h0 : (vmod c.obs (0 : Fin 32) (· + BitVec.ofNat 48 1))[(0 : Fin 32)] = c.obs[(0 : Fin 32)] + BitVec.ofNat 48 1 :=
    Vector.getElem_set_self ..
  refine moves_then ?_ (Chip.pushTrace_moves ..) (by decide)
  unfold x Chip.count
  clear_value eva
  refine moves_mk (e := c) (.inl rfl) (.inl rfl) (.inl rfl) (.inl rfl) (.inl rfl) (.inl rfl) (.inl rfl) (.inl rfl) (.inl rfl) (.inl rfl) (.inl rfl) (.inl rfl) (.inl rfl) (.inl rfl) (.inl rfl) (.inl rfl) (.inr (by decide)) (.inl rfl) (.inr (by decide)) (.inl rfl) (.inl rfl) (.inl rfl) (.inl rfl) (.inl rfl) (.inl rfl) (.inl rfl) (.inr (by decide)) (moves_refl _ c) (wobs := ?_)
  intro h
  refine h0.trans ?_
  rw [hs, hw, h]
  exact grant_counts ..

theorem Chip.grant_moves (input member : Nat) (c : Chip) : Moves [.eva, .trace, .obs, .draws] c (Chip.grant input member c) := by
  unfold Chip.grant
  exact moves_then (moves_refl _ _) (Chip.grantAs_moves ..) (by decide)

theorem Chip.returnCredit_moves (q : SettPort) (vc : Fin 4) (c : Chip) : Moves [.sett] c (Chip.returnCredit q vc c) := by
  unfold Chip.returnCredit
  exact moves_then (moves_refl _ _) (Chip.modPort_moves ..) (by decide)

theorem Chip.freeBuffer_moves (held : Option SettPort) (vc : Fin 4) (c : Chip) : Moves [.sett] c (Chip.freeBuffer held vc c) := by
  unfold Chip.freeBuffer
  split
  · refine moves_then ?_ (Chip.returnCredit_moves ..) (by decide)
    exact moves_then (moves_refl _ _) (Chip.modPort_moves ..) (by decide)
  · exact moves_refl _ _

theorem Chip.servePort_moves (p : SettPort) (t now n : Nat) (c : Chip) : Moves [.sett, .obs] c (Chip.servePort p t now n c) := by
  induction n generalizing t c with
  | zero => exact moves_refl _ _
  | succ n ih =>
    unfold Chip.servePort
    extract_lets +onlyGivenNames u t'
    refine moves_ite (fun _ => moves_refl _ _) (fun _ => ?_)
    split
    · exact moves_refl _ _
    · extract_lets +onlyGivenNames vc x y
      refine moves_cut x (moves_then (moves_refl _ _) (Chip.modPort_moves ..) (by decide)) (fun hx => ?_)
      refine moves_cut y ?_ (fun _ => ?_)
      · unfold y
        refine moves_then ?_ (Chip.count_moves ..) (by decide)
        exact moves_then hx (Chip.onSett_moves ..) (by decide)
      · exact moves_trans (moves_then (by assumption) (Chip.freeBuffer_moves ..) (by decide)) (ih _ _)

theorem Chip.serveNow_moves (p : SettPort) (c : Chip) : Moves [.sett, .obs] c (Chip.serveNow p c) := by
  unfold Chip.serveNow
  exact moves_then (moves_refl _ _) (Chip.servePort_moves ..) (by decide)

theorem Chip.transmit_moves (held : Option SettPort) (p : SettPort) (f : Flit) (c : Chip) : Moves [.sett, .obs] c (Chip.transmit held p f c) := by
  unfold Chip.transmit
  extract_lets +onlyGivenNames x
  clear_value x
  refine moves_ite (fun _ => ?_) (fun _ => ?_)
  · split
    · exact moves_then (moves_refl _ _) (Chip.returnCredit_moves ..) (by decide)
    · exact moves_refl _ _
  · extract_lets +onlyGivenNames x
    refine moves_cut x ?_ (fun _ => ?_)
    · unfold x
      exact moves_then (moves_refl _ _) (Chip.modPort_moves ..) (by decide)
    try clear_value x
    extract_lets +onlyGivenNames x
    refine moves_cut x ?_ (fun _ => ?_)
    · unfold x
      split
      · exact moves_then (by assumption) (Chip.modPort_moves ..) (by decide)
      · assumption
    try clear_value x
    exact moves_then (by assumption) (Chip.serveNow_moves ..) (by decide)

theorem Chip.calendarSecond_moves (c : Chip) : Moves [.nv, .cal] c (Chip.calendarSecond c) := by
  unfold Chip.calendarSecond
  extract_lets +onlyGivenNames x
  clear_value x
  extract_lets +onlyGivenNames x
  clear_value x
  exact moves_mk (.inl rfl) (.inl rfl) (.inl rfl) (.inl rfl) (.inl rfl) (.inl rfl) (.inl rfl) (.inl rfl) (.inl rfl) (.inl rfl) (.inl rfl) (.inl rfl) (.inl rfl) (.inl rfl) (.inl rfl) (.inl rfl) (.inl rfl) (.inl rfl) (.inl rfl) (.inl rfl) (.inl rfl) (.inr (by decide)) (.inr (by decide)) (.inl rfl) (.inl rfl) (.inl rfl) (.inl rfl) (moves_refl _ _)

theorem Chip.elapse_moves (n : Nat) (c : Chip) : Moves [.tb, .sett, .trace, .obs] c (Chip.elapse n c) := by
  unfold Chip.elapse
  refine moves_ite (fun _ => ?_) (fun _ => ?_)
  · extract_lets +onlyGivenNames x
    extract_lets +onlyGivenNames x
    extract_lets +onlyGivenNames x
    refine moves_cut x ?_ (fun _ => ?_)
    · unfold x
      exact moves_set_tb (moves_refl _ _) (by decide)
    try clear_value x
    extract_lets +onlyGivenNames x
    refine moves_cut x ?_ (fun _ => ?_)
    · unfold x
      refine moves_ite (fun _ => ?_) (fun _ => ?_)
      · exact moves_then (by assumption) (Chip.count_moves ..) (by decide)
      · assumption
    try clear_value x
    extract_lets +onlyGivenNames x
    refine moves_cut x ?_ (fun _ => ?_)
    · unfold x
      refine moves_ite (fun _ => ?_) (fun _ => ?_)
      · split
        refine moves_then ?_ (Chip.count_moves ..) (by decide)
        exact moves_set_trace (by assumption) (by decide)
      · assumption
    try clear_value x
    extract_lets +onlyGivenNames x
    refine moves_cut x ?_ (fun _ => ?_)
    · unfold x
      refine moves_ite (fun _ => ?_) (fun _ => ?_)
      · exact moves_then (by assumption) (Chip.pushTrace_moves ..) (by decide)
      · assumption
    try clear_value x
    refine moves_foldl _ _ ?_ (fun _ _ => ?_)
    · assumption
    · exact moves_then (moves_refl _ _) (Chip.servePort_moves ..) (by decide)
  · exact moves_refl _ _

theorem Chip.elapseTo_moves (t : Nat) (c : Chip) : Moves [.tb, .sett, .trace, .obs] c (Chip.elapseTo t c) := by
  unfold Chip.elapseTo
  exact moves_then (moves_refl _ _) (Chip.elapse_moves ..) (by decide)

theorem Chip.pushLog_moves (e : LogEntry) (urgent : Bool) (c : Chip) : Moves [.log] c (Chip.pushLog e urgent c) := by
  unfold Chip.pushLog
  extract_lets +onlyGivenNames l n
  refine moves_ite (fun _ => moves_refl _ _) (fun _ => ?_)
  refine moves_ite (fun _ => moves_set_log (moves_refl _ _) (by decide)) (fun _ => ?_)
  extract_lets all full kept
  refine moves_set_log (moves_refl _ _) (by decide) (fun _ => ?_)
  dsimp only
  rw [List.length_drop]; omega

theorem Chip.addLog_moves (block code kind unit : Nat) (inj urgent : Bool) (data : List Byte) (c : Chip) : Moves [.log] c (Chip.addLog block code kind unit inj urgent data c) := by
  unfold Chip.addLog
  exact moves_then (moves_refl _ _) (Chip.pushLog_moves ..) (by decide)

theorem Chip.writeHist_moves (b : Block) (k : HistKind) (cl : Cls) (code unit : Nat) (d0 : Word) (inj : Bool) (c : Chip) : Moves [.guards, .log] c (Chip.writeHist b k cl code unit d0 inj c) := by
  unfold Chip.writeHist
  extract_lets +onlyGivenNames x
  clear_value x
  extract_lets +onlyGivenNames x
  clear_value x
  extract_lets +onlyGivenNames x
  refine moves_cut x ?_ (fun _ => ?_)
  · unfold x
    exact moves_then (moves_refl _ _) (Chip.modGuard_moves ..) (by decide)
  try clear_value x
  exact moves_then (by assumption) (Chip.addLog_moves ..) (by decide)

theorem Chip.modeGrant_moves (src prev new cause : Nat) (unit : Nat) (c : Chip) : Moves [.eva, .trace, .obs, .log, .draws] c (Chip.modeGrant src prev new cause unit c) := by
  unfold Chip.modeGrant
  extract_lets +onlyGivenNames x
  refine moves_cut x ?_ (fun _ => ?_)
  · unfold x
    exact moves_then (moves_refl _ _) (Chip.grantAs_moves ..) (by decide)
  try clear_value x
  extract_lets +onlyGivenNames x
  refine moves_cut x ?_ (fun _ => ?_)
  · unfold x
    exact moves_then (by assumption) (Chip.count_moves ..) (by decide)
  try clear_value x
  exact moves_then (by assumption) (Chip.addLog_moves ..) (by decide)

end Sys2Proof.Machine
end

