-- ==== Sys2Proof/Laws/FrameMailbox.lean ====
section
/-!
SUPPORT. What the operations of Machine/Mailbox.lean leave alone: for each, the parts of the device that it may change.
-/

-- one theorem after another: the checks of a large package would else hold too many threads at once
set_option Elab.async false

namespace Sys2Proof.Machine
open Sys2Proof

theorem Chip.mbxGrant_moves (input src info : Nat) (data : Word) (c : Chip) : Moves [.eva, .trace, .obs, .draws] c (Chip.mbxGrant input src info data c) := by
  unfold Chip.mbxGrant
  exact moves_then (moves_refl _ _) (Chip.grantAs_moves ..) (by decide)

theorem Chip.mailboxWrite_moves (m : Mailbox) (w : Word) (c : Chip) : Moves [.eva, .trace, .obs, .mbx, .draws] c (Chip.mailboxWrite m w c) := by
  unfold Chip.mailboxWrite
  extract_lets +onlyGivenNames i
  refine moves_ite (fun _ => moves_refl _ _) (fun _ => ?_)
  have g : ∀ n, Moves [.eva, .trace, .obs, .mbx, .draws] c (c.mbxGrant (45 + i.val) i.val n w) := fun n =>
    moves_then (moves_refl _ _) (Chip.mbxGrant_moves ..) (by decide)
  refine moves_ite (fun _ => ?_) (fun _ => moves_ite (fun _ => ?_) (fun hf => ?_))
  · refine moves_then ?_ (Chip.count_moves ..) (by decide)
    exact moves_then (g 2) (Chip.modMbx_moves _ _ _ id) (by decide)
  · refine moves_then ?_ (Chip.count_moves ..) (by decide)
    exact moves_then (g 1) (Chip.modMbx_moves _ _ _ id) (by decide)
  · refine moves_then ?_ (Chip.count_moves ..) (by decide)
    refine moves_then (g 0) (Chip.modMbx_moves _ _ _ ?_) (by decide)
    have e : (c.mbxGrant (45 + i.val) i.val 0 w).mbx = c.mbx := (Chip.mbxGrant_moves ..).keep.same .mbx (by decide)
    rw [e]
    intro h
    have hf' : (c.mbx[i]).full = false := by simpa using hf
    unfold Balanced at h ⊢
    rw [hf'] at h
    simp at h ⊢
    exact h

theorem Chip.mailboxRead_moves (m : Mailbox) (c : Chip) : Moves [.eva, .trace, .obs, .mbx, .dom, .draws] c (Chip.mailboxRead m c) := by
  unfold Chip.mailboxRead
  extract_lets +onlyGivenNames i
  refine moves_ite (fun hf => ?_) (fun _ => moves_refl _ _)
  have g : Moves [.eva, .trace, .obs, .mbx, .dom, .draws] c (c.mbxGrant (45 + i.val) i.val 3 0) :=
    moves_then (moves_refl _ _) (Chip.mbxGrant_moves ..) (by decide)
  refine moves_then ?_ (Chip.modDom_moves ..) (by decide)
  refine moves_then g (Chip.modMbx_moves _ _ _ ?_) (by decide)
  have e : (c.mbxGrant (45 + i.val) i.val 3 0).mbx = c.mbx := (Chip.mbxGrant_moves ..).keep.same .mbx (by decide)
  rw [e]
  intro h
  have hf' : (c.mbx[i]).full = true := by
    have := hf
    simp only [Bool.and_eq_true] at this
    exact this.2
  unfold Balanced at h ⊢
  rw [hf'] at h
  simpa using h

theorem Chip.passWord_moves (m : Mailbox) (c : Chip) (w : Word) : Moves [.eva, .trace, .obs, .mbx, .dom, .draws] c (Chip.passWord m c w) := by
  unfold Chip.passWord
  refine moves_then ?_ (Chip.mailboxRead_moves ..) (by decide)
  exact moves_then (moves_refl _ _) (Chip.mailboxWrite_moves ..) (by decide)

theorem Chip.pass_moves (m : Mailbox) (ws : List Word) (c : Chip) : Moves [.eva, .trace, .obs, .mbx, .dom, .draws] c (Chip.pass m ws c) := by
  unfold Chip.pass
  extract_lets +onlyGivenNames x
  refine moves_cut x ?_ (fun _ => ?_)
  · unfold x
    refine moves_ite (fun _ => moves_refl _ _) (fun _ => ?_)
    exact moves_foldl _ _ (moves_refl _ _) (fun _ _ => moves_then (moves_refl _ _) (Chip.passWord_moves ..) (by decide))
  clear_value x
  exact moves_then (by assumption) (Chip.modMbx_moves _ _ _ id) (by decide)

end Sys2Proof.Machine
end

