-- ==== Sys2Proof/Laws/FrameEngine.lean ====
section
/-!
SUPPORT. What the operations of Machine/Engine.lean leave alone: for each, the parts of the device that it may change.
-/

-- one theorem after another: the checks of a large package would else hold too many threads at once
set_option Elab.async false

namespace Sys2Proof.Machine
open Sys2Proof

theorem Chip.modEngines_moves (g : Group) (f : EngineUnit → EngineUnit) (c : Chip) : Moves [.le] c (Chip.modEngines g f c) := by
  unfold Chip.modEngines
  refine moves_foldl _ _ ?_ (fun _ _ => ?_)
  · exact moves_refl _ _
  · exact moves_then (moves_refl _ _) (Chip.modLe_moves ..) (by decide)

theorem Chip.sweepFlags_moves (es : List Engine) (t : Nat) (c : Chip) : Moves [.sweep] c (Chip.sweepFlags es t c) := by
  unfold Chip.sweepFlags
  split
  · exact moves_set_sweep (moves_refl _ _) (by decide)
  · exact moves_refl _ _

theorem Chip.satGrant_moves (e : Engine) (hi lo : Bool) (out : Int) (rose : Bool) (c : Chip) : Moves [.eva, .trace, .obs, .draws] c (Chip.satGrant e hi lo out rose c) := by
  unfold Chip.satGrant
  extract_lets +onlyGivenNames x
  refine moves_cut x ?_ (fun _ => ?_)
  · unfold x
    exact moves_then (moves_refl _ _) (Chip.grantAs_moves ..) (by decide)
  try clear_value x
  refine moves_ite (fun _ => ?_) (fun _ => ?_)
  · exact moves_then (by assumption) (Chip.count_moves ..) (by decide)
  · assumption

theorem Chip.satEvent_moves (e : Engine) (before after : EngineUnit) (c : Chip) : Moves [.le, .eva, .trace, .obs, .draws] c (Chip.satEvent e before after c) := by
  unfold Chip.satEvent
  refine moves_ite (fun _ => ?_) (fun _ => ?_)
  · exact moves_refl _ _
  · extract_lets +onlyGivenNames x
    clear_value x
    refine moves_ite (fun _ => ?_) (fun _ => ?_)
    · exact moves_then (moves_refl _ _) (Chip.satGrant_moves ..) (by decide)
    · exact moves_then (moves_refl _ _) (Chip.modLe_moves ..) (by decide)

theorem Chip.nextReqs_moves (e : Engine) (l : List EngReq) (c : Chip) : Moves [.le, .eva, .trace, .obs, .draws] c (Chip.nextReqs e l c) := by
  induction l generalizing c with
  | nil => exact moves_then (moves_refl _ _) (Chip.modLe_moves ..) (by decide)
  | cons r rest ih =>
    cases r with
    | sat hi lo out rose => exact moves_trans (moves_then (moves_refl _ _) (Chip.satGrant_moves ..) (by decide)) (ih _)
    | _ => exact moves_then (moves_refl _ _) (Chip.modLe_moves ..) (by decide)

theorem Chip.rampRequest_moves (g : Group) (t : Nat) (c : Chip) : Moves [.le, .setpt] c (Chip.rampRequest g t c) := by
  unfold Chip.rampRequest
  extract_lets +onlyGivenNames x
  clear_value x
  refine moves_ite (fun _ => ?_) (fun _ => ?_)
  · extract_lets +onlyGivenNames x
    clear_value x
    extract_lets +onlyGivenNames x
    refine moves_cut x ?_ (fun _ => ?_)
    · unfold x
      exact moves_set_setpt (moves_refl _ _) (by decide)
    try clear_value x
    split
    · exact moves_then (by assumption) (Chip.modLe_moves ..) (by decide)
    · assumption
  · exact moves_refl _ _

theorem Chip.evaluate_moves (g : Group) (t : Nat) (v : Int) (c : Chip) : Moves [.le, .setpt, .sweep, .eva, .trace, .obs, .draws] c (Chip.evaluate g t v c).1 := by
  unfold Chip.evaluate
  extract_lets +onlyGivenNames x
  clear_value x
  extract_lets +onlyGivenNames x
  clear_value x
  extract_lets +onlyGivenNames x
  clear_value x
  extract_lets +onlyGivenNames x
  unfold x
  extract_lets +onlyGivenNames x
  unfold x
  split
  · dsimp only
    exact moves_refl _ _
  · extract_lets +onlyGivenNames x
    clear_value x
    dsimp only
    refine moves_ite (fun _ => ?_) (fun _ => ?_)
    · refine moves_then ?_ (Chip.rampRequest_moves ..) (by decide)
      refine moves_then ?_ (Chip.sweepFlags_moves ..) (by decide)
      refine moves_then ?_ (Chip.count_moves ..) (by decide)
      refine moves_foldl _ _ ?_ (fun _ _ => ?_)
      · exact moves_mk (.inl rfl) (.inl rfl) (.inl rfl) (.inl rfl) (.inl rfl) (.inr (by decide)) (.inl rfl) (.inl rfl) (.inl rfl) (.inl rfl) (.inl rfl) (.inl rfl) (.inl rfl) (.inl rfl) (.inl rfl) (.inl rfl) (.inl rfl) (.inl rfl) (.inl rfl) (.inl rfl) (.inl rfl) (.inl rfl) (.inl rfl) (.inl rfl) (.inl rfl) (.inl rfl) (.inr (by decide)) (moves_refl _ _)
      · exact moves_then (moves_refl _ _) (Chip.satEvent_moves ..) (by decide)
    · refine moves_then ?_ (Chip.sweepFlags_moves ..) (by decide)
      refine moves_then ?_ (Chip.count_moves ..) (by decide)
      refine moves_foldl _ _ ?_ (fun _ _ => ?_)
      · exact moves_mk (.inl rfl) (.inl rfl) (.inl rfl) (.inl rfl) (.inl rfl) (.inr (by decide)) (.inl rfl) (.inl rfl) (.inl rfl) (.inl rfl) (.inl rfl) (.inl rfl) (.inl rfl) (.inl rfl) (.inl rfl) (.inl rfl) (.inl rfl) (.inl rfl) (.inl rfl) (.inl rfl) (.inl rfl) (.inl rfl) (.inl rfl) (.inl rfl) (.inl rfl) (.inl rfl) (.inr (by decide)) (moves_refl _ _)
      · exact moves_then (moves_refl _ _) (Chip.satEvent_moves ..) (by decide)
  · extract_lets +onlyGivenNames x
    clear_value x
    extract_lets +onlyGivenNames x
    clear_value x
    split
    · split
      dsimp only
      refine moves_ite (fun _ => ?_) (fun _ => ?_)
      · refine moves_then ?_ (Chip.rampRequest_moves ..) (by decide)
        refine moves_then ?_ (Chip.sweepFlags_moves ..) (by decide)
        refine moves_then ?_ (Chip.count_moves ..) (by decide)
        refine moves_foldl _ _ ?_ (fun _ _ => ?_)
        · exact moves_mk (.inl rfl) (.inl rfl) (.inl rfl) (.inl rfl) (.inl rfl) (.inr (by decide)) (.inl rfl) (.inl rfl) (.inl rfl) (.inl rfl) (.inl rfl) (.inl rfl) (.inl rfl) (.inl rfl) (.inl rfl) (.inl rfl) (.inl rfl) (.inl rfl) (.inl rfl) (.inl rfl) (.inl rfl) (.inl rfl) (.inl rfl) (.inl rfl) (.inl rfl) (.inl rfl) (.inr (by decide)) (moves_refl _ _)
        · exact moves_then (moves_refl _ _) (Chip.satEvent_moves ..) (by decide)
      · refine moves_then ?_ (Chip.sweepFlags_moves ..) (by decide)
        refine moves_then ?_ (Chip.count_moves ..) (by decide)
        refine moves_foldl _ _ ?_ (fun _ _ => ?_)
        · exact moves_mk (.inl rfl) (.inl rfl) (.inl rfl) (.inl rfl) (.inl rfl) (.inr (by decide)) (.inl rfl) (.inl rfl) (.inl rfl) (.inl rfl) (.inl rfl) (.inl rfl) (.inl rfl) (.inl rfl) (.inl rfl) (.inl rfl) (.inl rfl) (.inl rfl) (.inl rfl) (.inl rfl) (.inl rfl) (.inl rfl) (.inl rfl) (.inl rfl) (.inl rfl) (.inl rfl) (.inr (by decide)) (moves_refl _ _)
        · exact moves_then (moves_refl _ _) (Chip.satEvent_moves ..) (by decide)
    · dsimp only
      refine moves_ite (fun _ => ?_) (fun _ => ?_)
      · refine moves_then ?_ (Chip.rampRequest_moves ..) (by decide)
        refine moves_then ?_ (Chip.sweepFlags_moves ..) (by decide)
        refine moves_then ?_ (Chip.count_moves ..) (by decide)
        refine moves_foldl _ _ ?_ (fun _ _ => ?_)
        · exact moves_mk (.inl rfl) (.inl rfl) (.inl rfl) (.inl rfl) (.inl rfl) (.inr (by decide)) (.inl rfl) (.inl rfl) (.inl rfl) (.inl rfl) (.inl rfl) (.inl rfl) (.inl rfl) (.inl rfl) (.inl rfl) (.inl rfl) (.inl rfl) (.inl rfl) (.inl rfl) (.inl rfl) (.inl rfl) (.inl rfl) (.inl rfl) (.inl rfl) (.inl rfl) (.inl rfl) (.inr (by decide)) (moves_refl _ _)
        · exact moves_then (moves_refl _ _) (Chip.satEvent_moves ..) (by decide)
      · refine moves_then ?_ (Chip.sweepFlags_moves ..) (by decide)
        refine moves_then ?_ (Chip.count_moves ..) (by decide)
        refine moves_foldl _ _ ?_ (fun _ _ => ?_)
        · exact moves_mk (.inl rfl) (.inl rfl) (.inl rfl) (.inl rfl) (.inl rfl) (.inr (by decide)) (.inl rfl) (.inl rfl) (.inl rfl) (.inl rfl) (.inl rfl) (.inl rfl) (.inl rfl) (.inl rfl) (.inl rfl) (.inl rfl) (.inl rfl) (.inl rfl) (.inl rfl) (.inl rfl) (.inl rfl) (.inl rfl) (.inl rfl) (.inl rfl) (.inl rfl) (.inl rfl) (.inr (by decide)) (moves_refl _ _)
        · exact moves_then (moves_refl _ _) (Chip.satEvent_moves ..) (by decide)

theorem Chip.skipNotReady_moves (g : Group) (t : Nat) (c : Chip) : Moves [.le, .sweep] c (Chip.skipNotReady g t c) := by
  unfold Chip.skipNotReady
  extract_lets +onlyGivenNames x
  clear_value x
  extract_lets +onlyGivenNames x
  refine moves_cut x ?_ (fun _ => ?_)
  · unfold x
    refine moves_foldl _ _ ?_ (fun _ _ => ?_)
    · exact moves_refl _ _
    · exact moves_then (moves_refl _ _) (Chip.modLe_moves ..) (by decide)
  try clear_value x
  refine moves_ite (fun _ => ?_) (fun _ => ?_)
  · exact moves_set_sweep (by assumption) (by decide)
  · assumption

end Sys2Proof.Machine
end

