-- ==== Sys2Proof/Laws/FramePhases.lean ====
section
/-!
SUPPORT. What the operations of Machine/Phases.lean leave alone: for each, the parts of the device that it may change.
-/

-- one theorem after another: the checks of a large package would else hold too many threads at once
set_option Elab.async false

namespace Sys2Proof.Machine
open Sys2Proof

theorem Chip.endRotation_moves (p : Phase) (c : Chip) : Moves [.ph] c (Chip.endRotation p c) := by
  unfold Chip.endRotation
  split
  · refine moves_ite (fun _ => ?_) (fun _ => ?_)
    · refine moves_foldl _ _ ?_ (fun _ _ => ?_)
      · exact moves_refl _ _
      · exact moves_then (moves_refl _ _) (Chip.modPl_moves ..) (by decide)
    · exact moves_refl _ _
  · exact moves_refl _ _

theorem Chip.setPstate_moves (p : Phase) (s : PState) (c : Chip) : Moves [.ph, .obs] c (Chip.setPstate p s c) := by
  unfold Chip.setPstate
  extract_lets +onlyGivenNames x
  clear_value x
  extract_lets +onlyGivenNames x
  clear_value x
  extract_lets +onlyGivenNames x
  refine moves_cut x ?_ (fun _ => ?_)
  · unfold x
    exact moves_then (moves_refl _ _) (Chip.modPh_moves ..) (by decide)
  try clear_value x
  extract_lets +onlyGivenNames x
  refine moves_cut x ?_ (fun _ => ?_)
  · unfold x
    refine moves_ite (fun _ => ?_) (fun _ => ?_)
    · exact moves_then (by assumption) (Chip.endRotation_moves ..) (by decide)
    · assumption
  try clear_value x
  split
  · exact moves_then (by assumption) (Chip.count_moves ..) (by decide)
  · exact moves_then (by assumption) (Chip.count_moves ..) (by decide)
  · assumption

theorem Chip.stopPhase_moves (k : StopKind) (p : Phase) (c : Chip) : Moves [.ph, .obs] c (Chip.stopPhase k p c) := by
  unfold Chip.stopPhase
  extract_lets +onlyGivenNames x
  clear_value x
  refine moves_ite (fun _ => ?_) (fun _ => ?_)
  · exact moves_refl _ _
  · refine moves_ite (fun _ => ?_) (fun _ => ?_)
    · extract_lets +onlyGivenNames x
      refine moves_cut x ?_ (fun _ => ?_)
      · unfold x
        exact moves_then (moves_refl _ _) (Chip.setPstate_moves ..) (by decide)
      try clear_value x
      refine moves_ite (fun _ => ?_) (fun _ => ?_)
      · assumption
      · exact moves_then (by assumption) (Chip.modPl_moves ..) (by decide)
    · exact moves_then (moves_refl _ _) (Chip.modPl_moves ..) (by decide)

theorem Chip.stopGroup_moves (k : StopKind) (g : Group) (c : Chip) : Moves [.ph, .obs] c (Chip.stopGroup k g c) := by
  unfold Chip.stopGroup
  refine moves_foldl _ _ ?_ (fun _ _ => ?_)
  · exact moves_refl _ _
  · exact moves_then (moves_refl _ _) (Chip.stopPhase_moves ..) (by decide)

theorem Chip.stopAll_moves (k : StopKind) (c : Chip) : Moves [.ph, .obs] c (Chip.stopAll k c) := by
  unfold Chip.stopAll
  refine moves_foldl _ _ ?_ (fun _ _ => ?_)
  · exact moves_refl _ _
  · exact moves_then (moves_refl _ _) (Chip.stopPhase_moves ..) (by decide)

theorem Chip.recount_moves (g : Group) (c : Chip) : Moves [.grp] c (Chip.recount g c) := by
  unfold Chip.recount
  extract_lets +onlyGivenNames x
  clear_value x
  exact moves_then (moves_refl _ _) (Chip.modGb_moves ..) (by decide)

theorem Chip.sendFlit_moves (dst : Nat) (b : FlitBody) (c : Chip) : Moves [.sett, .obs] c (Chip.sendFlit dst b c) := by
  unfold Chip.sendFlit
  extract_lets +onlyGivenNames x
  extract_lets +onlyGivenNames x
  clear_value x
  extract_lets +onlyGivenNames x
  clear_value x
  extract_lets +onlyGivenNames x
  refine moves_cut x ?_ (fun _ => ?_)
  · unfold x
    exact moves_set_sett (moves_refl _ _) (by decide)
  try clear_value x
  refine moves_foldl _ _ ?_ (fun _ _ => ?_)
  · assumption
  · exact moves_then (moves_refl _ _) (Chip.transmit_moves ..) (by decide)

theorem Chip.broadcast_moves (b : FlitBody) (c : Chip) : Moves [.sett, .obs] c (Chip.broadcast b c) := by
  unfold Chip.broadcast
  exact moves_then (moves_refl _ _) (Chip.sendFlit_moves ..) (by decide)

end Sys2Proof.Machine
end

