-- ==== Sys2Proof/Laws/FrameSetpoint.lean ====
section
/-!
SUPPORT. What the operations of Machine/Setpoint.lean leave alone: for each, the parts of the device that it may change.
-/

-- one theorem after another: the checks of a large package would else hold too many threads at once
set_option Elab.async false

namespace Sys2Proof.Machine
open Sys2Proof

theorem Chip.submit_moves (ch : Change) (c : Chip) : Moves [.setpt] c (Chip.submit ch c) := by
  unfold Chip.submit
  split
  · exact moves_set_setpt (moves_refl _ _) (by decide)
  · exact moves_set_setpt (moves_refl _ _) (by decide)

theorem Chip.present_moves (g : Group) (sets : List FieldSet) (c : Chip) : Moves [.setpt] c (Chip.present g sets c) := by
  unfold Chip.present
  exact moves_then (moves_refl _ _) (Chip.submit_moves ..) (by decide)

theorem Chip.derateFlag_moves (c : Chip) (ch : Change) : Moves [.grp] c (Chip.derateFlag c ch) := by
  unfold Chip.derateFlag
  refine moves_ite (fun _ => ?_) (fun _ => ?_)
  · exact moves_then (moves_refl _ _) (Chip.modGb_moves ..) (by decide)
  · exact moves_refl _ _

theorem Chip.swapGrant_moves (t : Nat) (c : Chip) : Moves [.tb, .grp, .setpt, .sett, .eva, .trace, .obs, .draws] c (Chip.swapGrant t c) := by
  unfold Chip.swapGrant
  split
  · exact moves_refl _ _
  · extract_lets +onlyGivenNames x
    refine moves_cut x ?_ (fun _ => ?_)
    · unfold x
      refine moves_then ?_ (Chip.grant_moves ..) (by decide)
      exact moves_then (moves_refl _ _) (Chip.elapseTo_moves ..) (by decide)
    try clear_value x
    extract_lets +onlyGivenNames x
    refine moves_cut x ?_ (fun _ => ?_)
    · unfold x
      exact moves_then (by assumption) (Chip.count_moves ..) (by decide)
    try clear_value x
    extract_lets +onlyGivenNames x
    refine moves_cut x ?_ (fun _ => ?_)
    · unfold x
      refine moves_foldl _ _ ?_ (fun _ _ => ?_)
      · assumption
      · exact moves_then (moves_refl _ _) (Chip.derateFlag_moves ..) (by decide)
    try clear_value x
    extract_lets +onlyGivenNames x
    refine moves_cut x ?_ (fun _ => ?_)
    · unfold x
      exact moves_set_grp (by assumption) (by decide)
    try clear_value x
    exact moves_set_setpt (by assumption) (by decide)

theorem Chip.badgerFirst_moves (c : Chip) : Moves [.tb, .grp, .setpt, .sett, .eva, .trace, .obs, .draws] c (Chip.badgerFirst c) := by
  unfold Chip.badgerFirst
  refine moves_then ?_ (Chip.swapGrant_moves ..) (by decide)
  exact moves_then (moves_refl _ _) (Chip.swapGrant_moves ..) (by decide)

theorem Chip.swapRequest_moves (c : Chip) : Moves [.setpt] c (Chip.swapRequest c) := by
  unfold Chip.swapRequest
  split
  · exact moves_set_setpt (moves_refl _ _) (by decide)
  · exact moves_refl _ _

theorem Chip.applySelection_moves (g : Group) (c : Chip) : Moves [.grp, .setpt] c (Chip.applySelection g c) := by
  unfold Chip.applySelection
  extract_lets +onlyGivenNames x
  clear_value x
  extract_lets +onlyGivenNames x
  clear_value x
  extract_lets +onlyGivenNames x
  clear_value x
  extract_lets +onlyGivenNames x
  clear_value x
  refine moves_then ?_ (Chip.present_moves ..) (by decide)
  exact moves_then (moves_refl _ _) (Chip.modGrp_moves ..) (by decide)

theorem Chip.select_moves (g : Group) (set src : Nat) (seq : Word) (c : Chip) : Moves [.grp, .setpt] c (Chip.select g set src seq c) := by
  unfold Chip.select
  extract_lets +onlyGivenNames x
  refine moves_cut x ?_ (fun _ => ?_)
  · unfold x
    exact moves_then (moves_refl _ _) (Chip.modGrp_moves ..) (by decide)
  try clear_value x
  refine moves_ite (fun _ => ?_) (fun _ => ?_)
  · exact moves_then (by assumption) (Chip.modGrp_moves ..) (by decide)
  · exact moves_then (by assumption) (Chip.applySelection_moves ..) (by decide)

end Sys2Proof.Machine
end

