-- ==== Sys2Proof/Laws/FrameMode.lean ====
section
/-!
SUPPORT. What the operations of Machine/Mode.lean leave alone: for each, the parts of the device that it may change.
-/

-- one theorem after another: the checks of a large package would else hold too many threads at once
set_option Elab.async false

namespace Sys2Proof.Machine
open Sys2Proof

theorem Chip.sendFloors_moves (g : Group) (floor : Nat) (c : Chip) : Moves [.sett, .obs] c (Chip.sendFloors g floor c) := by
  unfold Chip.sendFloors
  refine moves_ite (fun _ => ?_) (fun _ => ?_)
  · extract_lets +onlyGivenNames x
    clear_value x
    refine moves_foldl _ _ ?_ (fun _ _ => ?_)
    · exact moves_refl _ _
    · extract_lets +onlyGivenNames x
      clear_value x
      refine moves_ite (fun _ => ?_) (fun _ => ?_)
      · exact moves_then (moves_refl _ _) (Chip.sendFlit_moves ..) (by decide)
      · exact moves_refl _ _
  · exact moves_refl _ _

theorem Chip.closePreps_moves (g : Group) (c : Chip) : Moves [.grp, .setpt, .sett, .obs] c (Chip.closePreps g c) := by
  unfold Chip.closePreps
  refine moves_ite (fun _ => ?_) (fun _ => ?_)
  · exact moves_refl _ _
  · extract_lets +onlyGivenNames x
    clear_value x
    refine moves_then ?_ (Chip.sendFloors_moves ..) (by decide)
    refine moves_then ?_ (Chip.present_moves ..) (by decide)
    exact moves_then (moves_refl _ _) (Chip.modGrp_moves ..) (by decide)

theorem Chip.disarm_moves (g : Group) (c : Chip) : Moves [.setpt] c (Chip.disarm g c) := by
  unfold Chip.disarm
  exact moves_set_setpt (moves_refl _ _) (by decide)

theorem Chip.startGroup_moves (g : Group) (c : Chip) : Moves [.ph, .grp, .le, .obs] c (Chip.startGroup g c) := by
  unfold Chip.startGroup
  extract_lets +onlyGivenNames x
  refine moves_cut x ?_ (fun _ => ?_)
  · unfold x
    exact moves_then (moves_refl _ _) (Chip.modEngines_moves ..) (by decide)
  try clear_value x
  extract_lets +onlyGivenNames x
  refine moves_cut x ?_ (fun _ => ?_)
  · unfold x
    refine moves_foldl _ _ ?_ (fun _ _ => ?_)
    · assumption
    · exact moves_then (moves_refl _ _) (Chip.modPl_moves ..) (by decide)
  try clear_value x
  extract_lets +onlyGivenNames x
  clear_value x
  extract_lets +onlyGivenNames x
  refine moves_cut x ?_ (fun _ => ?_)
  · unfold x
    refine moves_foldl _ _ ?_ (fun _ _ => ?_)
    · assumption
    · exact moves_then (moves_refl _ _) (Chip.setPstate_moves ..) (by decide)
  try clear_value x
  extract_lets +onlyGivenNames x
  clear_value x
  extract_lets +onlyGivenNames x
  clear_value x
  exact moves_then (by assumption) (Chip.modGrp_moves ..) (by decide)

theorem Chip.leaveMode_moves (g : Group) (old m : Mode) (c : Chip) : Moves [.grp, .le, .setpt, .sett, .obs] c (Chip.leaveMode g old m c) := by
  unfold Chip.leaveMode
  extract_lets +onlyGivenNames x
  refine moves_cut x ?_ (fun _ => ?_)
  · unfold x
    refine moves_ite (fun _ => ?_) (fun _ => ?_)
    · refine moves_then ?_ (Chip.modEngines_moves ..) (by decide)
      exact moves_then (moves_refl _ _) (Chip.closePreps_moves ..) (by decide)
    · exact moves_refl _ _
  try clear_value x
  extract_lets +onlyGivenNames x
  refine moves_cut x ?_ (fun _ => ?_)
  · unfold x
    refine moves_ite (fun _ => ?_) (fun _ => ?_)
    · exact moves_then (by assumption) (Chip.modEngines_moves ..) (by decide)
    · assumption
  try clear_value x
  extract_lets +onlyGivenNames x
  refine moves_cut x ?_ (fun _ => ?_)
  · unfold x
    refine moves_ite (fun _ => ?_) (fun _ => ?_)
    · exact moves_then (by assumption) (Chip.applySelection_moves ..) (by decide)
    · assumption
  try clear_value x
  extract_lets +onlyGivenNames x
  refine moves_cut x ?_ (fun _ => ?_)
  · unfold x
    refine moves_ite (fun _ => ?_) (fun _ => ?_)
    · refine moves_then ?_ (Chip.present_moves ..) (by decide)
      exact moves_then (by assumption) (Chip.modSg_moves ..) (by decide)
    · assumption
  try clear_value x
  refine moves_ite (fun _ => ?_) (fun _ => ?_)
  · exact moves_then (by assumption) (Chip.present_moves ..) (by decide)
  · assumption

theorem Chip.beginMode_moves (g : Group) (old m : Mode) (cause : Cause) (c : Chip) : Moves [.ph, .grp, .le, .setpt, .obs] c (Chip.beginMode g old m cause c) := by
  unfold Chip.beginMode
  split
  · extract_lets +onlyGivenNames x
    refine moves_cut x ?_ (fun _ => ?_)
    · unfold x
      exact moves_then (moves_refl _ _) (Chip.startGroup_moves ..) (by decide)
    try clear_value x
    exact moves_then (by assumption) (Chip.present_moves ..) (by decide)
  · refine moves_ite (fun _ => ?_) (fun _ => ?_)
    · extract_lets +onlyGivenNames x
      clear_value x
      extract_lets +onlyGivenNames x
      refine moves_cut x ?_ (fun _ => ?_)
      · unfold x
        refine moves_ite (fun _ => ?_) (fun _ => ?_)
        · split
          · exact moves_then (moves_refl _ _) (Chip.modLe_moves ..) (by decide)
          · exact moves_refl _ _
        · exact moves_refl _ _
      try clear_value x
      refine moves_then ?_ (Chip.submit_moves ..) (by decide)
      exact moves_then (by assumption) (Chip.disarm_moves ..) (by decide)
    · extract_lets +onlyGivenNames x
      refine moves_cut x ?_ (fun _ => ?_)
      · unfold x
        exact moves_then (moves_refl _ _) (Chip.startGroup_moves ..) (by decide)
      try clear_value x
      refine moves_then ?_ (Chip.submit_moves ..) (by decide)
      exact moves_then (by assumption) (Chip.disarm_moves ..) (by decide)
  · refine moves_ite (fun _ => ?_) (fun _ => ?_)
    · exact moves_then (moves_refl _ _) (Chip.present_moves ..) (by decide)
    · exact moves_refl _ _
  · exact moves_then (moves_refl _ _) (Chip.present_moves ..) (by decide)
  · refine moves_ite (fun _ => ?_) (fun _ => ?_)
    · exact moves_refl _ _
    · exact moves_then (moves_refl _ _) (Chip.stopGroup_moves ..) (by decide)
  · exact moves_then (moves_refl _ _) (Chip.stopGroup_moves ..) (by decide)
  · exact moves_refl _ _
  · exact moves_refl _ _
  · refine moves_ite (fun _ => ?_) (fun _ => ?_)
    · exact moves_then (moves_refl _ _) (Chip.present_moves ..) (by decide)
    · exact moves_refl _ _
  · exact moves_then (moves_refl _ _) (Chip.present_moves ..) (by decide)
  · exact moves_refl _ _
  · exact moves_refl _ _

theorem Chip.orderMembers_moves (g : Group) (old m : Mode) (cause : Cause) (c : Chip) : Moves [.sett, .obs] c (Chip.orderMembers g old m cause c) := by
  unfold Chip.orderMembers
  refine moves_ite (fun _ => ?_) (fun _ => ?_)
  · extract_lets +onlyGivenNames x
    refine moves_cut x ?_ (fun _ => ?_)
    · unfold x
      refine moves_ite (fun _ => ?_) (fun _ => ?_)
      · exact moves_then (moves_refl _ _) (Chip.modSg_moves ..) (by decide)
      · exact moves_refl _ _
    try clear_value x
    exact moves_then (by assumption) (Chip.broadcast_moves ..) (by decide)
  · exact moves_refl _ _

theorem Chip.enterMode_moves (g : Group) (m : Mode) (cause : Cause) (c : Chip) : Moves [.tb, .ph, .grp, .le, .setpt, .sett, .eva, .trace, .obs, .log, .draws] c (Chip.enterMode g m cause c) := by
  unfold Chip.enterMode
  refine moves_ite (fun _ => ?_) (fun _ => ?_)
  · exact moves_refl _ _
  · extract_lets +onlyGivenNames x
    clear_value x
    extract_lets +onlyGivenNames x
    refine moves_cut x ?_ (fun _ => ?_)
    · unfold x
      exact moves_then (moves_refl _ _) (Chip.badgerFirst_moves ..) (by decide)
    try clear_value x
    extract_lets +onlyGivenNames x
    refine moves_cut x ?_ (fun _ => ?_)
    · unfold x
      exact moves_then (by assumption) (Chip.modeGrant_moves ..) (by decide)
    try clear_value x
    extract_lets +onlyGivenNames x
    refine moves_cut x ?_ (fun _ => ?_)
    · unfold x
      exact moves_then (by assumption) (Chip.modGrp_moves ..) (by decide)
    try clear_value x
    extract_lets +onlyGivenNames x
    refine moves_cut x ?_ (fun _ => ?_)
    · unfold x
      exact moves_then (by assumption) (Chip.leaveMode_moves ..) (by decide)
    try clear_value x
    extract_lets +onlyGivenNames x
    refine moves_cut x ?_ (fun _ => ?_)
    · unfold x
      exact moves_then (by assumption) (Chip.beginMode_moves ..) (by decide)
    try clear_value x
    refine moves_then ?_ (Chip.orderMembers_moves ..) (by decide)
    exact moves_set_setpt (by assumption) (by decide)

theorem Chip.enterDevice_moves (d : DevMode) (cause : Cause) (c : Chip) : Moves [.sys, .tb, .grp, .le, .setpt, .sett, .eva, .trace, .obs, .log, .draws] c (Chip.enterDevice d cause c) := by
  unfold Chip.enterDevice
  extract_lets +onlyGivenNames x
  refine moves_cut x ?_ (fun _ => ?_)
  · unfold x
    exact moves_then (moves_refl _ _) (Chip.badgerFirst_moves ..) (by decide)
  try clear_value x
  extract_lets +onlyGivenNames x
  refine moves_cut x ?_ (fun _ => ?_)
  · unfold x
    exact moves_then (by assumption) (Chip.modeGrant_moves ..) (by decide)
  try clear_value x
  extract_lets +onlyGivenNames x
  clear_value x
  extract_lets +onlyGivenNames x
  clear_value x
  extract_lets +onlyGivenNames x
  refine moves_cut x ?_ (fun _ => ?_)
  · unfold x
    exact moves_set_sys (by assumption) (by decide)
  try clear_value x
  refine moves_foldl _ _ ?_ (fun _ _ => ?_)
  · assumption
  · extract_lets +onlyGivenNames x
    clear_value x
    extract_lets +onlyGivenNames x
    refine moves_cut x ?_ (fun _ => ?_)
    · unfold x
      exact moves_then (moves_refl _ _) (Chip.modGrp_moves ..) (by decide)
    try clear_value x
    extract_lets +onlyGivenNames x
    refine moves_cut x ?_ (fun _ => ?_)
    · unfold x
      refine moves_ite (fun _ => ?_) (fun _ => ?_)
      · refine moves_then ?_ (Chip.modEngines_moves ..) (by decide)
        exact moves_then (by assumption) (Chip.closePreps_moves ..) (by decide)
      · assumption
    try clear_value x
    refine moves_ite (fun _ => ?_) (fun _ => ?_)
    · exact moves_then (by assumption) (Chip.modEngines_moves ..) (by decide)
    · assumption

theorem Chip.rampDown_moves (g : Group) (c : Chip) : Moves [.grp, .setpt] c (Chip.rampDown g c) := by
  unfold Chip.rampDown
  extract_lets +onlyGivenNames x
  clear_value x
  extract_lets +onlyGivenNames x
  clear_value x
  extract_lets +onlyGivenNames x
  clear_value x
  extract_lets +onlyGivenNames x
  clear_value x
  extract_lets +onlyGivenNames x
  clear_value x
  extract_lets +onlyGivenNames x
  refine moves_cut x ?_ (fun _ => ?_)
  · unfold x
    refine moves_ite (fun _ => ?_) (fun _ => ?_)
    · exact moves_refl _ _
    · exact moves_then (moves_refl _ _) (Chip.disarm_moves ..) (by decide)
  try clear_value x
  refine moves_then ?_ (Chip.present_moves ..) (by decide)
  exact moves_then (by assumption) (Chip.modGrp_moves ..) (by decide)

theorem Chip.beginStop_moves (g : Group) (c : Chip) : Moves [.tb, .ph, .grp, .le, .setpt, .sett, .eva, .trace, .obs, .log, .draws] c (Chip.beginStop g c) := by
  unfold Chip.beginStop
  refine moves_ite (fun _ => ?_) (fun _ => ?_)
  · exact moves_then (moves_refl _ _) (Chip.enterMode_moves ..) (by decide)
  · refine moves_then ?_ (Chip.rampDown_moves ..) (by decide)
    exact moves_then (moves_refl _ _) (Chip.modGrp_moves ..) (by decide)

theorem Chip.tryStart_moves (g : Group) (c : Chip) : Moves [.tb, .ph, .grp, .le, .setpt, .sett, .eva, .trace, .obs, .log, .draws] c (Chip.tryStart g c) := by
  unfold Chip.tryStart
  refine moves_ite (fun _ => ?_) (fun _ => ?_)
  · exact moves_then (moves_refl _ _) (Chip.enterMode_moves ..) (by decide)
  · exact moves_refl _ _

theorem Chip.tryStarts_moves (c : Chip) : Moves [.tb, .ph, .grp, .le, .setpt, .sett, .eva, .trace, .obs, .log, .draws] c (Chip.tryStarts c) := by
  unfold Chip.tryStarts
  refine moves_foldl _ _ ?_ (fun _ _ => ?_)
  · exact moves_refl _ _
  · exact moves_then (moves_refl _ _) (Chip.tryStart_moves ..) (by decide)

end Sys2Proof.Machine
end

