-- ==== Sys2Proof/Laws/FrameNvQueue.lean ====
section
/-!
SUPPORT. What the operations of Machine/NvQueue.lean leave alone: for each, the parts of the device that it may change.
-/

-- one theorem after another: the checks of a large package would else hold too many threads at once
set_option Elab.async false

namespace Sys2Proof.Machine
open Sys2Proof

theorem Chip.nvQueue_moves (ks : List NvKind) (c : Chip) : Moves [.nv] c (Chip.nvQueue ks c) := by
  unfold Chip.nvQueue
  refine moves_ite (fun _ => ?_) (fun _ => ?_)
  · exact moves_refl _ _
  · exact moves_set_nv (moves_refl _ _) (by decide)

theorem Chip.queueLog_moves (c : Chip) : Moves [.nv, .log] c (Chip.queueLog c) := by
  unfold Chip.queueLog
  split
  · exact moves_refl _ _
  · extract_lets +onlyGivenNames x
    unfold x
    extract_lets +onlyGivenNames x
    refine moves_cut x ?_ (fun _ => ?_)
    · unfold x
      refine moves_ite (fun _ => ?_) (fun _ => ?_)
      · exact moves_set_log (moves_refl _ _) (by decide)
      · exact moves_refl _ _
    try clear_value x
    exact moves_then (by assumption) (Chip.nvQueue_moves ..) (by decide)

theorem Chip.stampCal_moves (c : Chip) : Moves [.nv, .cal] c (Chip.stampCal c) := by
  unfold Chip.stampCal
  extract_lets +onlyGivenNames x
  refine moves_cut x ?_ (fun _ => ?_)
  · unfold x
    exact moves_then (moves_refl _ _) (Chip.nvQueue_moves ..) (by decide)
  try clear_value x
  exact moves_set_cal (by assumption) (by decide)

theorem Chip.queueCarry_moves (c : Chip) : Moves [.nv] c (Chip.queueCarry c) := by
  unfold Chip.queueCarry
  extract_lets +onlyGivenNames x
  refine moves_cut x ?_ (fun _ => ?_)
  · unfold x
    exact moves_then (moves_refl _ _) (Chip.nvQueue_moves ..) (by decide)
  try clear_value x
  exact moves_set_nv (by assumption) (by decide)

theorem Chip.queueCommits_moves (c : Chip) : Moves [.nv, .cal, .log] c (Chip.queueCommits c) := by
  unfold Chip.queueCommits
  extract_lets +onlyGivenNames x
  clear_value x
  extract_lets +onlyGivenNames x
  refine moves_cut x ?_ (fun _ => ?_)
  · unfold x
    exact moves_set_nv (moves_refl _ _) (by decide)
  try clear_value x
  extract_lets +onlyGivenNames x
  clear_value x
  extract_lets +onlyGivenNames x
  refine moves_cut x ?_ (fun _ => ?_)
  · unfold x
    refine moves_foldl _ _ ?_ (fun _ _ => ?_)
    · assumption
    · exact moves_then (moves_refl _ _) (Chip.queueLog_moves ..) (by decide)
  try clear_value x
  extract_lets +onlyGivenNames x
  refine moves_cut x ?_ (fun _ => ?_)
  · unfold x
    exact moves_then (by assumption) (Chip.stampCal_moves ..) (by decide)
  try clear_value x
  refine moves_ite (fun _ => ?_) (fun _ => ?_)
  · exact moves_then (by assumption) (Chip.queueCarry_moves ..) (by decide)
  · refine moves_ite (fun _ => ?_) (fun _ => ?_)
    · exact moves_then (by assumption) (Chip.nvQueue_moves ..) (by decide)
    · exact moves_then (by assumption) (Chip.nvQueue_moves ..) (by decide)

theorem Chip.enterCommits_moves (c : Chip) : Moves [.sys, .nv, .cal, .log] c (Chip.enterCommits c) := by
  unfold Chip.enterCommits
  refine moves_then ?_ (Chip.queueCommits_moves ..) (by decide)
  exact moves_set_sys (moves_refl _ _) (by decide)

theorem Chip.enterMarker_moves (c : Chip) : Moves [.sys, .nv] c (Chip.enterMarker c) := by
  unfold Chip.enterMarker
  extract_lets +onlyGivenNames x
  clear_value x
  extract_lets +onlyGivenNames x
  refine moves_cut x ?_ (fun _ => ?_)
  · unfold x
    exact moves_set_sys (moves_refl _ _) (by decide)
  try clear_value x
  refine moves_ite (fun _ => ?_) (fun _ => ?_)
  · assumption
  · exact moves_then (by assumption) (Chip.nvQueue_moves ..) (by decide)

theorem Chip.shdnAdvance_moves (c : Chip) : Moves [.sys, .nv, .cal, .log] c (Chip.shdnAdvance c) := by
  unfold Chip.shdnAdvance
  refine moves_ite (fun _ => ?_) (fun _ => ?_)
  · exact moves_refl _ _
  · extract_lets +onlyGivenNames x
    clear_value x
    extract_lets +onlyGivenNames x
    refine moves_cut x ?_ (fun _ => ?_)
    · unfold x
      refine moves_ite (fun _ => ?_) (fun _ => ?_)
      · refine moves_ite (fun _ => ?_) (fun _ => ?_)
        · exact moves_set_sys (moves_refl _ _) (by decide)
        · exact moves_then (moves_refl _ _) (Chip.enterCommits_moves ..) (by decide)
      · exact moves_refl _ _
    try clear_value x
    extract_lets +onlyGivenNames x
    refine moves_cut x ?_ (fun _ => ?_)
    · unfold x
      refine moves_ite (fun _ => ?_) (fun _ => ?_)
      · exact moves_then (by assumption) (Chip.enterCommits_moves ..) (by decide)
      · assumption
    try clear_value x
    extract_lets +onlyGivenNames x
    refine moves_cut x ?_ (fun _ => ?_)
    · unfold x
      refine moves_ite (fun _ => ?_) (fun _ => ?_)
      · refine moves_ite (fun _ => ?_) (fun _ => ?_)
        · exact moves_then (by assumption) (Chip.nvQueue_moves ..) (by decide)
        · exact moves_then (by assumption) (Chip.enterMarker_moves ..) (by decide)
      · assumption
    try clear_value x
    refine moves_ite (fun _ => ?_) (fun _ => ?_)
    · exact moves_set_sys (by assumption) (by decide)
    · assumption

end Sys2Proof.Machine
end

