-- ==== Sys2Proof/Laws/FrameGuard.lean ====
section
/-!
SUPPORT. What the operations of Machine/Guard.lean leave alone: for each, the parts of the device that it may change.
-/

-- one theorem after another: the checks of a large package would else hold too many threads at once
set_option Elab.async false

namespace Sys2Proof.Machine
open Sys2Proof

theorem Chip.abortSweep_moves (cause : Nat) (c : Chip) : Moves [.le, .sweep, .sett, .obs] c (Chip.abortSweep cause c) := by
  unfold Chip.abortSweep
  refine moves_ite (fun _ => ?_) (fun _ => ?_)
  · exact moves_refl _ _
  · refine moves_ite (fun _ => ?_) (fun _ => ?_)
    · refine moves_ite (fun _ => ?_) (fun _ => ?_)
      · exact moves_refl _ _
      · extract_lets +onlyGivenNames x
        refine moves_cut x ?_ (fun _ => ?_)
        · unfold x
          split
          · exact moves_then (moves_refl _ _) (Chip.modLe_moves ..) (by decide)
          · exact moves_refl _ _
        try clear_value x
        extract_lets +onlyGivenNames x
        clear_value x
        extract_lets +onlyGivenNames x
        refine moves_cut x ?_ (fun _ => ?_)
        · unfold x
          exact moves_set_sweep (by assumption) (by decide)
        try clear_value x
        exact moves_then (by assumption) (Chip.sendFlit_moves ..) (by decide)
    · exact moves_set_sweep (moves_refl _ _) (by decide)

theorem Chip.abortSweepOf_moves (g : Group) (cause : Nat) (c : Chip) : Moves [.le, .sweep, .sett, .obs] c (Chip.abortSweepOf g cause c) := by
  unfold Chip.abortSweepOf
  refine moves_ite (fun _ => ?_) (fun _ => ?_)
  · exact moves_then (moves_refl _ _) (Chip.abortSweep_moves ..) (by decide)
  · exact moves_refl _ _

theorem Chip.discard_moves (c : Chip) : Moves [.le, .sweep, .sett, .obs, .nv, .host] c (Chip.discard c) := by
  unfold Chip.discard
  extract_lets +onlyGivenNames x
  refine moves_cut x ?_ (fun _ => ?_)
  · unfold x
    exact moves_then (moves_refl _ _) (Chip.abortSweep_moves ..) (by decide)
  try clear_value x
  exact moves_mk (.inl rfl) (.inl rfl) (.inl rfl) (.inl rfl) (.inl rfl) (.inl rfl) (.inl rfl) (.inl rfl) (.inl rfl) (.inl rfl) (.inl rfl) (.inl rfl) (.inl rfl) (.inl rfl) (.inl rfl) (.inl rfl) (.inl rfl) (.inl rfl) (.inl rfl) (.inl rfl) (.inl rfl) (.inr (by decide)) (.inl rfl) (.inl rfl) (.inr (by decide)) (.inl rfl) (.inl rfl) (by assumption)

theorem Chip.answer_moves (h : HostCmd) (r : Result) (body : List Byte) (c : Chip) : Moves [.host] c (Chip.answer h r body c) := by
  unfold Chip.answer
  refine moves_ite (fun _ => ?_) (fun _ => ?_)
  · exact moves_set_host (moves_refl _ _) (by decide)
  · exact moves_refl _ _

theorem Chip.done_moves (h : HostCmd) (r : Result) (body : List Byte) (c : Chip) : Moves [.eva, .trace, .obs, .mbx, .dom, .host, .draws] c (Chip.done h r body c) := by
  unfold Chip.done
  refine moves_ite (fun _ => ?_) (fun _ => ?_)
  · exact moves_then (moves_refl _ _) (Chip.answer_moves ..) (by decide)
  · refine moves_ite (fun _ => ?_) (fun _ => ?_)
    · refine moves_then ?_ (Chip.answer_moves ..) (by decide)
      exact moves_then (moves_refl _ _) (Chip.pass_moves ..) (by decide)
    · exact moves_refl _ _

theorem Chip.queueFrame_moves (f : List Byte) (c : Chip) : Moves [.host] c (Chip.queueFrame f c) := by
  unfold Chip.queueFrame
  refine moves_foldl _ _ ?_ (fun _ _ => ?_)
  · exact moves_refl _ _
  · extract_lets +onlyGivenNames x
    clear_value x
    refine moves_ite (fun _ => ?_) (fun _ => ?_)
    · exact moves_refl _ _
    · exact moves_then (moves_refl _ _) (Chip.modCan_moves ..) (by decide)

theorem Chip.endRamps_moves (gs : List Group) (c : Chip) : Moves [.sys, .grp, .nv, .cal, .log] c (Chip.endRamps gs c) := by
  unfold Chip.endRamps
  refine moves_then ?_ (Chip.shdnAdvance_moves ..) (by decide)
  refine moves_foldl _ _ ?_ (fun _ _ => ?_)
  · exact moves_refl _ _
  · exact moves_then (moves_refl _ _) (Chip.modGrp_moves ..) (by decide)

theorem Chip.groupToSafe_moves (g : Group) (c : Chip) : Moves [.sys, .tb, .ph, .grp, .le, .setpt, .sweep, .sett, .eva, .trace, .obs, .nv, .cal, .log, .draws] c (Chip.groupToSafe g c) := by
  unfold Chip.groupToSafe
  extract_lets +onlyGivenNames x
  clear_value x
  extract_lets +onlyGivenNames x
  refine moves_cut x ?_ (fun _ => ?_)
  · unfold x
    exact moves_then (moves_refl _ _) (Chip.stopGroup_moves ..) (by decide)
  try clear_value x
  refine moves_ite (fun _ => ?_) (fun _ => ?_)
  · refine moves_ite (fun _ => ?_) (fun _ => ?_)
    · assumption
    · extract_lets +onlyGivenNames x
      refine moves_cut x ?_ (fun _ => ?_)
      · unfold x
        refine moves_ite (fun _ => ?_) (fun _ => ?_)
        · exact moves_then (by assumption) (Chip.abortSweepOf_moves ..) (by decide)
        · assumption
      try clear_value x
      extract_lets +onlyGivenNames x
      refine moves_cut x ?_ (fun _ => ?_)
      · unfold x
        exact moves_then (by assumption) (Chip.enterMode_moves ..) (by decide)
      try clear_value x
      refine moves_ite (fun _ => ?_) (fun _ => ?_)
      · exact moves_then (by assumption) (Chip.sendFlit_moves ..) (by decide)
      · assumption
  · exact moves_then (by assumption) (Chip.endRamps_moves ..) (by decide)

theorem Chip.deviceToSafe_moves (c : Chip) : Moves [.sys, .tb, .ph, .grp, .le, .setpt, .sett, .eva, .trace, .obs, .nv, .cal, .log, .draws] c (Chip.deviceToSafe c) := by
  unfold Chip.deviceToSafe
  extract_lets +onlyGivenNames x
  refine moves_cut x ?_ (fun _ => ?_)
  · unfold x
    exact moves_then (moves_refl _ _) (Chip.stopAll_moves ..) (by decide)
  try clear_value x
  refine moves_ite (fun _ => ?_) (fun _ => ?_)
  · exact moves_then (by assumption) (Chip.endRamps_moves ..) (by decide)
  · refine moves_ite (fun _ => ?_) (fun _ => ?_)
    · extract_lets +onlyGivenNames x
      refine moves_cut x ?_ (fun _ => ?_)
      · unfold x
        exact moves_then (by assumption) (Chip.enterDevice_moves ..) (by decide)
      try clear_value x
      refine moves_ite (fun _ => ?_) (fun _ => ?_)
      · assumption
      · refine moves_then ?_ (Chip.onSett_moves ..) (by decide)
        exact moves_then (by assumption) (Chip.broadcast_moves ..) (by decide)
    · exact moves_then (by assumption) (Chip.endRamps_moves ..) (by decide)

theorem Chip.raiseC_moves (b : Block) (code unit : Nat) (d0 : Word) (inj : Bool) (c : Chip) : Moves [.guards, .eva, .trace, .obs, .nv, .log, .draws] c (Chip.raiseC b code unit d0 inj c) := by
  unfold Chip.raiseC
  extract_lets +onlyGivenNames x
  refine moves_cut x ?_ (fun _ => ?_)
  · unfold x
    refine moves_then ?_ (Chip.writeHist_moves ..) (by decide)
    exact moves_then (moves_refl _ _) (Chip.grantAs_moves ..) (by decide)
  try clear_value x
  extract_lets +onlyGivenNames x
  refine moves_cut x ?_ (fun _ => ?_)
  · unfold x
    refine moves_then ?_ (Chip.count_moves ..) (by decide)
    exact moves_then (by assumption) (Chip.modGuard_moves ..) (by decide)
  try clear_value x
  refine moves_ite (fun _ => ?_) (fun _ => ?_)
  · assumption
  · exact moves_then (by assumption) (Chip.bump_moves ..) (by decide)

theorem Chip.againB_moves (b : Block) (code unit : Nat) (inj : Bool) (c : Chip) : Moves [.guards] c (Chip.againB b code unit inj c) := by
  unfold Chip.againB
  extract_lets +onlyGivenNames x
  clear_value x
  exact moves_then (moves_refl _ _) (Chip.modGuard_moves ..) (by decide)

theorem Chip.recordB_moves (b : Block) (code unit : Nat) (d0 : Word) (inj : Bool) (c : Chip) : Moves [.le, .sweep, .sett, .guards, .eva, .trace, .obs, .nv, .log, .host, .draws] c (Chip.recordB b code unit d0 inj c) := by
  unfold Chip.recordB
  extract_lets +onlyGivenNames x
  clear_value x
  extract_lets +onlyGivenNames x
  refine moves_cut x ?_ (fun _ => ?_)
  · unfold x
    refine moves_then ?_ (Chip.writeHist_moves ..) (by decide)
    exact moves_then (moves_refl _ _) (Chip.grantAs_moves ..) (by decide)
  try clear_value x
  extract_lets +onlyGivenNames x
  refine moves_cut x ?_ (fun _ => ?_)
  · unfold x
    refine moves_then ?_ (Chip.count_moves ..) (by decide)
    exact moves_then (by assumption) (Chip.modGuard_moves ..) (by decide)
  try clear_value x
  extract_lets +onlyGivenNames x
  refine moves_cut x ?_ (fun _ => ?_)
  · unfold x
    refine moves_ite (fun _ => ?_) (fun _ => ?_)
    · assumption
    · exact moves_then (by assumption) (Chip.bump_moves ..) (by decide)
  try clear_value x
  extract_lets +onlyGivenNames x
  clear_value x
  extract_lets +onlyGivenNames x
  refine moves_cut x ?_ (fun _ => ?_)
  · unfold x
    refine moves_ite (fun _ => ?_) (fun _ => ?_)
    · assumption
    · exact moves_then (by assumption) (Chip.discard_moves ..) (by decide)
  try clear_value x
  exact moves_then (by assumption) (Chip.queueFrame_moves ..) (by decide)

theorem Chip.reactB_moves (b : Block) (code unit : Nat) (c : Chip) : Moves [.sys, .tb, .ph, .grp, .le, .setpt, .sweep, .sett, .eva, .trace, .obs, .nv, .cal, .log, .draws] c (Chip.reactB b code unit c) := by
  unfold Chip.reactB
  extract_lets +onlyGivenNames x
  clear_value x
  extract_lets +onlyGivenNames x
  refine moves_cut x ?_ (fun _ => ?_)
  · unfold x
    split
    · refine moves_ite (fun _ => ?_) (fun _ => ?_)
      · exact moves_refl _ _
      · exact moves_then (moves_refl _ _) (Chip.setPstate_moves ..) (by decide)
    · exact moves_refl _ _
  try clear_value x
  refine moves_foldl _ _ ?_ (fun _ _ => ?_)
  · assumption
  · exact moves_then (moves_refl _ _) (Chip.groupToSafe_moves ..) (by decide)

theorem Chip.ovRecord_moves (g : Group) (c : Chip) : Moves [.grp, .le, .sweep, .sett, .guards, .eva, .trace, .obs, .nv, .log, .host, .draws] c (Chip.ovRecord g c) := by
  unfold Chip.ovRecord
  split
  · extract_lets +onlyGivenNames x
    refine moves_cut x ?_ (fun _ => ?_)
    · unfold x
      exact moves_then (moves_refl _ _) (Chip.modGv_moves ..) (by decide)
    try clear_value x
    refine moves_ite (fun _ => ?_) (fun _ => ?_)
    · exact moves_then (by assumption) (Chip.againB_moves ..) (by decide)
    · exact moves_then (by assumption) (Chip.recordB_moves ..) (by decide)
  · exact moves_refl _ _

theorem Chip.urgentCycle_movesOf {last : Chip → Chip} {T : List Part} {c e : Chip} (a : Moves T c e)
    (k : ∀ d, Moves T d (last d)) (sub : ∀ p ∈ [.sys, .tb, .ph, .grp, .le, .setpt, .sweep, .sett, .guards, .eva, .trace, .obs, .nv, .cal, .log, .host, .draws], p ∈ T) : Moves T c (Chip.urgentCycle last e) := by
  unfold Chip.urgentCycle
  extract_lets +onlyGivenNames gs raised u x y
  refine moves_foldl _ _ ?_ (fun d g => moves_mono (Chip.reactB_moves ..) (fun p hp => sub p (by revert hp; cases p <;> decide)))
  refine moves_trans ?_ (moves_mono (ps := [.eva]) (moves_set_eva (moves_refl _ _) (by decide)) (fun p hp => sub p (by revert hp; cases p <;> decide)))
  refine moves_trans ?_ (k _)
  exact moves_foldl _ _ a (fun d g => moves_mono (Chip.ovRecord_moves ..) (fun p hp => sub p (by revert hp; cases p <;> decide)))

theorem Chip.raiseB_moves (b : Block) (code unit : Nat) (d0 : Word) (inj : Bool) (c : Chip) : Moves [.sys, .tb, .ph, .grp, .le, .setpt, .sweep, .sett, .guards, .eva, .trace, .obs, .nv, .cal, .log, .host, .draws] c (Chip.raiseB b code unit d0 inj c) := by
  unfold Chip.raiseB
  refine moves_ite (fun _ => ?_) (fun _ => ?_)
  · split
    · refine Chip.urgentCycle_movesOf ?_ ?_ (by decide)
      · exact moves_then (moves_refl _ _) (Chip.modGv_moves ..) (by decide)
      · intros
        unfold id
        exact moves_refl _ _
    · exact moves_refl _ _
  · refine moves_ite (fun _ => ?_) (fun _ => ?_)
    · exact moves_then (moves_refl _ _) (Chip.againB_moves ..) (by decide)
    · refine moves_then ?_ (Chip.reactB_moves ..) (by decide)
      exact moves_then (moves_refl _ _) (Chip.recordB_moves ..) (by decide)

theorem Chip.raiseA_moves (b : Block) (code unit : Nat) (d0 : Word) (inj : Bool) (c : Chip) : Moves [.sys, .tb, .ph, .grp, .le, .setpt, .sweep, .sett, .guards, .eva, .trace, .obs, .nv, .cal, .log, .host, .draws] c (Chip.raiseA b code unit d0 inj c) := by
  unfold Chip.raiseA
  extract_lets +onlyGivenNames x
  clear_value x
  extract_lets +onlyGivenNames x
  refine moves_cut x ?_ (fun _ => ?_)
  · unfold x
    exact moves_then (moves_refl _ _) (Chip.stopAll_moves ..) (by decide)
  try clear_value x
  refine moves_ite (fun _ => ?_) (fun _ => ?_)
  · assumption
  · extract_lets +onlyGivenNames x
    refine moves_cut x ?_ (fun _ => ?_)
    · unfold x
      refine Chip.urgentCycle_movesOf ?_ ?_ (by decide)
      · assumption
      · intros
        refine moves_then ?_ (Chip.writeHist_moves ..) (by decide)
        exact moves_then (moves_refl _ _) (Chip.grantAs_moves ..) (by decide)
    try clear_value x
    extract_lets +onlyGivenNames x
    refine moves_cut x ?_ (fun _ => ?_)
    · unfold x
      exact moves_then (by assumption) (Chip.modGuard_moves ..) (by decide)
    try clear_value x
    extract_lets +onlyGivenNames x
    refine moves_cut x ?_ (fun _ => ?_)
    · unfold x
      refine moves_ite (fun _ => ?_) (fun _ => ?_)
      · assumption
      · exact moves_then (by assumption) (Chip.bump_moves ..) (by decide)
    try clear_value x
    extract_lets +onlyGivenNames x
    refine moves_cut x ?_ (fun _ => ?_)
    · unfold x
      exact moves_then (by assumption) (Chip.discard_moves ..) (by decide)
    try clear_value x
    extract_lets +onlyGivenNames x
    refine moves_cut x ?_ (fun _ => ?_)
    · unfold x
      exact moves_then (by assumption) (Chip.queueFrame_moves ..) (by decide)
    try clear_value x
    exact moves_then (by assumption) (Chip.deviceToSafe_moves ..) (by decide)

theorem Chip.raise_moves (b : Block) (cl : Cls) (code unit : Nat) (d0 : Word) (inj : Bool) (c : Chip) : Moves [.sys, .tb, .ph, .grp, .le, .setpt, .sweep, .sett, .guards, .eva, .trace, .obs, .nv, .cal, .log, .host, .draws] c (Chip.raise b cl code unit d0 inj c) := by
  unfold Chip.raise
  split
  · exact moves_then (moves_refl _ _) (Chip.raiseA_moves ..) (by decide)
  · exact moves_then (moves_refl _ _) (Chip.raiseB_moves ..) (by decide)
  · exact moves_then (moves_refl _ _) (Chip.raiseC_moves ..) (by decide)

theorem Chip.warn_moves (b : Block) (code unit : Nat) (c : Chip) : Moves [.guards, .eva, .trace, .obs, .nv, .log, .draws] c (Chip.warn b code unit c) := by
  unfold Chip.warn
  exact moves_then (moves_refl _ _) (Chip.raiseC_moves ..) (by decide)

theorem Chip.faultB_moves (b : Block) (code unit : Nat) (c : Chip) : Moves [.sys, .tb, .ph, .grp, .le, .setpt, .sweep, .sett, .guards, .eva, .trace, .obs, .nv, .cal, .log, .host, .draws] c (Chip.faultB b code unit c) := by
  unfold Chip.faultB
  exact moves_then (moves_refl _ _) (Chip.raiseB_moves ..) (by decide)

theorem Chip.changeMode_moves (g : Group) (m : Mode) (cause : Cause) (c : Chip) : Moves [.sys, .tb, .ph, .grp, .le, .setpt, .sweep, .sett, .guards, .eva, .trace, .obs, .nv, .cal, .log, .host, .draws] c (Chip.changeMode g m cause c) := by
  unfold Chip.changeMode
  extract_lets +onlyGivenNames x
  refine moves_cut x ?_ (fun _ => ?_)
  · unfold x
    exact moves_then (moves_refl _ _) (Chip.enterMode_moves ..) (by decide)
  try clear_value x
  refine moves_ite (fun _ => ?_) (fun _ => ?_)
  · exact moves_then (by assumption) (Chip.faultB_moves ..) (by decide)
  · assumption

theorem Chip.releaseGroup_moves (g : Group) (c : Chip) : Moves [.sys, .tb, .ph, .grp, .le, .setpt, .sweep, .sett, .guards, .eva, .trace, .obs, .nv, .cal, .log, .host, .draws] c (Chip.releaseGroup g c) := by
  unfold Chip.releaseGroup
  extract_lets +onlyGivenNames x
  refine moves_cut x ?_ (fun _ => ?_)
  · unfold x
    refine moves_ite (fun _ => ?_) (fun _ => ?_)
    · exact moves_then (moves_refl _ _) (Chip.changeMode_moves ..) (by decide)
    · exact moves_refl _ _
  try clear_value x
  exact moves_then (by assumption) (Chip.tryStart_moves ..) (by decide)

theorem Chip.released_moves (b : Block) (f : FaultRec) (c : Chip) : Moves [.sys, .tb, .ph, .grp, .le, .setpt, .sweep, .sett, .guards, .eva, .trace, .obs, .nv, .cal, .log, .host, .draws] c (Chip.released b f c) := by
  unfold Chip.released
  extract_lets +onlyGivenNames x
  refine moves_cut x ?_ (fun _ => ?_)
  · unfold x
    split
    · refine moves_ite (fun _ => ?_) (fun _ => ?_)
      · exact moves_then (moves_refl _ _) (Chip.setPstate_moves ..) (by decide)
      · exact moves_refl _ _
    · exact moves_refl _ _
  try clear_value x
  refine moves_foldl _ _ ?_ (fun _ _ => ?_)
  · assumption
  · exact moves_then (moves_refl _ _) (Chip.releaseGroup_moves ..) (by decide)

theorem Chip.dropFault_moves (b : Block) (f : FaultRec) (k : HistKind) (c : Chip) : Moves [.guards, .log] c (Chip.dropFault b f k c) := by
  unfold Chip.dropFault
  refine moves_then ?_ (Chip.writeHist_moves ..) (by decide)
  exact moves_then (moves_refl _ _) (Chip.modGuard_moves ..) (by decide)

theorem Chip.autoClear_moves (b : Block) (code : Nat) (c : Chip) : Moves [.sys, .tb, .ph, .grp, .le, .setpt, .sweep, .sett, .guards, .eva, .trace, .obs, .nv, .cal, .log, .host, .draws] c (Chip.autoClear b code c) := by
  unfold Chip.autoClear
  refine moves_foldl _ _ ?_ (fun _ _ => ?_)
  · exact moves_refl _ _
  · refine moves_then ?_ (Chip.released_moves ..) (by decide)
    refine moves_then ?_ (Chip.dropFault_moves ..) (by decide)
    exact moves_then (moves_refl _ _) (Chip.grantAs_moves ..) (by decide)

theorem Chip.goneFault_moves (b : Block) (code unit : Nat) (c : Chip) : Moves [.guards, .eva, .trace, .obs, .log, .draws] c (Chip.goneFault b code unit c) := by
  unfold Chip.goneFault
  split
  · refine moves_ite (fun _ => ?_) (fun _ => ?_)
    · extract_lets +onlyGivenNames x
      refine moves_cut x ?_ (fun _ => ?_)
      · unfold x
        exact moves_then (moves_refl _ _) (Chip.modGuard_moves ..) (by decide)
      try clear_value x
      refine moves_then ?_ (Chip.writeHist_moves ..) (by decide)
      exact moves_then (by assumption) (Chip.grantAs_moves ..) (by decide)
    · exact moves_refl _ _
  · exact moves_refl _ _

theorem Chip.retryFault_moves (b : Block) (code unit : Nat) (c : Chip) : Moves [.sys, .tb, .ph, .grp, .le, .setpt, .sweep, .sett, .guards, .eva, .trace, .obs, .nv, .cal, .log, .host, .draws] c (Chip.retryFault b code unit c) := by
  unfold Chip.retryFault
  split
  · refine moves_ite (fun _ => ?_) (fun _ => ?_)
    · extract_lets +onlyGivenNames x
      refine moves_cut x ?_ (fun _ => ?_)
      · unfold x
        exact moves_then (moves_refl _ _) (Chip.grantAs_moves ..) (by decide)
      try clear_value x
      extract_lets +onlyGivenNames x
      refine moves_cut x ?_ (fun _ => ?_)
      · unfold x
        exact moves_then (by assumption) (Chip.modGuard_moves ..) (by decide)
      try clear_value x
      refine moves_then ?_ (Chip.released_moves ..) (by decide)
      exact moves_then (by assumption) (Chip.dropFault_moves ..) (by decide)
    · exact moves_refl _ _
  · exact moves_refl _ _

theorem Chip.retriesReset_moves (b : Block) (c : Chip) : Moves [.guards] c (Chip.retriesReset b c) := by
  unfold Chip.retriesReset
  extract_lets +onlyGivenNames x
  clear_value x
  extract_lets +onlyGivenNames x
  clear_value x
  extract_lets +onlyGivenNames x
  clear_value x
  extract_lets +onlyGivenNames x
  clear_value x
  refine moves_ite (fun _ => ?_) (fun _ => ?_)
  · exact moves_then (moves_refl _ _) (Chip.modGuard_moves ..) (by decide)
  · exact moves_refl _ _

theorem Chip.dropWarning_moves (b : Block) (c : Chip) : Moves [.guards, .log] c (Chip.dropWarning b c) := by
  unfold Chip.dropWarning
  extract_lets +onlyGivenNames x
  clear_value x
  refine moves_then ?_ (Chip.writeHist_moves ..) (by decide)
  exact moves_then (moves_refl _ _) (Chip.modGuard_moves ..) (by decide)

theorem Chip.clearBlock_moves (code : Nat) (c : Chip) (b : Block) : Moves [.guards, .log] c (Chip.clearBlock code c b) := by
  unfold Chip.clearBlock
  extract_lets +onlyGivenNames x
  clear_value x
  extract_lets +onlyGivenNames x
  clear_value x
  extract_lets +onlyGivenNames x
  refine moves_cut x ?_ (fun _ => ?_)
  · unfold x
    refine moves_foldl _ _ ?_ (fun _ _ => ?_)
    · exact moves_refl _ _
    · exact moves_then (moves_refl _ _) (Chip.dropFault_moves ..) (by decide)
  try clear_value x
  extract_lets +onlyGivenNames x
  refine moves_cut x ?_ (fun _ => ?_)
  · unfold x
    refine moves_ite (fun _ => ?_) (fun _ => ?_)
    · exact moves_then (by assumption) (Chip.dropWarning_moves ..) (by decide)
    · assumption
  try clear_value x
  refine moves_ite (fun _ => ?_) (fun _ => ?_)
  · exact moves_then (by assumption) (Chip.modGuard_moves ..) (by decide)
  · assumption

theorem Chip.faultClear_moves (block code : Nat) (c : Chip) : Moves [.sys, .tb, .ph, .grp, .le, .setpt, .sweep, .sett, .guards, .eva, .trace, .obs, .nv, .cal, .log, .host, .draws] c (Chip.faultClear block code c).1 := by
  unfold Chip.faultClear
  extract_lets +onlyGivenNames x
  clear_value x
  split
  · dsimp only
    exact moves_refl _ _
  · extract_lets +onlyGivenNames x
    clear_value x
    extract_lets +onlyGivenNames x
    clear_value x
    extract_lets +onlyGivenNames x
    refine moves_cut x ?_ (fun _ => ?_)
    · unfold x
      refine moves_then ?_ (Chip.grantAs_moves ..) (by decide)
      exact moves_then (moves_refl _ _) (Chip.badgerFirst_moves ..) (by decide)
    try clear_value x
    extract_lets +onlyGivenNames x
    clear_value x
    extract_lets +onlyGivenNames x
    refine moves_cut x ?_ (fun _ => ?_)
    · unfold x
      refine moves_foldl _ _ ?_ (fun _ _ => ?_)
      · assumption
      · exact moves_then (moves_refl _ _) (Chip.clearBlock_moves ..) (by decide)
    try clear_value x
    extract_lets +onlyGivenNames x
    clear_value x
    extract_lets +onlyGivenNames x
    refine moves_cut x ?_ (fun _ => ?_)
    · unfold x
      refine moves_foldl _ _ ?_ (fun _ _ => ?_)
      · assumption
      · exact moves_then (moves_refl _ _) (Chip.released_moves ..) (by decide)
    try clear_value x
    dsimp only
    assumption

end Sys2Proof.Machine
end

