-- ==== Sys2Proof/Laws/State.lean ====
section
/-!
SUPPORT. What each update of the state does to each of its fields, one lemma a field, so that no later proof unfolds an update; and
the laws of a vector with one element changed.
-/

-- one theorem after another: the checks of a large package would else hold too many threads at once
set_option Elab.async false

namespace Sys2Proof.Machine

@[simp] theorem State.onChip_pending (f : Chip → Chip) (s : State) : (s.onChip f).pending = s.pending := rfl
@[simp] theorem State.onChip_chip (f : Chip → Chip) (s : State) : (s.onChip f).chip = f s.chip := rfl

/-! ### A vector with one element changed -/

@[simp] theorem vmod_self {α : Type} {n : Nat} (v : Vector α n) (i : Fin n) (f : α → α) : (vmod v i f)[i] = f v[i] :=
  Vector.getElem_set_self ..

theorem vmod_other {α : Type} {n : Nat} (v : Vector α n) (i j : Fin n) (f : α → α) (h : i ≠ j) : (vmod v i f)[j] = v[j] :=
  Vector.getElem_set_ne i.isLt j.isLt (fun e => h (Fin.ext e))

@[simp] theorem vmap_get {α β : Type} {n : Nat} (v : Vector α n) (i : Fin n) (f : α → β) : (vmap v f)[i] = f v[i] := by
  simp [vmap]

/-! ### modPh -/

@[simp] theorem Chip.modPh_sys (p : Phase) (f : PhaseUnit → PhaseUnit) (c : Chip) : (Chip.modPh p f c).sys = c.sys := rfl
@[simp] theorem Chip.modPh_code (p : Phase) (f : PhaseUnit → PhaseUnit) (c : Chip) : (Chip.modPh p f c).code = c.code := rfl
@[simp] theorem Chip.modPh_tb (p : Phase) (f : PhaseUnit → PhaseUnit) (c : Chip) : (Chip.modPh p f c).tb = c.tb := rfl
@[simp] theorem Chip.modPh_ph (p : Phase) (f : PhaseUnit → PhaseUnit) (c : Chip) : (Chip.modPh p f c).ph = vmod c.ph p f := rfl
@[simp] theorem Chip.modPh_grp (p : Phase) (f : PhaseUnit → PhaseUnit) (c : Chip) : (Chip.modPh p f c).grp = c.grp := rfl
@[simp] theorem Chip.modPh_le (p : Phase) (f : PhaseUnit → PhaseUnit) (c : Chip) : (Chip.modPh p f c).le = c.le := rfl
@[simp] theorem Chip.modPh_setpt (p : Phase) (f : PhaseUnit → PhaseUnit) (c : Chip) : (Chip.modPh p f c).setpt = c.setpt := rfl
@[simp] theorem Chip.modPh_lcmd (p : Phase) (f : PhaseUnit → PhaseUnit) (c : Chip) : (Chip.modPh p f c).lcmd = c.lcmd := rfl
@[simp] theorem Chip.modPh_refs (p : Phase) (f : PhaseUnit → PhaseUnit) (c : Chip) : (Chip.modPh p f c).refs = c.refs := rfl
@[simp] theorem Chip.modPh_aux (p : Phase) (f : PhaseUnit → PhaseUnit) (c : Chip) : (Chip.modPh p f c).aux = c.aux := rfl
@[simp] theorem Chip.modPh_snap (p : Phase) (f : PhaseUnit → PhaseUnit) (c : Chip) : (Chip.modPh p f c).snap = c.snap := rfl
@[simp] theorem Chip.modPh_cap (p : Phase) (f : PhaseUnit → PhaseUnit) (c : Chip) : (Chip.modPh p f c).cap = c.cap := rfl
@[simp] theorem Chip.modPh_sweep (p : Phase) (f : PhaseUnit → PhaseUnit) (c : Chip) : (Chip.modPh p f c).sweep = c.sweep := rfl
@[simp] theorem Chip.modPh_sett (p : Phase) (f : PhaseUnit → PhaseUnit) (c : Chip) : (Chip.modPh p f c).sett = c.sett := rfl
@[simp] theorem Chip.modPh_gauge (p : Phase) (f : PhaseUnit → PhaseUnit) (c : Chip) : (Chip.modPh p f c).gauge = c.gauge := rfl
@[simp] theorem Chip.modPh_guards (p : Phase) (f : PhaseUnit → PhaseUnit) (c : Chip) : (Chip.modPh p f c).guards = c.guards := rfl
@[simp] theorem Chip.modPh_eva (p : Phase) (f : PhaseUnit → PhaseUnit) (c : Chip) : (Chip.modPh p f c).eva = c.eva := rfl
@[simp] theorem Chip.modPh_trace (p : Phase) (f : PhaseUnit → PhaseUnit) (c : Chip) : (Chip.modPh p f c).trace = c.trace := rfl
@[simp] theorem Chip.modPh_obs (p : Phase) (f : PhaseUnit → PhaseUnit) (c : Chip) : (Chip.modPh p f c).obs = c.obs := rfl
@[simp] theorem Chip.modPh_mbx (p : Phase) (f : PhaseUnit → PhaseUnit) (c : Chip) : (Chip.modPh p f c).mbx = c.mbx := rfl
@[simp] theorem Chip.modPh_dom (p : Phase) (f : PhaseUnit → PhaseUnit) (c : Chip) : (Chip.modPh p f c).dom = c.dom := rfl
@[simp] theorem Chip.modPh_nv (p : Phase) (f : PhaseUnit → PhaseUnit) (c : Chip) : (Chip.modPh p f c).nv = c.nv := rfl
@[simp] theorem Chip.modPh_cal (p : Phase) (f : PhaseUnit → PhaseUnit) (c : Chip) : (Chip.modPh p f c).cal = c.cal := rfl
@[simp] theorem Chip.modPh_log (p : Phase) (f : PhaseUnit → PhaseUnit) (c : Chip) : (Chip.modPh p f c).log = c.log := rfl
@[simp] theorem Chip.modPh_host (p : Phase) (f : PhaseUnit → PhaseUnit) (c : Chip) : (Chip.modPh p f c).host = c.host := rfl
@[simp] theorem Chip.modPh_latch (p : Phase) (f : PhaseUnit → PhaseUnit) (c : Chip) : (Chip.modPh p f c).latch = c.latch := rfl
@[simp] theorem Chip.modPh_draws (p : Phase) (f : PhaseUnit → PhaseUnit) (c : Chip) : (Chip.modPh p f c).draws = c.draws := rfl

/-! ### modGrp -/

@[simp] theorem Chip.modGrp_sys (g : Group) (f : GroupUnit → GroupUnit) (c : Chip) : (Chip.modGrp g f c).sys = c.sys := rfl
@[simp] theorem Chip.modGrp_code (g : Group) (f : GroupUnit → GroupUnit) (c : Chip) : (Chip.modGrp g f c).code = c.code := rfl
@[simp] theorem Chip.modGrp_tb (g : Group) (f : GroupUnit → GroupUnit) (c : Chip) : (Chip.modGrp g f c).tb = c.tb := rfl
@[simp] theorem Chip.modGrp_ph (g : Group) (f : GroupUnit → GroupUnit) (c : Chip) : (Chip.modGrp g f c).ph = c.ph := rfl
@[simp] theorem Chip.modGrp_grp (g : Group) (f : GroupUnit → GroupUnit) (c : Chip) : (Chip.modGrp g f c).grp = vmod c.grp g f := rfl
@[simp] theorem Chip.modGrp_le (g : Group) (f : GroupUnit → GroupUnit) (c : Chip) : (Chip.modGrp g f c).le = c.le := rfl
@[simp] theorem Chip.modGrp_setpt (g : Group) (f : GroupUnit → GroupUnit) (c : Chip) : (Chip.modGrp g f c).setpt = c.setpt := rfl
@[simp] theorem Chip.modGrp_lcmd (g : Group) (f : GroupUnit → GroupUnit) (c : Chip) : (Chip.modGrp g f c).lcmd = c.lcmd := rfl
@[simp] theorem Chip.modGrp_refs (g : Group) (f : GroupUnit → GroupUnit) (c : Chip) : (Chip.modGrp g f c).refs = c.refs := rfl
@[simp] theorem Chip.modGrp_aux (g : Group) (f : GroupUnit → GroupUnit) (c : Chip) : (Chip.modGrp g f c).aux = c.aux := rfl
@[simp] theorem Chip.modGrp_snap (g : Group) (f : GroupUnit → GroupUnit) (c : Chip) : (Chip.modGrp g f c).snap = c.snap := rfl
@[simp] theorem Chip.modGrp_cap (g : Group) (f : GroupUnit → GroupUnit) (c : Chip) : (Chip.modGrp g f c).cap = c.cap := rfl
@[simp] theorem Chip.modGrp_sweep (g : Group) (f : GroupUnit → GroupUnit) (c : Chip) : (Chip.modGrp g f c).sweep = c.sweep := rfl
@[simp] theorem Chip.modGrp_sett (g : Group) (f : GroupUnit → GroupUnit) (c : Chip) : (Chip.modGrp g f c).sett = c.sett := rfl
@[simp] theorem Chip.modGrp_gauge (g : Group) (f : GroupUnit → GroupUnit) (c : Chip) : (Chip.modGrp g f c).gauge = c.gauge := rfl
@[simp] theorem Chip.modGrp_guards (g : Group) (f : GroupUnit → GroupUnit) (c : Chip) : (Chip.modGrp g f c).guards = c.guards := rfl
@[simp] theorem Chip.modGrp_eva (g : Group) (f : GroupUnit → GroupUnit) (c : Chip) : (Chip.modGrp g f c).eva = c.eva := rfl
@[simp] theorem Chip.modGrp_trace (g : Group) (f : GroupUnit → GroupUnit) (c : Chip) : (Chip.modGrp g f c).trace = c.trace := rfl
@[simp] theorem Chip.modGrp_obs (g : Group) (f : GroupUnit → GroupUnit) (c : Chip) : (Chip.modGrp g f c).obs = c.obs := rfl
@[simp] theorem Chip.modGrp_mbx (g : Group) (f : GroupUnit → GroupUnit) (c : Chip) : (Chip.modGrp g f c).mbx = c.mbx := rfl
@[simp] theorem Chip.modGrp_dom (g : Group) (f : GroupUnit → GroupUnit) (c : Chip) : (Chip.modGrp g f c).dom = c.dom := rfl
@[simp] theorem Chip.modGrp_nv (g : Group) (f : GroupUnit → GroupUnit) (c : Chip) : (Chip.modGrp g f c).nv = c.nv := rfl
@[simp] theorem Chip.modGrp_cal (g : Group) (f : GroupUnit → GroupUnit) (c : Chip) : (Chip.modGrp g f c).cal = c.cal := rfl
@[simp] theorem Chip.modGrp_log (g : Group) (f : GroupUnit → GroupUnit) (c : Chip) : (Chip.modGrp g f c).log = c.log := rfl
@[simp] theorem Chip.modGrp_host (g : Group) (f : GroupUnit → GroupUnit) (c : Chip) : (Chip.modGrp g f c).host = c.host := rfl
@[simp] theorem Chip.modGrp_latch (g : Group) (f : GroupUnit → GroupUnit) (c : Chip) : (Chip.modGrp g f c).latch = c.latch := rfl
@[simp] theorem Chip.modGrp_draws (g : Group) (f : GroupUnit → GroupUnit) (c : Chip) : (Chip.modGrp g f c).draws = c.draws := rfl

/-! ### modLe -/

@[simp] theorem Chip.modLe_sys (e : Engine) (f : EngineUnit → EngineUnit) (c : Chip) : (Chip.modLe e f c).sys = c.sys := rfl
@[simp] theorem Chip.modLe_code (e : Engine) (f : EngineUnit → EngineUnit) (c : Chip) : (Chip.modLe e f c).code = c.code := rfl
@[simp] theorem Chip.modLe_tb (e : Engine) (f : EngineUnit → EngineUnit) (c : Chip) : (Chip.modLe e f c).tb = c.tb := rfl
@[simp] theorem Chip.modLe_ph (e : Engine) (f : EngineUnit → EngineUnit) (c : Chip) : (Chip.modLe e f c).ph = c.ph := rfl
@[simp] theorem Chip.modLe_grp (e : Engine) (f : EngineUnit → EngineUnit) (c : Chip) : (Chip.modLe e f c).grp = c.grp := rfl
@[simp] theorem Chip.modLe_le (e : Engine) (f : EngineUnit → EngineUnit) (c : Chip) : (Chip.modLe e f c).le = vmod c.le e f := rfl
@[simp] theorem Chip.modLe_setpt (e : Engine) (f : EngineUnit → EngineUnit) (c : Chip) : (Chip.modLe e f c).setpt = c.setpt := rfl
@[simp] theorem Chip.modLe_lcmd (e : Engine) (f : EngineUnit → EngineUnit) (c : Chip) : (Chip.modLe e f c).lcmd = c.lcmd := rfl
@[simp] theorem Chip.modLe_refs (e : Engine) (f : EngineUnit → EngineUnit) (c : Chip) : (Chip.modLe e f c).refs = c.refs := rfl
@[simp] theorem Chip.modLe_aux (e : Engine) (f : EngineUnit → EngineUnit) (c : Chip) : (Chip.modLe e f c).aux = c.aux := rfl
@[simp] theorem Chip.modLe_snap (e : Engine) (f : EngineUnit → EngineUnit) (c : Chip) : (Chip.modLe e f c).snap = c.snap := rfl
@[simp] theorem Chip.modLe_cap (e : Engine) (f : EngineUnit → EngineUnit) (c : Chip) : (Chip.modLe e f c).cap = c.cap := rfl
@[simp] theorem Chip.modLe_sweep (e : Engine) (f : EngineUnit → EngineUnit) (c : Chip) : (Chip.modLe e f c).sweep = c.sweep := rfl
@[simp] theorem Chip.modLe_sett (e : Engine) (f : EngineUnit → EngineUnit) (c : Chip) : (Chip.modLe e f c).sett = c.sett := rfl
@[simp] theorem Chip.modLe_gauge (e : Engine) (f : EngineUnit → EngineUnit) (c : Chip) : (Chip.modLe e f c).gauge = c.gauge := rfl
@[simp] theorem Chip.modLe_guards (e : Engine) (f : EngineUnit → EngineUnit) (c : Chip) : (Chip.modLe e f c).guards = c.guards := rfl
@[simp] theorem Chip.modLe_eva (e : Engine) (f : EngineUnit → EngineUnit) (c : Chip) : (Chip.modLe e f c).eva = c.eva := rfl
@[simp] theorem Chip.modLe_trace (e : Engine) (f : EngineUnit → EngineUnit) (c : Chip) : (Chip.modLe e f c).trace = c.trace := rfl
@[simp] theorem Chip.modLe_obs (e : Engine) (f : EngineUnit → EngineUnit) (c : Chip) : (Chip.modLe e f c).obs = c.obs := rfl
@[simp] theorem Chip.modLe_mbx (e : Engine) (f : EngineUnit → EngineUnit) (c : Chip) : (Chip.modLe e f c).mbx = c.mbx := rfl
@[simp] theorem Chip.modLe_dom (e : Engine) (f : EngineUnit → EngineUnit) (c : Chip) : (Chip.modLe e f c).dom = c.dom := rfl
@[simp] theorem Chip.modLe_nv (e : Engine) (f : EngineUnit → EngineUnit) (c : Chip) : (Chip.modLe e f c).nv = c.nv := rfl
@[simp] theorem Chip.modLe_cal (e : Engine) (f : EngineUnit → EngineUnit) (c : Chip) : (Chip.modLe e f c).cal = c.cal := rfl
@[simp] theorem Chip.modLe_log (e : Engine) (f : EngineUnit → EngineUnit) (c : Chip) : (Chip.modLe e f c).log = c.log := rfl
@[simp] theorem Chip.modLe_host (e : Engine) (f : EngineUnit → EngineUnit) (c : Chip) : (Chip.modLe e f c).host = c.host := rfl
@[simp] theorem Chip.modLe_latch (e : Engine) (f : EngineUnit → EngineUnit) (c : Chip) : (Chip.modLe e f c).latch = c.latch := rfl
@[simp] theorem Chip.modLe_draws (e : Engine) (f : EngineUnit → EngineUnit) (c : Chip) : (Chip.modLe e f c).draws = c.draws := rfl

/-! ### modLcmd -/

@[simp] theorem Chip.modLcmd_sys (p : LcmdPort) (f : LcmdUnit → LcmdUnit) (c : Chip) : (Chip.modLcmd p f c).sys = c.sys := rfl
@[simp] theorem Chip.modLcmd_code (p : LcmdPort) (f : LcmdUnit → LcmdUnit) (c : Chip) : (Chip.modLcmd p f c).code = c.code := rfl
@[simp] theorem Chip.modLcmd_tb (p : LcmdPort) (f : LcmdUnit → LcmdUnit) (c : Chip) : (Chip.modLcmd p f c).tb = c.tb := rfl
@[simp] theorem Chip.modLcmd_ph (p : LcmdPort) (f : LcmdUnit → LcmdUnit) (c : Chip) : (Chip.modLcmd p f c).ph = c.ph := rfl
@[simp] theorem Chip.modLcmd_grp (p : LcmdPort) (f : LcmdUnit → LcmdUnit) (c : Chip) : (Chip.modLcmd p f c).grp = c.grp := rfl
@[simp] theorem Chip.modLcmd_le (p : LcmdPort) (f : LcmdUnit → LcmdUnit) (c : Chip) : (Chip.modLcmd p f c).le = c.le := rfl
@[simp] theorem Chip.modLcmd_setpt (p : LcmdPort) (f : LcmdUnit → LcmdUnit) (c : Chip) : (Chip.modLcmd p f c).setpt = c.setpt := rfl
@[simp] theorem Chip.modLcmd_lcmd (p : LcmdPort) (f : LcmdUnit → LcmdUnit) (c : Chip) : (Chip.modLcmd p f c).lcmd = vmod c.lcmd p f := rfl
@[simp] theorem Chip.modLcmd_refs (p : LcmdPort) (f : LcmdUnit → LcmdUnit) (c : Chip) : (Chip.modLcmd p f c).refs = c.refs := rfl
@[simp] theorem Chip.modLcmd_aux (p : LcmdPort) (f : LcmdUnit → LcmdUnit) (c : Chip) : (Chip.modLcmd p f c).aux = c.aux := rfl
@[simp] theorem Chip.modLcmd_snap (p : LcmdPort) (f : LcmdUnit → LcmdUnit) (c : Chip) : (Chip.modLcmd p f c).snap = c.snap := rfl
@[simp] theorem Chip.modLcmd_cap (p : LcmdPort) (f : LcmdUnit → LcmdUnit) (c : Chip) : (Chip.modLcmd p f c).cap = c.cap := rfl
@[simp] theorem Chip.modLcmd_sweep (p : LcmdPort) (f : LcmdUnit → LcmdUnit) (c : Chip) : (Chip.modLcmd p f c).sweep = c.sweep := rfl
@[simp] theorem Chip.modLcmd_sett (p : LcmdPort) (f : LcmdUnit → LcmdUnit) (c : Chip) : (Chip.modLcmd p f c).sett = c.sett := rfl
@[simp] theorem Chip.modLcmd_gauge (p : LcmdPort) (f : LcmdUnit → LcmdUnit) (c : Chip) : (Chip.modLcmd p f c).gauge = c.gauge := rfl
@[simp] theorem Chip.modLcmd_guards (p : LcmdPort) (f : LcmdUnit → LcmdUnit) (c : Chip) : (Chip.modLcmd p f c).guards = c.guards := rfl
@[simp] theorem Chip.modLcmd_eva (p : LcmdPort) (f : LcmdUnit → LcmdUnit) (c : Chip) : (Chip.modLcmd p f c).eva = c.eva := rfl
@[simp] theorem Chip.modLcmd_trace (p : LcmdPort) (f : LcmdUnit → LcmdUnit) (c : Chip) : (Chip.modLcmd p f c).trace = c.trace := rfl
@[simp] theorem Chip.modLcmd_obs (p : LcmdPort) (f : LcmdUnit → LcmdUnit) (c : Chip) : (Chip.modLcmd p f c).obs = c.obs := rfl
@[simp] theorem Chip.modLcmd_mbx (p : LcmdPort) (f : LcmdUnit → LcmdUnit) (c : Chip) : (Chip.modLcmd p f c).mbx = c.mbx := rfl
@[simp] theorem Chip.modLcmd_dom (p : LcmdPort) (f : LcmdUnit → LcmdUnit) (c : Chip) : (Chip.modLcmd p f c).dom = c.dom := rfl
@[simp] theorem Chip.modLcmd_nv (p : LcmdPort) (f : LcmdUnit → LcmdUnit) (c : Chip) : (Chip.modLcmd p f c).nv = c.nv := rfl
@[simp] theorem Chip.modLcmd_cal (p : LcmdPort) (f : LcmdUnit → LcmdUnit) (c : Chip) : (Chip.modLcmd p f c).cal = c.cal := rfl
@[simp] theorem Chip.modLcmd_log (p : LcmdPort) (f : LcmdUnit → LcmdUnit) (c : Chip) : (Chip.modLcmd p f c).log = c.log := rfl
@[simp] theorem Chip.modLcmd_host (p : LcmdPort) (f : LcmdUnit → LcmdUnit) (c : Chip) : (Chip.modLcmd p f c).host = c.host := rfl
@[simp] theorem Chip.modLcmd_latch (p : LcmdPort) (f : LcmdUnit → LcmdUnit) (c : Chip) : (Chip.modLcmd p f c).latch = c.latch := rfl
@[simp] theorem Chip.modLcmd_draws (p : LcmdPort) (f : LcmdUnit → LcmdUnit) (c : Chip) : (Chip.modLcmd p f c).draws = c.draws := rfl

/-! ### modGuard -/

@[simp] theorem Chip.modGuard_sys (b : Block) (f : Guard → Guard) (c : Chip) : (Chip.modGuard b f c).sys = c.sys := rfl
@[simp] theorem Chip.modGuard_code (b : Block) (f : Guard → Guard) (c : Chip) : (Chip.modGuard b f c).code = c.code := rfl
@[simp] theorem Chip.modGuard_tb (b : Block) (f : Guard → Guard) (c : Chip) : (Chip.modGuard b f c).tb = c.tb := rfl
@[simp] theorem Chip.modGuard_ph (b : Block) (f : Guard → Guard) (c : Chip) : (Chip.modGuard b f c).ph = c.ph := rfl
@[simp] theorem Chip.modGuard_grp (b : Block) (f : Guard → Guard) (c : Chip) : (Chip.modGuard b f c).grp = c.grp := rfl
@[simp] theorem Chip.modGuard_le (b : Block) (f : Guard → Guard) (c : Chip) : (Chip.modGuard b f c).le = c.le := rfl
@[simp] theorem Chip.modGuard_setpt (b : Block) (f : Guard → Guard) (c : Chip) : (Chip.modGuard b f c).setpt = c.setpt := rfl
@[simp] theorem Chip.modGuard_lcmd (b : Block) (f : Guard → Guard) (c : Chip) : (Chip.modGuard b f c).lcmd = c.lcmd := rfl
@[simp] theorem Chip.modGuard_refs (b : Block) (f : Guard → Guard) (c : Chip) : (Chip.modGuard b f c).refs = c.refs := rfl
@[simp] theorem Chip.modGuard_aux (b : Block) (f : Guard → Guard) (c : Chip) : (Chip.modGuard b f c).aux = c.aux := rfl
@[simp] theorem Chip.modGuard_snap (b : Block) (f : Guard → Guard) (c : Chip) : (Chip.modGuard b f c).snap = c.snap := rfl
@[simp] theorem Chip.modGuard_cap (b : Block) (f : Guard → Guard) (c : Chip) : (Chip.modGuard b f c).cap = c.cap := rfl
@[simp] theorem Chip.modGuard_sweep (b : Block) (f : Guard → Guard) (c : Chip) : (Chip.modGuard b f c).sweep = c.sweep := rfl
@[simp] theorem Chip.modGuard_sett (b : Block) (f : Guard → Guard) (c : Chip) : (Chip.modGuard b f c).sett = c.sett := rfl
@[simp] theorem Chip.modGuard_gauge (b : Block) (f : Guard → Guard) (c : Chip) : (Chip.modGuard b f c).gauge = c.gauge := rfl
@[simp] theorem Chip.modGuard_guards (b : Block) (f : Guard → Guard) (c : Chip) : (Chip.modGuard b f c).guards = vmod c.guards b f := rfl
@[simp] theorem Chip.modGuard_eva (b : Block) (f : Guard → Guard) (c : Chip) : (Chip.modGuard b f c).eva = c.eva := rfl
@[simp] theorem Chip.modGuard_trace (b : Block) (f : Guard → Guard) (c : Chip) : (Chip.modGuard b f c).trace = c.trace := rfl
@[simp] theorem Chip.modGuard_obs (b : Block) (f : Guard → Guard) (c : Chip) : (Chip.modGuard b f c).obs = c.obs := rfl
@[simp] theorem Chip.modGuard_mbx (b : Block) (f : Guard → Guard) (c : Chip) : (Chip.modGuard b f c).mbx = c.mbx := rfl
@[simp] theorem Chip.modGuard_dom (b : Block) (f : Guard → Guard) (c : Chip) : (Chip.modGuard b f c).dom = c.dom := rfl
@[simp] theorem Chip.modGuard_nv (b : Block) (f : Guard → Guard) (c : Chip) : (Chip.modGuard b f c).nv = c.nv := rfl
@[simp] theorem Chip.modGuard_cal (b : Block) (f : Guard → Guard) (c : Chip) : (Chip.modGuard b f c).cal = c.cal := rfl
@[simp] theorem Chip.modGuard_log (b : Block) (f : Guard → Guard) (c : Chip) : (Chip.modGuard b f c).log = c.log := rfl
@[simp] theorem Chip.modGuard_host (b : Block) (f : Guard → Guard) (c : Chip) : (Chip.modGuard b f c).host = c.host := rfl
@[simp] theorem Chip.modGuard_latch (b : Block) (f : Guard → Guard) (c : Chip) : (Chip.modGuard b f c).latch = c.latch := rfl
@[simp] theorem Chip.modGuard_draws (b : Block) (f : Guard → Guard) (c : Chip) : (Chip.modGuard b f c).draws = c.draws := rfl

/-! ### onSett -/

@[simp] theorem Chip.onSett_sys (f : SettUnit → SettUnit) (c : Chip) : (Chip.onSett f c).sys = c.sys := rfl
@[simp] theorem Chip.onSett_code (f : SettUnit → SettUnit) (c : Chip) : (Chip.onSett f c).code = c.code := rfl
@[simp] theorem Chip.onSett_tb (f : SettUnit → SettUnit) (c : Chip) : (Chip.onSett f c).tb = c.tb := rfl
@[simp] theorem Chip.onSett_ph (f : SettUnit → SettUnit) (c : Chip) : (Chip.onSett f c).ph = c.ph := rfl
@[simp] theorem Chip.onSett_grp (f : SettUnit → SettUnit) (c : Chip) : (Chip.onSett f c).grp = c.grp := rfl
@[simp] theorem Chip.onSett_le (f : SettUnit → SettUnit) (c : Chip) : (Chip.onSett f c).le = c.le := rfl
@[simp] theorem Chip.onSett_setpt (f : SettUnit → SettUnit) (c : Chip) : (Chip.onSett f c).setpt = c.setpt := rfl
@[simp] theorem Chip.onSett_lcmd (f : SettUnit → SettUnit) (c : Chip) : (Chip.onSett f c).lcmd = c.lcmd := rfl
@[simp] theorem Chip.onSett_refs (f : SettUnit → SettUnit) (c : Chip) : (Chip.onSett f c).refs = c.refs := rfl
@[simp] theorem Chip.onSett_aux (f : SettUnit → SettUnit) (c : Chip) : (Chip.onSett f c).aux = c.aux := rfl
@[simp] theorem Chip.onSett_snap (f : SettUnit → SettUnit) (c : Chip) : (Chip.onSett f c).snap = c.snap := rfl
@[simp] theorem Chip.onSett_cap (f : SettUnit → SettUnit) (c : Chip) : (Chip.onSett f c).cap = c.cap := rfl
@[simp] theorem Chip.onSett_sweep (f : SettUnit → SettUnit) (c : Chip) : (Chip.onSett f c).sweep = c.sweep := rfl
@[simp] theorem Chip.onSett_sett (f : SettUnit → SettUnit) (c : Chip) : (Chip.onSett f c).sett = f c.sett := rfl
@[simp] theorem Chip.onSett_gauge (f : SettUnit → SettUnit) (c : Chip) : (Chip.onSett f c).gauge = c.gauge := rfl
@[simp] theorem Chip.onSett_guards (f : SettUnit → SettUnit) (c : Chip) : (Chip.onSett f c).guards = c.guards := rfl
@[simp] theorem Chip.onSett_eva (f : SettUnit → SettUnit) (c : Chip) : (Chip.onSett f c).eva = c.eva := rfl
@[simp] theorem Chip.onSett_trace (f : SettUnit → SettUnit) (c : Chip) : (Chip.onSett f c).trace = c.trace := rfl
@[simp] theorem Chip.onSett_obs (f : SettUnit → SettUnit) (c : Chip) : (Chip.onSett f c).obs = c.obs := rfl
@[simp] theorem Chip.onSett_mbx (f : SettUnit → SettUnit) (c : Chip) : (Chip.onSett f c).mbx = c.mbx := rfl
@[simp] theorem Chip.onSett_dom (f : SettUnit → SettUnit) (c : Chip) : (Chip.onSett f c).dom = c.dom := rfl
@[simp] theorem Chip.onSett_nv (f : SettUnit → SettUnit) (c : Chip) : (Chip.onSett f c).nv = c.nv := rfl
@[simp] theorem Chip.onSett_cal (f : SettUnit → SettUnit) (c : Chip) : (Chip.onSett f c).cal = c.cal := rfl
@[simp] theorem Chip.onSett_log (f : SettUnit → SettUnit) (c : Chip) : (Chip.onSett f c).log = c.log := rfl
@[simp] theorem Chip.onSett_host (f : SettUnit → SettUnit) (c : Chip) : (Chip.onSett f c).host = c.host := rfl
@[simp] theorem Chip.onSett_latch (f : SettUnit → SettUnit) (c : Chip) : (Chip.onSett f c).latch = c.latch := rfl
@[simp] theorem Chip.onSett_draws (f : SettUnit → SettUnit) (c : Chip) : (Chip.onSett f c).draws = c.draws := rfl

/-! ### modCan -/

@[simp] theorem Chip.modCan_sys (p : CanPort) (f : CanUnit → CanUnit) (c : Chip) : (Chip.modCan p f c).sys = c.sys := rfl
@[simp] theorem Chip.modCan_code (p : CanPort) (f : CanUnit → CanUnit) (c : Chip) : (Chip.modCan p f c).code = c.code := rfl
@[simp] theorem Chip.modCan_tb (p : CanPort) (f : CanUnit → CanUnit) (c : Chip) : (Chip.modCan p f c).tb = c.tb := rfl
@[simp] theorem Chip.modCan_ph (p : CanPort) (f : CanUnit → CanUnit) (c : Chip) : (Chip.modCan p f c).ph = c.ph := rfl
@[simp] theorem Chip.modCan_grp (p : CanPort) (f : CanUnit → CanUnit) (c : Chip) : (Chip.modCan p f c).grp = c.grp := rfl
@[simp] theorem Chip.modCan_le (p : CanPort) (f : CanUnit → CanUnit) (c : Chip) : (Chip.modCan p f c).le = c.le := rfl
@[simp] theorem Chip.modCan_setpt (p : CanPort) (f : CanUnit → CanUnit) (c : Chip) : (Chip.modCan p f c).setpt = c.setpt := rfl
@[simp] theorem Chip.modCan_lcmd (p : CanPort) (f : CanUnit → CanUnit) (c : Chip) : (Chip.modCan p f c).lcmd = c.lcmd := rfl
@[simp] theorem Chip.modCan_refs (p : CanPort) (f : CanUnit → CanUnit) (c : Chip) : (Chip.modCan p f c).refs = c.refs := rfl
@[simp] theorem Chip.modCan_aux (p : CanPort) (f : CanUnit → CanUnit) (c : Chip) : (Chip.modCan p f c).aux = c.aux := rfl
@[simp] theorem Chip.modCan_snap (p : CanPort) (f : CanUnit → CanUnit) (c : Chip) : (Chip.modCan p f c).snap = c.snap := rfl
@[simp] theorem Chip.modCan_cap (p : CanPort) (f : CanUnit → CanUnit) (c : Chip) : (Chip.modCan p f c).cap = c.cap := rfl
@[simp] theorem Chip.modCan_sweep (p : CanPort) (f : CanUnit → CanUnit) (c : Chip) : (Chip.modCan p f c).sweep = c.sweep := rfl
@[simp] theorem Chip.modCan_sett (p : CanPort) (f : CanUnit → CanUnit) (c : Chip) : (Chip.modCan p f c).sett = c.sett := rfl
@[simp] theorem Chip.modCan_gauge (p : CanPort) (f : CanUnit → CanUnit) (c : Chip) : (Chip.modCan p f c).gauge = c.gauge := rfl
@[simp] theorem Chip.modCan_guards (p : CanPort) (f : CanUnit → CanUnit) (c : Chip) : (Chip.modCan p f c).guards = c.guards := rfl
@[simp] theorem Chip.modCan_eva (p : CanPort) (f : CanUnit → CanUnit) (c : Chip) : (Chip.modCan p f c).eva = c.eva := rfl
@[simp] theorem Chip.modCan_trace (p : CanPort) (f : CanUnit → CanUnit) (c : Chip) : (Chip.modCan p f c).trace = c.trace := rfl
@[simp] theorem Chip.modCan_obs (p : CanPort) (f : CanUnit → CanUnit) (c : Chip) : (Chip.modCan p f c).obs = c.obs := rfl
@[simp] theorem Chip.modCan_mbx (p : CanPort) (f : CanUnit → CanUnit) (c : Chip) : (Chip.modCan p f c).mbx = c.mbx := rfl
@[simp] theorem Chip.modCan_dom (p : CanPort) (f : CanUnit → CanUnit) (c : Chip) : (Chip.modCan p f c).dom = c.dom := rfl
@[simp] theorem Chip.modCan_nv (p : CanPort) (f : CanUnit → CanUnit) (c : Chip) : (Chip.modCan p f c).nv = c.nv := rfl
@[simp] theorem Chip.modCan_cal (p : CanPort) (f : CanUnit → CanUnit) (c : Chip) : (Chip.modCan p f c).cal = c.cal := rfl
@[simp] theorem Chip.modCan_log (p : CanPort) (f : CanUnit → CanUnit) (c : Chip) : (Chip.modCan p f c).log = c.log := rfl
@[simp] theorem Chip.modCan_host (p : CanPort) (f : CanUnit → CanUnit) (c : Chip) : (Chip.modCan p f c).host = { c.host with ports := vmod c.host.ports p f } := rfl
@[simp] theorem Chip.modCan_latch (p : CanPort) (f : CanUnit → CanUnit) (c : Chip) : (Chip.modCan p f c).latch = c.latch := rfl
@[simp] theorem Chip.modCan_draws (p : CanPort) (f : CanUnit → CanUnit) (c : Chip) : (Chip.modCan p f c).draws = c.draws := rfl

/-! ### modDom -/

@[simp] theorem Chip.modDom_sys (k : Fin 3) (f : DomainUnit → DomainUnit) (c : Chip) : (Chip.modDom k f c).sys = c.sys := rfl
@[simp] theorem Chip.modDom_code (k : Fin 3) (f : DomainUnit → DomainUnit) (c : Chip) : (Chip.modDom k f c).code = c.code := rfl
@[simp] theorem Chip.modDom_tb (k : Fin 3) (f : DomainUnit → DomainUnit) (c : Chip) : (Chip.modDom k f c).tb = c.tb := rfl
@[simp] theorem Chip.modDom_ph (k : Fin 3) (f : DomainUnit → DomainUnit) (c : Chip) : (Chip.modDom k f c).ph = c.ph := rfl
@[simp] theorem Chip.modDom_grp (k : Fin 3) (f : DomainUnit → DomainUnit) (c : Chip) : (Chip.modDom k f c).grp = c.grp := rfl
@[simp] theorem Chip.modDom_le (k : Fin 3) (f : DomainUnit → DomainUnit) (c : Chip) : (Chip.modDom k f c).le = c.le := rfl
@[simp] theorem Chip.modDom_setpt (k : Fin 3) (f : DomainUnit → DomainUnit) (c : Chip) : (Chip.modDom k f c).setpt = c.setpt := rfl
@[simp] theorem Chip.modDom_lcmd (k : Fin 3) (f : DomainUnit → DomainUnit) (c : Chip) : (Chip.modDom k f c).lcmd = c.lcmd := rfl
@[simp] theorem Chip.modDom_refs (k : Fin 3) (f : DomainUnit → DomainUnit) (c : Chip) : (Chip.modDom k f c).refs = c.refs := rfl
@[simp] theorem Chip.modDom_aux (k : Fin 3) (f : DomainUnit → DomainUnit) (c : Chip) : (Chip.modDom k f c).aux = c.aux := rfl
@[simp] theorem Chip.modDom_snap (k : Fin 3) (f : DomainUnit → DomainUnit) (c : Chip) : (Chip.modDom k f c).snap = c.snap := rfl
@[simp] theorem Chip.modDom_cap (k : Fin 3) (f : DomainUnit → DomainUnit) (c : Chip) : (Chip.modDom k f c).cap = c.cap := rfl
@[simp] theorem Chip.modDom_sweep (k : Fin 3) (f : DomainUnit → DomainUnit) (c : Chip) : (Chip.modDom k f c).sweep = c.sweep := rfl
@[simp] theorem Chip.modDom_sett (k : Fin 3) (f : DomainUnit → DomainUnit) (c : Chip) : (Chip.modDom k f c).sett = c.sett := rfl
@[simp] theorem Chip.modDom_gauge (k : Fin 3) (f : DomainUnit → DomainUnit) (c : Chip) : (Chip.modDom k f c).gauge = c.gauge := rfl
@[simp] theorem Chip.modDom_guards (k : Fin 3) (f : DomainUnit → DomainUnit) (c : Chip) : (Chip.modDom k f c).guards = c.guards := rfl
@[simp] theorem Chip.modDom_eva (k : Fin 3) (f : DomainUnit → DomainUnit) (c : Chip) : (Chip.modDom k f c).eva = c.eva := rfl
@[simp] theorem Chip.modDom_trace (k : Fin 3) (f : DomainUnit → DomainUnit) (c : Chip) : (Chip.modDom k f c).trace = c.trace := rfl
@[simp] theorem Chip.modDom_obs (k : Fin 3) (f : DomainUnit → DomainUnit) (c : Chip) : (Chip.modDom k f c).obs = c.obs := rfl
@[simp] theorem Chip.modDom_mbx (k : Fin 3) (f : DomainUnit → DomainUnit) (c : Chip) : (Chip.modDom k f c).mbx = c.mbx := rfl
@[simp] theorem Chip.modDom_dom (k : Fin 3) (f : DomainUnit → DomainUnit) (c : Chip) : (Chip.modDom k f c).dom = vmod c.dom k f := rfl
@[simp] theorem Chip.modDom_nv (k : Fin 3) (f : DomainUnit → DomainUnit) (c : Chip) : (Chip.modDom k f c).nv = c.nv := rfl
@[simp] theorem Chip.modDom_cal (k : Fin 3) (f : DomainUnit → DomainUnit) (c : Chip) : (Chip.modDom k f c).cal = c.cal := rfl
@[simp] theorem Chip.modDom_log (k : Fin 3) (f : DomainUnit → DomainUnit) (c : Chip) : (Chip.modDom k f c).log = c.log := rfl
@[simp] theorem Chip.modDom_host (k : Fin 3) (f : DomainUnit → DomainUnit) (c : Chip) : (Chip.modDom k f c).host = c.host := rfl
@[simp] theorem Chip.modDom_latch (k : Fin 3) (f : DomainUnit → DomainUnit) (c : Chip) : (Chip.modDom k f c).latch = c.latch := rfl
@[simp] theorem Chip.modDom_draws (k : Fin 3) (f : DomainUnit → DomainUnit) (c : Chip) : (Chip.modDom k f c).draws = c.draws := rfl

/-! ### modMbx -/

@[simp] theorem Chip.modMbx_sys (m : Fin 6) (f : MailboxUnit → MailboxUnit) (c : Chip) : (Chip.modMbx m f c).sys = c.sys := rfl
@[simp] theorem Chip.modMbx_code (m : Fin 6) (f : MailboxUnit → MailboxUnit) (c : Chip) : (Chip.modMbx m f c).code = c.code := rfl
@[simp] theorem Chip.modMbx_tb (m : Fin 6) (f : MailboxUnit → MailboxUnit) (c : Chip) : (Chip.modMbx m f c).tb = c.tb := rfl
@[simp] theorem Chip.modMbx_ph (m : Fin 6) (f : MailboxUnit → MailboxUnit) (c : Chip) : (Chip.modMbx m f c).ph = c.ph := rfl
@[simp] theorem Chip.modMbx_grp (m : Fin 6) (f : MailboxUnit → MailboxUnit) (c : Chip) : (Chip.modMbx m f c).grp = c.grp := rfl
@[simp] theorem Chip.modMbx_le (m : Fin 6) (f : MailboxUnit → MailboxUnit) (c : Chip) : (Chip.modMbx m f c).le = c.le := rfl
@[simp] theorem Chip.modMbx_setpt (m : Fin 6) (f : MailboxUnit → MailboxUnit) (c : Chip) : (Chip.modMbx m f c).setpt = c.setpt := rfl
@[simp] theorem Chip.modMbx_lcmd (m : Fin 6) (f : MailboxUnit → MailboxUnit) (c : Chip) : (Chip.modMbx m f c).lcmd = c.lcmd := rfl
@[simp] theorem Chip.modMbx_refs (m : Fin 6) (f : MailboxUnit → MailboxUnit) (c : Chip) : (Chip.modMbx m f c).refs = c.refs := rfl
@[simp] theorem Chip.modMbx_aux (m : Fin 6) (f : MailboxUnit → MailboxUnit) (c : Chip) : (Chip.modMbx m f c).aux = c.aux := rfl
@[simp] theorem Chip.modMbx_snap (m : Fin 6) (f : MailboxUnit → MailboxUnit) (c : Chip) : (Chip.modMbx m f c).snap = c.snap := rfl
@[simp] theorem Chip.modMbx_cap (m : Fin 6) (f : MailboxUnit → MailboxUnit) (c : Chip) : (Chip.modMbx m f c).cap = c.cap := rfl
@[simp] theorem Chip.modMbx_sweep (m : Fin 6) (f : MailboxUnit → MailboxUnit) (c : Chip) : (Chip.modMbx m f c).sweep = c.sweep := rfl
@[simp] theorem Chip.modMbx_sett (m : Fin 6) (f : MailboxUnit → MailboxUnit) (c : Chip) : (Chip.modMbx m f c).sett = c.sett := rfl
@[simp] theorem Chip.modMbx_gauge (m : Fin 6) (f : MailboxUnit → MailboxUnit) (c : Chip) : (Chip.modMbx m f c).gauge = c.gauge := rfl
@[simp] theorem Chip.modMbx_guards (m : Fin 6) (f : MailboxUnit → MailboxUnit) (c : Chip) : (Chip.modMbx m f c).guards = c.guards := rfl
@[simp] theorem Chip.modMbx_eva (m : Fin 6) (f : MailboxUnit → MailboxUnit) (c : Chip) : (Chip.modMbx m f c).eva = c.eva := rfl
@[simp] theorem Chip.modMbx_trace (m : Fin 6) (f : MailboxUnit → MailboxUnit) (c : Chip) : (Chip.modMbx m f c).trace = c.trace := rfl
@[simp] theorem Chip.modMbx_obs (m : Fin 6) (f : MailboxUnit → MailboxUnit) (c : Chip) : (Chip.modMbx m f c).obs = c.obs := rfl
@[simp] theorem Chip.modMbx_mbx (m : Fin 6) (f : MailboxUnit → MailboxUnit) (c : Chip) : (Chip.modMbx m f c).mbx = vmod c.mbx m f := rfl
@[simp] theorem Chip.modMbx_dom (m : Fin 6) (f : MailboxUnit → MailboxUnit) (c : Chip) : (Chip.modMbx m f c).dom = c.dom := rfl
@[simp] theorem Chip.modMbx_nv (m : Fin 6) (f : MailboxUnit → MailboxUnit) (c : Chip) : (Chip.modMbx m f c).nv = c.nv := rfl
@[simp] theorem Chip.modMbx_cal (m : Fin 6) (f : MailboxUnit → MailboxUnit) (c : Chip) : (Chip.modMbx m f c).cal = c.cal := rfl
@[simp] theorem Chip.modMbx_log (m : Fin 6) (f : MailboxUnit → MailboxUnit) (c : Chip) : (Chip.modMbx m f c).log = c.log := rfl
@[simp] theorem Chip.modMbx_host (m : Fin 6) (f : MailboxUnit → MailboxUnit) (c : Chip) : (Chip.modMbx m f c).host = c.host := rfl
@[simp] theorem Chip.modMbx_latch (m : Fin 6) (f : MailboxUnit → MailboxUnit) (c : Chip) : (Chip.modMbx m f c).latch = c.latch := rfl
@[simp] theorem Chip.modMbx_draws (m : Fin 6) (f : MailboxUnit → MailboxUnit) (c : Chip) : (Chip.modMbx m f c).draws = c.draws := rfl

/-! ### count -/

@[simp] theorem Chip.count_sys (k : Fin 32) (n : Nat) (c : Chip) : (Chip.count k n c).sys = c.sys := rfl
@[simp] theorem Chip.count_code (k : Fin 32) (n : Nat) (c : Chip) : (Chip.count k n c).code = c.code := rfl
@[simp] theorem Chip.count_tb (k : Fin 32) (n : Nat) (c : Chip) : (Chip.count k n c).tb = c.tb := rfl
@[simp] theorem Chip.count_ph (k : Fin 32) (n : Nat) (c : Chip) : (Chip.count k n c).ph = c.ph := rfl
@[simp] theorem Chip.count_grp (k : Fin 32) (n : Nat) (c : Chip) : (Chip.count k n c).grp = c.grp := rfl
@[simp] theorem Chip.count_le (k : Fin 32) (n : Nat) (c : Chip) : (Chip.count k n c).le = c.le := rfl
@[simp] theorem Chip.count_setpt (k : Fin 32) (n : Nat) (c : Chip) : (Chip.count k n c).setpt = c.setpt := rfl
@[simp] theorem Chip.count_lcmd (k : Fin 32) (n : Nat) (c : Chip) : (Chip.count k n c).lcmd = c.lcmd := rfl
@[simp] theorem Chip.count_refs (k : Fin 32) (n : Nat) (c : Chip) : (Chip.count k n c).refs = c.refs := rfl
@[simp] theorem Chip.count_aux (k : Fin 32) (n : Nat) (c : Chip) : (Chip.count k n c).aux = c.aux := rfl
@[simp] theorem Chip.count_snap (k : Fin 32) (n : Nat) (c : Chip) : (Chip.count k n c).snap = c.snap := rfl
@[simp] theorem Chip.count_cap (k : Fin 32) (n : Nat) (c : Chip) : (Chip.count k n c).cap = c.cap := rfl
@[simp] theorem Chip.count_sweep (k : Fin 32) (n : Nat) (c : Chip) : (Chip.count k n c).sweep = c.sweep := rfl
@[simp] theorem Chip.count_sett (k : Fin 32) (n : Nat) (c : Chip) : (Chip.count k n c).sett = c.sett := rfl
@[simp] theorem Chip.count_gauge (k : Fin 32) (n : Nat) (c : Chip) : (Chip.count k n c).gauge = c.gauge := rfl
@[simp] theorem Chip.count_guards (k : Fin 32) (n : Nat) (c : Chip) : (Chip.count k n c).guards = c.guards := rfl
@[simp] theorem Chip.count_eva (k : Fin 32) (n : Nat) (c : Chip) : (Chip.count k n c).eva = c.eva := rfl
@[simp] theorem Chip.count_trace (k : Fin 32) (n : Nat) (c : Chip) : (Chip.count k n c).trace = c.trace := rfl
@[simp] theorem Chip.count_obs (k : Fin 32) (n : Nat) (c : Chip) : (Chip.count k n c).obs = vmod c.obs k (· + BitVec.ofNat 48 n) := rfl
@[simp] theorem Chip.count_mbx (k : Fin 32) (n : Nat) (c : Chip) : (Chip.count k n c).mbx = c.mbx := rfl
@[simp] theorem Chip.count_dom (k : Fin 32) (n : Nat) (c : Chip) : (Chip.count k n c).dom = c.dom := rfl
@[simp] theorem Chip.count_nv (k : Fin 32) (n : Nat) (c : Chip) : (Chip.count k n c).nv = c.nv := rfl
@[simp] theorem Chip.count_cal (k : Fin 32) (n : Nat) (c : Chip) : (Chip.count k n c).cal = c.cal := rfl
@[simp] theorem Chip.count_log (k : Fin 32) (n : Nat) (c : Chip) : (Chip.count k n c).log = c.log := rfl
@[simp] theorem Chip.count_host (k : Fin 32) (n : Nat) (c : Chip) : (Chip.count k n c).host = c.host := rfl
@[simp] theorem Chip.count_latch (k : Fin 32) (n : Nat) (c : Chip) : (Chip.count k n c).latch = c.latch := rfl
@[simp] theorem Chip.count_draws (k : Fin 32) (n : Nat) (c : Chip) : (Chip.count k n c).draws = c.draws := rfl

/-! ### bump -/

@[simp] theorem Chip.bump_sys (k : Counter) (n : Nat) (c : Chip) : (Chip.bump k n c).sys = c.sys := rfl
@[simp] theorem Chip.bump_code (k : Counter) (n : Nat) (c : Chip) : (Chip.bump k n c).code = c.code := rfl
@[simp] theorem Chip.bump_tb (k : Counter) (n : Nat) (c : Chip) : (Chip.bump k n c).tb = c.tb := rfl
@[simp] theorem Chip.bump_ph (k : Counter) (n : Nat) (c : Chip) : (Chip.bump k n c).ph = c.ph := rfl
@[simp] theorem Chip.bump_grp (k : Counter) (n : Nat) (c : Chip) : (Chip.bump k n c).grp = c.grp := rfl
@[simp] theorem Chip.bump_le (k : Counter) (n : Nat) (c : Chip) : (Chip.bump k n c).le = c.le := rfl
@[simp] theorem Chip.bump_setpt (k : Counter) (n : Nat) (c : Chip) : (Chip.bump k n c).setpt = c.setpt := rfl
@[simp] theorem Chip.bump_lcmd (k : Counter) (n : Nat) (c : Chip) : (Chip.bump k n c).lcmd = c.lcmd := rfl
@[simp] theorem Chip.bump_refs (k : Counter) (n : Nat) (c : Chip) : (Chip.bump k n c).refs = c.refs := rfl
@[simp] theorem Chip.bump_aux (k : Counter) (n : Nat) (c : Chip) : (Chip.bump k n c).aux = c.aux := rfl
@[simp] theorem Chip.bump_snap (k : Counter) (n : Nat) (c : Chip) : (Chip.bump k n c).snap = c.snap := rfl
@[simp] theorem Chip.bump_cap (k : Counter) (n : Nat) (c : Chip) : (Chip.bump k n c).cap = c.cap := rfl
@[simp] theorem Chip.bump_sweep (k : Counter) (n : Nat) (c : Chip) : (Chip.bump k n c).sweep = c.sweep := rfl
@[simp] theorem Chip.bump_sett (k : Counter) (n : Nat) (c : Chip) : (Chip.bump k n c).sett = c.sett := rfl
@[simp] theorem Chip.bump_gauge (k : Counter) (n : Nat) (c : Chip) : (Chip.bump k n c).gauge = c.gauge := rfl
@[simp] theorem Chip.bump_guards (k : Counter) (n : Nat) (c : Chip) : (Chip.bump k n c).guards = c.guards := rfl
@[simp] theorem Chip.bump_eva (k : Counter) (n : Nat) (c : Chip) : (Chip.bump k n c).eva = c.eva := rfl
@[simp] theorem Chip.bump_trace (k : Counter) (n : Nat) (c : Chip) : (Chip.bump k n c).trace = c.trace := rfl
@[simp] theorem Chip.bump_obs (k : Counter) (n : Nat) (c : Chip) : (Chip.bump k n c).obs = c.obs := rfl
@[simp] theorem Chip.bump_mbx (k : Counter) (n : Nat) (c : Chip) : (Chip.bump k n c).mbx = c.mbx := rfl
@[simp] theorem Chip.bump_dom (k : Counter) (n : Nat) (c : Chip) : (Chip.bump k n c).dom = c.dom := rfl
@[simp] theorem Chip.bump_nv (k : Counter) (n : Nat) (c : Chip) : (Chip.bump k n c).nv = { c.nv with pending := vmod c.nv.pending k (· + n) } := rfl
@[simp] theorem Chip.bump_cal (k : Counter) (n : Nat) (c : Chip) : (Chip.bump k n c).cal = c.cal := rfl
@[simp] theorem Chip.bump_log (k : Counter) (n : Nat) (c : Chip) : (Chip.bump k n c).log = c.log := rfl
@[simp] theorem Chip.bump_host (k : Counter) (n : Nat) (c : Chip) : (Chip.bump k n c).host = c.host := rfl
@[simp] theorem Chip.bump_latch (k : Counter) (n : Nat) (c : Chip) : (Chip.bump k n c).latch = c.latch := rfl
@[simp] theorem Chip.bump_draws (k : Counter) (n : Nat) (c : Chip) : (Chip.bump k n c).draws = c.draws := rfl

end Sys2Proof.Machine
end

