-- ==== Sys2Proof/Laws/Effects.lean ====
section
/-!
SUPPORT. What the shared operations do: a grant, a trace record, an observation counter, a history entry, a warning and a fault.
-/

-- one theorem after another: the checks of a large package would else hold too many threads at once
set_option Elab.async false

namespace Sys2Proof.Machine
open Sys2Proof

/-- What a move leaves alone, part by part. -/
theorem Moves.same {ps : List Part} {c d : Chip} (h : Moves ps c d) (p : Part) (hp : p ∉ ps := by decide) : p.Same c d :=
  h.keep.same p hp

/-- What holds of an element of a vector holds of it in an equal one. -/
theorem at_of_eq {α : Type} {n : Nat} {v w : Vector α n} (h : v = w) (i : Fin n) (P : α → Prop) (k : P w[i]) : P v[i] := h ▸ k

/-! ### Counters and the trace port -/

theorem count_self (k : Fin 32) (n : Nat) (c : Chip) : (c.count k n).obs[k] = c.obs[k] + BitVec.ofNat 48 n := vmod_self ..

theorem count_other {k j : Fin 32} (n : Nat) (c : Chip) (h : k ≠ j) : (c.count k n).obs[j] = c.obs[j] := vmod_other _ _ _ _ h

/-- Queueing a trace record moves no observation counter but 2. -/
theorem pushTrace_obs (r : TraceRec) (c : Chip) {j : Fin 32} (h : j ≠ 2) : (c.pushTrace r).obs[j] = c.obs[j] := by
  have h' : (2 : Fin 32) ≠ j := fun e => h e.symm
  unfold Chip.pushTrace
  extract_lets t n drop lost t'
  have hd : ∀ u, (drop u).obs[j] = c.obs[j] := fun u => by
    unfold drop
    rw [count_other _ _ h']
  split
  · rfl
  · split
    · exact hd _
    · split
      · rfl
      · split
        · exact hd _
        · rfl

/-! ### Grants -/

/-- A grant moves EVSEQ by one (R60). -/
theorem grantAs_granted (input : Nat) (i : GrantInfo) (c : Chip) : Granted c (c.grantAs input i) := by
  unfold Chip.grantAs
  extract_lets seq wrap s eva x
  have e : (x.pushTrace ⟨i.kind, i.src, i.info, seq, BitVec.ofNat 32 x.tb.count, i.data⟩).eva = x.eva := (Chip.pushTrace_moves ..).same .eva
  unfold Granted
  rw [e]
  show eva.seq = c.eva.seq + 1
  unfold eva
  split <;> rfl

theorem grantAs_obs (input : Nat) (i : GrantInfo) (c : Chip) {j : Fin 32} (h0 : j ≠ 0) (h2 : j ≠ 2) :
    (c.grantAs input i).obs[j] = c.obs[j] := by
  unfold Chip.grantAs
  extract_lets seq wrap s eva x
  rw [pushTrace_obs _ _ h2]
  unfold x
  rw [count_other _ _ (fun e => h0 e.symm)]

theorem grant_granted (input member : Nat) (c : Chip) : Granted c (c.grant input member) := grantAs_granted ..

theorem grant_obs (input member : Nat) (c : Chip) {j : Fin 32} (h0 : j ≠ 0) (h2 : j ≠ 2) :
    (c.grant input member).obs[j] = c.obs[j] := grantAs_obs _ _ _ h0 h2

/-! ### History, warnings and faults -/

/-- A history entry: its block's guard changes in TOTAL, the ring and its newest place; every other block's stays. -/
theorem writeHist_guards (b : Block) (k : HistKind) (cl : Cls) (code unit : Nat) (d0 : Word) (inj : Bool) (c : Chip) :
    ∃ n h, (c.writeHist b k cl code unit d0 inj).guards =
      vmod c.guards b (fun g => { g with total := g.total + 1, newest := n, hist := h }) := by
  unfold Chip.writeHist
  extract_lets d1 e x
  have hx : (x.addLog b.val code (clsCode cl * 64 + histCode k) unit inj (cl != .c) (leBytes 4 d0.toNat ++ leBytes 4 d1.toNat)).guards
      = x.guards := (Chip.addLog_moves ..).same .guards
  rw [hx]
  exact ⟨_, _, rfl⟩

/-- A warning at its grant (R498, R500). -/
theorem raiseC_warned (b : Block) (code unit : Nat) (d0 : Word) (inj : Bool) (c : Chip) :
    Warned b code c (c.raiseC b code unit d0 inj) := by
  unfold Chip.raiseC
  extract_lets x y
  have hobs : y.obs[(19 : Fin 32)] = c.obs[(19 : Fin 32)] + 1 := by
    unfold y
    rw [count_self]
    have : (x.modGuard b (fun g => { g with c := true, cCode := code, cUnit := unit })).obs = x.obs := rfl
    rw [this]
    have hx : x.obs = (c.grantAs b (guardInfo b .warn .c code d0 inj)).obs := (Chip.writeHist_moves ..).same .obs
    rw [hx, grantAs_obs _ _ _ (by decide) (by decide)]
    rfl
  have heva : y.eva.seq = c.eva.seq + 1 := by
    have h1 : y.eva = x.eva := (Chip.count_moves 19 1 _).same .eva
    have h2 : x.eva = (c.grantAs b (guardInfo b .warn .c code d0 inj)).eva := (Chip.writeHist_moves ..).same .eva
    rw [h1, h2]
    exact grantAs_granted ..
  have hg : y.guards = vmod x.guards b (fun g => { g with c := true, cCode := code, cUnit := unit }) := rfl
  have key : (y.guards[b]).c = true ∧ (y.guards[b]).cCode = code := by
    rw [hg, vmod_self]; exact ⟨rfl, rfl⟩
  split
  · exact ⟨key.1, key.2, hobs, heva⟩
  · exact ⟨key.1, key.2, hobs, heva⟩

theorem warn_warned (b : Block) (code unit : Nat) (c : Chip) : Warned b code c (c.warn b code unit) := raiseC_warned ..

/-- The record of a Class B raise holds the fault (R498, R499). -/
theorem recordB_holds (b : Block) (code unit : Nat) (d0 : Word) (inj : Bool) (c : Chip) :
    Holds b code unit (c.recordB b code unit d0 inj) := by
  unfold Chip.recordB
  extract_lets here x y z gs w
  have hy : Holds b code unit y := by
    refine ⟨⟨code, unit, x.eva.seq, x.tb.count, here, inj⟩, ?_, rfl, rfl⟩
    have : y.guards = (x.modGuard b (fun g => { g with
      lastB := x.tb.count
      concerned := g.concerned ++ (x.concerns b code unit).filter (fun k => !g.concerned.contains k)
      faults := g.faults ++ [⟨code, unit, x.eva.seq, x.tb.count, here, inj⟩] })).guards := rfl
    rw [this, Chip.modGuard_guards, vmod_self]
    exact List.mem_append_right _ List.mem_cons_self
  have hz : z.guards = y.guards := by unfold z; split <;> rfl
  have hw : w.guards = z.guards := by
    unfold w
    split
    · rfl
    · exact (Chip.discard_moves z).same .guards
  have hv : (w.queueFrame (w.faultFrame b .b code unit d0 (!gs.isEmpty) (w.takenB gs))).guards = w.guards := (Chip.queueFrame_moves ..).same .guards
  unfold Holds
  rw [hv, hw, hz]
  exact hy

/-- A raise of a fault that stands leaves it held. -/
theorem againB_holds (b : Block) (code unit : Nat) (inj : Bool) (c : Chip) (h : c.stands b code unit = true) :
    Holds b code unit (c.againB b code unit inj) := by
  obtain ⟨f, hf, e⟩ := List.any_eq_true.1 h
  refine ⟨if f.code = code ∧ f.unit = unit then { f with present := f.present || c.hereNow b code unit inj } else f, ?_, ?_⟩
  · unfold Chip.againB
    rw [Chip.modGuard_guards, vmod_self]
    exact List.mem_map_of_mem hf
  · simp only [Bool.and_eq_true, beq_iff_eq] at e
    rw [if_pos e]
    exact e

/-- A Class B fault other than an OV, once raised, is held until it is cleared (R498). -/
theorem raiseB_holds (b : Block) (code unit : Nat) (d0 : Word) (inj : Bool) (c : Chip) (h : code ≠ 0x20) :
    Holds b code unit (c.raiseB b code unit d0 inj) := by
  unfold Chip.raiseB
  rw [if_neg h]
  split
  · rename_i s
    exact againB_holds b code unit inj c s
  · have hl : ((c.recordB b code unit d0 inj).reactB b code unit).guards = (c.recordB b code unit d0 inj).guards :=
      (Chip.reactB_moves ..).same .guards
    unfold Holds
    rw [hl]
    exact recordB_holds b code unit d0 inj c

theorem faultB_holds (b : Block) (code unit : Nat) (c : Chip) (h : code ≠ 0x20) : Holds b code unit (c.faultB b code unit) :=
  raiseB_holds _ _ _ _ _ _ h

/-- A group whose OV request waits holds its OV once the request is granted (R65, R498). -/
theorem ovRecord_holds (g : Group) (w : Word) (inj : Bool) (c : Chip) (h : (c.grp[g]).conv.ovReq = some (w, inj)) :
    Holds (grpBlock g) 0x20 g.val (c.ovRecord g) := by
  unfold Chip.ovRecord
  rw [h]
  dsimp only
  generalize hk : c.modGv g _ = d
  by_cases s : d.stands (grpBlock g) 0x20 g.val = true
  · rw [if_pos s]
    exact againB_holds _ _ _ _ _ s
  · rw [if_neg s]
    exact recordB_holds ..

/-- A Class A fault, once raised, is latched in its block (R498, R506). -/
theorem raiseA_latched (b : Block) (code unit : Nat) (d0 : Word) (inj : Bool) (c : Chip) :
    ((c.raiseA b code unit d0 inj).guards[b]).aCode = code := by
  unfold Chip.raiseA
  extract_lets stands x y z w v u
  have hs : stands = true → (c.guards[b]).aCode = code := of_decide_eq_true
  have hx : x.guards = c.guards := (Chip.stopAll_moves ..).same .guards
  have hz : (z.guards[b]).aCode = code := by
    show ((y.modGuard b (fun g => { g with aCode := code })).guards[b]).aCode = code
    rw [Chip.modGuard_guards, vmod_self]
  have hw : w.guards = z.guards := by unfold w; split <;> rfl
  have hv : v.guards = w.guards := (Chip.discard_moves ..).same .guards
  have hu : u.guards = v.guards := (Chip.queueFrame_moves ..).same .guards
  have hd : u.deviceToSafe.guards = u.guards := (Chip.deviceToSafe_moves ..).same .guards
  clear_value u v w z y x stands
  split
  · rename_i h
    exact at_of_eq hx b (fun g => g.aCode = code) (hs h)
  · exact at_of_eq (hd.trans (hu.trans (hv.trans hw))) b (fun g => g.aCode = code) hz

/-! ### Modes -/

/-- No group's mode differs. -/
def SameModes (c d : Chip) : Prop := ∀ j : Group, (d.grp[j]).mode = (c.grp[j]).mode

theorem sameModes_refl (c : Chip) : SameModes c c := fun _ => rfl

theorem sameModes_trans {c d e : Chip} (h : SameModes c d) (k : SameModes d e) : SameModes c e := fun j => (k j).trans (h j)

theorem sameModes_of_eq {c d : Chip} (h : d.grp = c.grp) : SameModes c d := fun j => by rw [h]

theorem sameModes_modGrp {g : Group} {f : GroupUnit → GroupUnit} {c : Chip} (h : ∀ u, (f u).mode = u.mode) :
    SameModes c (c.modGrp g f) := fun j => by
  rw [Chip.modGrp_grp]
  by_cases e : g = j
  · subst e; rw [vmod_self]; exact h _
  · rw [vmod_other _ _ _ _ e]

theorem closePreps_modes (g : Group) (c : Chip) : SameModes c (c.closePreps g) := by
  unfold Chip.closePreps
  split
  · exact sameModes_refl c
  · extract_lets x
    refine sameModes_trans (d := c.modGrp g (fun u => { u with preps := [] })) (sameModes_modGrp fun _ => rfl) ?_
    exact sameModes_trans (sameModes_of_eq ((Chip.present_moves ..).same .grp)) (sameModes_of_eq ((Chip.sendFloors_moves ..).same .grp))

theorem applySelection_modes (g : Group) (c : Chip) : SameModes c (c.applySelection g) := by
  unfold Chip.applySelection
  extract_lets
  refine sameModes_trans (d := c.modGrp g (fun u => { u with selWait := false })) (sameModes_modGrp fun _ => rfl) ?_
  exact sameModes_of_eq ((Chip.present_moves ..).same .grp)

theorem startGroup_modes (g : Group) (c : Chip) : SameModes c (c.startGroup g) := by
  unfold Chip.startGroup
  extract_lets x y ps z ti
  refine sameModes_trans (d := z) (sameModes_of_eq ?_) (sameModes_modGrp fun _ => rfl)
  have hx : x.grp = c.grp := (Chip.modEngines_moves ..).same .grp
  have hy : y.grp = x.grp := by
    exact (moves_foldl (ps := [.ph]) _ (fun c p => Chip.modPl p (fun u => { u with demand := 0, on := 0 }) c) (moves_refl _ x)
      (fun d p => Chip.modPl_moves ..)).same .grp
  have hz : z.grp = y.grp :=
    (moves_foldl (ps := [.ph, .obs]) _ (fun c p => Chip.setPstate p .adding c) (moves_refl _ y) (fun d p => Chip.setPstate_moves ..)).same .grp
  rw [hz, hy, hx]

theorem leaveMode_modes (g : Group) (old m : Mode) (c : Chip) : SameModes c (c.leaveMode g old m) := by
  unfold Chip.leaveMode
  extract_lets x y w z
  have hx : SameModes c x := by
    unfold x
    split
    · exact sameModes_trans (closePreps_modes g c) (sameModes_of_eq ((Chip.modEngines_moves ..).same .grp))
    · exact sameModes_refl c
  have hy : SameModes x y := by
    unfold y
    split
    · exact sameModes_of_eq ((Chip.modEngines_moves ..).same .grp)
    · exact sameModes_refl x
  have hw : SameModes y w := by
    unfold w
    split
    · exact applySelection_modes g y
    · exact sameModes_refl y
  have hz : SameModes w z := by
    unfold z
    split
    · exact sameModes_of_eq ((Chip.present_moves ..).same .grp)
    · exact sameModes_refl w
  refine sameModes_trans (sameModes_trans (sameModes_trans (sameModes_trans hx hy) hw) hz) ?_
  split
  · exact sameModes_of_eq ((Chip.present_moves ..).same .grp)
  · exact sameModes_refl z

theorem beginMode_modes (g : Group) (old m : Mode) (k : Cause) (c : Chip) : SameModes c (c.beginMode g old m k) := by
  unfold Chip.beginMode
  cases m
  case precharge =>
    exact sameModes_trans (startGroup_modes g c) (sameModes_of_eq ((Chip.present_moves ..).same .grp))
  case softstart =>
    dsimp only
    split
    · refine sameModes_of_eq (((Chip.submit_moves ..).same .grp).trans ?_)
      split
      · split
        · rfl
        · rfl
      · rfl
    · exact sameModes_trans (startGroup_modes g c) (sameModes_of_eq ((Chip.submit_moves ..).same .grp))
  case lightload =>
    dsimp only
    split
    · exact sameModes_of_eq ((Chip.present_moves ..).same .grp)
    · exact sameModes_refl c
  case regulate =>
    dsimp only
    split
    · exact sameModes_of_eq ((Chip.present_moves ..).same .grp)
    · exact sameModes_refl c
  case charge => exact sameModes_of_eq ((Chip.present_moves ..).same .grp)
  case derated => exact sameModes_of_eq ((Chip.present_moves ..).same .grp)
  case standby =>
    dsimp only
    split
    · exact sameModes_refl c
    · exact sameModes_of_eq ((Chip.stopGroup_moves ..).same .grp)
  case safe => exact sameModes_of_eq ((Chip.stopGroup_moves ..).same .grp)
  all_goals exact sameModes_refl c

theorem derateFlags_modes (chs : List Change) (c : Chip) : SameModes c (chs.foldl Chip.derateFlag c) := by
  induction chs generalizing c with
  | nil => exact sameModes_refl c
  | cons k ks ih =>
    refine sameModes_trans ?_ (ih (c.derateFlag k))
    unfold Chip.derateFlag
    split
    · exact sameModes_modGrp fun _ => rfl
    · exact sameModes_refl c

/-- The grant of the pending swap moves no mode (R39). -/
theorem swapGrant_modes (t : Nat) (c : Chip) : SameModes c (c.swapGrant t) := by
  unfold Chip.swapGrant
  split
  · exact sameModes_refl c
  · rename_i chs _
    extract_lets x y z w
    have hx : x.grp = c.grp := ((Chip.grant_moves ..).same .grp).trans ((Chip.elapseTo_moves ..).same .grp)
    have hy : y.grp = x.grp := (Chip.count_moves 8 1 x).same .grp
    have hz : SameModes y z := derateFlags_modes chs y
    intro j
    show ((vmap z.grp GroupUnit.swapped)[j]).mode = _
    rw [vmap_get]
    refine (hz j).trans ?_
    rw [hy, hx]

/-- What Badger asked for before moves no mode (R62). -/
theorem badgerFirst_modes (c : Chip) : SameModes c c.badgerFirst :=
  sameModes_trans (swapGrant_modes _ _) (swapGrant_modes _ _)

/-- MODE_CHANGE of a group: that group is in the new mode, and every other stays in its own (R160). -/
theorem enterMode_mode (g : Group) (m : Mode) (k : Cause) (c : Chip) (h : c.shdnAsked = false) :
    ∀ j : Group, ((c.enterMode g m k).grp[j]).mode = if g = j then m else (c.grp[j]).mode := by
  intro j
  unfold Chip.enterMode
  rw [if_neg (by rw [h]; exact Bool.false_ne_true)]
  extract_lets old x y z w v
  have hy : (y.grp[j]).mode = (c.grp[j]).mode := by
    have : y.grp = x.grp := (Chip.modeGrant_moves ..).same .grp
    rw [this]
    exact badgerFirst_modes c j
  have hz : (z.grp[j]).mode = if g = j then m else (c.grp[j]).mode := by
    unfold z
    rw [Chip.modGrp_grp]
    split
    · rename_i e; subst e; rw [vmod_self]; rfl
    · rename_i e; rw [vmod_other _ _ _ _ e]; exact hy
  have ho : (({ v with setpt := v.setpt.joined } : Chip).orderMembers g old m k).grp = v.grp := (Chip.orderMembers_moves ..).same .grp
  rw [ho, beginMode_modes g old m k w j, leaveMode_modes g old m z j, hz]

/-- A fault takes a group of its own mode to SAFE, and leaves every other group's mode (R185). -/
theorem groupToSafe_mode (g : Group) (c : Chip) (hd : c.sys.dev = .perGroup) (h1 : (c.grp[g]).mode ≠ .standby)
    (h2 : (c.grp[g]).mode ≠ .safe) (h3 : c.shdnAsked = false) :
    ∀ j : Group, ((c.groupToSafe g).grp[j]).mode = if g = j then .safe else (c.grp[j]).mode := by
  intro j
  unfold Chip.groupToSafe
  extract_lets m x y z
  have hx : x.grp = c.grp := (Chip.stopGroup_moves ..).same .grp
  have hs : x.sys = c.sys := (Chip.stopGroup_moves ..).same .sys
  have hy : y.grp = x.grp := by
    unfold y
    split
    · exact (Chip.abortSweepOf_moves ..).same .grp
    · rfl
  have hy3 : y.sys = x.sys := by
    unfold y
    split
    · exact (Chip.abortSweepOf_moves ..).same .sys
    · rfl
  have hq3 : y.shdnAsked = false := by
    have : y.sys = c.sys := hy3.trans hs
    unfold Chip.shdnAsked
    rw [this]
    exact h3
  have hz : (z.grp[j]).mode = if g = j then .safe else (y.grp[j]).mode := enterMode_mode _ _ _ _ hq3 j
  have hm : ¬(m = .standby ∨ m = .safe) := by
    rintro (e | e)
    · exact h1 e
    · exact h2 e
  have hq : (z.sendFlit (z.sett.groups[g]).leaderAddr.val (.phaseLost g)).grp = z.grp := (Chip.sendFlit_moves ..).same .grp
  have hd' : x.sys.dev = .perGroup := by rw [hs]; exact hd
  rw [hy, hx] at hz
  clear_value z y x m
  rw [if_pos hd', if_neg hm]
  split
  · exact at_of_eq hq j (fun u => u.mode = _) hz
  · exact hz

end Sys2Proof.Machine
end

