-- ==== Sys2Proof/Laws/FrameFlags.lean ====
section
/-!
SUPPORT. What the operations of Machine/Flags.lean leave alone: for each, the parts of the device that it may change.
-/

-- one theorem after another: the checks of a large package would else hold too many threads at once
set_option Elab.async false

namespace Sys2Proof.Machine
open Sys2Proof

theorem Chip.condBack_moves (b : Block) (code unit : Nat) (c : Chip) : Moves [.guards] c (Chip.condBack b code unit c) := by
  unfold Chip.condBack
  exact moves_then (moves_refl _ _) (Chip.modGuard_moves ..) (by decide)

end Sys2Proof.Machine
end

