-- ==== Sys2Proof/Laws/FrameBalance.lean ====
section
/-!
SUPPORT. What the operations of Machine/Balance.lean leave alone: for each, the parts of the device that it may change.
-/

-- one theorem after another: the checks of a large package would else hold too many threads at once
set_option Elab.async false

namespace Sys2Proof.Machine
open Sys2Proof

theorem Chip.addOne_moves (g : Group) (pick : Chip → Option Phase) (c : Chip) : Moves [.ph, .grp, .obs] c (Chip.addOne g pick c) := by
  unfold Chip.addOne
  split
  · refine moves_ite (fun _ => ?_) (fun _ => ?_)
    · extract_lets +onlyGivenNames x
      clear_value x
      extract_lets +onlyGivenNames x
      refine moves_cut x ?_ (fun _ => ?_)
      · unfold x
        refine moves_then ?_ (Chip.modPl_moves ..) (by decide)
        exact moves_then (moves_refl _ _) (Chip.setPstate_moves ..) (by decide)
      try clear_value x
      exact moves_then (by assumption) (Chip.modGb_moves ..) (by decide)
    · exact moves_refl _ _
  · exact moves_refl _ _

theorem Chip.addMany_moves (g : Group) (n : Nat) (c : Chip) : Moves [.ph, .grp, .obs] c (Chip.addMany g n c) := by
  induction n generalizing c with
  | zero => exact moves_refl _ _
  | succ n ih => exact moves_trans (moves_then (moves_refl _ _) (Chip.addOne_moves ..) (by decide)) (ih _)

theorem Chip.reverseShed_moves (g : Group) (p : Phase) (c : Chip) : Moves [.ph, .grp, .obs] c (Chip.reverseShed g p c) := by
  unfold Chip.reverseShed
  refine moves_then ?_ (Chip.modGb_moves ..) (by decide)
  exact moves_then (moves_refl _ _) (Chip.setPstate_moves ..) (by decide)

theorem Chip.addDecision_moves (g : Group) (load : Rat) (c : Chip) : Moves [.ph, .grp, .obs] c (Chip.addDecision g load c) := by
  unfold Chip.addDecision
  split
  · exact moves_then (moves_refl _ _) (Chip.reverseShed_moves ..) (by decide)
  · exact moves_then (moves_refl _ _) (Chip.addMany_moves ..) (by decide)

theorem Chip.decideAdd_moves (g : Group) (load : Option Rat) (c : Chip) : Moves [.ph, .grp, .obs] c (Chip.decideAdd g load c) := by
  unfold Chip.decideAdd
  extract_lets +onlyGivenNames x
  clear_value x
  extract_lets +onlyGivenNames x
  clear_value x
  extract_lets +onlyGivenNames x
  clear_value x
  refine moves_ite (fun _ => ?_) (fun _ => ?_)
  · exact moves_then (moves_refl _ _) (Chip.addDecision_moves ..) (by decide)
  · exact moves_refl _ _

theorem Chip.shedOne_moves (g : Group) (c : Chip) (p : Phase) : Moves [.ph, .grp, .obs] c (Chip.shedOne g c p) := by
  unfold Chip.shedOne
  refine moves_ite (fun _ => ?_) (fun _ => ?_)
  · exact moves_refl _ _
  · refine moves_ite (fun _ => ?_) (fun _ => ?_)
    · refine moves_then ?_ (Chip.modGb_moves ..) (by decide)
      exact moves_then (moves_refl _ _) (Chip.setPstate_moves ..) (by decide)
    · exact moves_then (moves_refl _ _) (Chip.modGb_moves ..) (by decide)

theorem Chip.startShed_moves (g : Group) (c : Chip) : Moves [.ph, .grp, .obs] c (Chip.startShed g c) := by
  unfold Chip.startShed
  refine moves_ite (fun _ => ?_) (fun _ => ?_)
  · exact moves_refl _ _
  · extract_lets +onlyGivenNames x
    clear_value x
    refine moves_foldl _ _ ?_ (fun _ _ => ?_)
    · exact moves_then (moves_refl _ _) (Chip.modGb_moves ..) (by decide)
    · exact moves_then (moves_refl _ _) (Chip.shedOne_moves ..) (by decide)

theorem Chip.spanPeriod_moves (g : Group) (k at_ : Nat) (next : Int) (c : Chip) : Moves [.grp, .sett] c (Chip.spanPeriod g k at_ next c) := by
  unfold Chip.spanPeriod
  extract_lets +onlyGivenNames x
  clear_value x
  extract_lets +onlyGivenNames x
  clear_value x
  extract_lets +onlyGivenNames x
  clear_value x
  extract_lets +onlyGivenNames x
  clear_value x
  refine moves_then ?_ (Chip.modGrp_moves ..) (by decide)
  exact moves_then (moves_refl _ _) (Chip.modSg_moves ..) (by decide)

theorem Chip.countGroupPeriod_moves (g : Group) (at_ : Nat) (c : Chip) : Moves [.grp, .sett] c (Chip.countGroupPeriod g at_ c) := by
  unfold Chip.countGroupPeriod
  extract_lets +onlyGivenNames x
  refine moves_cut x ?_ (fun _ => ?_)
  · unfold x
    exact moves_then (moves_refl _ _) (Chip.modGrp_moves ..) (by decide)
  try clear_value x
  refine moves_ite (fun _ => ?_) (fun _ => ?_)
  · exact moves_then (by assumption) (Chip.spanPeriod_moves ..) (by decide)
  · assumption

theorem Chip.firstGroupPeriod_moves (g : Group) (k at_ : Nat) (c : Chip) : Moves [.ph, .grp, .sett] c (Chip.firstGroupPeriod g k at_ c) := by
  unfold Chip.firstGroupPeriod
  extract_lets +onlyGivenNames x
  refine moves_cut x ?_ (fun _ => ?_)
  · unfold x
    exact moves_then (moves_refl _ _) (Chip.modGrp_moves ..) (by decide)
  try clear_value x
  extract_lets +onlyGivenNames x
  refine moves_cut x ?_ (fun _ => ?_)
  · unfold x
    refine moves_ite (fun _ => ?_) (fun _ => ?_)
    · refine moves_then ?_ (Chip.spanPeriod_moves ..) (by decide)
      exact moves_then (by assumption) (Chip.modSg_moves ..) (by decide)
    · assumption
  try clear_value x
  extract_lets +onlyGivenNames x
  refine moves_cut x ?_ (fun _ => ?_)
  · unfold x
    refine moves_foldl _ _ ?_ (fun _ _ => ?_)
    · assumption
    · exact moves_then (moves_refl _ _) (Chip.modBal_moves ..) (by decide)
  try clear_value x
  exact moves_then (by assumption) (Chip.recount_moves ..) (by decide)

theorem Chip.laterGroupPeriod_moves (g : Group) (at_ : Nat) (c : Chip) : Moves [.ph, .grp, .sett, .obs] c (Chip.laterGroupPeriod g at_ c) := by
  unfold Chip.laterGroupPeriod
  extract_lets +onlyGivenNames x
  clear_value x
  extract_lets +onlyGivenNames x
  clear_value x
  extract_lets +onlyGivenNames x
  clear_value x
  extract_lets +onlyGivenNames x
  refine moves_cut x ?_ (fun _ => ?_)
  · unfold x
    exact moves_then (moves_refl _ _) (Chip.countGroupPeriod_moves ..) (by decide)
  try clear_value x
  extract_lets +onlyGivenNames x
  refine moves_cut x ?_ (fun _ => ?_)
  · unfold x
    exact moves_then (by assumption) (Chip.modGb_moves ..) (by decide)
  try clear_value x
  extract_lets +onlyGivenNames x
  refine moves_cut x ?_ (fun _ => ?_)
  · unfold x
    refine moves_then ?_ (Chip.decideAdd_moves ..) (by decide)
    exact moves_then (by assumption) (Chip.startShed_moves ..) (by decide)
  try clear_value x
  exact moves_then (by assumption) (Chip.recount_moves ..) (by decide)

theorem Chip.groupPeriodStart_moves (g : Group) (t : Nat) (c : Chip) : Moves [.tb, .ph, .grp, .sett, .trace, .obs] c (Chip.groupPeriodStart g t c) := by
  unfold Chip.groupPeriodStart
  refine moves_ite (fun _ => ?_) (fun _ => ?_)
  · exact moves_refl _ _
  · refine moves_ite (fun _ => ?_) (fun _ => ?_)
    · refine moves_ite (fun _ => ?_) (fun _ => ?_)
      · refine moves_then ?_ (Chip.firstGroupPeriod_moves ..) (by decide)
        exact moves_then (moves_refl _ _) (Chip.elapseTo_moves ..) (by decide)
      · exact moves_refl _ _
    · split
      · refine moves_ite (fun _ => ?_) (fun _ => ?_)
        · refine moves_then ?_ (Chip.laterGroupPeriod_moves ..) (by decide)
          exact moves_then (moves_refl _ _) (Chip.elapseTo_moves ..) (by decide)
        · exact moves_refl _ _
      · exact moves_refl _ _

theorem Chip.balancePhase_moves (g : Group) (mean : Option Rat) (c : Chip) (p : Phase) : Moves [.ph, .guards, .eva, .trace, .obs, .nv, .log, .draws] c (Chip.balancePhase g mean c p) := by
  unfold Chip.balancePhase
  extract_lets +onlyGivenNames x
  clear_value x
  extract_lets +onlyGivenNames x
  refine moves_cut x ?_ (fun _ => ?_)
  · unfold x
    exact moves_set_ph (moves_refl _ _) (by decide)
  try clear_value x
  refine moves_ite (fun _ => ?_) (fun _ => ?_)
  · exact moves_then (by assumption) (Chip.warn_moves ..) (by decide)
  · assumption

theorem Chip.countCandidate_moves (g : Group) (load : Option Rat) (c : Chip) : Moves [.grp] c (Chip.countCandidate g load c) := by
  unfold Chip.countCandidate
  refine moves_ite (fun _ => ?_) (fun _ => ?_)
  · extract_lets +onlyGivenNames x
    clear_value x
    refine moves_ite (fun _ => ?_) (fun _ => ?_)
    · exact moves_then (moves_refl _ _) (Chip.modGb_moves ..) (by decide)
    · exact moves_then (moves_refl _ _) (Chip.modGb_moves ..) (by decide)
  · exact moves_then (moves_refl _ _) (Chip.modGb_moves ..) (by decide)

theorem Chip.rotationAdd_moves (g : Group) (i o : Phase) (c : Chip) : Moves [.ph, .grp, .obs] c (Chip.rotationAdd g i o c) := by
  unfold Chip.rotationAdd
  split
  · refine moves_then ?_ (Chip.modGb_moves ..) (by decide)
    exact moves_then (moves_refl _ _) (Chip.reverseShed_moves ..) (by decide)
  · refine moves_ite (fun _ => ?_) (fun _ => ?_)
    · refine moves_then ?_ (Chip.modGb_moves ..) (by decide)
      exact moves_then (moves_refl _ _) (Chip.addOne_moves ..) (by decide)
    · exact moves_refl _ _

theorem Chip.rotate_moves (g : Group) (c : Chip) : Moves [.ph, .grp, .obs] c (Chip.rotate g c) := by
  unfold Chip.rotate
  extract_lets +onlyGivenNames x
  clear_value x
  extract_lets +onlyGivenNames x
  clear_value x
  split
  · refine moves_ite (fun _ => ?_) (fun _ => ?_)
    · exact moves_then (moves_refl _ _) (Chip.rotationAdd_moves ..) (by decide)
    · exact moves_refl _ _
  · exact moves_refl _ _

theorem Chip.balPass_moves (g : Group) (c : Chip) : Moves [.ph, .grp, .guards, .eva, .trace, .obs, .nv, .log, .draws] c (Chip.balPass g c) := by
  unfold Chip.balPass
  refine moves_ite (fun _ => ?_) (fun _ => ?_)
  · exact moves_refl _ _
  · extract_lets +onlyGivenNames x
    clear_value x
    extract_lets +onlyGivenNames x
    clear_value x
    extract_lets +onlyGivenNames x
    refine moves_cut x ?_ (fun _ => ?_)
    · unfold x
      exact moves_then (moves_refl _ _) (Chip.modGb_moves ..) (by decide)
    try clear_value x
    extract_lets +onlyGivenNames x
    refine moves_cut x ?_ (fun _ => ?_)
    · unfold x
      refine moves_foldl _ _ ?_ (fun _ _ => ?_)
      · assumption
      · exact moves_then (moves_refl _ _) (Chip.modBal_moves ..) (by decide)
    try clear_value x
    extract_lets +onlyGivenNames x
    clear_value x
    extract_lets +onlyGivenNames x
    refine moves_cut x ?_ (fun _ => ?_)
    · unfold x
      refine moves_ite (fun _ => ?_) (fun _ => ?_)
      · refine moves_foldl _ _ ?_ (fun _ _ => ?_)
        · assumption
        · exact moves_then (moves_refl _ _) (Chip.balancePhase_moves ..) (by decide)
      · assumption
    try clear_value x
    refine moves_then ?_ (Chip.rotate_moves ..) (by decide)
    exact moves_then (by assumption) (Chip.countCandidate_moves ..) (by decide)

theorem Chip.judgeHealth_moves (g : Group) (c : Chip) : Moves [.sys, .tb, .ph, .grp, .le, .setpt, .sweep, .sett, .guards, .eva, .trace, .obs, .nv, .cal, .log, .host, .draws] c (Chip.judgeHealth g c) := by
  unfold Chip.judgeHealth
  extract_lets +onlyGivenNames x
  clear_value x
  extract_lets +onlyGivenNames x
  clear_value x
  extract_lets +onlyGivenNames x
  refine moves_cut x ?_ (fun _ => ?_)
  · unfold x
    refine moves_ite (fun _ => ?_) (fun _ => ?_)
    · exact moves_then (moves_refl _ _) (Chip.condBack_moves ..) (by decide)
    · exact moves_refl _ _
  try clear_value x
  refine moves_ite (fun _ => ?_) (fun _ => ?_)
  · assumption
  · refine moves_ite (fun _ => ?_) (fun _ => ?_)
    · exact moves_then (by assumption) (Chip.raiseB_moves ..) (by decide)
    · refine moves_ite (fun _ => ?_) (fun _ => ?_)
      · extract_lets +onlyGivenNames x
        refine moves_cut x ?_ (fun _ => ?_)
        · unfold x
          refine moves_ite (fun _ => ?_) (fun _ => ?_)
          · exact moves_then (by assumption) (Chip.abortSweepOf_moves ..) (by decide)
          · assumption
        try clear_value x
        exact moves_then (by assumption) (Chip.changeMode_moves ..) (by decide)
      · refine moves_ite (fun _ => ?_) (fun _ => ?_)
        · exact moves_then (by assumption) (Chip.changeMode_moves ..) (by decide)
        · assumption

theorem Chip.refreshBounds_moves (g : Group) (c : Chip) : Moves [.setpt] c (Chip.refreshBounds g c) := by
  unfold Chip.refreshBounds
  extract_lets +onlyGivenNames x
  clear_value x
  extract_lets +onlyGivenNames x
  clear_value x
  extract_lets +onlyGivenNames x
  clear_value x
  extract_lets +onlyGivenNames x
  clear_value x
  refine moves_ite (fun _ => ?_) (fun _ => ?_)
  · exact moves_refl _ _
  · exact moves_then (moves_refl _ _) (Chip.present_moves ..) (by decide)

theorem Chip.chargeField_moves (x : Option Rat) (c : Chip) : Moves [.draws] c (Chip.chargeField x c).2 := by
  unfold Chip.chargeField
  split
  · extract_lets +onlyGivenNames x
    clear_value x
    split
    · dsimp only
      exact moves_refl _ _
    · extract_lets +onlyGivenNames x
      unfold x
      dsimp only
      exact moves_then (moves_refl _ _) (Chip.draw_moves ..) (by decide)
  · extract_lets +onlyGivenNames x
    unfold x
    dsimp only
    exact moves_then (moves_refl _ _) (Chip.draw_moves ..) (by decide)

theorem Chip.chargeSwap_moves (g : Group) (iLim vLim : Nat) (c : Chip) : Moves [.setpt, .draws] c (Chip.chargeSwap g iLim vLim c) := by
  unfold Chip.chargeSwap
  extract_lets +onlyGivenNames x
  clear_value x
  extract_lets +onlyGivenNames x
  clear_value x
  extract_lets +onlyGivenNames x
  clear_value x
  extract_lets +onlyGivenNames x
  unfold x
  extract_lets +onlyGivenNames x
  unfold x
  refine moves_then ?_ (Chip.present_moves ..) (by decide)
  refine moves_then ?_ (Chip.chargeField_moves ..) (by decide)
  exact moves_then (moves_refl _ _) (Chip.chargeField_moves ..) (by decide)

theorem Chip.chargeRepeat_moves (g : Group) (c : Chip) : Moves [.setpt, .draws] c (Chip.chargeRepeat g c) := by
  unfold Chip.chargeRepeat
  refine moves_ite (fun _ => ?_) (fun _ => ?_)
  · exact moves_then (moves_refl _ _) (Chip.chargeSwap_moves ..) (by decide)
  · exact moves_refl _ _

theorem Chip.phState_moves (p : Phase) (c : Chip) : Moves [.sys, .tb, .ph, .grp, .le, .setpt, .sweep, .sett, .guards, .eva, .trace, .obs, .nv, .cal, .log, .host, .draws] c (Chip.phState p c) := by
  unfold Chip.phState
  split
  · exact moves_refl _ _
  · split
    · exact moves_refl _ _
    · extract_lets +onlyGivenNames x
      refine moves_cut x ?_ (fun _ => ?_)
      · unfold x
        refine moves_then ?_ (Chip.modPl_moves ..) (by decide)
        exact moves_then (moves_refl _ _) (Chip.grant_moves ..) (by decide)
      try clear_value x
      extract_lets +onlyGivenNames x
      refine moves_cut x ?_ (fun _ => ?_)
      · unfold x
        refine moves_ite (fun _ => ?_) (fun _ => ?_)
        · assumption
        · exact moves_then (by assumption) (Chip.recount_moves ..) (by decide)
      try clear_value x
      extract_lets +onlyGivenNames x
      refine moves_cut x ?_ (fun _ => ?_)
      · unfold x
        refine moves_ite (fun _ => ?_) (fun _ => ?_)
        · exact moves_then (by assumption) (Chip.modGb_moves ..) (by decide)
        · assumption
      try clear_value x
      extract_lets +onlyGivenNames x
      clear_value x
      extract_lets +onlyGivenNames x
      refine moves_cut x ?_ (fun _ => ?_)
      · unfold x
        refine moves_then ?_ (Chip.refreshBounds_moves ..) (by decide)
        exact moves_then (by assumption) (Chip.judgeHealth_moves ..) (by decide)
      try clear_value x
      extract_lets +onlyGivenNames x
      refine moves_cut x ?_ (fun _ => ?_)
      · unfold x
        refine moves_ite (fun _ => ?_) (fun _ => ?_)
        · assumption
        · exact moves_set_setpt (by assumption) (by decide)
      try clear_value x
      refine moves_ite (fun _ => ?_) (fun _ => ?_)
      · assumption
      · exact moves_then (by assumption) (Chip.chargeRepeat_moves ..) (by decide)

end Sys2Proof.Machine
end

