-- ==== Sys2Proof/Laws/FrameDen.lean ====
section
/-!
SUPPORT. What the operations of Machine/Den.lean leave alone: for each, the parts of the device that it may change.
-/

-- one theorem after another: the checks of a large package would else hold too many threads at once
set_option Elab.async false

namespace Sys2Proof.Machine
open Sys2Proof

theorem Chip.unsolicited_moves (p : CanPort) (prio type : Nat) (body : List Byte) (c : Chip) : Moves [.host] c (Chip.unsolicited p prio type body c) := by
  unfold Chip.unsolicited
  extract_lets +onlyGivenNames x
  clear_value x
  extract_lets +onlyGivenNames x
  clear_value x
  exact moves_then (moves_refl _ _) (Chip.modCan_moves ..) (by decide)

theorem Chip.faultFrameOut_moves (p : CanPort) (c : Chip) : Moves [.host] c (Chip.faultFrameOut p c) := by
  unfold Chip.faultFrameOut
  extract_lets +onlyGivenNames x
  clear_value x
  split
  · exact moves_refl _ _
  · refine moves_ite (fun _ => ?_) (fun _ => ?_)
    · extract_lets +onlyGivenNames x
      clear_value x
      extract_lets +onlyGivenNames x
      clear_value x
      refine moves_then ?_ (Chip.unsolicited_moves ..) (by decide)
      exact moves_then (moves_refl _ _) (Chip.modCan_moves ..) (by decide)
    · exact moves_refl _ _

end Sys2Proof.Machine
end

