-- ==== Sys2Proof/Laws/FrameImageLoad.lean ====
section
/-!
SUPPORT. What the operations of Machine/ImageLoad.lean leave alone: for each, the parts of the device that it may change.
-/

-- one theorem after another: the checks of a large package would else hold too many threads at once
set_option Elab.async false

namespace Sys2Proof.Machine
open Sys2Proof

theorem Chip.loadImage_moves (im : Image) (c : Chip) : Moves [.sys, .tb, .ph, .grp, .le, .setpt, .lcmd, .refs, .aux, .snap, .sett, .gauge, .nv, .host] c (Chip.loadImage im c) := by
  unfold Chip.loadImage
  extract_lets +onlyGivenNames x
  clear_value x
  exact moves_mk (.inr (by decide)) (.inl rfl) (.inr (by decide)) (.inr (by decide)) (.inr (by decide)) (.inr (by decide)) (.inr (by decide)) (.inr (by decide)) (.inr (by decide)) (.inr (by decide)) (.inr (by decide)) (.inl rfl) (.inl rfl) (.inr (by decide)) (.inr (by decide)) (.inl rfl) (.inl rfl) (.inl rfl) (.inl rfl) (.inl rfl) (.inl rfl) (.inr (by decide)) (.inl rfl) (.inl rfl) (.inr (by decide)) (.inl rfl) (.inl rfl) (moves_refl _ _)

end Sys2Proof.Machine
end

