-- ==== Sys2Proof/Laws/FrameModeCmd.lean ====
section
/-!
SUPPORT. What the operations of Machine/ModeCmd.lean leave alone: for each, the parts of the device that it may change.
-/

-- one theorem after another: the checks of a large package would else hold too many threads at once
set_option Elab.async false

namespace Sys2Proof.Machine
open Sys2Proof

theorem Chip.modeChange_moves (t : Target) (m : Mode) (k : Cause) (c : Chip) : Moves [.sys, .tb, .ph, .grp, .le, .setpt, .sweep, .sett, .guards, .eva, .trace, .obs, .nv, .cal, .log, .host, .draws] c (Chip.modeChange t m k c) := by
  unfold Chip.modeChange
  split
  · refine moves_ite (fun _ => ?_) (fun _ => ?_)
    · exact moves_then (moves_refl _ _) (Chip.changeMode_moves ..) (by decide)
    · exact moves_refl _ _
  · refine moves_ite (fun _ => ?_) (fun _ => ?_)
    · exact moves_then (moves_refl _ _) (Chip.deviceToSafe_moves ..) (by decide)
    · exact moves_refl _ _

theorem Chip.prechargeComplete_moves (g : Group) (c : Chip) : Moves [.grp] c (Chip.prechargeComplete g c) := by
  unfold Chip.prechargeComplete
  extract_lets +onlyGivenNames x
  clear_value x
  split
  · refine moves_ite (fun _ => ?_) (fun _ => ?_)
    · exact moves_then (moves_refl _ _) (Chip.modGrp_moves ..) (by decide)
    · exact moves_refl _ _
  · exact moves_refl _ _

theorem Chip.prechargeTimeout_moves (g : Group) (c : Chip) : Moves [.sys, .tb, .ph, .grp, .le, .setpt, .sweep, .sett, .guards, .eva, .trace, .obs, .nv, .cal, .log, .host, .draws] c (Chip.prechargeTimeout g c) := by
  unfold Chip.prechargeTimeout
  extract_lets +onlyGivenNames x
  clear_value x
  refine moves_ite (fun _ => ?_) (fun _ => ?_)
  · exact moves_then (moves_refl _ _) (Chip.faultB_moves ..) (by decide)
  · exact moves_refl _ _

theorem Chip.softstartTimeout_moves (g : Group) (c : Chip) : Moves [.sys, .tb, .ph, .grp, .le, .setpt, .sweep, .sett, .guards, .eva, .trace, .obs, .nv, .cal, .log, .host, .draws] c (Chip.softstartTimeout g c) := by
  unfold Chip.softstartTimeout
  extract_lets +onlyGivenNames x
  clear_value x
  refine moves_ite (fun _ => ?_) (fun _ => ?_)
  · exact moves_then (moves_refl _ _) (Chip.faultB_moves ..) (by decide)
  · exact moves_refl _ _

theorem Chip.endSoftstart_moves (g : Group) (c : Chip) : Moves [.sys, .tb, .ph, .grp, .le, .setpt, .sweep, .sett, .guards, .eva, .trace, .obs, .nv, .cal, .log, .host, .draws] c (Chip.endSoftstart g c) := by
  unfold Chip.endSoftstart
  refine moves_ite (fun _ => ?_) (fun _ => ?_)
  · exact moves_then (moves_refl _ _) (Chip.changeMode_moves ..) (by decide)
  · exact moves_then (moves_refl _ _) (Chip.changeMode_moves ..) (by decide)

theorem Chip.joinLeader_moves (g : Group) (c : Chip) : Moves [.sys, .tb, .ph, .grp, .le, .setpt, .sweep, .sett, .guards, .eva, .trace, .obs, .nv, .cal, .log, .host, .draws] c (Chip.joinLeader g c) := by
  unfold Chip.joinLeader
  split
  · exact moves_then (moves_refl _ _) (Chip.changeMode_moves ..) (by decide)
  · exact moves_then (moves_refl _ _) (Chip.changeMode_moves ..) (by decide)
  · refine moves_then ?_ (Chip.changeMode_moves ..) (by decide)
    exact moves_then (moves_refl _ _) (Chip.changeMode_moves ..) (by decide)
  · exact moves_then (moves_refl _ _) (Chip.changeMode_moves ..) (by decide)
  · exact moves_then (moves_refl _ _) (Chip.changeMode_moves ..) (by decide)
  · exact moves_refl _ _
  · exact moves_refl _ _
  · exact moves_refl _ _
  · exact moves_refl _ _
  · exact moves_refl _ _
  · exact moves_refl _ _
  · exact moves_refl _ _

theorem Chip.joinStarted_moves (g : Group) (c : Chip) : Moves [.sys, .tb, .ph, .grp, .le, .setpt, .sweep, .sett, .guards, .eva, .trace, .obs, .nv, .cal, .log, .host, .draws] c (Chip.joinStarted g c) := by
  unfold Chip.joinStarted
  refine moves_ite (fun _ => ?_) (fun _ => ?_)
  · refine moves_then ?_ (Chip.joinLeader_moves ..) (by decide)
    exact moves_then (moves_refl _ _) (Chip.modSg_moves ..) (by decide)
  · exact moves_refl _ _

theorem Chip.rampDone_moves (g : Group) (c : Chip) : Moves [.sys, .tb, .ph, .grp, .le, .setpt, .sweep, .sett, .guards, .eva, .trace, .obs, .nv, .cal, .log, .host, .draws] c (Chip.rampDone g c) := by
  unfold Chip.rampDone
  split
  · exact moves_refl _ _
  · exact moves_refl _ _
  · extract_lets +onlyGivenNames x
    refine moves_cut x ?_ (fun _ => ?_)
    · unfold x
      exact moves_then (moves_refl _ _) (Chip.grant_moves ..) (by decide)
    try clear_value x
    extract_lets +onlyGivenNames x
    refine moves_cut x ?_ (fun _ => ?_)
    · unfold x
      exact moves_then (by assumption) (Chip.nextReqs_moves ..) (by decide)
    try clear_value x
    extract_lets +onlyGivenNames x
    clear_value x
    extract_lets +onlyGivenNames x
    refine moves_cut x ?_ (fun _ => ?_)
    · unfold x
      exact moves_set_setpt (by assumption) (by decide)
    try clear_value x
    refine moves_ite (fun _ => ?_) (fun _ => ?_)
    · assumption
    · extract_lets +onlyGivenNames x
      clear_value x
      extract_lets +onlyGivenNames x
      refine moves_cut x ?_ (fun _ => ?_)
      · unfold x
        exact moves_set_setpt (by assumption) (by decide)
      try clear_value x
      extract_lets +onlyGivenNames x
      clear_value x
      refine moves_ite (fun _ => ?_) (fun _ => ?_)
      · refine moves_then ?_ (Chip.shdnAdvance_moves ..) (by decide)
        refine moves_ite (fun _ => ?_) (fun _ => ?_)
        · refine moves_then ?_ (Chip.stopGroup_moves ..) (by decide)
          exact moves_then (by assumption) (Chip.modGrp_moves ..) (by decide)
        · assumption
      · refine moves_ite (fun _ => ?_) (fun _ => ?_)
        · assumption
        · refine moves_ite (fun _ => ?_) (fun _ => ?_)
          · exact moves_then (by assumption) (Chip.changeMode_moves ..) (by decide)
          · refine moves_ite (fun _ => ?_) (fun _ => ?_)
            · exact moves_then (by assumption) (Chip.endSoftstart_moves ..) (by decide)
            · refine moves_ite (fun _ => ?_) (fun _ => ?_)
              · refine moves_then ?_ (Chip.joinStarted_moves ..) (by decide)
                exact moves_then (by assumption) (Chip.modSg_moves ..) (by decide)
              · assumption

theorem Chip.lightloadEntry_moves (g : Group) (c : Chip) : Moves [.sys, .tb, .ph, .grp, .le, .setpt, .sweep, .sett, .guards, .eva, .trace, .obs, .nv, .cal, .log, .host, .draws] c (Chip.lightloadEntry g c) := by
  unfold Chip.lightloadEntry
  refine moves_ite (fun _ => ?_) (fun _ => ?_)
  · exact moves_then (moves_refl _ _) (Chip.changeMode_moves ..) (by decide)
  · exact moves_refl _ _

theorem Chip.enableRising_moves (c : Chip) : Moves [.sys, .tb, .ph, .grp, .le, .setpt, .sett, .eva, .trace, .obs, .log, .draws] c (Chip.enableRising c) := by
  unfold Chip.enableRising
  extract_lets +onlyGivenNames x
  extract_lets +onlyGivenNames x
  refine moves_cut x ?_ (fun _ => ?_)
  · unfold x
    exact moves_set_sys (moves_refl _ _) (by decide)
  try clear_value x
  refine moves_ite (fun _ => ?_) (fun _ => ?_)
  · refine moves_foldl _ _ ?_ (fun _ _ => ?_)
    · assumption
    · exact moves_then (moves_refl _ _) (Chip.tryStart_moves ..) (by decide)
  · assumption

theorem Chip.requestShdn_moves (k : ShdnCause) (c : Chip) : Moves [.sys] c (Chip.requestShdn k c) := by
  unfold Chip.requestShdn
  refine moves_ite (fun _ => ?_) (fun _ => ?_)
  · exact moves_set_sys (moves_refl _ _) (by decide)
  · exact moves_refl _ _

theorem Chip.enableFalling_moves (c : Chip) : Moves [.sys] c (Chip.enableFalling c) := by
  unfold Chip.enableFalling
  refine moves_ite (fun _ => ?_) (fun _ => ?_)
  · refine moves_then ?_ (Chip.requestShdn_moves ..) (by decide)
    exact moves_set_sys (moves_refl _ _) (by decide)
  · exact moves_refl _ _

end Sys2Proof.Machine
end

