-- ==== Sys2Proof/Laws/FrameBoot.lean ====
section
/-!
SUPPORT. What the operations of Machine/Boot.lean leave alone: for each, the parts of the device that it may change.
-/

-- one theorem after another: the checks of a large package would else hold too many threads at once
set_option Elab.async false

namespace Sys2Proof.Machine
open Sys2Proof

theorem Chip.resetDomains_moves (c : Chip) : Moves [.sys, .code, .tb, .ph, .grp, .le, .setpt, .lcmd, .refs, .aux, .snap, .cap, .sweep, .sett, .gauge, .guards, .trace, .mbx, .dom, .nv, .log, .host, .latch] c (Chip.resetDomains c) := by
  unfold Chip.resetDomains
  refine moves_mk (.inr (by decide)) (.inr (by decide)) (.inr (by decide)) (.inr (by decide)) (.inr (by decide)) (.inr (by decide)) (.inr (by decide)) (.inr (by decide)) (.inr (by decide)) (.inr (by decide)) (.inr (by decide)) (.inr (by decide)) (.inr (by decide)) (.inr (by decide)) (.inr (by decide)) (.inr (by decide)) (.inl rfl) (.inr (by decide)) (.inl rfl) (.inr (by decide)) (.inr (by decide)) (.inr (by decide)) (.inl rfl) (.inr (by decide)) (.inr (by decide)) (.inr (by decide)) (.inl rfl) (moves_refl _ _)
    (wcap := fun _ => rfl) (wmbx := fun h m => ?_) (wlog := fun h => ?_)
  · have e : (vmap c.mbx (fun m => { m with data := 0, arrive := false, empty := false } : MailboxUnit → MailboxUnit))[m] =
        { c.mbx[m] with data := 0, arrive := false, empty := false } := vmap_get ..
    rw [e]; exact h m
  · unfold LogUnit.stored
    dsimp only
    rw [List.length_take]; omega

theorem Chip.toOff_moves (c : Chip) : Moves [.sys, .code, .tb, .ph, .grp, .le, .setpt, .lcmd, .refs, .aux, .snap, .cap, .sweep, .sett, .gauge, .guards, .eva, .trace, .obs, .mbx, .dom, .nv, .cal, .log, .host, .latch, .draws] c (Chip.toOff c) := by
  unfold Chip.toOff
  refine moves_mk (.inr (by decide)) (.inr (by decide)) (.inr (by decide)) (.inr (by decide)) (.inr (by decide)) (.inr (by decide)) (.inr (by decide)) (.inr (by decide)) (.inr (by decide)) (.inr (by decide)) (.inr (by decide)) (.inr (by decide)) (.inr (by decide)) (.inr (by decide)) (.inr (by decide)) (.inr (by decide)) (.inr (by decide)) (.inr (by decide)) (.inr (by decide)) (.inr (by decide)) (.inr (by decide)) (.inr (by decide)) (.inr (by decide)) (.inr (by decide)) (.inr (by decide)) (.inr (by decide)) (.inr (by decide)) (moves_refl _ _)
    (wcap := fun _ => rfl) (wcode := fun h => banks_canonical ?_ h) (wmbx := fun _ m => ?_) (wlog := fun h => ?_) (wobs := fun _ => by decide)
  · unfold Chip.codeAtLoss
    split <;> exact ⟨rfl, rfl⟩
  · have e : (Vector.replicate 6 ({} : MailboxUnit))[m] = {} := Vector.getElem_replicate ..
    rw [e]; rfl
  · unfold LogUnit.stored
    dsimp only
    rw [List.length_take]; omega

theorem Chip.bootChange_moves (c : Chip) : Moves [.sys, .eva, .trace, .obs, .log, .draws] c (Chip.bootChange c) := by
  unfold Chip.bootChange
  split
  · extract_lets +onlyGivenNames x
    refine moves_cut x ?_ (fun _ => ?_)
    · unfold x
      exact moves_then (moves_refl _ _) (Chip.modeGrant_moves ..) (by decide)
    try clear_value x
    exact moves_set_sys (by assumption) (by decide)
  · exact moves_refl _ _

theorem Chip.bootRide_moves (c : Chip) : Moves [.sys, .guards, .eva, .trace, .obs, .nv, .log, .draws] c (Chip.bootRide c) := by
  unfold Chip.bootRide
  refine moves_ite (fun _ => ?_) (fun _ => ?_)
  · refine moves_then ?_ (Chip.warn_moves ..) (by decide)
    exact moves_set_sys (moves_refl _ _) (by decide)
  · exact moves_refl _ _

theorem Chip.bootStep1_moves (k : BootKind) (b : BootInput) (c : Chip) : Moves [.sys, .code, .tb, .ph, .grp, .le, .setpt, .lcmd, .refs, .aux, .snap, .cap, .sweep, .sett, .gauge, .guards, .eva, .trace, .obs, .mbx, .dom, .nv, .cal, .log, .host, .latch, .draws] c (Chip.bootStep1 k b c) := by
  unfold Chip.bootStep1
  extract_lets +onlyGivenNames x
  refine moves_cut x ?_ (fun _ => ?_)
  · unfold x
    exact moves_then (moves_refl _ _) (Chip.resetDomains_moves ..) (by decide)
  try clear_value x
  extract_lets +onlyGivenNames x
  clear_value x
  extract_lets +onlyGivenNames x
  clear_value x
  extract_lets +onlyGivenNames x
  refine moves_cut x ?_ (fun _ => ?_)
  · unfold x
    exact moves_mk (.inr (by decide)) (.inl rfl) (.inl rfl) (.inl rfl) (.inl rfl) (.inl rfl) (.inl rfl) (.inl rfl) (.inl rfl) (.inl rfl) (.inl rfl) (.inl rfl) (.inl rfl) (.inr (by decide)) (.inl rfl) (.inl rfl) (.inl rfl) (.inl rfl) (.inl rfl) (.inl rfl) (.inl rfl) (.inl rfl) (.inl rfl) (.inl rfl) (.inl rfl) (.inl rfl) (.inl rfl) (by assumption)
  try clear_value x
  extract_lets +onlyGivenNames x
  refine moves_cut x ?_ (fun _ => ?_)
  · unfold x
    refine moves_then ?_ (Chip.bootRide_moves ..) (by decide)
    exact moves_then (by assumption) (Chip.bootChange_moves ..) (by decide)
  try clear_value x
  extract_lets +onlyGivenNames x
  refine moves_cut x ?_ (fun _ => ?_)
  · unfold x
    refine moves_foldl _ _ ?_ (fun _ _ => ?_)
    · assumption
    · exact moves_then (moves_refl _ _) (Chip.autoClear_moves ..) (by decide)
  try clear_value x
  exact moves_then (by assumption) (Chip.autoClear_moves ..) (by decide)

theorem Chip.bootStep2_moves (b : BootInput) (c : Chip) : Moves [.sys, .tb, .setpt, .refs, .eva, .trace, .obs, .dom, .draws] c (Chip.bootStep2 b c) := by
  unfold Chip.bootStep2
  extract_lets +onlyGivenNames x
  clear_value x
  extract_lets +onlyGivenNames x
  clear_value x
  extract_lets +onlyGivenNames x
  clear_value x
  extract_lets +onlyGivenNames x
  clear_value x
  extract_lets +onlyGivenNames x
  refine moves_cut x ?_ (fun _ => ?_)
  · unfold x
    exact moves_mk (.inr (by decide)) (.inl rfl) (.inr (by decide)) (.inl rfl) (.inl rfl) (.inl rfl) (.inr (by decide)) (.inl rfl) (.inr (by decide)) (.inl rfl) (.inl rfl) (.inl rfl) (.inl rfl) (.inl rfl) (.inl rfl) (.inl rfl) (.inl rfl) (.inl rfl) (.inl rfl) (.inl rfl) (.inl rfl) (.inl rfl) (.inl rfl) (.inl rfl) (.inl rfl) (.inl rfl) (.inl rfl) (moves_refl _ _)
  try clear_value x
  refine moves_then ?_ (Chip.count_moves ..) (by decide)
  refine moves_then ?_ (Chip.modDom_moves ..) (by decide)
  exact moves_then (by assumption) (Chip.grant_moves ..) (by decide)

theorem Chip.bootStep3_moves (b : BootInput) (c : Chip) : Moves [.sys, .tb, .ph, .grp, .le, .setpt, .sweep, .sett, .guards, .eva, .trace, .obs, .nv, .cal, .log, .host, .draws] c (Chip.bootStep3 b c) := by
  unfold Chip.bootStep3
  extract_lets +onlyGivenNames x
  clear_value x
  extract_lets +onlyGivenNames x
  refine moves_cut x ?_ (fun _ => ?_)
  · unfold x
    exact moves_set_trace (moves_refl _ _) (by decide)
  try clear_value x
  extract_lets +onlyGivenNames x
  refine moves_cut x ?_ (fun _ => ?_)
  · unfold x
    exact moves_then (by assumption) (Chip.pushTrace_moves ..) (by decide)
  try clear_value x
  refine moves_ite (fun _ => ?_) (fun _ => ?_)
  · refine moves_then ?_ (Chip.grant_moves ..) (by decide)
    exact moves_set_tb (by assumption) (by decide)
  · exact moves_then (by assumption) (Chip.faultB_moves ..) (by decide)

theorem Chip.bootStep4_moves (k : BootKind) (c : Chip) : Moves [.sys, .code] c (Chip.bootStep4 k c) := by
  unfold Chip.bootStep4
  extract_lets p i
  have hp := CodeUnit.pick_banks c.code (k == BootKind.power)
  refine moves_mk (.inr (by decide)) (.inr (by decide)) (.inl rfl) (.inl rfl) (.inl rfl) (.inl rfl) (.inl rfl) (.inl rfl) (.inl rfl) (.inl rfl) (.inl rfl) (.inl rfl) (.inl rfl) (.inl rfl) (.inl rfl) (.inl rfl) (.inl rfl) (.inl rfl) (.inl rfl) (.inl rfl) (.inl rfl) (.inl rfl) (.inl rfl) (.inl rfl) (.inl rfl) (.inl rfl) (.inl rfl) (moves_refl _ _) (wcode := ?_)
  intro h
  rw [hp.1, hp.2]; exact h

theorem Chip.owlStart_moves (k : BootKind) (c : Chip) : Moves [.sys, .tb, .ph, .grp, .le, .setpt, .sweep, .sett, .guards, .eva, .trace, .obs, .nv, .cal, .log, .host, .draws] c (Chip.owlStart k c) := by
  unfold Chip.owlStart
  extract_lets +onlyGivenNames x
  clear_value x
  extract_lets +onlyGivenNames x
  clear_value x
  extract_lets +onlyGivenNames x
  refine moves_cut x ?_ (fun _ => ?_)
  · unfold x
    exact moves_set_nv (moves_refl _ _) (by decide)
  try clear_value x
  extract_lets +onlyGivenNames x
  refine moves_cut x ?_ (fun _ => ?_)
  · unfold x
    exact moves_then (by assumption) (Chip.nvQueue_moves ..) (by decide)
  try clear_value x
  extract_lets +onlyGivenNames x
  clear_value x
  extract_lets +onlyGivenNames x
  refine moves_cut x ?_ (fun _ => ?_)
  · unfold x
    split
    · exact moves_set_cal (by assumption) (by decide)
    · assumption
  try clear_value x
  extract_lets +onlyGivenNames x
  refine moves_cut x ?_ (fun _ => ?_)
  · unfold x
    refine moves_ite (fun _ => ?_) (fun _ => ?_)
    · exact moves_then (by assumption) (Chip.faultB_moves ..) (by decide)
    · assumption
  try clear_value x
  extract_lets +onlyGivenNames x
  refine moves_cut x ?_ (fun _ => ?_)
  · unfold x
    refine moves_ite (fun _ => ?_) (fun _ => ?_)
    · refine moves_ite (fun _ => ?_) (fun _ => ?_)
      · assumption
      · refine moves_then ?_ (Chip.bump_moves ..) (by decide)
        exact moves_then (by assumption) (Chip.warn_moves ..) (by decide)
    · assumption
  try clear_value x
  extract_lets +onlyGivenNames x
  refine moves_cut x ?_ (fun _ => ?_)
  · unfold x
    exact moves_then (by assumption) (Chip.bump_moves ..) (by decide)
  try clear_value x
  extract_lets +onlyGivenNames x
  refine moves_cut x ?_ (fun _ => ?_)
  · unfold x
    refine moves_ite (fun _ => ?_) (fun _ => ?_)
    · exact moves_then (by assumption) (Chip.bump_moves ..) (by decide)
    · assumption
  try clear_value x
  extract_lets +onlyGivenNames x
  refine moves_cut x ?_ (fun _ => ?_)
  · unfold x
    refine moves_ite (fun _ => ?_) (fun _ => ?_)
    · refine moves_then ?_ (Chip.bump_moves ..) (by decide)
      exact moves_then (by assumption) (Chip.warn_moves ..) (by decide)
    · assumption
  try clear_value x
  extract_lets +onlyGivenNames x
  clear_value x
  extract_lets +onlyGivenNames x
  refine moves_cut x ?_ (fun _ => ?_)
  · unfold x
    refine moves_ite (fun _ => ?_) (fun _ => ?_)
    · refine moves_then ?_ (Chip.warn_moves ..) (by decide)
      exact moves_set_sys (by assumption) (by decide)
    · assumption
  try clear_value x
  split
  · refine moves_then ?_ (Chip.bump_moves ..) (by decide)
    refine moves_then ?_ (Chip.pushLog_moves ..) (by decide)
    exact moves_set_sys (by assumption) (by decide)
  · assumption

theorem Chip.writeCap_moves (c : Chip) : Moves [.sys, .guards, .eva, .trace, .obs, .nv, .log, .draws] c (Chip.writeCap c) := by
  unfold Chip.writeCap
  split
  · extract_lets +onlyGivenNames x
    clear_value x
    extract_lets +onlyGivenNames x
    refine moves_cut x ?_ (fun _ => ?_)
    · unfold x
      exact moves_set_sys (moves_refl _ _) (by decide)
    try clear_value x
    refine moves_ite (fun _ => ?_) (fun _ => ?_)
    · extract_lets +onlyGivenNames x
      clear_value x
      extract_lets +onlyGivenNames x
      refine moves_cut x ?_ (fun _ => ?_)
      · unfold x
        exact moves_set_sys (by assumption) (by decide)
      try clear_value x
      refine moves_ite (fun _ => ?_) (fun _ => ?_)
      · exact moves_then (by assumption) (Chip.warn_moves ..) (by decide)
      · assumption
    · assumption
  · exact moves_refl _ _

theorem Chip.bootStep56_moves (k : BootKind) (b : BootInput) (c : Chip) : Moves [.sys, .tb, .ph, .grp, .le, .setpt, .lcmd, .refs, .aux, .snap, .sweep, .sett, .gauge, .guards, .eva, .trace, .obs, .dom, .nv, .cal, .log, .host, .draws] c (Chip.bootStep56 k b c) := by
  unfold Chip.bootStep56
  refine moves_ite (fun _ => ?_) (fun _ => ?_)
  · refine moves_then ?_ (Chip.writeCap_moves ..) (by decide)
    exact moves_then (moves_refl _ _) (Chip.modDom_moves ..) (by decide)
  · extract_lets +onlyGivenNames x
    refine moves_cut x ?_ (fun _ => ?_)
    · unfold x
      exact moves_then (moves_refl _ _) (Chip.owlStart_moves ..) (by decide)
    try clear_value x
    split
    split
    extract_lets +onlyGivenNames x
    clear_value x
    split
    extract_lets +onlyGivenNames x
    refine moves_cut x ?_ (fun _ => ?_)
    · unfold x
      refine moves_ite (fun _ => ?_) (fun _ => ?_)
      · exact moves_then (by assumption) (Chip.loadImage_moves ..) (by decide)
      · assumption
    try clear_value x
    extract_lets +onlyGivenNames x
    clear_value x
    extract_lets +onlyGivenNames x
    refine moves_cut x ?_ (fun _ => ?_)
    · unfold x
      exact moves_mk (.inr (by decide)) (.inl rfl) (.inl rfl) (.inl rfl) (.inl rfl) (.inl rfl) (.inl rfl) (.inl rfl) (.inl rfl) (.inl rfl) (.inl rfl) (.inl rfl) (.inl rfl) (.inl rfl) (.inl rfl) (.inl rfl) (.inl rfl) (.inl rfl) (.inl rfl) (.inl rfl) (.inl rfl) (.inl rfl) (.inl rfl) (.inl rfl) (.inl rfl) (.inl rfl) (.inr (by decide)) (by assumption)
    try clear_value x
    extract_lets +onlyGivenNames x
    refine moves_cut x ?_ (fun _ => ?_)
    · unfold x
      exact moves_then (by assumption) (Chip.writeCap_moves ..) (by decide)
    try clear_value x
    extract_lets +onlyGivenNames x
    refine moves_cut x ?_ (fun _ => ?_)
    · unfold x
      exact moves_then (by assumption) (Chip.modDom_moves ..) (by decide)
    try clear_value x
    refine moves_ite (fun _ => ?_) (fun _ => ?_)
    · refine moves_then ?_ (Chip.count_moves ..) (by decide)
      exact moves_then (by assumption) (Chip.modDom_moves ..) (by decide)
    · assumption

theorem Chip.startBoot_moves (k : BootKind) (b : BootInput) (c : Chip) : Moves [.sys, .code, .tb, .ph, .grp, .le, .setpt, .lcmd, .refs, .aux, .snap, .cap, .sweep, .sett, .gauge, .guards, .eva, .trace, .obs, .mbx, .dom, .nv, .cal, .log, .host, .latch, .draws] c (Chip.startBoot k b c) := by
  unfold Chip.startBoot
  refine moves_then ?_ (Chip.bootStep56_moves ..) (by decide)
  refine moves_then ?_ (Chip.bootStep4_moves ..) (by decide)
  refine moves_then ?_ (Chip.bootStep3_moves ..) (by decide)
  refine moves_then ?_ (Chip.bootStep2_moves ..) (by decide)
  exact moves_then (moves_refl _ _) (Chip.bootStep1_moves ..) (by decide)

theorem Chip.bootGroup_moves (c : Chip) (g : Group) : Moves [.grp, .setpt, .guards, .eva, .trace, .obs, .nv, .log, .draws] c (Chip.bootGroup c g) := by
  unfold Chip.bootGroup
  split
  extract_lets +onlyGivenNames x
  refine moves_cut x ?_ (fun _ => ?_)
  · unfold x
    exact moves_then (moves_refl _ _) (Chip.modGrp_moves ..) (by decide)
  try clear_value x
  refine moves_ite (fun _ => ?_) (fun _ => ?_)
  · assumption
  · extract_lets +onlyGivenNames x
    refine moves_cut x ?_ (fun _ => ?_)
    · unfold x
      exact moves_then (by assumption) (Chip.select_moves ..) (by decide)
    try clear_value x
    refine moves_ite (fun _ => ?_) (fun _ => ?_)
    · exact moves_then (by assumption) (Chip.warn_moves ..) (by decide)
    · assumption

theorem Chip.bootGone_moves (b : Block) (c : Chip) : Moves [.guards, .eva, .trace, .obs, .log, .draws] c (Chip.bootGone b c) := by
  unfold Chip.bootGone
  refine moves_foldl _ _ ?_ (fun _ _ => ?_)
  · exact moves_refl _ _
  · extract_lets +onlyGivenNames x
    refine moves_cut x ?_ (fun _ => ?_)
    · unfold x
      exact moves_then (moves_refl _ _) (Chip.modGuard_moves ..) (by decide)
    try clear_value x
    refine moves_then ?_ (Chip.writeHist_moves ..) (by decide)
    exact moves_then (by assumption) (Chip.grantAs_moves ..) (by decide)

theorem Chip.firmwareEnables_moves (r : BootResult) (c : Chip) : Moves [.guards, .draws] c (Chip.firmwareEnables r c) := by
  unfold Chip.firmwareEnables
  refine moves_ite (fun _ => ?_) (fun _ => ?_)
  · exact moves_refl _ _
  · extract_lets +onlyGivenNames x
    clear_value x
    extract_lets +onlyGivenNames x
    refine moves_cut x ?_ (fun _ => ?_)
    · unfold x
      refine moves_foldl _ _ ?_ (fun _ _ => ?_)
      · exact moves_refl _ _
      · exact moves_then (moves_refl _ _) (Chip.modGuard_moves ..) (by decide)
    try clear_value x
    exact moves_set_draws (by assumption) (by decide)

theorem Chip.refault_moves (c : Chip) : Moves [.ph, .obs] c (Chip.refault c) := by
  unfold Chip.refault
  refine moves_foldl _ _ ?_ (fun _ _ => ?_)
  · exact moves_refl _ _
  · refine moves_ite (fun _ => ?_) (fun _ => ?_)
    · exact moves_then (moves_refl _ _) (Chip.setPstate_moves ..) (by decide)
    · exact moves_refl _ _

theorem Chip.bootDone_moves (periods : Nat) (c : Chip) : Moves [.sys, .code, .tb, .ph, .grp, .le, .setpt, .sweep, .sett, .gauge, .guards, .eva, .trace, .obs, .nv, .cal, .log, .host, .draws] c (Chip.bootDone periods c) := by
  unfold Chip.bootDone
  refine moves_ite (fun _ => ?_) (fun _ => ?_)
  · extract_lets +onlyGivenNames x
    clear_value x
    extract_lets +onlyGivenNames x
    clear_value x
    extract_lets +onlyGivenNames x
    refine moves_cut x ?_ (fun _ => ?_)
    · unfold x
      refine moves_then ?_ (Chip.firmwareEnables_moves ..) (by decide)
      refine moves_foldl _ _ ?_ (fun _ _ => ?_)
      · exact moves_refl _ _
      · exact moves_then (moves_refl _ _) (Chip.bootGone_moves ..) (by decide)
    try clear_value x
    extract_lets +onlyGivenNames x
    refine moves_cut x ?_ (fun _ => ?_)
    · unfold x
      refine moves_ite (fun _ => ?_) (fun _ => ?_)
      · assumption
      · exact moves_then (by assumption) (Chip.faultB_moves ..) (by decide)
    try clear_value x
    extract_lets +onlyGivenNames x
    refine moves_cut x ?_ (fun _ => ?_)
    · unfold x
      exact moves_then (by assumption) (Chip.enterDevice_moves ..) (by decide)
    try clear_value x
    extract_lets +onlyGivenNames x
    clear_value x
    extract_lets +onlyGivenNames x
    refine moves_cut x ?_ (fun _ => ?_)
    · unfold x
      exact moves_mk (.inr (by decide)) (.inr (by decide)) (.inl rfl) (.inl rfl) (.inl rfl) (.inl rfl) (.inl rfl) (.inl rfl) (.inl rfl) (.inl rfl) (.inl rfl) (.inl rfl) (.inl rfl) (.inl rfl) (.inl rfl) (.inl rfl) (.inl rfl) (.inl rfl) (.inl rfl) (.inl rfl) (.inl rfl) (.inl rfl) (.inl rfl) (.inl rfl) (.inl rfl) (.inl rfl) (.inl rfl) (by assumption)
    try clear_value x
    extract_lets +onlyGivenNames x
    refine moves_cut x ?_ (fun _ => ?_)
    · unfold x
      refine moves_ite (fun _ => ?_) (fun _ => ?_)
      · exact moves_then (by assumption) (Chip.bump_moves ..) (by decide)
      · exact moves_set_code (by assumption) (by decide)
    try clear_value x
    extract_lets +onlyGivenNames x
    clear_value x
    extract_lets +onlyGivenNames x
    clear_value x
    extract_lets +onlyGivenNames x
    clear_value x
    extract_lets +onlyGivenNames x
    refine moves_cut x ?_ (fun _ => ?_)
    · unfold x
      exact moves_mk (.inr (by decide)) (.inl rfl) (.inl rfl) (.inl rfl) (.inl rfl) (.inl rfl) (.inl rfl) (.inl rfl) (.inl rfl) (.inl rfl) (.inl rfl) (.inl rfl) (.inl rfl) (.inr (by decide)) (.inr (by decide)) (.inl rfl) (.inl rfl) (.inl rfl) (.inl rfl) (.inl rfl) (.inl rfl) (.inl rfl) (.inl rfl) (.inl rfl) (.inr (by decide)) (.inl rfl) (.inl rfl) (by assumption)
    try clear_value x
    extract_lets +onlyGivenNames x
    refine moves_cut x ?_ (fun _ => ?_)
    · unfold x
      refine moves_ite (fun _ => ?_) (fun _ => ?_)
      · refine moves_foldl _ _ ?_ (fun _ _ => ?_)
        · exact moves_then (by assumption) (Chip.refault_moves ..) (by decide)
        · exact moves_then (moves_refl _ _) (Chip.bootGroup_moves ..) (by decide)
      · assumption
    try clear_value x
    extract_lets +onlyGivenNames x
    refine moves_cut x ?_ (fun _ => ?_)
    · unfold x
      exact moves_then (by assumption) (Chip.grant_moves ..) (by decide)
    try clear_value x
    extract_lets +onlyGivenNames x
    clear_value x
    extract_lets +onlyGivenNames x
    refine moves_cut x ?_ (fun _ => ?_)
    · unfold x
      refine moves_foldl _ _ ?_ (fun _ _ => ?_)
      · assumption
      · refine moves_ite (fun _ => ?_) (fun _ => ?_)
        · exact moves_then (moves_refl _ _) (Chip.unsolicited_moves ..) (by decide)
        · exact moves_refl _ _
    try clear_value x
    extract_lets +onlyGivenNames x
    refine moves_cut x ?_ (fun _ => ?_)
    · unfold x
      refine moves_ite (fun _ => ?_) (fun _ => ?_)
      · assumption
      · exact moves_then (by assumption) (Chip.addLog_moves ..) (by decide)
    try clear_value x
    extract_lets +onlyGivenNames x
    clear_value x
    extract_lets +onlyGivenNames x
    refine moves_cut x ?_ (fun _ => ?_)
    · unfold x
      refine moves_ite (fun _ => ?_) (fun _ => ?_)
      · refine moves_then ?_ (Chip.requestShdn_moves ..) (by decide)
        exact moves_set_sys (by assumption) (by decide)
      · assumption
    try clear_value x
    exact moves_then (by assumption) (Chip.tryStarts_moves ..) (by decide)
  · exact moves_refl _ _

theorem Chip.lowAtPower_moves (c : Chip) : Moves [.sys, .guards, .eva, .trace, .obs, .nv, .log, .draws] c (Chip.lowAtPower c) := by
  unfold Chip.lowAtPower
  extract_lets +onlyGivenNames x
  refine moves_cut x ?_ (fun _ => ?_)
  · unfold x
    exact moves_then (moves_refl _ _) (Chip.warn_moves ..) (by decide)
  try clear_value x
  exact moves_set_sys (by assumption) (by decide)

theorem Chip.powerOn_moves (b : BootInput) (c : Chip) : Moves [.sys, .code, .tb, .ph, .grp, .le, .setpt, .lcmd, .refs, .aux, .snap, .cap, .sweep, .sett, .gauge, .guards, .eva, .trace, .obs, .mbx, .dom, .nv, .cal, .log, .host, .latch, .draws] c (Chip.powerOn b c) := by
  unfold Chip.powerOn
  refine moves_ite (fun _ => ?_) (fun _ => ?_)
  · extract_lets +onlyGivenNames x
    refine moves_cut x ?_ (fun _ => ?_)
    · unfold x
      exact moves_then (moves_refl _ _) (Chip.toOff_moves ..) (by decide)
    try clear_value x
    extract_lets +onlyGivenNames x
    clear_value x
    extract_lets +onlyGivenNames x
    refine moves_cut x ?_ (fun _ => ?_)
    · unfold x
      exact moves_mk (.inr (by decide)) (.inl rfl) (.inl rfl) (.inl rfl) (.inl rfl) (.inl rfl) (.inl rfl) (.inl rfl) (.inl rfl) (.inl rfl) (.inl rfl) (.inl rfl) (.inl rfl) (.inr (by decide)) (.inl rfl) (.inl rfl) (.inl rfl) (.inl rfl) (.inl rfl) (.inl rfl) (.inl rfl) (.inl rfl) (.inr (by decide)) (.inl rfl) (.inl rfl) (.inl rfl) (.inl rfl) (by assumption)
    try clear_value x
    extract_lets +onlyGivenNames x
    refine moves_cut x ?_ (fun _ => ?_)
    · unfold x
      refine moves_ite (fun _ => ?_) (fun _ => ?_)
      · assumption
      · exact moves_then (by assumption) (Chip.lowAtPower_moves ..) (by decide)
    try clear_value x
    refine moves_ite (fun _ => ?_) (fun _ => ?_)
    · assumption
    · exact moves_then (by assumption) (Chip.startBoot_moves ..) (by decide)
  · exact moves_refl _ _

theorem Chip.rstAssert_moves (c : Chip) : Moves [.sys, .code, .tb, .ph, .grp, .le, .setpt, .lcmd, .refs, .aux, .snap, .cap, .sweep, .sett, .gauge, .guards, .trace, .mbx, .dom, .nv, .log, .host, .latch] c (Chip.rstAssert c) := by
  unfold Chip.rstAssert
  refine moves_ite (fun _ => ?_) (fun _ => ?_)
  · exact moves_set_sys (moves_refl _ _) (by decide)
  · refine moves_ite (fun _ => ?_) (fun _ => ?_)
    · exact moves_mk (.inr (by decide)) (.inl rfl) (.inl rfl) (.inl rfl) (.inl rfl) (.inl rfl) (.inl rfl) (.inl rfl) (.inl rfl) (.inl rfl) (.inl rfl) (.inl rfl) (.inl rfl) (.inl rfl) (.inl rfl) (.inl rfl) (.inl rfl) (.inl rfl) (.inl rfl) (.inl rfl) (.inl rfl) (.inl rfl) (.inl rfl) (.inl rfl) (.inr (by decide)) (.inl rfl) (.inl rfl) (moves_refl _ _)
    · extract_lets +onlyGivenNames x
      refine moves_cut x ?_ (fun _ => ?_)
      · unfold x
        exact moves_then (moves_refl _ _) (Chip.resetDomains_moves ..) (by decide)
      try clear_value x
      exact moves_set_sys (by assumption) (by decide)

theorem Chip.rstRelease_moves (b : BootInput) (c : Chip) : Moves [.sys, .code, .tb, .ph, .grp, .le, .setpt, .lcmd, .refs, .aux, .snap, .cap, .sweep, .sett, .gauge, .guards, .eva, .trace, .obs, .mbx, .dom, .nv, .cal, .log, .host, .latch, .draws] c (Chip.rstRelease b c) := by
  unfold Chip.rstRelease
  refine moves_ite (fun _ => ?_) (fun _ => ?_)
  · exact moves_refl _ _
  · refine moves_ite (fun _ => ?_) (fun _ => ?_)
    · exact moves_set_sys (moves_refl _ _) (by decide)
    · refine moves_ite (fun _ => ?_) (fun _ => ?_)
      · exact moves_set_sys (moves_refl _ _) (by decide)
      · refine moves_ite (fun _ => ?_) (fun _ => ?_)
        · exact moves_mk (.inr (by decide)) (.inl rfl) (.inl rfl) (.inl rfl) (.inl rfl) (.inl rfl) (.inl rfl) (.inl rfl) (.inl rfl) (.inl rfl) (.inl rfl) (.inl rfl) (.inl rfl) (.inl rfl) (.inl rfl) (.inl rfl) (.inl rfl) (.inl rfl) (.inl rfl) (.inl rfl) (.inl rfl) (.inl rfl) (.inl rfl) (.inl rfl) (.inr (by decide)) (.inl rfl) (.inl rfl) (moves_refl _ _)
        · refine moves_ite (fun _ => ?_) (fun _ => ?_)
          · exact moves_set_sys (moves_refl _ _) (by decide)
          · exact moves_then (moves_refl _ _) (Chip.startBoot_moves ..) (by decide)

theorem Chip.rstStuck_moves (c : Chip) : Moves [.sys] c (Chip.rstStuck c) := by
  unfold Chip.rstStuck
  refine moves_ite (fun _ => ?_) (fun _ => ?_)
  · exact moves_set_sys (moves_refl _ _) (by decide)
  · exact moves_refl _ _

end Sys2Proof.Machine
end

