-- ==== Sys2Proof/Laws/FrameLink.lean ====
section
/-!
SUPPORT. What the operations of Machine/Link.lean leave alone: for each, the parts of the device that it may change.
-/

-- one theorem after another: the checks of a large package would else hold too many threads at once
set_option Elab.async false

namespace Sys2Proof.Machine
open Sys2Proof

theorem Chip.topoGrant_moves (input src info : Nat) (c : Chip) : Moves [.eva, .trace, .obs, .draws] c (Chip.topoGrant input src info c) := by
  unfold Chip.topoGrant
  exact moves_then (moves_refl _ _) (Chip.grantAs_moves ..) (by decide)

theorem Chip.credit_moves (p : SettPort) (vc : Fin 4) (n : Nat) (c : Chip) : Moves [.sett, .obs] c (Chip.credit p vc n c) := by
  unfold Chip.credit
  refine moves_ite (fun _ => ?_) (fun _ => ?_)
  · refine moves_then ?_ (Chip.serveNow_moves ..) (by decide)
    exact moves_then (moves_refl _ _) (Chip.modPort_moves ..) (by decide)
  · exact moves_refl _ _

theorem Chip.flitDrop_moves (p : SettPort) (c : Chip) : Moves [.sett] c (Chip.flitDrop p c) := by
  unfold Chip.flitDrop
  refine moves_ite (fun _ => ?_) (fun _ => ?_)
  · exact moves_refl _ _
  · split
    · refine moves_then ?_ (Chip.freeBuffer_moves ..) (by decide)
      exact moves_then (moves_refl _ _) (Chip.modPort_moves ..) (by decide)
    · exact moves_refl _ _

theorem Chip.forward_moves (f : FlitHdr) (b : FlitBody) (cut : Bool) (c : Chip) : Moves [.sett, .obs, .draws] c (Chip.forward f b cut c) := by
  unfold Chip.forward
  extract_lets +onlyGivenNames x
  unfold x
  refine moves_then ?_ (Chip.transmit_moves ..) (by decide)
  exact moves_then (moves_refl _ _) (Chip.draw_moves ..) (by decide)

theorem Chip.spoiled_moves (f : FlitHdr) (b : FlitBody) (c : Chip) : Moves [.sett, .obs, .draws] c (Chip.spoiled f b c) := by
  unfold Chip.spoiled
  extract_lets +onlyGivenNames x
  refine moves_cut x ?_ (fun _ => ?_)
  · unfold x
    refine moves_ite (fun _ => ?_) (fun _ => ?_)
    · refine moves_then ?_ (Chip.count_moves ..) (by decide)
      exact moves_then (moves_refl _ _) (Chip.modPort_moves ..) (by decide)
    · exact moves_refl _ _
  try clear_value x
  refine moves_ite (fun _ => ?_) (fun _ => ?_)
  · exact moves_then (by assumption) (Chip.forward_moves ..) (by decide)
  · exact moves_then (by assumption) (Chip.returnCredit_moves ..) (by decide)

theorem Chip.receive_moves (f : FlitHdr) (b : FlitBody) (c : Chip) : Moves [.sett, .obs, .draws] c (Chip.receive f b c).1 := by
  unfold Chip.receive
  split
  · dsimp only
    exact moves_refl _ _
  · split
    · dsimp only
      exact moves_then (moves_refl _ _) (Chip.spoiled_moves ..) (by decide)
    · extract_lets +onlyGivenNames x
      refine moves_cut x ?_ (fun _ => ?_)
      · unfold x
        refine moves_then ?_ (Chip.count_moves ..) (by decide)
        exact moves_then (moves_refl _ _) (Chip.modPort_moves ..) (by decide)
      try clear_value x
      split
      · dsimp only
        refine moves_then ?_ (Chip.returnCredit_moves ..) (by decide)
        exact moves_then (by assumption) (Chip.onSett_moves ..) (by decide)
      · extract_lets +onlyGivenNames x
        refine moves_cut x ?_ (fun _ => ?_)
        · unfold x
          exact moves_then (by assumption) (Chip.modPeer_moves ..) (by decide)
        try clear_value x
        split
        · dsimp only
          exact moves_then (by assumption) (Chip.returnCredit_moves ..) (by decide)
        · extract_lets +onlyGivenNames x
          refine moves_cut x ?_ (fun _ => ?_)
          · unfold x
            refine moves_ite (fun _ => ?_) (fun _ => ?_)
            · exact moves_then (by assumption) (Chip.forward_moves ..) (by decide)
            · exact moves_then (by assumption) (Chip.returnCredit_moves ..) (by decide)
          try clear_value x
          split
          · dsimp only
            exact moves_then (by assumption) (Chip.modPeer_moves ..) (by decide)
          · dsimp only
            assumption

theorem Chip.deliver3_movesOf {f : FlitHdr} {b : FlitBody} {act : Chip → Chip} {T : List Part} {c e : Chip} (h : Moves T c e)
    (k : ∀ d, Moves T d (act d)) (sub : ∀ p ∈ [.sett, .eva, .trace, .obs, .draws], p ∈ T) : Moves T c (Chip.deliver3 f b act e) := by
  have r : Moves T c (e.receive f b).1 := moves_then h (Chip.receive_moves ..) (fun p hp => sub p (by revert hp; cases p <;> decide))
  unfold Chip.deliver3
  refine moves_ite (fun _ => ?_) (fun _ => r)
  exact moves_trans (moves_then r (Chip.grant_moves ..) (fun p hp => sub p (by revert hp; cases p <;> decide))) (k _)

theorem Chip.deliver2_movesOf {f : FlitHdr} {b : FlitBody} {act : Chip → Chip} {T : List Part} {c e : Chip} (h : Moves T c e)
    (k : ∀ d, Moves T d (act d)) (sub : ∀ p ∈ [.sett, .eva, .trace, .obs, .draws], p ∈ T) : Moves T c (Chip.deliver2 f b act e) := by
  unfold Chip.deliver2
  split
  · exact Chip.deliver3_movesOf h (fun _ => moves_refl _ _) sub
  · exact Chip.deliver3_movesOf h k sub

end Sys2Proof.Machine
end

