-- ==== Sys2Proof/Laws/FrameSweep.lean ====
section
/-!
SUPPORT. What the operations of Machine/Sweep.lean leave alone: for each, the parts of the device that it may change.
-/

-- one theorem after another: the checks of a large package would else hold too many threads at once
set_option Elab.async false

namespace Sys2Proof.Machine
open Sys2Proof

theorem Chip.bookSweep_moves (g : Group) (d : SweepDesc) (tag : Nat) (orig : Address) (chain : Bool) (c : Chip) : Moves [.sweep] c (Chip.bookSweep g d tag orig chain c) := by
  unfold Chip.bookSweep
  extract_lets +onlyGivenNames x
  clear_value x
  exact moves_set_sweep (moves_refl _ _) (by decide)

theorem Chip.capWrite_moves (a : Nat) (bs : List Byte) (c : Chip) : Moves [.cap] c (Chip.capWrite a bs c) := by
  unfold Chip.capWrite
  exact moves_set_cap (moves_refl _ _) (by decide) (memWriteBytes_wf _ _)

theorem Chip.capPut_moves (a n v : Nat) (c : Chip) : Moves [.cap] c (Chip.capPut a n v c) := by
  unfold Chip.capPut
  exact moves_then (moves_refl _ _) (Chip.capWrite_moves ..) (by decide)

theorem Chip.capGrant_moves (c : Chip) : Moves [.cap, .sweep, .eva, .trace, .obs, .draws] c (Chip.capGrant c) := by
  unfold Chip.capGrant
  extract_lets +onlyGivenNames u
  refine moves_ite (fun _ => ?_) (fun _ => moves_refl _ _)
  extract_lets +onlyGivenNames x y
  have hx : Moves [.cap, .sweep, .eva, .trace, .obs, .draws] c x := moves_then (moves_refl _ _) (Chip.grant_moves ..) (by decide)
  have hy : Moves [.cap, .sweep, .eva, .trace, .obs, .draws] c y := by
    refine moves_mk (.inl rfl) (.inl rfl) (.inl rfl) (.inl rfl) (.inl rfl) (.inl rfl) (.inl rfl) (.inl rfl) (.inl rfl) (.inl rfl) (.inl rfl) (.inr (by decide)) (.inr (by decide)) (.inl rfl) (.inl rfl) (.inl rfl) (.inl rfl) (.inl rfl) (.inl rfl) (.inl rfl) (.inl rfl) (.inl rfl) (.inl rfl) (.inl rfl) (.inl rfl) (.inl rfl) (.inl rfl) hx (wcap := ?_)
    exact memErase_wf _ _
  refine moves_then ?_ (Chip.capWrite_moves ..) (by decide)
  refine moves_then ?_ (Chip.capPut_moves ..) (by decide)
  refine moves_then ?_ (Chip.capPut_moves ..) (by decide)
  refine moves_then ?_ (Chip.capPut_moves ..) (by decide)
  refine moves_then ?_ (Chip.capPut_moves ..) (by decide)
  refine moves_then ?_ (Chip.capPut_moves ..) (by decide)
  refine moves_then ?_ (Chip.capPut_moves ..) (by decide)
  exact moves_then hy (Chip.capPut_moves ..) (by decide)

theorem Chip.capRelease_moves (c : Chip) : Moves [.sweep, .eva, .trace, .obs, .draws] c (Chip.capRelease c) := by
  unfold Chip.capRelease
  refine moves_ite (fun _ => ?_) (fun _ => ?_)
  · extract_lets +onlyGivenNames x
    refine moves_cut x ?_ (fun _ => ?_)
    · unfold x
      exact moves_then (moves_refl _ _) (Chip.grant_moves ..) (by decide)
    try clear_value x
    exact moves_set_sweep (by assumption) (by decide)
  · exact moves_refl _ _

theorem Chip.voidEntries_moves (n : Nat) (c : Chip) : Moves [.cap] c (Chip.voidEntries n c) := by
  induction n generalizing c with
  | zero => exact moves_refl _ _
  | succ n ih =>
    refine moves_trans ?_ (ih _)
    exact moves_set_cap (moves_refl _ _) (by decide) (memWrite_wf _ _)

theorem Chip.capEnd_moves (aborted : Bool) (cause points : Nat) (c : Chip) : Moves [.cap] c (Chip.capEnd aborted cause points c) := by
  unfold Chip.capEnd
  extract_lets +onlyGivenNames x
  refine moves_cut x ?_ (fun _ => ?_)
  · unfold x
    refine moves_then ?_ (Chip.capPut_moves ..) (by decide)
    refine moves_then ?_ (Chip.capPut_moves ..) (by decide)
    exact moves_then (moves_refl _ _) (Chip.capPut_moves ..) (by decide)
  try clear_value x
  refine moves_ite (fun _ => ?_) (fun _ => ?_)
  · exact moves_then (by assumption) (Chip.voidEntries_moves ..) (by decide)
  · assumption

theorem Chip.pointStart_moves (t : Nat) (c : Chip) : Moves [.tb, .le, .cap, .sweep, .sett, .trace, .obs] c (Chip.pointStart t c) := by
  unfold Chip.pointStart
  extract_lets +onlyGivenNames x
  extract_lets +onlyGivenNames x
  refine moves_cut x ?_ (fun _ => ?_)
  · unfold x
    exact moves_then (moves_refl _ _) (Chip.elapseTo_moves ..) (by decide)
  try clear_value x
  extract_lets +onlyGivenNames x
  clear_value x
  refine moves_ite (fun _ => ?_) (fun _ => ?_)
  · extract_lets +onlyGivenNames x
    refine moves_cut x ?_ (fun _ => ?_)
    · unfold x
      assumption
    try clear_value x
    extract_lets +onlyGivenNames x
    clear_value x
    extract_lets +onlyGivenNames x
    clear_value x
    extract_lets +onlyGivenNames x
    clear_value x
    extract_lets +onlyGivenNames x
    refine moves_cut x ?_ (fun _ => ?_)
    · unfold x
      refine moves_ite (fun _ => ?_) (fun _ => ?_)
      · assumption
      · exact moves_then (by assumption) (Chip.capPut_moves ..) (by decide)
    try clear_value x
    extract_lets +onlyGivenNames x
    clear_value x
    extract_lets +onlyGivenNames x
    clear_value x
    extract_lets +onlyGivenNames x
    refine moves_cut x ?_ (fun _ => ?_)
    · unfold x
      exact moves_set_sweep (by assumption) (by decide)
    try clear_value x
    split
    · refine moves_ite (fun _ => ?_) (fun _ => ?_)
      · extract_lets +onlyGivenNames x
        clear_value x
        exact moves_then (by assumption) (Chip.modLe_moves ..) (by decide)
      · assumption
    · assumption
  · exact moves_refl _ _

theorem Chip.resyncSweep_moves (c : Chip) : Moves [.le, .sweep] c (Chip.resyncSweep c) := by
  unfold Chip.resyncSweep
  extract_lets +onlyGivenNames x
  clear_value x
  refine moves_ite (fun _ => ?_) (fun _ => ?_)
  · extract_lets +onlyGivenNames x
    clear_value x
    extract_lets +onlyGivenNames x
    refine moves_cut x ?_ (fun _ => ?_)
    · unfold x
      exact moves_set_sweep (moves_refl _ _) (by decide)
    try clear_value x
    split
    · exact moves_then (by assumption) (Chip.modLe_moves ..) (by decide)
    · assumption
  · exact moves_refl _ _

theorem Chip.writeEntry_moves (i : Nat) (inc amp : Nat) (j : Injection) (c : Chip) : Moves [.cap] c (Chip.writeEntry i inc amp j c) := by
  unfold Chip.writeEntry
  extract_lets +onlyGivenNames x
  clear_value x
  extract_lets +onlyGivenNames x
  clear_value x
  extract_lets +onlyGivenNames x
  clear_value x
  extract_lets +onlyGivenNames x
  clear_value x
  extract_lets +onlyGivenNames x
  clear_value x
  extract_lets +onlyGivenNames x
  clear_value x
  refine moves_then ?_ (Chip.capWrite_moves ..) (by decide)
  exact moves_then (moves_refl _ _) (Chip.capWrite_moves ..) (by decide)

theorem Chip.lastPoint_moves (written : Nat) (c : Chip) : Moves [.sweep, .sett, .obs] c (Chip.lastPoint written c) := by
  unfold Chip.lastPoint
  extract_lets +onlyGivenNames x
  clear_value x
  refine moves_ite (fun _ => ?_) (fun _ => ?_)
  · exact moves_set_sweep (moves_refl _ _) (by decide)
  · extract_lets +onlyGivenNames x
    refine moves_cut x ?_ (fun _ => ?_)
    · unfold x
      exact moves_set_sweep (moves_refl _ _) (by decide)
    try clear_value x
    refine moves_ite (fun _ => ?_) (fun _ => ?_)
    · extract_lets +onlyGivenNames x
      clear_value x
      exact moves_set_sweep (by assumption) (by decide)
    · exact moves_then (by assumption) (Chip.sendFlit_moves ..) (by decide)

theorem Chip.windowClose_moves (c : Chip) : Moves [.le, .cap, .sweep, .sett, .obs, .draws] c (Chip.windowClose c) := by
  unfold Chip.windowClose
  extract_lets +onlyGivenNames x
  clear_value x
  refine moves_ite (fun _ => ?_) (fun _ => ?_)
  · extract_lets +onlyGivenNames x
    refine moves_cut x ?_ (fun _ => ?_)
    · unfold x
      split
      · extract_lets +onlyGivenNames x
        clear_value x
        extract_lets +onlyGivenNames x
        refine moves_cut x ?_ (fun _ => ?_)
        · unfold x
          exact moves_then (moves_refl _ _) (Chip.writeEntry_moves ..) (by decide)
        try clear_value x
        refine moves_then ?_ (Chip.modLe_moves ..) (by decide)
        refine moves_then ?_ (Chip.capPut_moves ..) (by decide)
        exact moves_set_draws (by assumption) (by decide)
      · exact moves_refl _ _
    try clear_value x
    extract_lets +onlyGivenNames x
    clear_value x
    extract_lets +onlyGivenNames x
    clear_value x
    extract_lets +onlyGivenNames x
    refine moves_cut x ?_ (fun _ => ?_)
    · unfold x
      exact moves_set_sweep (by assumption) (by decide)
    try clear_value x
    refine moves_ite (fun _ => ?_) (fun _ => ?_)
    · exact moves_then (by assumption) (Chip.lastPoint_moves ..) (by decide)
    · assumption
  · exact moves_refl _ _

theorem Chip.sweepGroupEnd_moves (g : Group) (c : Chip) : Moves [.sys, .tb, .ph, .grp, .le, .setpt, .sweep, .sett, .guards, .eva, .trace, .obs, .nv, .cal, .log, .host, .draws] c (Chip.sweepGroupEnd g c) := by
  unfold Chip.sweepGroupEnd
  extract_lets +onlyGivenNames x
  refine moves_cut x ?_ (fun _ => ?_)
  · unfold x
    exact moves_then (moves_refl _ _) (Chip.modEngines_moves ..) (by decide)
  try clear_value x
  refine moves_ite (fun _ => ?_) (fun _ => ?_)
  · exact moves_then (by assumption) (Chip.changeMode_moves ..) (by decide)
  · assumption

theorem Chip.oweReport_moves (tag cause points : Nat) (orig : Address) (c : Chip) : Moves [.sweep] c (Chip.oweReport tag cause points orig c) := by
  unfold Chip.oweReport
  refine moves_ite (fun _ => ?_) (fun _ => ?_)
  · exact moves_set_sweep (moves_refl _ _) (by decide)
  · refine moves_ite (fun _ => ?_) (fun _ => ?_)
    · exact moves_set_sweep (moves_refl _ _) (by decide)
    · exact moves_refl _ _

theorem Chip.takeLinkOwed_moves (c : Chip) : Moves [.sweep] c (Chip.takeLinkOwed c) := by
  unfold Chip.takeLinkOwed
  extract_lets +onlyGivenNames x
  clear_value x
  exact moves_set_sweep (moves_refl _ _) (by decide)

theorem Chip.refuseStart_moves (cause : Nat) (c : Chip) : Moves [.eva, .trace, .obs, .mbx, .dom, .host, .draws] c (Chip.refuseStart cause c) := by
  unfold Chip.refuseStart
  split
  · refine moves_then ?_ (Chip.done_moves ..) (by decide)
    exact moves_set_host (moves_refl _ _) (by decide)
  · exact moves_refl _ _

theorem Chip.endSweep_moves (aborted : Bool) (cause : Nat) (c : Chip) : Moves [.sys, .tb, .ph, .grp, .le, .setpt, .cap, .sweep, .sett, .guards, .eva, .trace, .obs, .mbx, .dom, .nv, .cal, .log, .host, .draws] c (Chip.endSweep aborted cause c) := by
  unfold Chip.endSweep
  extract_lets +onlyGivenNames x
  clear_value x
  refine moves_ite (fun _ => ?_) (fun _ => ?_)
  · exact moves_refl _ _
  · extract_lets +onlyGivenNames x
    clear_value x
    extract_lets +onlyGivenNames x
    refine moves_cut x ?_ (fun _ => ?_)
    · unfold x
      refine moves_ite (fun _ => ?_) (fun _ => ?_)
      · exact moves_then (moves_refl _ _) (Chip.capEnd_moves ..) (by decide)
      · exact moves_refl _ _
    try clear_value x
    extract_lets +onlyGivenNames x
    clear_value x
    extract_lets +onlyGivenNames x
    refine moves_cut x ?_ (fun _ => ?_)
    · unfold x
      exact moves_set_sweep (by assumption) (by decide)
    try clear_value x
    extract_lets +onlyGivenNames x
    refine moves_cut x ?_ (fun _ => ?_)
    · unfold x
      exact moves_then (by assumption) (Chip.oweReport_moves ..) (by decide)
    try clear_value x
    extract_lets +onlyGivenNames x
    refine moves_cut x ?_ (fun _ => ?_)
    · unfold x
      exact moves_then (by assumption) (Chip.refuseStart_moves ..) (by decide)
    try clear_value x
    exact moves_then (by assumption) (Chip.sweepGroupEnd_moves ..) (by decide)

theorem Chip.answerSweep_moves (tag : Nat) (r : Result) (c : Chip) : Moves [.eva, .trace, .obs, .mbx, .dom, .host, .draws] c (Chip.answerSweep tag r c) := by
  unfold Chip.answerSweep
  extract_lets +onlyGivenNames x
  clear_value x
  extract_lets +onlyGivenNames x
  clear_value x
  extract_lets +onlyGivenNames x
  refine moves_cut x ?_ (fun _ => ?_)
  · unfold x
    exact moves_set_host (moves_refl _ _) (by decide)
  try clear_value x
  refine moves_foldl _ _ ?_ (fun _ _ => ?_)
  · assumption
  · split
    · exact moves_then (moves_refl _ _) (Chip.done_moves ..) (by decide)
    · exact moves_refl _ _

theorem Chip.completeSweep_moves (c : Chip) : Moves [.sys, .tb, .ph, .grp, .le, .setpt, .cap, .sweep, .sett, .guards, .eva, .trace, .obs, .mbx, .dom, .nv, .cal, .log, .host, .draws] c (Chip.completeSweep c) := by
  unfold Chip.completeSweep
  refine moves_ite (fun _ => ?_) (fun _ => ?_)
  · extract_lets +onlyGivenNames x
    clear_value x
    extract_lets +onlyGivenNames x
    refine moves_cut x ?_ (fun _ => ?_)
    · unfold x
      exact moves_then (moves_refl _ _) (Chip.grant_moves ..) (by decide)
    try clear_value x
    extract_lets +onlyGivenNames x
    refine moves_cut x ?_ (fun _ => ?_)
    · unfold x
      refine moves_ite (fun _ => ?_) (fun _ => ?_)
      · exact moves_then (by assumption) (Chip.broadcast_moves ..) (by decide)
      · assumption
    try clear_value x
    exact moves_then (by assumption) (Chip.endSweep_moves ..) (by decide)
  · exact moves_refl _ _

theorem Chip.lateSweepAbort_moves (c : Chip) : Moves [.eva, .trace, .obs, .mbx, .dom, .host, .draws] c (Chip.lateSweepAbort c) := by
  unfold Chip.lateSweepAbort
  split
  · extract_lets +onlyGivenNames x
    refine moves_cut x ?_ (fun _ => ?_)
    · unfold x
      exact moves_then (moves_refl _ _) (Chip.grant_moves ..) (by decide)
    try clear_value x
    extract_lets +onlyGivenNames x
    clear_value x
    extract_lets +onlyGivenNames x
    refine moves_cut x ?_ (fun _ => ?_)
    · unfold x
      exact moves_set_host (by assumption) (by decide)
    try clear_value x
    split
    · exact moves_then (by assumption) (Chip.done_moves ..) (by decide)
    · assumption
  · exact moves_refl _ _

theorem Chip.endAsk_moves (tag cause : Nat) (c : Chip) : Moves [.sweep, .eva, .trace, .obs, .mbx, .dom, .host, .draws] c (Chip.endAsk tag cause c) := by
  unfold Chip.endAsk
  extract_lets +onlyGivenNames x
  clear_value x
  extract_lets +onlyGivenNames x
  refine moves_cut x ?_ (fun _ => ?_)
  · unfold x
    exact moves_set_sweep (moves_refl _ _) (by decide)
  try clear_value x
  refine moves_then ?_ (Chip.answerSweep_moves ..) (by decide)
  refine moves_then ?_ (Chip.refuseStart_moves ..) (by decide)
  exact moves_then (by assumption) (Chip.oweReport_moves ..) (by decide)

theorem Chip.abortSweepGrant_moves (c : Chip) : Moves [.sys, .tb, .ph, .grp, .le, .setpt, .cap, .sweep, .sett, .guards, .eva, .trace, .obs, .mbx, .dom, .nv, .cal, .log, .host, .draws] c (Chip.abortSweepGrant c) := by
  unfold Chip.abortSweepGrant
  split
  · refine moves_then ?_ (Chip.endAsk_moves ..) (by decide)
    exact moves_then (moves_refl _ _) (Chip.grant_moves ..) (by decide)
  · exact moves_then (moves_refl _ _) (Chip.lateSweepAbort_moves ..) (by decide)
  · refine moves_ite (fun _ => ?_) (fun _ => ?_)
    · exact moves_then (moves_refl _ _) (Chip.lateSweepAbort_moves ..) (by decide)
    · extract_lets +onlyGivenNames x
      clear_value x
      extract_lets +onlyGivenNames x
      refine moves_cut x ?_ (fun _ => ?_)
      · unfold x
        exact moves_then (moves_refl _ _) (Chip.grant_moves ..) (by decide)
      try clear_value x
      extract_lets +onlyGivenNames x
      refine moves_cut x ?_ (fun _ => ?_)
      · unfold x
        refine moves_ite (fun _ => ?_) (fun _ => ?_)
        · exact moves_then (by assumption) (Chip.broadcast_moves ..) (by decide)
        · assumption
      try clear_value x
      refine moves_then ?_ (Chip.answerSweep_moves ..) (by decide)
      exact moves_then (by assumption) (Chip.endSweep_moves ..) (by decide)

theorem Chip.linkAbort_moves (c : Chip) : Moves [.sys, .tb, .ph, .grp, .le, .setpt, .cap, .sweep, .sett, .guards, .eva, .trace, .obs, .mbx, .dom, .nv, .cal, .log, .host, .draws] c (Chip.linkAbort c) := by
  unfold Chip.linkAbort
  extract_lets +onlyGivenNames x
  clear_value x
  extract_lets +onlyGivenNames x
  clear_value x
  extract_lets +onlyGivenNames x
  refine moves_cut x ?_ (fun _ => ?_)
  · unfold x
    exact moves_set_sweep (moves_refl _ _) (by decide)
  try clear_value x
  extract_lets +onlyGivenNames x
  clear_value x
  extract_lets +onlyGivenNames x
  refine moves_cut x ?_ (fun _ => ?_)
  · unfold x
    split
    · exact moves_then (by assumption) (Chip.endAsk_moves ..) (by decide)
    · assumption
  try clear_value x
  refine moves_ite (fun _ => ?_) (fun _ => ?_)
  · refine moves_then ?_ (Chip.answerSweep_moves ..) (by decide)
    exact moves_then (by assumption) (Chip.endSweep_moves ..) (by decide)
  · split
    · refine moves_ite (fun _ => ?_) (fun _ => ?_)
      · assumption
      · exact moves_then (by assumption) (Chip.oweReport_moves ..) (by decide)
    · assumption

theorem Chip.takeAck_moves (src : Address) (tag : Nat) (orig : Address) (answer : Nat) (c : Chip) : Moves [.sweep] c (Chip.takeAck src tag orig answer c) := by
  unfold Chip.takeAck
  refine moves_ite (fun _ => ?_) (fun _ => ?_)
  · exact moves_set_sweep (moves_refl _ _) (by decide)
  · exact moves_refl _ _

theorem Chip.setupSweep_moves (tag : Nat) (orig : Address) (d : SweepDesc) (t0 : Nat) (c : Chip) : Moves [.sys, .tb, .ph, .grp, .le, .setpt, .sweep, .sett, .guards, .eva, .trace, .obs, .mbx, .dom, .nv, .cal, .log, .host, .draws] c (Chip.setupSweep tag orig d t0 c) := by
  unfold Chip.setupSweep
  extract_lets +onlyGivenNames x
  refine moves_ite (fun _ => ?_) (fun _ => ?_)
  · exact moves_refl _ _
  · extract_lets +onlyGivenNames x
    clear_value x
    extract_lets +onlyGivenNames x
    clear_value x
    extract_lets +onlyGivenNames x
    clear_value x
    extract_lets +onlyGivenNames x
    refine moves_cut x ?_ (fun _ => ?_)
    · unfold x
      refine moves_ite (fun _ => ?_) (fun _ => ?_)
      · split
        · refine moves_then ?_ (Chip.done_moves ..) (by decide)
          exact moves_set_host (moves_refl _ _) (by decide)
        · exact moves_refl _ _
      · exact moves_refl _ _
    try clear_value x
    extract_lets +onlyGivenNames x
    refine moves_cut x ?_ (fun _ => ?_)
    · unfold x
      refine moves_ite (fun _ => ?_) (fun _ => ?_)
      · exact moves_then (by assumption) (Chip.takeAck_moves ..) (by decide)
      · exact moves_then (by assumption) (Chip.sendFlit_moves ..) (by decide)
    try clear_value x
    refine moves_ite (fun _ => ?_) (fun _ => ?_)
    · assumption
    · extract_lets +onlyGivenNames x
      clear_value x
      extract_lets +onlyGivenNames x
      refine moves_cut x ?_ (fun _ => ?_)
      · unfold x
        exact moves_then (by assumption) (Chip.bookSweep_moves ..) (by decide)
      try clear_value x
      extract_lets +onlyGivenNames x
      clear_value x
      extract_lets +onlyGivenNames x
      refine moves_cut x ?_ (fun _ => ?_)
      · unfold x
        exact moves_set_sweep (by assumption) (by decide)
      try clear_value x
      refine moves_ite (fun _ => ?_) (fun _ => ?_)
      · exact moves_then (by assumption) (Chip.changeMode_moves ..) (by decide)
      · assumption

theorem Chip.hearAbort_moves (tag cause : Nat) (c : Chip) : Moves [.sweep] c (Chip.hearAbort tag cause c) := by
  unfold Chip.hearAbort
  refine moves_ite (fun _ => ?_) (fun _ => ?_)
  · exact moves_set_sweep (moves_refl _ _) (by decide)
  · refine moves_ite (fun _ => ?_) (fun _ => ?_)
    · exact moves_set_sweep (moves_refl _ _) (by decide)
    · exact moves_refl _ _

theorem Chip.headSweep_moves (src : Address) (tag : Nat) (d : SweepDesc) (c : Chip) : Moves [.sys, .tb, .ph, .grp, .le, .setpt, .sweep, .sett, .guards, .eva, .trace, .obs, .mbx, .dom, .nv, .cal, .log, .host, .draws] c (Chip.headSweep src tag d c) := by
  unfold Chip.headSweep
  extract_lets +onlyGivenNames x
  clear_value x
  refine moves_ite (fun _ => ?_) (fun _ => ?_)
  · refine moves_ite (fun _ => ?_) (fun _ => ?_)
    · exact moves_then (moves_refl _ _) (Chip.hearAbort_moves ..) (by decide)
    · exact moves_then (moves_refl _ _) (Chip.sendFlit_moves ..) (by decide)
  · extract_lets +onlyGivenNames x
    clear_value x
    extract_lets +onlyGivenNames x
    clear_value x
    extract_lets +onlyGivenNames x
    refine moves_cut x ?_ (fun _ => ?_)
    · unfold x
      exact moves_set_sweep (moves_refl _ _) (by decide)
    try clear_value x
    extract_lets +onlyGivenNames x
    refine moves_cut x ?_ (fun _ => ?_)
    · unfold x
      exact moves_then (by assumption) (Chip.broadcast_moves ..) (by decide)
    try clear_value x
    exact moves_then (by assumption) (Chip.setupSweep_moves ..) (by decide)

theorem Chip.askSweep_moves (tag : Nat) (d : SweepDesc) (c : Chip) : Moves [.sys, .tb, .ph, .grp, .le, .setpt, .sweep, .sett, .guards, .eva, .trace, .obs, .mbx, .dom, .nv, .cal, .log, .host, .draws] c (Chip.askSweep tag d c) := by
  unfold Chip.askSweep
  extract_lets +onlyGivenNames x
  clear_value x
  extract_lets +onlyGivenNames x
  refine moves_cut x ?_ (fun _ => ?_)
  · unfold x
    exact moves_set_sweep (moves_refl _ _) (by decide)
  try clear_value x
  refine moves_ite (fun _ => ?_) (fun _ => ?_)
  · exact moves_then (by assumption) (Chip.headSweep_moves ..) (by decide)
  · exact moves_then (by assumption) (Chip.sendFlit_moves ..) (by decide)

theorem Chip.swReqIn_moves (f : FlitHdr) (tag : Nat) (d : SweepDesc) (c : Chip) : Moves [.sys, .tb, .ph, .grp, .le, .setpt, .sweep, .sett, .guards, .eva, .trace, .obs, .mbx, .dom, .nv, .cal, .log, .host, .draws] c (Chip.swReqIn f tag d c) := by
  unfold Chip.swReqIn
  refine Chip.deliver2_movesOf ?_ ?_ (by decide)
  · exact moves_refl _ _
  · intros
    refine moves_ite (fun _ => ?_) (fun _ => ?_)
    · exact moves_then (moves_refl _ _) (Chip.headSweep_moves ..) (by decide)
    · exact moves_refl _ _

theorem Chip.swSetupIn_moves (f : FlitHdr) (tag : Nat) (orig : Address) (d : SweepDesc) (t0 : Nat) (c : Chip) : Moves [.sys, .tb, .ph, .grp, .le, .setpt, .sweep, .sett, .guards, .eva, .trace, .obs, .mbx, .dom, .nv, .cal, .log, .host, .draws] c (Chip.swSetupIn f tag orig d t0 c) := by
  unfold Chip.swSetupIn
  refine Chip.deliver2_movesOf ?_ ?_ (by decide)
  · exact moves_refl _ _
  · intros
    exact moves_then (moves_refl _ _) (Chip.setupSweep_moves ..) (by decide)

theorem Chip.swAckIn_moves (f : FlitHdr) (tag : Nat) (orig : Address) (g : Group) (answer : Nat) (c : Chip) : Moves [.sweep, .sett, .eva, .trace, .obs, .draws] c (Chip.swAckIn f tag orig g answer c) := by
  unfold Chip.swAckIn
  refine Chip.deliver2_movesOf ?_ ?_ (by decide)
  · exact moves_refl _ _
  · intros
    exact moves_then (moves_refl _ _) (Chip.takeAck_moves ..) (by decide)

theorem Chip.setupTimeout_moves (c : Chip) : Moves [.sweep, .sett, .obs] c (Chip.setupTimeout c) := by
  unfold Chip.setupTimeout
  split
  · refine moves_ite (fun _ => ?_) (fun _ => ?_)
    · extract_lets +onlyGivenNames x
      clear_value x
      extract_lets +onlyGivenNames x
      refine moves_cut x ?_ (fun _ => ?_)
      · unfold x
        exact moves_set_sweep (moves_refl _ _) (by decide)
      try clear_value x
      refine moves_ite (fun _ => ?_) (fun _ => ?_)
      · exact moves_then (by assumption) (Chip.hearAbort_moves ..) (by decide)
      · exact moves_then (by assumption) (Chip.sendFlit_moves ..) (by decide)
    · exact moves_refl _ _
  · exact moves_refl _ _

theorem Chip.swDoneIn_moves (f : FlitHdr) (tag : Nat) (orig : Address) (g : Group) (written : Nat) (c : Chip) : Moves [.sweep, .sett, .eva, .trace, .obs, .draws] c (Chip.swDoneIn f tag orig g written c) := by
  unfold Chip.swDoneIn
  refine Chip.deliver2_movesOf ?_ ?_ (by decide)
  · exact moves_refl _ _
  · intros
    refine moves_ite (fun _ => ?_) (fun _ => ?_)
    · extract_lets +onlyGivenNames x
      clear_value x
      exact moves_set_sweep (moves_refl _ _) (by decide)
    · exact moves_refl _ _

theorem Chip.doneTimeout_moves (c : Chip) : Moves [.sweep] c (Chip.doneTimeout c) := by
  unfold Chip.doneTimeout
  refine moves_ite (fun _ => ?_) (fun _ => ?_)
  · exact moves_set_sweep (moves_refl _ _) (by decide)
  · exact moves_refl _ _

theorem Chip.swAbortIn_moves (f : FlitHdr) (tag : Nat) (orig : Address) (g : Group) (cause : Nat) (c : Chip) : Moves [.sweep, .sett, .eva, .trace, .obs, .draws] c (Chip.swAbortIn f tag orig g cause c) := by
  unfold Chip.swAbortIn
  refine Chip.deliver2_movesOf ?_ ?_ (by decide)
  · exact moves_refl _ _
  · intros
    refine moves_ite (fun _ => ?_) (fun _ => ?_)
    · exact moves_then (moves_refl _ _) (Chip.hearAbort_moves ..) (by decide)
    · exact moves_refl _ _

theorem Chip.applyEnd_moves (tag : Nat) (orig : Address) (aborted : Bool) (cause : Nat) (c : Chip) : Moves [.sys, .tb, .ph, .grp, .le, .setpt, .cap, .sweep, .sett, .guards, .eva, .trace, .obs, .mbx, .dom, .nv, .cal, .log, .host, .draws] c (Chip.applyEnd tag orig aborted cause c) := by
  unfold Chip.applyEnd
  extract_lets +onlyGivenNames x
  clear_value x
  extract_lets +onlyGivenNames x
  refine moves_cut x ?_ (fun _ => ?_)
  · unfold x
    refine moves_ite (fun _ => ?_) (fun _ => ?_)
    · exact moves_set_sweep (moves_refl _ _) (by decide)
    · exact moves_refl _ _
  try clear_value x
  refine moves_ite (fun _ => ?_) (fun _ => ?_)
  · exact moves_then (by assumption) (Chip.endSweep_moves ..) (by decide)
  · refine moves_ite (fun _ => ?_) (fun _ => ?_)
    · extract_lets +onlyGivenNames x
      refine moves_cut x ?_ (fun _ => ?_)
      · unfold x
        exact moves_then (by assumption) (Chip.capEnd_moves ..) (by decide)
      try clear_value x
      exact moves_set_sweep (by assumption) (by decide)
    · assumption

theorem Chip.swEndIn_moves (f : FlitHdr) (tag : Nat) (orig : Address) (g : Group) (aborted : Bool) (cause : Nat) (c : Chip) : Moves [.sys, .tb, .ph, .grp, .le, .setpt, .cap, .sweep, .sett, .guards, .eva, .trace, .obs, .mbx, .dom, .nv, .cal, .log, .host, .draws] c (Chip.swEndIn f tag orig g aborted cause c) := by
  unfold Chip.swEndIn
  refine Chip.deliver2_movesOf ?_ ?_ (by decide)
  · exact moves_refl _ _
  · intros
    exact moves_then (moves_refl _ _) (Chip.applyEnd_moves ..) (by decide)

end Sys2Proof.Machine
end

