-- ==== Sys2Proof/Laws/FrameChain.lean ====
section
/-!
SUPPORT. What the operations of Machine/Chain.lean leave alone: for each, the parts of the device that it may change.
-/

-- one theorem after another: the checks of a large package would else hold too many threads at once
set_option Elab.async false

namespace Sys2Proof.Machine
open Sys2Proof

theorem Chip.forgetCopies_moves (c : Chip) : Moves [.sett] c (Chip.forgetCopies c) := by
  unfold Chip.forgetCopies
  exact moves_then (moves_refl _ _) (Chip.onSett_moves ..) (by decide)

theorem Chip.judgeClaims_moves (ending : Bool) (g : Group) (c : Chip) : Moves [.sys, .tb, .ph, .grp, .le, .setpt, .sweep, .sett, .guards, .eva, .trace, .obs, .nv, .cal, .log, .host, .draws] c (Chip.judgeClaims ending g c) := by
  unfold Chip.judgeClaims
  extract_lets +onlyGivenNames x
  clear_value x
  refine moves_ite (fun _ => ?_) (fun _ => ?_)
  · exact moves_refl _ _
  · extract_lets +onlyGivenNames x
    clear_value x
    extract_lets +onlyGivenNames x
    refine moves_cut x ?_ (fun _ => ?_)
    · unfold x
      exact moves_then (moves_refl _ _) (Chip.modSg_moves ..) (by decide)
    try clear_value x
    refine moves_ite (fun _ => ?_) (fun _ => ?_)
    · exact moves_then (by assumption) (Chip.faultB_moves ..) (by decide)
    · assumption

theorem Chip.judgeSegment_moves (g : Group) (c : Chip) : Moves [.sys, .tb, .ph, .grp, .le, .setpt, .sweep, .sett, .guards, .eva, .trace, .obs, .nv, .cal, .log, .host, .draws] c (Chip.judgeSegment g c) := by
  unfold Chip.judgeSegment
  extract_lets +onlyGivenNames x
  clear_value x
  refine moves_ite (fun _ => ?_) (fun _ => ?_)
  · exact moves_refl _ _
  · extract_lets +onlyGivenNames x
    clear_value x
    extract_lets +onlyGivenNames x
    clear_value x
    extract_lets +onlyGivenNames x
    refine moves_cut x ?_ (fun _ => ?_)
    · unfold x
      exact moves_then (moves_refl _ _) (Chip.modSg_moves ..) (by decide)
    try clear_value x
    refine moves_ite (fun _ => ?_) (fun _ => ?_)
    · exact moves_then (by assumption) (Chip.raiseB_moves ..) (by decide)
    · assumption

theorem Chip.judgeLeader_moves (g : Group) (c : Chip) : Moves [.sett] c (Chip.judgeLeader g c) := by
  unfold Chip.judgeLeader
  refine moves_ite (fun _ => ?_) (fun _ => ?_)
  · exact moves_then (moves_refl _ _) (Chip.modSg_moves ..) (by decide)
  · exact moves_refl _ _

theorem Chip.resumeMembers_moves (g : Group) (c : Chip) : Moves [.le, .sett, .obs] c (Chip.resumeMembers g c) := by
  unfold Chip.resumeMembers
  extract_lets +onlyGivenNames x
  clear_value x
  extract_lets +onlyGivenNames x
  clear_value x
  refine moves_ite (fun _ => ?_) (fun _ => ?_)
  · extract_lets +onlyGivenNames x
    clear_value x
    extract_lets +onlyGivenNames x
    clear_value x
    extract_lets +onlyGivenNames x
    clear_value x
    extract_lets +onlyGivenNames x
    refine moves_cut x ?_ (fun _ => ?_)
    · unfold x
      split
      · exact moves_then (moves_refl _ _) (Chip.modLe_moves ..) (by decide)
      · exact moves_refl _ _
    try clear_value x
    extract_lets +onlyGivenNames x
    refine moves_cut x ?_ (fun _ => ?_)
    · unfold x
      exact moves_then (by assumption) (Chip.broadcast_moves ..) (by decide)
    try clear_value x
    exact moves_then (by assumption) (Chip.broadcast_moves ..) (by decide)
  · exact moves_refl _ _

theorem Chip.applyTopo_moves (r : TopoPay) (c : Chip) : Moves [.sys, .tb, .ph, .grp, .le, .setpt, .cap, .sweep, .sett, .guards, .eva, .trace, .obs, .mbx, .dom, .nv, .cal, .log, .host, .draws] c (Chip.applyTopo r c) := by
  unfold Chip.applyTopo
  extract_lets +onlyGivenNames x
  clear_value x
  extract_lets +onlyGivenNames x
  clear_value x
  extract_lets +onlyGivenNames x
  clear_value x
  extract_lets +onlyGivenNames x
  refine moves_cut x ?_ (fun _ => ?_)
  · unfold x
    exact moves_then (moves_refl _ _) (Chip.onSett_moves ..) (by decide)
  try clear_value x
  extract_lets +onlyGivenNames x
  clear_value x
  extract_lets +onlyGivenNames x
  refine moves_cut x ?_ (fun _ => ?_)
  · unfold x
    refine moves_ite (fun _ => ?_) (fun _ => ?_)
    · exact moves_then (by assumption) (Chip.warn_moves ..) (by decide)
    · assumption
  try clear_value x
  extract_lets +onlyGivenNames x
  refine moves_cut x ?_ (fun _ => ?_)
  · unfold x
    refine moves_ite (fun _ => ?_) (fun _ => ?_)
    · exact moves_then (by assumption) (Chip.warn_moves ..) (by decide)
    · assumption
  try clear_value x
  extract_lets +onlyGivenNames x
  refine moves_cut x ?_ (fun _ => ?_)
  · unfold x
    refine moves_ite (fun _ => ?_) (fun _ => ?_)
    · exact moves_then (by assumption) (Chip.warn_moves ..) (by decide)
    · assumption
  try clear_value x
  extract_lets +onlyGivenNames x
  refine moves_cut x ?_ (fun _ => ?_)
  · unfold x
    refine moves_ite (fun _ => ?_) (fun _ => ?_)
    · exact moves_then (by assumption) (Chip.linkAbort_moves ..) (by decide)
    · assumption
  try clear_value x
  extract_lets +onlyGivenNames x
  refine moves_cut x ?_ (fun _ => ?_)
  · unfold x
    refine moves_foldl _ _ ?_ (fun _ _ => ?_)
    · assumption
    · refine moves_then ?_ (Chip.resumeMembers_moves ..) (by decide)
      refine moves_then ?_ (Chip.judgeClaims_moves ..) (by decide)
      refine moves_then ?_ (Chip.judgeSegment_moves ..) (by decide)
      exact moves_then (moves_refl _ _) (Chip.judgeLeader_moves ..) (by decide)
  try clear_value x
  refine moves_ite (fun _ => ?_) (fun _ => ?_)
  · refine moves_foldl _ _ ?_ (fun _ _ => ?_)
    · assumption
    · refine moves_ite (fun _ => ?_) (fun _ => ?_)
      · exact moves_then (moves_refl _ _) (Chip.tryStart_moves ..) (by decide)
      · exact moves_refl _ _
  · assumption

theorem Chip.rebuild_moves (c : Chip) : Moves [.sys, .tb, .ph, .grp, .le, .setpt, .cap, .sweep, .sett, .guards, .eva, .trace, .obs, .mbx, .dom, .nv, .cal, .log, .host, .draws] c (Chip.rebuild c) := by
  unfold Chip.rebuild
  extract_lets +onlyGivenNames x
  clear_value x
  refine moves_then ?_ (Chip.applyTopo_moves ..) (by decide)
  exact moves_then (moves_refl _ _) (Chip.broadcast_moves ..) (by decide)

theorem Chip.refreshTopo_moves (c : Chip) : Moves [.sys, .tb, .ph, .grp, .le, .setpt, .cap, .sweep, .sett, .guards, .eva, .trace, .obs, .mbx, .dom, .nv, .cal, .log, .host, .draws] c (Chip.refreshTopo c) := by
  unfold Chip.refreshTopo
  refine moves_ite (fun _ => ?_) (fun _ => ?_)
  · exact moves_then (moves_refl _ _) (Chip.rebuild_moves ..) (by decide)
  · exact moves_refl _ _

theorem Chip.topoIn_moves (f : FlitHdr) (r : TopoPay) (c : Chip) : Moves [.sys, .tb, .ph, .grp, .le, .setpt, .cap, .sweep, .sett, .guards, .eva, .trace, .obs, .mbx, .dom, .nv, .cal, .log, .host, .draws] c (Chip.topoIn f r c) := by
  unfold Chip.topoIn
  extract_lets +onlyGivenNames x
  unfold x
  refine moves_ite (fun _ => ?_) (fun _ => ?_)
  · refine moves_then ?_ (Chip.topoGrant_moves ..) (by decide)
    refine moves_then ?_ (Chip.onSett_moves ..) (by decide)
    exact moves_then (moves_refl _ _) (Chip.receive_moves ..) (by decide)
  · refine moves_ite (fun _ => ?_) (fun _ => ?_)
    · extract_lets +onlyGivenNames x
      refine moves_cut x ?_ (fun _ => ?_)
      · unfold x
        refine moves_then ?_ (Chip.onSett_moves ..) (by decide)
        exact moves_then (moves_refl _ _) (Chip.receive_moves ..) (by decide)
      try clear_value x
      extract_lets +onlyGivenNames x
      clear_value x
      extract_lets +onlyGivenNames x
      refine moves_cut x ?_ (fun _ => ?_)
      · unfold x
        exact moves_set_sweep (by assumption) (by decide)
      try clear_value x
      extract_lets +onlyGivenNames x
      clear_value x
      extract_lets +onlyGivenNames x
      refine moves_cut x ?_ (fun _ => ?_)
      · unfold x
        exact moves_then (by assumption) (Chip.onSett_moves ..) (by decide)
      try clear_value x
      extract_lets +onlyGivenNames x
      refine moves_cut x ?_ (fun _ => ?_)
      · unfold x
        refine moves_then ?_ (Chip.onSett_moves ..) (by decide)
        exact moves_then (by assumption) (Chip.topoGrant_moves ..) (by decide)
      try clear_value x
      exact moves_then (by assumption) (Chip.applyTopo_moves ..) (by decide)
    · exact moves_then (moves_refl _ _) (Chip.receive_moves ..) (by decide)

theorem Chip.formationEnd_moves (c : Chip) : Moves [.sys, .tb, .ph, .grp, .le, .setpt, .cap, .sweep, .sett, .guards, .eva, .trace, .obs, .mbx, .dom, .nv, .cal, .log, .host, .draws] c (Chip.formationEnd c) := by
  unfold Chip.formationEnd
  refine moves_ite (fun _ => ?_) (fun _ => ?_)
  · refine moves_then ?_ (Chip.rebuild_moves ..) (by decide)
    refine moves_then ?_ (Chip.onSett_moves ..) (by decide)
    exact moves_set_draws (moves_refl _ _) (by decide)
  · exact moves_refl _ _

theorem Chip.joinCheck_moves (c : Chip) : Moves [.eva, .trace, .obs, .mbx, .dom, .host, .draws] c (Chip.joinCheck c) := by
  unfold Chip.joinCheck
  extract_lets +onlyGivenNames x
  clear_value x
  extract_lets +onlyGivenNames x
  clear_value x
  extract_lets +onlyGivenNames x
  clear_value x
  extract_lets +onlyGivenNames x
  clear_value x
  extract_lets +onlyGivenNames x
  refine moves_cut x ?_ (fun _ => ?_)
  · unfold x
    exact moves_set_host (moves_refl _ _) (by decide)
  try clear_value x
  refine moves_foldl _ _ ?_ (fun _ _ => ?_)
  · assumption
  · exact moves_then (moves_refl _ _) (Chip.done_moves ..) (by decide)

theorem Chip.refusePort_moves (p : SettPort) (k : LinkCause) (peer : Option Address) (c : Chip) : Moves [.sett] c (Chip.refusePort p k peer c) := by
  unfold Chip.refusePort
  exact moves_then (moves_refl _ _) (Chip.modPort_moves ..) (by decide)

theorem Chip.linkUp_moves (p : SettPort) (i : TrainInput) (c : Chip) : Moves [.sys, .tb, .ph, .grp, .le, .setpt, .cap, .sweep, .sett, .guards, .eva, .trace, .obs, .mbx, .dom, .nv, .cal, .log, .host, .draws] c (Chip.linkUp p i c) := by
  unfold Chip.linkUp
  refine moves_ite (fun _ => ?_) (fun _ => ?_)
  · exact moves_refl _ _
  · refine moves_ite (fun _ => ?_) (fun _ => ?_)
    · refine moves_then ?_ (Chip.refusePort_moves ..) (by decide)
      exact moves_then (moves_refl _ _) (Chip.warn_moves ..) (by decide)
    · refine moves_ite (fun _ => ?_) (fun _ => ?_)
      · refine moves_then ?_ (Chip.refusePort_moves ..) (by decide)
        exact moves_then (moves_refl _ _) (Chip.warn_moves ..) (by decide)
      · extract_lets +onlyGivenNames x
        clear_value x
        extract_lets +onlyGivenNames x
        refine moves_cut x ?_ (fun _ => ?_)
        · unfold x
          exact moves_then (moves_refl _ _) (Chip.modPort_moves ..) (by decide)
        try clear_value x
        extract_lets +onlyGivenNames x
        refine moves_cut x ?_ (fun _ => ?_)
        · unfold x
          refine moves_ite (fun _ => ?_) (fun _ => ?_)
          · exact moves_then (by assumption) (Chip.onSett_moves ..) (by decide)
          · assumption
        try clear_value x
        extract_lets +onlyGivenNames x
        refine moves_cut x ?_ (fun _ => ?_)
        · unfold x
          exact moves_then (by assumption) (Chip.topoGrant_moves ..) (by decide)
        try clear_value x
        extract_lets +onlyGivenNames x
        clear_value x
        extract_lets +onlyGivenNames x
        refine moves_cut x ?_ (fun _ => ?_)
        · unfold x
          refine moves_ite (fun _ => ?_) (fun _ => ?_)
          · assumption
          · exact moves_then (by assumption) (Chip.broadcast_moves ..) (by decide)
        try clear_value x
        extract_lets +onlyGivenNames x
        refine moves_cut x ?_ (fun _ => ?_)
        · unfold x
          exact moves_then (by assumption) (Chip.onSett_moves ..) (by decide)
        try clear_value x
        refine moves_ite (fun _ => ?_) (fun _ => ?_)
        · exact moves_then (by assumption) (Chip.rebuild_moves ..) (by decide)
        · assumption

theorem Chip.trainingTimeout_moves (p : SettPort) (c : Chip) : Moves [.sett, .eva, .trace, .obs, .mbx, .dom, .host, .draws] c (Chip.trainingTimeout p c) := by
  unfold Chip.trainingTimeout
  extract_lets +onlyGivenNames x
  clear_value x
  refine moves_then ?_ (Chip.joinCheck_moves ..) (by decide)
  refine moves_ite (fun _ => ?_) (fun _ => ?_)
  · exact moves_then (moves_refl _ _) (Chip.refusePort_moves ..) (by decide)
  · exact moves_refl _ _

theorem Chip.forgetIsland_moves (c : Chip) : Moves [.sett] c (Chip.forgetIsland c) := by
  unfold Chip.forgetIsland
  refine moves_ite (fun _ => ?_) (fun _ => ?_)
  · exact moves_then (moves_refl _ _) (Chip.onSett_moves ..) (by decide)
  · exact moves_refl _ _

theorem Chip.portDown_moves (p : SettPort) (k : LinkCause) (c : Chip) : Moves [.sys, .tb, .ph, .grp, .le, .setpt, .cap, .sweep, .sett, .guards, .eva, .trace, .obs, .mbx, .dom, .nv, .cal, .log, .host, .draws] c (Chip.portDown p k c) := by
  unfold Chip.portDown
  extract_lets +onlyGivenNames x
  clear_value x
  extract_lets +onlyGivenNames x
  unfold x
  extract_lets +onlyGivenNames x
  refine moves_cut x ?_ (fun _ => ?_)
  · unfold x
    refine moves_ite (fun _ => ?_) (fun _ => ?_)
    · exact moves_then (moves_refl _ _) (Chip.draw_moves ..) (by decide)
    · exact moves_refl _ _
  try clear_value x
  extract_lets +onlyGivenNames x
  clear_value x
  extract_lets +onlyGivenNames x
  refine moves_cut x ?_ (fun _ => ?_)
  · unfold x
    exact moves_then (by assumption) (Chip.modPort_moves ..) (by decide)
  try clear_value x
  extract_lets +onlyGivenNames x
  refine moves_cut x ?_ (fun _ => ?_)
  · unfold x
    refine moves_foldl _ _ ?_ (fun _ _ => ?_)
    · assumption
    · exact moves_then (moves_refl _ _) (Chip.freeBuffer_moves ..) (by decide)
  try clear_value x
  extract_lets +onlyGivenNames x
  refine moves_cut x ?_ (fun _ => ?_)
  · unfold x
    refine moves_foldl _ _ ?_ (fun _ _ => ?_)
    · assumption
    · exact moves_then (moves_refl _ _) (Chip.modPort_moves ..) (by decide)
  try clear_value x
  extract_lets +onlyGivenNames x
  refine moves_cut x ?_ (fun _ => ?_)
  · unfold x
    refine moves_then ?_ (Chip.bump_moves ..) (by decide)
    exact moves_then (by assumption) (Chip.topoGrant_moves ..) (by decide)
  try clear_value x
  extract_lets +onlyGivenNames x
  refine moves_cut x ?_ (fun _ => ?_)
  · unfold x
    exact moves_then (by assumption) (Chip.raiseC_moves ..) (by decide)
  try clear_value x
  extract_lets +onlyGivenNames x
  refine moves_cut x ?_ (fun _ => ?_)
  · unfold x
    exact moves_then (by assumption) (Chip.broadcast_moves ..) (by decide)
  try clear_value x
  extract_lets +onlyGivenNames x
  refine moves_cut x ?_ (fun _ => ?_)
  · unfold x
    refine moves_then ?_ (Chip.forgetIsland_moves ..) (by decide)
    refine moves_then ?_ (Chip.forgetCopies_moves ..) (by decide)
    exact moves_then (by assumption) (Chip.linkAbort_moves ..) (by decide)
  try clear_value x
  refine moves_ite (fun _ => ?_) (fun _ => ?_)
  · exact moves_then (by assumption) (Chip.rebuild_moves ..) (by decide)
  · assumption

theorem Chip.linkDown_moves (p : SettPort) (k : LinkCause) (c : Chip) : Moves [.sys, .tb, .ph, .grp, .le, .setpt, .cap, .sweep, .sett, .guards, .eva, .trace, .obs, .mbx, .dom, .nv, .cal, .log, .host, .draws] c (Chip.linkDown p k c) := by
  unfold Chip.linkDown
  extract_lets +onlyGivenNames x
  clear_value x
  refine moves_ite (fun _ => ?_) (fun _ => ?_)
  · exact moves_then (moves_refl _ _) (Chip.portDown_moves ..) (by decide)
  · exact moves_refl _ _

theorem Chip.linkDownIn_moves (f : FlitHdr) (p : SettPort) (k : LinkCause) (c : Chip) : Moves [.sys, .tb, .ph, .grp, .le, .setpt, .cap, .sweep, .sett, .guards, .eva, .trace, .obs, .mbx, .dom, .nv, .cal, .log, .host, .draws] c (Chip.linkDownIn f p k c) := by
  unfold Chip.linkDownIn
  refine Chip.deliver3_movesOf ?_ ?_ (by decide)
  · exact moves_refl _ _
  · intros
    extract_lets +onlyGivenNames x
    refine moves_cut x ?_ (fun _ => ?_)
    · unfold x
      refine moves_then ?_ (Chip.forgetCopies_moves ..) (by decide)
      exact moves_then (moves_refl _ _) (Chip.linkAbort_moves ..) (by decide)
    try clear_value x
    refine moves_ite (fun _ => ?_) (fun _ => ?_)
    · exact moves_then (by assumption) (Chip.rebuild_moves ..) (by decide)
    · assumption

theorem Chip.epochSend_moves (t : Nat) (c : Chip) : Moves [.tb, .sett, .trace, .obs, .draws] c (Chip.epochSend t c) := by
  unfold Chip.epochSend
  refine moves_ite (fun _ => ?_) (fun _ => ?_)
  · extract_lets +onlyGivenNames x
    refine moves_cut x ?_ (fun _ => ?_)
    · unfold x
      exact moves_then (moves_refl _ _) (Chip.elapseTo_moves ..) (by decide)
    try clear_value x
    extract_lets +onlyGivenNames x
    refine moves_cut x ?_ (fun _ => ?_)
    · unfold x
      exact moves_then (by assumption) (Chip.onSett_moves ..) (by decide)
    try clear_value x
    extract_lets +onlyGivenNames x
    unfold x
    extract_lets +onlyGivenNames x
    clear_value x
    extract_lets +onlyGivenNames x
    refine moves_cut x ?_ (fun _ => ?_)
    · unfold x
      refine moves_ite (fun _ => ?_) (fun _ => ?_)
      · exact moves_then (by assumption) (Chip.draw_moves ..) (by decide)
      · assumption
    try clear_value x
    exact moves_then (by assumption) (Chip.broadcast_moves ..) (by decide)
  · exact moves_refl _ _

theorem Chip.takeEpoch_moves (f : FlitHdr) (t : Nat) (e : EpochPay) (c : Chip) : Moves [.le, .sweep, .sett, .guards, .eva, .trace, .obs, .nv, .log, .draws] c (Chip.takeEpoch f t e c) := by
  unfold Chip.takeEpoch
  extract_lets +onlyGivenNames x
  clear_value x
  extract_lets +onlyGivenNames x
  clear_value x
  extract_lets +onlyGivenNames x
  clear_value x
  extract_lets +onlyGivenNames x
  clear_value x
  extract_lets +onlyGivenNames x
  clear_value x
  extract_lets +onlyGivenNames x
  clear_value x
  extract_lets +onlyGivenNames x
  clear_value x
  extract_lets +onlyGivenNames x
  refine moves_cut x ?_ (fun _ => ?_)
  · unfold x
    exact moves_then (moves_refl _ _) (Chip.onSett_moves ..) (by decide)
  try clear_value x
  extract_lets +onlyGivenNames x
  refine moves_cut x ?_ (fun _ => ?_)
  · unfold x
    refine moves_ite (fun _ => ?_) (fun _ => ?_)
    · exact moves_then (by assumption) (Chip.warn_moves ..) (by decide)
    · assumption
  try clear_value x
  exact moves_then (by assumption) (Chip.resyncSweep_moves ..) (by decide)

theorem Chip.adoptEpoch_moves (f : FlitHdr) (t : Nat) (e : EpochPay) (c : Chip) : Moves [.sett] c (Chip.adoptEpoch f t e c) := by
  unfold Chip.adoptEpoch
  extract_lets +onlyGivenNames x
  clear_value x
  exact moves_then (moves_refl _ _) (Chip.onSett_moves ..) (by decide)

theorem Chip.yieldHead_moves (head : Address) (c : Chip) : Moves [.sett, .eva, .trace, .obs, .draws] c (Chip.yieldHead head c) := by
  unfold Chip.yieldHead
  refine moves_then ?_ (Chip.topoGrant_moves ..) (by decide)
  exact moves_then (moves_refl _ _) (Chip.onSett_moves ..) (by decide)

theorem Chip.epochIn_moves (f : FlitHdr) (t : Nat) (e : EpochPay) (c : Chip) : Moves [.tb, .le, .sweep, .sett, .guards, .eva, .trace, .obs, .nv, .log, .draws] c (Chip.epochIn f t e c) := by
  unfold Chip.epochIn
  refine moves_ite (fun _ => ?_) (fun _ => ?_)
  · exact moves_refl _ _
  · extract_lets +onlyGivenNames x
    unfold x
    refine moves_ite (fun _ => ?_) (fun _ => ?_)
    · refine moves_then ?_ (Chip.receive_moves ..) (by decide)
      exact moves_then (moves_refl _ _) (Chip.elapseTo_moves ..) (by decide)
    · extract_lets +onlyGivenNames x
      refine moves_cut x ?_ (fun _ => ?_)
      · unfold x
        refine moves_then ?_ (Chip.onSett_moves ..) (by decide)
        refine moves_then ?_ (Chip.count_moves ..) (by decide)
        refine moves_then ?_ (Chip.receive_moves ..) (by decide)
        exact moves_then (moves_refl _ _) (Chip.elapseTo_moves ..) (by decide)
      try clear_value x
      split
      · refine moves_ite (fun _ => ?_) (fun _ => ?_)
        · exact moves_then (by assumption) (Chip.adoptEpoch_moves ..) (by decide)
        · assumption
      · refine moves_ite (fun _ => ?_) (fun _ => ?_)
        · refine moves_then ?_ (Chip.takeEpoch_moves ..) (by decide)
          exact moves_then (by assumption) (Chip.yieldHead_moves ..) (by decide)
        · assumption
      · refine moves_then ?_ (Chip.takeEpoch_moves ..) (by decide)
        exact moves_then (by assumption) (Chip.onSett_moves ..) (by decide)
      · assumption

theorem Chip.claimHead_moves (c : Chip) : Moves [.sett, .obs] c (Chip.claimHead c) := by
  unfold Chip.claimHead
  refine moves_ite (fun _ => ?_) (fun _ => ?_)
  · extract_lets +onlyGivenNames x
    refine moves_cut x ?_ (fun _ => ?_)
    · unfold x
      exact moves_then (moves_refl _ _) (Chip.broadcast_moves ..) (by decide)
    try clear_value x
    exact moves_then (by assumption) (Chip.onSett_moves ..) (by decide)
  · exact moves_refl _ _

theorem Chip.headSilent_moves (c : Chip) : Moves [.sett, .obs] c (Chip.headSilent c) := by
  unfold Chip.headSilent
  split
  · refine moves_ite (fun _ => ?_) (fun _ => ?_)
    · refine moves_then ?_ (Chip.claimHead_moves ..) (by decide)
      exact moves_then (moves_refl _ _) (Chip.onSett_moves ..) (by decide)
    · exact moves_refl _ _
  · exact moves_refl _ _

theorem Chip.formNoEpoch_moves (c : Chip) : Moves [.sett, .obs] c (Chip.formNoEpoch c) := by
  unfold Chip.formNoEpoch
  refine moves_ite (fun _ => ?_) (fun _ => ?_)
  · refine moves_then ?_ (Chip.claimHead_moves ..) (by decide)
    exact moves_then (moves_refl _ _) (Chip.onSett_moves ..) (by decide)
  · exact moves_refl _ _

theorem Chip.headClaimIn_moves (f : FlitHdr) (a : Address) (c : Chip) : Moves [.sett, .eva, .trace, .obs, .draws] c (Chip.headClaimIn f a c) := by
  unfold Chip.headClaimIn
  extract_lets +onlyGivenNames x
  unfold x
  refine moves_ite (fun _ => ?_) (fun _ => ?_)
  · refine moves_then ?_ (Chip.onSett_moves ..) (by decide)
    refine moves_then ?_ (Chip.topoGrant_moves ..) (by decide)
    exact moves_then (moves_refl _ _) (Chip.receive_moves ..) (by decide)
  · exact moves_then (moves_refl _ _) (Chip.receive_moves ..) (by decide)

theorem Chip.becomeLocalHead_moves (c : Chip) : Moves [.sys, .tb, .ph, .grp, .le, .setpt, .cap, .sweep, .sett, .guards, .eva, .trace, .obs, .mbx, .dom, .nv, .cal, .log, .host, .draws] c (Chip.becomeLocalHead c) := by
  unfold Chip.becomeLocalHead
  split
  · refine moves_ite (fun _ => ?_) (fun _ => ?_)
    · extract_lets +onlyGivenNames x
      clear_value x
      extract_lets +onlyGivenNames x
      refine moves_cut x ?_ (fun _ => ?_)
      · unfold x
        exact moves_then (moves_refl _ _) (Chip.onSett_moves ..) (by decide)
      try clear_value x
      refine moves_then ?_ (Chip.takeLinkOwed_moves ..) (by decide)
      refine moves_then ?_ (Chip.rebuild_moves ..) (by decide)
      exact moves_then (by assumption) (Chip.topoGrant_moves ..) (by decide)
    · exact moves_refl _ _
  · exact moves_refl _ _

end Sys2Proof.Machine
end

