-- ==== Sys2Proof/Laws/FrameForecast.lean ====
section
/-!
SUPPORT. What the operations of Machine/Forecast.lean leave alone: for each, the parts of the device that it may change.
-/

-- one theorem after another: the checks of a large package would else hold too many threads at once
set_option Elab.async false

namespace Sys2Proof.Machine
open Sys2Proof

theorem Chip.selection_moves (g : Group) (set src : Nat) (c : Chip) : Moves [.grp, .le, .setpt, .sweep, .sett, .obs] c (Chip.selection g set src c).1 := by
  unfold Chip.selection
  extract_lets +onlyGivenNames x
  clear_value x
  split
  · dsimp only
    exact moves_refl _ _
  · split
    · dsimp only
      exact moves_then (moves_refl _ _) (Chip.sendFlit_moves ..) (by decide)
    · extract_lets +onlyGivenNames x
      refine moves_cut x ?_ (fun _ => ?_)
      · unfold x
        refine moves_ite (fun _ => ?_) (fun _ => ?_)
        · exact moves_then (moves_refl _ _) (Chip.abortSweepOf_moves ..) (by decide)
        · exact moves_refl _ _
      try clear_value x
      extract_lets +onlyGivenNames x
      refine moves_cut x ?_ (fun _ => ?_)
      · unfold x
        exact moves_then (by assumption) (Chip.select_moves ..) (by decide)
      try clear_value x
      dsimp only
      refine moves_ite (fun _ => ?_) (fun _ => ?_)
      · exact moves_then (by assumption) (Chip.broadcast_moves ..) (by decide)
      · assumption

theorem Chip.vselSelect_moves (v : Fin 16) (c : Chip) (g : Group) : Moves [.grp, .le, .setpt, .sweep, .sett, .guards, .eva, .trace, .obs, .nv, .log, .draws] c (Chip.vselSelect v c g) := by
  unfold Chip.vselSelect
  refine moves_ite (fun _ => ?_) (fun _ => ?_)
  · exact moves_refl _ _
  · extract_lets +onlyGivenNames x
    unfold x
    refine moves_ite (fun _ => ?_) (fun _ => ?_)
    · exact moves_then (moves_refl _ _) (Chip.selection_moves ..) (by decide)
    · refine moves_then ?_ (Chip.warn_moves ..) (by decide)
      exact moves_then (moves_refl _ _) (Chip.selection_moves ..) (by decide)

theorem Chip.vselChange_moves (v : Fin 16) (c : Chip) : Moves [.tb, .grp, .le, .setpt, .sweep, .sett, .guards, .eva, .trace, .obs, .nv, .log, .draws] c (Chip.vselChange v c) := by
  unfold Chip.vselChange
  refine moves_ite (fun _ => ?_) (fun _ => ?_)
  · exact moves_refl _ _
  · refine moves_ite (fun _ => ?_) (fun _ => ?_)
    · exact moves_set_setpt (moves_refl _ _) (by decide)
    · extract_lets +onlyGivenNames x
      refine moves_cut x ?_ (fun _ => ?_)
      · unfold x
        exact moves_then (moves_refl _ _) (Chip.elapseTo_moves ..) (by decide)
      try clear_value x
      extract_lets +onlyGivenNames x
      clear_value x
      extract_lets +onlyGivenNames x
      refine moves_cut x ?_ (fun _ => ?_)
      · unfold x
        exact moves_set_setpt (by assumption) (by decide)
      try clear_value x
      extract_lets +onlyGivenNames x
      refine moves_cut x ?_ (fun _ => ?_)
      · unfold x
        exact moves_then (by assumption) (Chip.grant_moves ..) (by decide)
      try clear_value x
      extract_lets +onlyGivenNames x
      clear_value x
      extract_lets +onlyGivenNames x
      refine moves_cut x ?_ (fun _ => ?_)
      · unfold x
        exact moves_set_setpt (by assumption) (by decide)
      try clear_value x
      refine moves_ite (fun _ => ?_) (fun _ => ?_)
      · refine moves_foldl _ _ ?_ (fun _ _ => ?_)
        · assumption
        · exact moves_then (moves_refl _ _) (Chip.vselSelect_moves ..) (by decide)
      · assumption

theorem Chip.publishPreps_moves (g : Group) (term : List FieldSet) (c : Chip) : Moves [.setpt, .sett, .obs] c (Chip.publishPreps g term c) := by
  unfold Chip.publishPreps
  refine moves_then ?_ (Chip.sendFloors_moves ..) (by decide)
  exact moves_then (moves_refl _ _) (Chip.present_moves ..) (by decide)

theorem Chip.armNext_moves (g : Group) (c : Chip) : Moves [.grp] c (Chip.armNext g c).1 := by
  unfold Chip.armNext
  extract_lets +onlyGivenNames x
  clear_value x
  split
  · dsimp only
    exact moves_refl _ _
  · split
    · dsimp only
      exact moves_refl _ _
    · split
      · dsimp only
        exact moves_refl _ _
      · extract_lets +onlyGivenNames x
        clear_value x
        dsimp only
        exact moves_then (moves_refl _ _) (Chip.modGrp_moves ..) (by decide)

theorem Chip.prunePreps_moves (g : Group) (c : Chip) : Moves [.grp] c (Chip.prunePreps g c) := by
  unfold Chip.prunePreps
  extract_lets +onlyGivenNames x
  clear_value x
  exact moves_then (moves_refl _ _) (Chip.modGrp_moves ..) (by decide)

theorem Chip.dropPrep_moves (g : Group) (which : Prep → Bool) (c : Chip) : Moves [.grp] c (Chip.dropPrep g which c).1 := by
  unfold Chip.dropPrep
  extract_lets +onlyGivenNames x
  clear_value x
  extract_lets +onlyGivenNames x
  clear_value x
  extract_lets +onlyGivenNames x
  refine moves_cut x ?_ (fun _ => ?_)
  · unfold x
    exact moves_then (moves_refl _ _) (Chip.modGrp_moves ..) (by decide)
  try clear_value x
  extract_lets +onlyGivenNames x
  unfold x
  dsimp only
  exact moves_then (by assumption) (Chip.armNext_moves ..) (by decide)

theorem Chip.actForecast_moves (g : Group) (p : LcmdPort) (src : Address) (f : List Byte) (te : Nat) (c : Chip) : Moves [.sys, .tb, .ph, .grp, .le, .setpt, .sweep, .sett, .guards, .eva, .trace, .obs, .nv, .cal, .log, .host, .draws] c (Chip.actForecast g p src f te c) := by
  unfold Chip.actForecast
  extract_lets +onlyGivenNames x
  refine moves_cut x ?_ (fun _ => ?_)
  · unfold x
    refine moves_ite (fun _ => ?_) (fun _ => ?_)
    · exact moves_then (moves_refl _ _) (Chip.changeMode_moves ..) (by decide)
    · exact moves_refl _ _
  try clear_value x
  extract_lets +onlyGivenNames x
  refine moves_cut x ?_ (fun _ => ?_)
  · unfold x
    refine moves_ite (fun _ => ?_) (fun _ => ?_)
    · exact moves_then (by assumption) (Chip.abortSweepOf_moves ..) (by decide)
    · assumption
  try clear_value x
  extract_lets +onlyGivenNames x
  clear_value x
  extract_lets +onlyGivenNames x
  clear_value x
  extract_lets +onlyGivenNames x
  clear_value x
  extract_lets +onlyGivenNames x
  refine moves_cut x ?_ (fun _ => ?_)
  · unfold x
    exact moves_then (by assumption) (Chip.modGrp_moves ..) (by decide)
  try clear_value x
  extract_lets +onlyGivenNames x
  unfold x
  refine moves_then ?_ (Chip.publishPreps_moves ..) (by decide)
  exact moves_then (by assumption) (Chip.armNext_moves ..) (by decide)

theorem Chip.checkArrival_moves (g : Group) (kw : Rat) (c : Chip) : Moves [.grp, .setpt, .lcmd, .sett, .obs] c (Chip.checkArrival g kw c) := by
  unfold Chip.checkArrival
  extract_lets +onlyGivenNames x
  clear_value x
  extract_lets +onlyGivenNames x
  clear_value x
  refine moves_ite (fun _ => ?_) (fun _ => ?_)
  · exact moves_refl _ _
  · extract_lets +onlyGivenNames x
    clear_value x
    extract_lets +onlyGivenNames x
    refine moves_cut x ?_ (fun _ => ?_)
    · unfold x
      refine moves_foldl _ _ ?_ (fun _ _ => ?_)
      · exact moves_refl _ _
      · exact moves_then (moves_refl _ _) (Chip.modLcmd_moves ..) (by decide)
    try clear_value x
    extract_lets +onlyGivenNames x
    refine moves_cut x ?_ (fun _ => ?_)
    · unfold x
      exact moves_then (by assumption) (Chip.modGrp_moves ..) (by decide)
    try clear_value x
    extract_lets +onlyGivenNames x
    refine moves_cut x ?_ (fun _ => ?_)
    · unfold x
      exact moves_then (by assumption) (Chip.prunePreps_moves ..) (by decide)
    try clear_value x
    exact moves_then (by assumption) (Chip.publishPreps_moves ..) (by decide)

theorem Chip.fcastMiss_moves (p : LcmdPort) (g : Group) (c : Chip) : Moves [.grp, .setpt, .lcmd, .sett, .guards, .eva, .trace, .obs, .nv, .log, .draws] c (Chip.fcastMiss p g c) := by
  unfold Chip.fcastMiss
  extract_lets +onlyGivenNames x
  clear_value x
  extract_lets +onlyGivenNames x
  clear_value x
  extract_lets +onlyGivenNames x
  clear_value x
  refine moves_ite (fun _ => ?_) (fun _ => ?_)
  · exact moves_refl _ _
  · extract_lets +onlyGivenNames x
    refine moves_cut x ?_ (fun _ => ?_)
    · unfold x
      refine moves_foldl _ _ ?_ (fun _ _ => ?_)
      · exact moves_refl _ _
      · exact moves_then (moves_refl _ _) (Chip.modLcmd_moves ..) (by decide)
    try clear_value x
    extract_lets +onlyGivenNames x
    refine moves_cut x ?_ (fun _ => ?_)
    · unfold x
      exact moves_then (by assumption) (Chip.modGrp_moves ..) (by decide)
    try clear_value x
    extract_lets +onlyGivenNames x
    refine moves_cut x ?_ (fun _ => ?_)
    · unfold x
      refine moves_then ?_ (Chip.publishPreps_moves ..) (by decide)
      exact moves_then (by assumption) (Chip.prunePreps_moves ..) (by decide)
    try clear_value x
    exact moves_then (by assumption) (Chip.warn_moves ..) (by decide)

theorem Chip.antFired_moves (g : Group) (c : Chip) : Moves [.grp, .le, .setpt, .eva, .trace, .obs, .draws] c (Chip.antFired g c) := by
  unfold Chip.antFired
  split
  · exact moves_refl _ _
  · extract_lets +onlyGivenNames x
    clear_value x
    refine moves_ite (fun _ => ?_) (fun _ => ?_)
    · exact moves_refl _ _
    · extract_lets +onlyGivenNames x
      refine moves_cut x ?_ (fun _ => ?_)
      · unfold x
        refine moves_then ?_ (Chip.modLe_moves ..) (by decide)
        exact moves_then (moves_refl _ _) (Chip.grant_moves ..) (by decide)
      try clear_value x
      extract_lets +onlyGivenNames x
      refine moves_cut x ?_ (fun _ => ?_)
      · unfold x
        exact moves_then (by assumption) (Chip.nextReqs_moves ..) (by decide)
      try clear_value x
      extract_lets +onlyGivenNames x
      refine moves_cut x ?_ (fun _ => ?_)
      · unfold x
        exact moves_then (by assumption) (Chip.modGrp_moves ..) (by decide)
      try clear_value x
      extract_lets +onlyGivenNames x
      refine moves_cut x ?_ (fun _ => ?_)
      · unfold x
        exact moves_then (by assumption) (Chip.prunePreps_moves ..) (by decide)
      try clear_value x
      extract_lets +onlyGivenNames x
      unfold x
      refine moves_ite (fun _ => ?_) (fun _ => ?_)
      · exact moves_then (by assumption) (Chip.armNext_moves ..) (by decide)
      · refine moves_then ?_ (Chip.present_moves ..) (by decide)
        exact moves_then (by assumption) (Chip.armNext_moves ..) (by decide)

theorem Chip.cancelPort_moves (p : LcmdPort) (c : Chip) (g : Group) : Moves [.grp, .setpt, .sett, .obs] c (Chip.cancelPort p c g) := by
  unfold Chip.cancelPort
  extract_lets +onlyGivenNames x
  clear_value x
  refine moves_ite (fun _ => ?_) (fun _ => ?_)
  · extract_lets +onlyGivenNames x
    unfold x
    refine moves_then ?_ (Chip.publishPreps_moves ..) (by decide)
    exact moves_then (moves_refl _ _) (Chip.dropPrep_moves ..) (by decide)
  · exact moves_refl _ _

end Sys2Proof.Machine
end

