-- ==== Sys2Proof/Laws/FramePeriods.lean ====
section
/-!
SUPPORT. What the operations of Machine/Periods.lean leave alone: for each, the parts of the device that it may change.
-/

-- one theorem after another: the checks of a large package would else hold too many threads at once
set_option Elab.async false

namespace Sys2Proof.Machine
open Sys2Proof

theorem Chip.closePeriod_moves (p : Phase) (g : Group) (next : Nat) (o : PeriodObs) (c : Chip) : Moves [.ph, .grp, .obs] c (Chip.closePeriod p g next o c) := by
  unfold Chip.closePeriod
  extract_lets +onlyGivenNames x
  clear_value x
  extract_lets +onlyGivenNames x
  clear_value x
  extract_lets +onlyGivenNames x
  clear_value x
  extract_lets +onlyGivenNames x
  refine moves_cut x ?_ (fun _ => ?_)
  · unfold x
    exact moves_set_ph (moves_refl _ _) (by decide)
  try clear_value x
  extract_lets +onlyGivenNames x
  refine moves_cut x ?_ (fun _ => ?_)
  · unfold x
    refine moves_then ?_ (Chip.count_moves ..) (by decide)
    exact moves_then (by assumption) (Chip.count_moves ..) (by decide)
  try clear_value x
  extract_lets +onlyGivenNames x
  clear_value x
  refine moves_ite (fun _ => ?_) (fun _ => ?_)
  · exact moves_then (by assumption) (Chip.modPh_moves ..) (by decide)
  · refine moves_ite (fun _ => ?_) (fun _ => ?_)
    · refine moves_then ?_ (Chip.modGb_moves ..) (by decide)
      exact moves_then (by assumption) (Chip.setPstate_moves ..) (by decide)
    · refine moves_ite (fun _ => ?_) (fun _ => ?_)
      · refine moves_then ?_ (Chip.modGb_moves ..) (by decide)
        exact moves_then (by assumption) (Chip.setPstate_moves ..) (by decide)
      · assumption

theorem Chip.openPeriod_moves (p : Phase) (g : Group) (at_ period pat : Nat) (c : Chip) : Moves [.ph, .obs] c (Chip.openPeriod p g at_ period pat c) := by
  unfold Chip.openPeriod
  extract_lets +onlyGivenNames x
  clear_value x
  refine moves_ite (fun _ => ?_) (fun _ => ?_)
  · extract_lets +onlyGivenNames x
    refine moves_cut x ?_ (fun _ => ?_)
    · unfold x
      refine moves_ite (fun _ => ?_) (fun _ => ?_)
      · exact moves_then (moves_refl _ _) (Chip.count_moves ..) (by decide)
      · exact moves_refl _ _
    try clear_value x
    exact moves_then (by assumption) (Chip.modPh_moves ..) (by decide)
  · exact moves_refl _ _

theorem Chip.phasePeriodStart_moves (p : Phase) (t : Nat) (o : PeriodObs) (c : Chip) : Moves [.tb, .ph, .grp, .sett, .trace, .obs] c (Chip.phasePeriodStart p t o c) := by
  unfold Chip.phasePeriodStart
  split
  · exact moves_refl _ _
  · extract_lets +onlyGivenNames x
    clear_value x
    refine moves_ite (fun _ => ?_) (fun _ => ?_)
    · exact moves_refl _ _
    · extract_lets +onlyGivenNames x
      refine moves_cut x ?_ (fun _ => ?_)
      · unfold x
        exact moves_then (moves_refl _ _) (Chip.elapseTo_moves ..) (by decide)
      try clear_value x
      extract_lets +onlyGivenNames x
      clear_value x
      refine moves_ite (fun _ => ?_) (fun _ => ?_)
      · extract_lets +onlyGivenNames x
        refine moves_cut x ?_ (fun _ => ?_)
        · unfold x
          refine moves_ite (fun _ => ?_) (fun _ => ?_)
          · exact moves_then (by assumption) (Chip.closePeriod_moves ..) (by decide)
          · assumption
        try clear_value x
        exact moves_then (by assumption) (Chip.openPeriod_moves ..) (by decide)
      · refine moves_ite (fun _ => ?_) (fun _ => ?_)
        · exact moves_then (by assumption) (Chip.closePeriod_moves ..) (by decide)
        · assumption

theorem Chip.turnRotation_moves (g : Group) (next : Nat) (o : PeriodObs) (c : Chip) : Moves [.ph, .grp, .obs] c (Chip.turnRotation g next o c) := by
  unfold Chip.turnRotation
  extract_lets +onlyGivenNames x
  clear_value x
  extract_lets +onlyGivenNames x
  refine moves_cut x ?_ (fun _ => ?_)
  · unfold x
    refine moves_foldl _ _ ?_ (fun _ _ => ?_)
    · exact moves_refl _ _
    · refine moves_ite (fun _ => ?_) (fun _ => ?_)
      · exact moves_then (moves_refl _ _) (Chip.closePeriod_moves ..) (by decide)
      · exact moves_refl _ _
  try clear_value x
  refine moves_foldl _ _ ?_ (fun _ _ => ?_)
  · assumption
  · exact moves_then (moves_refl _ _) (Chip.modPl_moves ..) (by decide)

theorem Chip.fireTurn_moves (g : Group) (o : PeriodObs) (isFirst : Bool) (u : GroupUnit) (rot : List Phase) (c : Chip) : Moves [.ph, .grp, .obs] c (Chip.fireTurn g o isFirst u rot c) := by
  unfold Chip.fireTurn
  split
  · exact moves_refl _ _
  · extract_lets +onlyGivenNames x
    extract_lets +onlyGivenNames x
    clear_value x
    extract_lets +onlyGivenNames x
    clear_value x
    extract_lets +onlyGivenNames x
    refine moves_cut x ?_ (fun _ => ?_)
    · unfold x
      refine moves_ite (fun _ => ?_) (fun _ => ?_)
      · exact moves_then (moves_refl _ _) (Chip.closePeriod_moves ..) (by decide)
      · exact moves_refl _ _
    try clear_value x
    extract_lets +onlyGivenNames x
    refine moves_cut x ?_ (fun _ => ?_)
    · unfold x
      exact moves_then (by assumption) (Chip.openPeriod_moves ..) (by decide)
    try clear_value x
    extract_lets +onlyGivenNames x
    clear_value x
    exact moves_then (by assumption) (Chip.modGrp_moves ..) (by decide)

theorem Chip.widenNext_moves (g : Group) (c : Chip) : Moves [.ph, .grp] c (Chip.widenNext g c) := by
  unfold Chip.widenNext
  extract_lets +onlyGivenNames x
  clear_value x
  refine moves_ite (fun _ => ?_) (fun _ => ?_)
  · exact moves_refl _ _
  · split
    · exact moves_refl _ _
    · extract_lets +onlyGivenNames x
      clear_value x
      extract_lets +onlyGivenNames x
      clear_value x
      refine moves_then ?_ (Chip.modGrp_moves ..) (by decide)
      exact moves_then (moves_refl _ _) (Chip.modPl_moves ..) (by decide)

theorem Chip.firingSlot_moves (g : Group) (t : Nat) (o : PeriodObs) (c : Chip) : Moves [.tb, .ph, .grp, .sett, .trace, .obs] c (Chip.firingSlot g t o c) := by
  unfold Chip.firingSlot
  extract_lets +onlyGivenNames u
  refine moves_ite (fun _ => moves_refl _ _) (fun _ => ?_)
  extract_lets +onlyGivenNames x first y
  have hx : Moves [.tb, .ph, .grp, .sett, .trace, .obs] c x := moves_then (moves_refl _ _) (Chip.elapseTo_moves ..) (by decide)
  have hy : Moves [.tb, .ph, .grp, .sett, .trace, .obs] c y := moves_ite (fun _ => moves_then hx (Chip.turnRotation_moves ..) (by decide)) (fun _ => hx)
  exact moves_then (moves_then hy (Chip.fireTurn_moves ..) (by decide)) (Chip.widenNext_moves ..) (by decide)

theorem Chip.cutPhase_moves (p : Phase) (c : Chip) : Moves [.ph, .obs] c (Chip.cutPhase p c) := by
  unfold Chip.cutPhase
  extract_lets +onlyGivenNames x
  clear_value x
  extract_lets +onlyGivenNames x
  clear_value x
  extract_lets +onlyGivenNames x
  refine moves_cut x ?_ (fun _ => ?_)
  · unfold x
    exact moves_then (moves_refl _ _) (Chip.modPl_moves ..) (by decide)
  try clear_value x
  refine moves_ite (fun _ => ?_) (fun _ => ?_)
  · exact moves_then (by assumption) (Chip.count_moves ..) (by decide)
  · assumption

theorem Chip.tripLevel_moves (p : Phase) (low : Bool) (c : Chip) : Moves [.tb, .ph, .sett, .trace, .obs] c (Chip.tripLevel p low c) := by
  unfold Chip.tripLevel
  extract_lets +onlyGivenNames x
  refine moves_cut x ?_ (fun _ => ?_)
  · unfold x
    exact moves_then (moves_refl _ _) (Chip.elapseTo_moves ..) (by decide)
  try clear_value x
  extract_lets +onlyGivenNames x
  clear_value x
  exact moves_then (by assumption) (Chip.modPl_moves ..) (by decide)

theorem Chip.tripAssert_moves (p : Phase) (c : Chip) : Moves [.tb, .ph, .sett, .guards, .trace, .obs] c (Chip.tripAssert p c) := by
  unfold Chip.tripAssert
  refine moves_ite (fun _ => ?_) (fun _ => ?_)
  · refine moves_then ?_ (Chip.cutPhase_moves ..) (by decide)
    refine moves_then ?_ (Chip.condBack_moves ..) (by decide)
    exact moves_then (moves_refl _ _) (Chip.tripLevel_moves ..) (by decide)
  · exact moves_refl _ _

theorem Chip.tripDeassert_moves (p : Phase) (c : Chip) : Moves [.tb, .ph, .sett, .trace, .obs] c (Chip.tripDeassert p c) := by
  unfold Chip.tripDeassert
  refine moves_ite (fun _ => ?_) (fun _ => ?_)
  · exact moves_then (moves_refl _ _) (Chip.tripLevel_moves ..) (by decide)
  · exact moves_refl _ _

theorem Chip.phTrip_moves (p : Phase) (c : Chip) : Moves [.sys, .tb, .ph, .grp, .le, .setpt, .sweep, .sett, .guards, .eva, .trace, .obs, .nv, .cal, .log, .host, .draws] c (Chip.phTrip p c) := by
  unfold Chip.phTrip
  extract_lets +onlyGivenNames x
  clear_value x
  refine moves_ite (fun _ => ?_) (fun _ => ?_)
  · exact moves_then (moves_refl _ _) (Chip.raiseB_moves ..) (by decide)
  · exact moves_refl _ _

theorem Chip.shootReq_moves (p : Phase) (high : Bool) (c : Chip) : Moves [.sys, .tb, .ph, .grp, .le, .setpt, .sweep, .sett, .guards, .eva, .trace, .obs, .nv, .cal, .log, .host, .draws] c (Chip.shootReq p high c) := by
  unfold Chip.shootReq
  refine moves_ite (fun _ => ?_) (fun _ => ?_)
  · refine moves_then ?_ (Chip.raiseA_moves ..) (by decide)
    exact moves_then (moves_refl _ _) (Chip.modPl_moves ..) (by decide)
  · exact moves_refl _ _

theorem Chip.phOpen_moves (p : Phase) (c : Chip) : Moves [.sys, .tb, .ph, .grp, .le, .setpt, .sweep, .sett, .guards, .eva, .trace, .obs, .nv, .cal, .log, .host, .draws] c (Chip.phOpen p c) := by
  unfold Chip.phOpen
  extract_lets +onlyGivenNames x
  clear_value x
  refine moves_ite (fun _ => ?_) (fun _ => ?_)
  · exact moves_then (moves_refl _ _) (Chip.raiseB_moves ..) (by decide)
  · exact moves_refl _ _

theorem Chip.diagWindowLapse_moves (p : Phase) (c : Chip) : Moves [.ph, .guards, .eva, .trace, .obs, .nv, .log, .draws] c (Chip.diagWindowLapse p c) := by
  unfold Chip.diagWindowLapse
  split
  · exact moves_refl _ _
  · extract_lets +onlyGivenNames x
    clear_value x
    extract_lets +onlyGivenNames x
    clear_value x
    extract_lets +onlyGivenNames x
    clear_value x
    refine moves_ite (fun _ => ?_) (fun _ => ?_)
    · exact moves_refl _ _
    · refine moves_ite (fun _ => ?_) (fun _ => ?_)
      · exact moves_then (moves_refl _ _) (Chip.modBal_moves ..) (by decide)
      · refine moves_ite (fun _ => ?_) (fun _ => ?_)
        · extract_lets +onlyGivenNames x
          clear_value x
          extract_lets +onlyGivenNames x
          refine moves_cut x ?_ (fun _ => ?_)
          · unfold x
            exact moves_then (moves_refl _ _) (Chip.modBal_moves ..) (by decide)
          try clear_value x
          refine moves_ite (fun _ => ?_) (fun _ => ?_)
          · assumption
          · exact moves_then (by assumption) (Chip.warn_moves ..) (by decide)
        · exact moves_refl _ _

end Sys2Proof.Machine
end

