-- ==== Sys2Proof/Laws/FrameConvert.lean ====
section
/-!
SUPPORT. What the operations of Machine/Convert.lean leave alone: for each, the parts of the device that it may change.
-/

-- one theorem after another: the checks of a large package would else hold too many threads at once
set_option Elab.async false

namespace Sys2Proof.Machine
open Sys2Proof

theorem Chip.phaseTrigger_moves (p : Phase) (k : Trig) (t : Nat) (c : Chip) : Moves [.tb, .ph, .sett, .trace, .obs] c (Chip.phaseTrigger p k t c) := by
  unfold Chip.phaseTrigger
  split
  · exact moves_refl _ _
  · extract_lets +onlyGivenNames x
    refine moves_cut x ?_ (fun _ => ?_)
    · unfold x
      exact moves_then (moves_refl _ _) (Chip.elapseTo_moves ..) (by decide)
    try clear_value x
    extract_lets +onlyGivenNames x
    clear_value x
    refine moves_ite (fun _ => ?_) (fun _ => ?_)
    · assumption
    · extract_lets +onlyGivenNames x
      clear_value x
      extract_lets +onlyGivenNames x
      refine moves_cut x ?_ (fun _ => ?_)
      · unfold x
        exact moves_then (by assumption) (Chip.modPl_moves ..) (by decide)
      try clear_value x
      refine moves_ite (fun _ => ?_) (fun _ => ?_)
      · extract_lets +onlyGivenNames x
        clear_value x
        exact moves_then (by assumption) (Chip.modConv_moves ..) (by decide)
      · exact moves_then (by assumption) (Chip.modConv_moves ..) (by decide)

theorem Chip.phaseConversionDone_moves (p : Phase) (code : Int) (c : Chip) : Moves [.ph, .guards, .obs] c (Chip.phaseConversionDone p code c) := by
  unfold Chip.phaseConversionDone
  extract_lets +onlyGivenNames x
  clear_value x
  split
  · exact moves_refl _ _
  · extract_lets +onlyGivenNames x
    clear_value x
    extract_lets +onlyGivenNames x
    clear_value x
    extract_lets +onlyGivenNames x
    clear_value x
    extract_lets +onlyGivenNames x
    clear_value x
    extract_lets +onlyGivenNames x
    refine moves_cut x ?_ (fun _ => ?_)
    · unfold x
      exact moves_then (moves_refl _ _) (Chip.modConv_moves ..) (by decide)
    try clear_value x
    extract_lets +onlyGivenNames x
    refine moves_cut x ?_ (fun _ => ?_)
    · unfold x
      exact moves_then (by assumption) (Chip.count_moves ..) (by decide)
    try clear_value x
    refine moves_ite (fun _ => ?_) (fun _ => ?_)
    · assumption
    · extract_lets +onlyGivenNames x
      clear_value x
      extract_lets +onlyGivenNames x
      refine moves_cut x ?_ (fun _ => ?_)
      · unfold x
        exact moves_then (by assumption) (Chip.modConv_moves ..) (by decide)
      try clear_value x
      extract_lets +onlyGivenNames x
      refine moves_cut x ?_ (fun _ => ?_)
      · unfold x
        refine moves_ite (fun _ => ?_) (fun _ => ?_)
        · exact moves_then (by assumption) (Chip.modPh_moves ..) (by decide)
        · assumption
      try clear_value x
      refine moves_ite (fun _ => ?_) (fun _ => ?_)
      · refine moves_then ?_ (Chip.cutPhase_moves ..) (by decide)
        exact moves_then (by assumption) (Chip.condBack_moves ..) (by decide)
      · assumption

theorem Chip.startGv_moves (g : Group) (t : Nat) (c : Chip) : Moves [.grp] c (Chip.startGv g t c) := by
  unfold Chip.startGv
  extract_lets +onlyGivenNames x
  clear_value x
  extract_lets +onlyGivenNames x
  clear_value x
  exact moves_then (moves_refl _ _) (Chip.modGv_moves ..) (by decide)

theorem Chip.takePhaseEvent_moves {g : Group} {k : Trig} {t : Nat} {c d : Chip} (e : Chip.takePhaseEvent g k t c = some d) : Moves [.ph] c d := by
  unfold Chip.takePhaseEvent at e
  obtain ⟨p, -, rfl⟩ := Option.map_eq_some_iff.mp e
  exact moves_then (moves_refl _ _) (Chip.modPl_moves ..) (by decide)

theorem Chip.takeEvent_moves {g : Group} {t : Nat} {c d : Chip} (e : Chip.takeEvent g t c = some d) : Moves [.ph, .grp] c d := by
  unfold Chip.takeEvent at e
  extract_lets u at e
  split at e
  · exact moves_then (moves_refl _ _) (Chip.takePhaseEvent_moves e) (by decide)
  split at e
  · exact moves_then (moves_refl _ _) (Chip.takePhaseEvent_moves e) (by decide)
  split at e
  · split at e
    · obtain ⟨j, -, rfl⟩ := Option.map_eq_some_iff.mp e
      exact moves_then (moves_refl _ _) (Chip.modGv_moves ..) (by decide)
    · cases e
  split at e
  · cases e
    exact moves_then (moves_refl _ _) (Chip.modGv_moves ..) (by decide)
  · cases e

theorem Chip.groupVoltageTrigger_moves (g : Group) (t : Nat) (c : Chip) : Moves [.tb, .ph, .grp, .sett, .trace, .obs] c (Chip.groupVoltageTrigger g t c) := by
  unfold Chip.groupVoltageTrigger
  refine moves_ite (fun _ => ?_) (fun _ => ?_)
  · exact moves_refl _ _
  · split
    · exact moves_then (moves_refl _ _) (Chip.elapseTo_moves ..) (by decide)
    · extract_lets +onlyGivenNames x
      clear_value x
      extract_lets +onlyGivenNames x
      refine moves_cut x ?_ (fun _ => ?_)
      · unfold x
        refine moves_then ?_ (Chip.modGv_moves ..) (by decide)
        refine moves_then ?_ (Chip.takeEvent_moves (by assumption)) (by decide)
        exact moves_then (moves_refl _ _) (Chip.elapseTo_moves ..) (by decide)
      try clear_value x
      refine moves_ite (fun _ => ?_) (fun _ => ?_)
      · assumption
      · refine moves_ite (fun _ => ?_) (fun _ => ?_)
        · exact moves_then (by assumption) (Chip.startGv_moves ..) (by decide)
        · exact moves_then (by assumption) (Chip.modGv_moves ..) (by decide)

theorem Chip.groupFreeRun_moves (g : Group) (t : Nat) (c : Chip) : Moves [.tb, .grp, .sett, .trace, .obs] c (Chip.groupFreeRun g t c) := by
  unfold Chip.groupFreeRun
  refine moves_ite (fun _ => ?_) (fun _ => ?_)
  · exact moves_refl _ _
  · extract_lets +onlyGivenNames x
    refine moves_cut x ?_ (fun _ => ?_)
    · unfold x
      exact moves_then (moves_refl _ _) (Chip.elapseTo_moves ..) (by decide)
    try clear_value x
    refine moves_ite (fun _ => ?_) (fun _ => ?_)
    · exact moves_then (by assumption) (Chip.startGv_moves ..) (by decide)
    · assumption

theorem Chip.ovCompare_moves (g : Group) (v : Int) (w : Word) (c : Chip) : Moves [.sys, .tb, .ph, .grp, .le, .setpt, .sweep, .sett, .guards, .eva, .trace, .obs, .nv, .cal, .log, .host, .draws] c (Chip.ovCompare g v w c) := by
  unfold Chip.ovCompare
  refine moves_ite (fun _ => ?_) (fun _ => ?_)
  · exact moves_refl _ _
  · refine moves_ite (fun _ => ?_) (fun _ => ?_)
    · exact moves_then (moves_refl _ _) (Chip.raiseB_moves ..) (by decide)
    · refine moves_ite (fun _ => ?_) (fun _ => ?_)
      · exact moves_refl _ _
      · exact moves_then (moves_refl _ _) (Chip.modGv_moves ..) (by decide)

theorem Chip.holdTimers_moves (g : Group) (v : Int) (i : Rat) (c : Chip) : Moves [.grp] c (Chip.holdTimers g v i c) := by
  unfold Chip.holdTimers
  extract_lets +onlyGivenNames x
  clear_value x
  extract_lets +onlyGivenNames x
  clear_value x
  extract_lets +onlyGivenNames x
  clear_value x
  extract_lets +onlyGivenNames x
  clear_value x
  extract_lets +onlyGivenNames x
  clear_value x
  exact moves_then (moves_refl _ _) (Chip.modGrp_moves ..) (by decide)

theorem Chip.lightloadExit_moves (g : Group) (i : Rat) (c : Chip) : Moves [.sys, .tb, .ph, .grp, .le, .setpt, .sweep, .sett, .guards, .eva, .trace, .obs, .nv, .cal, .log, .host, .draws] c (Chip.lightloadExit g i c) := by
  unfold Chip.lightloadExit
  extract_lets +onlyGivenNames x
  clear_value x
  refine moves_ite (fun _ => ?_) (fun _ => ?_)
  · exact moves_then (moves_refl _ _) (Chip.changeMode_moves ..) (by decide)
  · exact moves_refl _ _

theorem Chip.otCompare_moves (g : Group) (c : Chip) : Moves [.sys, .tb, .ph, .grp, .le, .setpt, .sweep, .sett, .guards, .eva, .trace, .obs, .nv, .cal, .log, .host, .draws] c (Chip.otCompare g c) := by
  unfold Chip.otCompare
  extract_lets +onlyGivenNames x
  clear_value x
  refine moves_ite (fun _ => ?_) (fun _ => ?_)
  · exact moves_refl _ _
  · extract_lets +onlyGivenNames x
    clear_value x
    extract_lets +onlyGivenNames x
    refine moves_cut x ?_ (fun _ => ?_)
    · unfold x
      refine moves_ite (fun _ => ?_) (fun _ => ?_)
      · exact moves_then (moves_refl _ _) (Chip.raiseB_moves ..) (by decide)
      · exact moves_refl _ _
    try clear_value x
    extract_lets +onlyGivenNames x
    clear_value x
    extract_lets +onlyGivenNames x
    clear_value x
    extract_lets +onlyGivenNames x
    refine moves_cut x ?_ (fun _ => ?_)
    · unfold x
      exact moves_then (by assumption) (Chip.modGv_moves ..) (by decide)
    try clear_value x
    refine moves_ite (fun _ => ?_) (fun _ => ?_)
    · exact moves_then (by assumption) (Chip.raiseC_moves ..) (by decide)
    · assumption

theorem Chip.telemetry_moves (g : Group) (v : Int) (c : Chip) : Moves [.sys, .tb, .ph, .grp, .le, .setpt, .lcmd, .sweep, .sett, .guards, .eva, .trace, .obs, .nv, .cal, .log, .host, .draws] c (Chip.telemetry g v c) := by
  unfold Chip.telemetry
  extract_lets +onlyGivenNames x
  clear_value x
  extract_lets +onlyGivenNames x
  clear_value x
  extract_lets +onlyGivenNames x
  clear_value x
  extract_lets +onlyGivenNames x
  refine moves_cut x ?_ (fun _ => ?_)
  · unfold x
    exact moves_then (moves_refl _ _) (Chip.modGrp_moves ..) (by decide)
  try clear_value x
  extract_lets +onlyGivenNames x
  refine moves_cut x ?_ (fun _ => ?_)
  · unfold x
    refine moves_then ?_ (Chip.lightloadExit_moves ..) (by decide)
    exact moves_then (by assumption) (Chip.holdTimers_moves ..) (by decide)
  try clear_value x
  extract_lets +onlyGivenNames x
  refine moves_cut x ?_ (fun _ => ?_)
  · unfold x
    exact moves_then (by assumption) (Chip.checkArrival_moves ..) (by decide)
  try clear_value x
  refine moves_ite (fun _ => ?_) (fun _ => ?_)
  · exact moves_then (by assumption) (Chip.otCompare_moves ..) (by decide)
  · assumption

theorem Chip.deliver_moves (g : Group) (k : OutKind) (y16 : Int) (c : Chip) : Moves [.ph, .grp] c (Chip.deliver g k y16 c) := by
  unfold Chip.deliver
  extract_lets +onlyGivenNames x
  clear_value x
  split
  · exact moves_refl _ _
  · extract_lets +onlyGivenNames x
    clear_value x
    extract_lets +onlyGivenNames x
    clear_value x
    extract_lets +onlyGivenNames x
    refine moves_cut x ?_ (fun _ => ?_)
    · unfold x
      refine moves_then ?_ (Chip.widenNext_moves ..) (by decide)
      exact moves_then (moves_refl _ _) (Chip.modGrp_moves ..) (by decide)
    try clear_value x
    refine moves_foldl _ _ ?_ (fun _ _ => ?_)
    · assumption
    · exact moves_then (moves_refl _ _) (Chip.modPl_moves ..) (by decide)
  · refine moves_foldl _ _ ?_ (fun _ _ => ?_)
    · exact moves_refl _ _
    · exact moves_then (moves_refl _ _) (Chip.modPh_moves ..) (by decide)
  · refine moves_foldl _ _ ?_ (fun _ _ => ?_)
    · exact moves_refl _ _
    · exact moves_then (moves_refl _ _) (Chip.modPh_moves ..) (by decide)

theorem Chip.runEngines_moves (g : Group) (t : Nat) (v : Int) (c : Chip) : Moves [.ph, .grp, .le, .setpt, .sweep, .eva, .trace, .obs, .draws] c (Chip.runEngines g t v c) := by
  unfold Chip.runEngines
  extract_lets +onlyGivenNames x
  unfold x
  split
  · refine moves_then ?_ (Chip.deliver_moves ..) (by decide)
    exact moves_then (moves_refl _ _) (Chip.evaluate_moves ..) (by decide)
  · exact moves_then (moves_refl _ _) (Chip.evaluate_moves ..) (by decide)

theorem Chip.useGv_moves (g : Group) (t : Nat) (v : Int) (w : Word) (c : Chip) : Moves [.sys, .tb, .ph, .grp, .le, .setpt, .lcmd, .sweep, .sett, .guards, .eva, .trace, .obs, .nv, .cal, .log, .host, .draws] c (Chip.useGv g t v w c) := by
  unfold Chip.useGv
  extract_lets +onlyGivenNames x
  clear_value x
  extract_lets +onlyGivenNames x
  refine moves_cut x ?_ (fun _ => ?_)
  · unfold x
    exact moves_then (moves_refl _ _) (Chip.modGrp_moves ..) (by decide)
  try clear_value x
  extract_lets +onlyGivenNames x
  refine moves_cut x ?_ (fun _ => ?_)
  · unfold x
    exact moves_then (by assumption) (Chip.ovCompare_moves ..) (by decide)
  try clear_value x
  extract_lets +onlyGivenNames x
  refine moves_cut x ?_ (fun _ => ?_)
  · unfold x
    exact moves_then (by assumption) (Chip.runEngines_moves ..) (by decide)
  try clear_value x
  exact moves_then (by assumption) (Chip.telemetry_moves ..) (by decide)

theorem Chip.groupConversionDone_moves (g : Group) (code : Int) (cm : Bool) (c : Chip) : Moves [.sys, .tb, .ph, .grp, .le, .setpt, .lcmd, .sweep, .sett, .guards, .eva, .trace, .obs, .nv, .cal, .log, .host, .draws] c (Chip.groupConversionDone g code cm c) := by
  unfold Chip.groupConversionDone
  extract_lets +onlyGivenNames x
  clear_value x
  split
  · exact moves_refl _ _
  · refine moves_ite (fun _ => ?_) (fun _ => ?_)
    · exact moves_refl _ _
    · extract_lets +onlyGivenNames x
      clear_value x
      extract_lets +onlyGivenNames x
      clear_value x
      extract_lets +onlyGivenNames x
      clear_value x
      extract_lets +onlyGivenNames x
      clear_value x
      extract_lets +onlyGivenNames x
      clear_value x
      extract_lets +onlyGivenNames x
      clear_value x
      extract_lets +onlyGivenNames x
      refine moves_cut x ?_ (fun _ => ?_)
      · unfold x
        exact moves_then (moves_refl _ _) (Chip.modGv_moves ..) (by decide)
      try clear_value x
      extract_lets +onlyGivenNames x
      refine moves_cut x ?_ (fun _ => ?_)
      · unfold x
        exact moves_then (by assumption) (Chip.count_moves ..) (by decide)
      try clear_value x
      extract_lets +onlyGivenNames x
      refine moves_cut x ?_ (fun _ => ?_)
      · unfold x
        refine moves_ite (fun _ => ?_) (fun _ => ?_)
        · exact moves_then (by assumption) (Chip.modGv_moves ..) (by decide)
        · assumption
      try clear_value x
      refine moves_ite (fun _ => ?_) (fun _ => ?_)
      · assumption
      · extract_lets +onlyGivenNames x
        refine moves_cut x ?_ (fun _ => ?_)
        · unfold x
          exact moves_then (by assumption) (Chip.modGv_moves ..) (by decide)
        try clear_value x
        refine moves_ite (fun _ => ?_) (fun _ => ?_)
        · exact moves_then (by assumption) (Chip.skipNotReady_moves ..) (by decide)
        · exact moves_then (by assumption) (Chip.useGv_moves ..) (by decide)

theorem Chip.grpOv_moves (g : Group) (c : Chip) : Moves [.sys, .tb, .ph, .grp, .le, .setpt, .sweep, .sett, .guards, .eva, .trace, .obs, .nv, .cal, .log, .host, .draws] c (Chip.grpOv g c) := by
  unfold Chip.grpOv
  refine moves_ite (fun _ => ?_) (fun _ => ?_)
  · refine Chip.urgentCycle_movesOf ?_ ?_ (by decide)
    · exact moves_refl _ _
    · intros
      unfold id
      exact moves_refl _ _
  · exact moves_refl _ _

theorem Chip.grpOvWarn_moves (g : Group) (c : Chip) : Moves [.grp, .guards, .eva, .trace, .obs, .nv, .log, .draws] c (Chip.grpOvWarn g c) := by
  unfold Chip.grpOvWarn
  extract_lets +onlyGivenNames x
  clear_value x
  refine moves_ite (fun _ => ?_) (fun _ => ?_)
  · refine moves_then ?_ (Chip.raiseC_moves ..) (by decide)
    exact moves_then (moves_refl _ _) (Chip.modGv_moves ..) (by decide)
  · exact moves_refl _ _

theorem Chip.loseSense_moves (g : Group) (inj : Bool) (c : Chip) : Moves [.sys, .tb, .ph, .grp, .le, .setpt, .sweep, .sett, .guards, .eva, .trace, .obs, .nv, .cal, .log, .host, .draws] c (Chip.loseSense g inj c) := by
  unfold Chip.loseSense
  extract_lets +onlyGivenNames x
  clear_value x
  extract_lets +onlyGivenNames x
  refine moves_cut x ?_ (fun _ => ?_)
  · unfold x
    exact moves_then (moves_refl _ _) (Chip.modGv_moves ..) (by decide)
  try clear_value x
  extract_lets +onlyGivenNames x
  refine moves_cut x ?_ (fun _ => ?_)
  · unfold x
    refine moves_ite (fun _ => ?_) (fun _ => ?_)
    · refine moves_ite (fun _ => ?_) (fun _ => ?_)
      · exact moves_then (by assumption) (Chip.abortSweepOf_moves ..) (by decide)
      · assumption
    · exact moves_refl _ _
  try clear_value x
  extract_lets +onlyGivenNames x
  clear_value x
  refine moves_ite (fun _ => ?_) (fun _ => ?_)
  · refine moves_then ?_ (Chip.raiseC_moves ..) (by decide)
    refine moves_ite (fun _ => ?_) (fun _ => ?_)
    · assumption
    · exact moves_then (by assumption) (Chip.condBack_moves ..) (by decide)
  · exact moves_then (by assumption) (Chip.raiseB_moves ..) (by decide)

theorem Chip.senseLost_moves (g : Group) (c : Chip) : Moves [.sys, .tb, .ph, .grp, .le, .setpt, .sweep, .sett, .guards, .eva, .trace, .obs, .nv, .cal, .log, .host, .draws] c (Chip.senseLost g c) := by
  unfold Chip.senseLost
  extract_lets +onlyGivenNames x
  clear_value x
  refine moves_ite (fun _ => ?_) (fun _ => ?_)
  · exact moves_then (moves_refl _ _) (Chip.loseSense_moves ..) (by decide)
  · exact moves_refl _ _

theorem Chip.senseBack_moves (g : Group) (c : Chip) : Moves [.grp, .guards, .eva, .trace, .obs, .nv, .log, .draws] c (Chip.senseBack g c) := by
  unfold Chip.senseBack
  extract_lets +onlyGivenNames x
  clear_value x
  refine moves_ite (fun _ => ?_) (fun _ => ?_)
  · refine moves_then ?_ (Chip.warn_moves ..) (by decide)
    exact moves_then (moves_refl _ _) (Chip.modGv_moves ..) (by decide)
  · exact moves_refl _ _

theorem Chip.ffVinUpdate_moves (e : Engine) (c : Chip) : Moves [.le, .guards, .eva, .trace, .obs, .nv, .log, .draws] c (Chip.ffVinUpdate e c) := by
  unfold Chip.ffVinUpdate
  extract_lets +onlyGivenNames x
  clear_value x
  split
  · exact moves_refl _ _
  · refine moves_ite (fun _ => ?_) (fun _ => ?_)
    · exact moves_refl _ _
    · extract_lets +onlyGivenNames x
      clear_value x
      extract_lets +onlyGivenNames x
      refine moves_cut x ?_ (fun _ => ?_)
      · unfold x
        exact moves_then (moves_refl _ _) (Chip.modLe_moves ..) (by decide)
      try clear_value x
      refine moves_ite (fun _ => ?_) (fun _ => ?_)
      · exact moves_then (by assumption) (Chip.warn_moves ..) (by decide)
      · assumption

theorem Chip.auxConversion_moves (c : Chip) : Moves [.aux] c (Chip.auxConversion c) := by
  unfold Chip.auxConversion
  refine moves_ite (fun _ => ?_) (fun _ => ?_)
  · exact moves_refl _ _
  · split
    · extract_lets +onlyGivenNames x
      clear_value x
      exact moves_set_aux (moves_refl _ _) (by decide)
    · exact moves_refl _ _

theorem Chip.dieCompare_moves (slot : Slot) (k : Fin 4) (t : Rat) (c : Chip) : Moves [.sys, .tb, .ph, .grp, .le, .setpt, .aux, .sweep, .sett, .guards, .eva, .trace, .obs, .nv, .cal, .log, .host, .draws] c (Chip.dieCompare slot k t c) := by
  unfold Chip.dieCompare
  extract_lets +onlyGivenNames x
  clear_value x
  extract_lets +onlyGivenNames x
  refine moves_cut x ?_ (fun _ => ?_)
  · unfold x
    exact moves_set_sys (moves_refl _ _) (by decide)
  try clear_value x
  extract_lets +onlyGivenNames x
  refine moves_cut x ?_ (fun _ => ?_)
  · unfold x
    refine moves_ite (fun _ => ?_) (fun _ => ?_)
    · exact moves_then (by assumption) (Chip.raiseB_moves ..) (by decide)
    · assumption
  try clear_value x
  extract_lets +onlyGivenNames x
  clear_value x
  extract_lets +onlyGivenNames x
  clear_value x
  extract_lets +onlyGivenNames x
  clear_value x
  extract_lets +onlyGivenNames x
  refine moves_cut x ?_ (fun _ => ?_)
  · unfold x
    exact moves_set_aux (by assumption) (by decide)
  try clear_value x
  refine moves_ite (fun _ => ?_) (fun _ => ?_)
  · exact moves_then (by assumption) (Chip.raiseC_moves ..) (by decide)
  · assumption

theorem Chip.auxConversionDone_moves (code : Nat) (dieTemp : Int) (c : Chip) : Moves [.sys, .tb, .ph, .grp, .le, .setpt, .aux, .sweep, .sett, .guards, .eva, .trace, .obs, .nv, .cal, .log, .host, .draws] c (Chip.auxConversionDone code dieTemp c) := by
  unfold Chip.auxConversionDone
  split
  · exact moves_refl _ _
  · refine moves_dite (fun _ => ?_) (fun _ => moves_refl _ _)
    extract_lets i k s r ovr w s2 s3 done z y
    have hy : Moves [.sys, .tb, .ph, .grp, .le, .setpt, .aux, .sweep, .sett, .guards, .eva, .trace, .obs, .nv, .cal, .log, .host, .draws] c y := by
      unfold y
      refine moves_set_aux (moves_refl _ _) (by decide)
    clear_value y
    refine moves_dite (fun _ => ?_) (fun _ => hy)
    exact moves_ite (fun _ => moves_then hy (Chip.dieCompare_moves ..) (by decide)) (fun _ => hy)

end Sys2Proof.Machine
end

