-- ==== Sys2Proof/Laws/FrameFabric.lean ====
section
/-!
SUPPORT. What the operations of Machine/Fabric.lean leave alone: for each, the parts of the device that it may change.
-/

-- one theorem after another: the checks of a large package would else hold too many threads at once
set_option Elab.async false

namespace Sys2Proof.Machine
open Sys2Proof

theorem Chip.doorbellRing_moves (receiver sender : Core) (c : Chip) : Moves [.eva, .trace, .obs, .dom, .draws] c (Chip.doorbellRing receiver sender c) := by
  unfold Chip.doorbellRing
  refine moves_ite (fun _ => ?_) (fun _ => ?_)
  · exact moves_refl _ _
  · extract_lets +onlyGivenNames x
    clear_value x
    refine moves_then ?_ (Chip.count_moves ..) (by decide)
    refine moves_then ?_ (Chip.modDom_moves ..) (by decide)
    exact moves_then (moves_refl _ _) (Chip.mbxGrant_moves ..) (by decide)

theorem Chip.wake_moves (k : Core) (c : Chip) : Moves [.dom] c (Chip.wake k c) := by
  unfold Chip.wake
  exact moves_then (moves_refl _ _) (Chip.modDom_moves ..) (by decide)

theorem Chip.domainUp_moves (k : Core) (c : Chip) : Moves [.obs, .dom] c (Chip.domainUp k c) := by
  unfold Chip.domainUp
  extract_lets +onlyGivenNames x
  clear_value x
  refine moves_ite (fun _ => ?_) (fun _ => ?_)
  · extract_lets +onlyGivenNames x
    refine moves_cut x ?_ (fun _ => ?_)
    · unfold x
      exact moves_then (moves_refl _ _) (Chip.modDom_moves ..) (by decide)
    try clear_value x
    refine moves_ite (fun _ => ?_) (fun _ => ?_)
    · assumption
    · exact moves_then (by assumption) (Chip.count_moves ..) (by decide)
  · exact moves_refl _ _

theorem Chip.wakeHoldLapse_moves (k : Core) (c : Chip) : Moves [.dom] c (Chip.wakeHoldLapse k c) := by
  unfold Chip.wakeHoldLapse
  exact moves_then (moves_refl _ _) (Chip.modDom_moves ..) (by decide)

theorem Chip.powerDown_moves (k : Core) (c : Chip) : Moves [.eva, .trace, .obs, .dom, .draws] c (Chip.powerDown k c) := by
  unfold Chip.powerDown
  refine moves_ite (fun _ => ?_) (fun _ => ?_)
  · extract_lets +onlyGivenNames x
    refine moves_ite (fun _ => ?_) (fun _ => ?_)
    · refine moves_then ?_ (Chip.modDom_moves ..) (by decide)
      exact moves_then (moves_refl _ _) (Chip.mbxGrant_moves ..) (by decide)
    · refine moves_then ?_ (Chip.modDom_moves ..) (by decide)
      exact moves_then (moves_refl _ _) (Chip.mbxGrant_moves ..) (by decide)
  · exact moves_refl _ _

theorem Chip.snapFill_moves (t : Nat) (c : Chip) : Moves [.tb, .snap, .sett, .trace, .obs] c (Chip.snapFill t c) := by
  unfold Chip.snapFill
  refine moves_ite (fun _ => ?_) (fun _ => ?_)
  · extract_lets +onlyGivenNames x
    refine moves_cut x ?_ (fun _ => ?_)
    · unfold x
      exact moves_then (moves_refl _ _) (Chip.elapseTo_moves ..) (by decide)
    try clear_value x
    extract_lets +onlyGivenNames x
    clear_value x
    extract_lets +onlyGivenNames x
    clear_value x
    extract_lets +onlyGivenNames x
    clear_value x
    refine moves_ite (fun _ => ?_) (fun _ => ?_)
    · exact moves_set_snap (by assumption) (by decide)
    · extract_lets +onlyGivenNames x
      clear_value x
      exact moves_set_snap (by assumption) (by decide)
  · exact moves_refl _ _

theorem Chip.publish_moves (c : Chip) : Moves [.snap, .eva, .trace, .obs, .draws] c (Chip.publish c) := by
  unfold Chip.publish
  refine moves_ite (fun _ => ?_) (fun _ => ?_)
  · extract_lets +onlyGivenNames x
    refine moves_cut x ?_ (fun _ => ?_)
    · unfold x
      refine moves_then ?_ (Chip.count_moves ..) (by decide)
      exact moves_then (moves_refl _ _) (Chip.grant_moves ..) (by decide)
    try clear_value x
    exact moves_set_snap (by assumption) (by decide)
  · exact moves_refl _ _

theorem Chip.openSnap_moves (k : Core) (c : Chip) : Moves [.snap, .eva, .trace, .obs, .draws] c (Chip.openSnap k c) := by
  unfold Chip.openSnap
  refine moves_ite (fun _ => ?_) (fun _ => ?_)
  · extract_lets +onlyGivenNames x
    extract_lets +onlyGivenNames x
    refine moves_cut x ?_ (fun _ => ?_)
    · unfold x
      exact moves_then (moves_refl _ _) (Chip.grant_moves ..) (by decide)
    try clear_value x
    extract_lets +onlyGivenNames x
    clear_value x
    exact moves_set_snap (by assumption) (by decide)
  · exact moves_refl _ _

theorem Chip.closeSnap_moves (k : Core) (c : Chip) : Moves [.snap, .eva, .trace, .obs, .draws] c (Chip.closeSnap k c) := by
  unfold Chip.closeSnap
  extract_lets +onlyGivenNames x
  refine moves_ite (fun _ => ?_) (fun _ => ?_)
  · extract_lets +onlyGivenNames x
    refine moves_cut x ?_ (fun _ => ?_)
    · unfold x
      exact moves_then (moves_refl _ _) (Chip.grant_moves ..) (by decide)
    try clear_value x
    extract_lets +onlyGivenNames x
    clear_value x
    extract_lets +onlyGivenNames x
    clear_value x
    exact moves_set_snap (by assumption) (by decide)
  · exact moves_refl _ _

theorem Chip.snapHeld_moves (k : Core) (c : Chip) : Moves [.snap, .guards, .eva, .trace, .obs, .nv, .log, .draws] c (Chip.snapHeld k c) := by
  unfold Chip.snapHeld
  extract_lets +onlyGivenNames x
  split
  · refine moves_ite (fun _ => ?_) (fun _ => ?_)
    · refine moves_then ?_ (Chip.warn_moves ..) (by decide)
      exact moves_set_snap (moves_refl _ _) (by decide)
    · exact moves_refl _ _
  · exact moves_refl _ _

theorem Chip.restartAs_moves (k : Core) (inj : Bool) (c : Chip) : Moves [.dom, .host] c (Chip.restartAs k inj c) := by
  unfold Chip.restartAs
  extract_lets +onlyGivenNames x
  refine moves_cut x ?_ (fun _ => ?_)
  · unfold x
    exact moves_then (moves_refl _ _) (Chip.modDom_moves ..) (by decide)
  try clear_value x
  refine moves_ite (fun _ => ?_) (fun _ => ?_)
  · exact moves_set_host (by assumption) (by decide)
  · assumption

theorem Chip.restartDomain_moves (k : Core) (c : Chip) : Moves [.dom, .host] c (Chip.restartDomain k c) := by
  unfold Chip.restartDomain
  exact moves_then (moves_refl _ _) (Chip.restartAs_moves ..) (by decide)

theorem Chip.watchdog_moves (k : Core) (c : Chip) : Moves [.sys, .tb, .ph, .grp, .le, .setpt, .sweep, .sett, .guards, .eva, .trace, .obs, .dom, .nv, .cal, .log, .host, .draws] c (Chip.watchdog k c) := by
  unfold Chip.watchdog
  refine moves_ite (fun _ => ?_) (fun _ => ?_)
  · refine moves_ite (fun _ => ?_) (fun _ => ?_)
    · exact moves_then (moves_refl _ _) (Chip.faultB_moves ..) (by decide)
    · exact moves_then (moves_refl _ _) (Chip.restartDomain_moves ..) (by decide)
  · exact moves_refl _ _

theorem Chip.restartEnd_moves (k : Core) (c : Chip) : Moves [.guards, .eva, .trace, .obs, .dom, .nv, .log, .host, .draws] c (Chip.restartEnd k c) := by
  unfold Chip.restartEnd
  extract_lets +onlyGivenNames x
  extract_lets +onlyGivenNames x
  clear_value x
  refine moves_ite (fun _ => ?_) (fun _ => ?_)
  · extract_lets +onlyGivenNames x
    refine moves_cut x ?_ (fun _ => ?_)
    · unfold x
      refine moves_then ?_ (Chip.count_moves ..) (by decide)
      exact moves_then (moves_refl _ _) (Chip.modDom_moves ..) (by decide)
    try clear_value x
    split
    · assumption
    · exact moves_then (by assumption) (Chip.raiseC_moves ..) (by decide)
    · extract_lets +onlyGivenNames x
      clear_value x
      extract_lets +onlyGivenNames x
      refine moves_cut x ?_ (fun _ => ?_)
      · unfold x
        refine moves_then ?_ (Chip.raiseC_moves ..) (by decide)
        exact moves_set_host (by assumption) (by decide)
      try clear_value x
      exact moves_then (by assumption) (Chip.queueFrame_moves ..) (by decide)
  · exact moves_refl _ _

theorem Chip.eccCrit_moves (w : CritPlace) (c : Chip) : Moves [.sys, .tb, .ph, .grp, .le, .setpt, .sweep, .sett, .guards, .eva, .trace, .obs, .nv, .cal, .log, .host, .draws] c (Chip.eccCrit w c) := by
  unfold Chip.eccCrit
  refine moves_ite (fun _ => ?_) (fun _ => ?_)
  · split
    · exact moves_then (moves_refl _ _) (Chip.raiseA_moves ..) (by decide)
    · exact moves_then (moves_refl _ _) (Chip.raiseA_moves ..) (by decide)
  · exact moves_refl _ _

theorem Chip.voidEntry_moves (i : Nat) (c : Chip) : Moves [.cap] c (Chip.voidEntry i c) := by
  unfold Chip.voidEntry
  exact moves_set_cap (moves_refl _ _) (by decide) (memWrite_wf _ _)

theorem Chip.eccDed_moves (w : EccPlace) (c : Chip) : Moves [.sys, .tb, .ph, .grp, .le, .setpt, .snap, .cap, .sweep, .sett, .guards, .eva, .trace, .obs, .dom, .nv, .cal, .log, .host, .draws] c (Chip.eccDed w c) := by
  unfold Chip.eccDed
  refine moves_ite (fun _ => ?_) (fun _ => ?_)
  · exact moves_refl _ _
  · split
    · exact moves_then (moves_refl _ _) (Chip.faultB_moves ..) (by decide)
    · refine moves_ite (fun _ => ?_) (fun _ => ?_)
      · exact moves_then (moves_refl _ _) (Chip.faultB_moves ..) (by decide)
      · exact moves_refl _ _
    · refine moves_ite (fun _ => ?_) (fun _ => ?_)
      · refine moves_then ?_ (Chip.restartDomain_moves ..) (by decide)
        exact moves_then (moves_refl _ _) (Chip.warn_moves ..) (by decide)
      · exact moves_refl _ _
    · refine moves_ite (fun _ => ?_) (fun _ => ?_)
      · refine moves_then ?_ (Chip.restartDomain_moves ..) (by decide)
        exact moves_then (moves_refl _ _) (Chip.warn_moves ..) (by decide)
      · exact moves_refl _ _
    · refine moves_ite (fun _ => ?_) (fun _ => ?_)
      · extract_lets +onlyGivenNames x
        refine moves_cut x ?_ (fun _ => ?_)
        · unfold x
          exact moves_then (moves_refl _ _) (Chip.warn_moves ..) (by decide)
        try clear_value x
        split
        · exact moves_then (by assumption) (Chip.voidEntry_moves ..) (by decide)
        · assumption
      · exact moves_refl _ _
    · extract_lets +onlyGivenNames x
      refine moves_cut x ?_ (fun _ => ?_)
      · unfold x
        exact moves_then (moves_refl _ _) (Chip.warn_moves ..) (by decide)
      try clear_value x
      exact moves_set_snap (by assumption) (by decide)

end Sys2Proof.Machine
end

