-- ==== Sys2Proof/Laws/FrameGauge.lean ====
section
/-!
SUPPORT. What the operations of Machine/Gauge.lean leave alone: for each, the parts of the device that it may change.
-/

-- one theorem after another: the checks of a large package would else hold too many threads at once
set_option Elab.async false

namespace Sys2Proof.Machine
open Sys2Proof

theorem Chip.onGauge_moves (f : GaugeUnit → GaugeUnit) (c : Chip) : Moves [.gauge] c (Chip.onGauge f c) := by
  unfold Chip.onGauge
  exact moves_set_gauge (moves_refl _ _) (by decide)

theorem Chip.gaugeWarn_moves (code : Nat) (c : Chip) : Moves [.guards, .eva, .trace, .obs, .nv, .log, .draws] c (Chip.gaugeWarn code c) := by
  unfold Chip.gaugeWarn
  exact moves_then (moves_refl _ _) (Chip.warn_moves ..) (by decide)

theorem Chip.gaugeSend_moves (m : GaugeMsg) (c : Chip) : Moves [.gauge] c (Chip.gaugeSend m c) := by
  unfold Chip.gaugeSend
  exact moves_then (moves_refl _ _) (Chip.onGauge_moves ..) (by decide)

theorem Chip.chopSlot_moves (c : Chip) : Moves [.gauge, .guards, .eva, .trace, .obs, .nv, .log, .draws] c (Chip.chopSlot c) := by
  unfold Chip.chopSlot
  extract_lets +onlyGivenNames x
  refine moves_cut x ?_ (fun _ => ?_)
  · unfold x
    exact moves_then (moves_refl _ _) (Chip.onGauge_moves ..) (by decide)
  try clear_value x
  refine moves_ite (fun _ => ?_) (fun _ => ?_)
  · extract_lets +onlyGivenNames x
    unfold x
    extract_lets +onlyGivenNames x
    clear_value x
    extract_lets +onlyGivenNames x
    clear_value x
    extract_lets +onlyGivenNames x
    refine moves_cut x ?_ (fun _ => ?_)
    · unfold x
      refine moves_then ?_ (Chip.onGauge_moves ..) (by decide)
      exact moves_then (by assumption) (Chip.draw_moves ..) (by decide)
    try clear_value x
    refine moves_ite (fun _ => ?_) (fun _ => ?_)
    · exact moves_then (by assumption) (Chip.gaugeWarn_moves ..) (by decide)
    · assumption
  · assumption

theorem Chip.stepLearn_moves (x : Int) (c : Chip) : Moves [.gauge] c (Chip.stepLearn x c) := by
  unfold Chip.stepLearn
  extract_lets +onlyGivenNames x
  clear_value x
  split
  · exact moves_then (moves_refl _ _) (Chip.onGauge_moves ..) (by decide)
  · exact moves_then (moves_refl _ _) (Chip.onGauge_moves ..) (by decide)

theorem Chip.sampleSlot_moves (code : Int) (cmOk : Bool) (c : Chip) : Moves [.gauge, .guards, .eva, .trace, .obs, .nv, .log, .draws] c (Chip.sampleSlot code cmOk c) := by
  unfold Chip.sampleSlot
  extract_lets +onlyGivenNames x
  clear_value x
  extract_lets +onlyGivenNames x
  clear_value x
  extract_lets +onlyGivenNames x
  clear_value x
  extract_lets +onlyGivenNames x
  clear_value x
  extract_lets +onlyGivenNames x
  clear_value x
  extract_lets +onlyGivenNames x
  clear_value x
  extract_lets +onlyGivenNames x
  clear_value x
  extract_lets +onlyGivenNames x
  refine moves_cut x ?_ (fun _ => ?_)
  · unfold x
    exact moves_then (moves_refl _ _) (Chip.onGauge_moves ..) (by decide)
  try clear_value x
  extract_lets +onlyGivenNames x
  refine moves_cut x ?_ (fun _ => ?_)
  · unfold x
    refine moves_ite (fun _ => ?_) (fun _ => ?_)
    · exact moves_then (by assumption) (Chip.onGauge_moves ..) (by decide)
    · exact moves_then (by assumption) (Chip.stepLearn_moves ..) (by decide)
  try clear_value x
  extract_lets +onlyGivenNames x
  unfold x
  extract_lets +onlyGivenNames x
  unfold x
  extract_lets +onlyGivenNames x
  refine moves_cut x ?_ (fun _ => ?_)
  · unfold x
    refine moves_ite (fun _ => ?_) (fun _ => ?_)
    · refine moves_then ?_ (Chip.onGauge_moves ..) (by decide)
      split
      · dsimp only
        assumption
      · dsimp only
        exact moves_then (by assumption) (Chip.draw_moves ..) (by decide)
    · assumption
  try clear_value x
  extract_lets +onlyGivenNames x
  refine moves_cut x ?_ (fun _ => ?_)
  · unfold x
    exact moves_then (by assumption) (Chip.onGauge_moves ..) (by decide)
  try clear_value x
  extract_lets +onlyGivenNames x
  unfold x
  extract_lets +onlyGivenNames x
  refine moves_cut x ?_ (fun _ => ?_)
  · unfold x
    refine moves_ite (fun _ => ?_) (fun _ => ?_)
    · assumption
    · refine moves_then ?_ (Chip.onGauge_moves ..) (by decide)
      exact moves_then (by assumption) (Chip.draw_moves ..) (by decide)
  try clear_value x
  extract_lets +onlyGivenNames x
  refine moves_cut x ?_ (fun _ => ?_)
  · unfold x
    refine moves_ite (fun _ => ?_) (fun _ => ?_)
    · exact moves_then (by assumption) (Chip.gaugeWarn_moves ..) (by decide)
    · assumption
  try clear_value x
  refine moves_ite (fun _ => ?_) (fun _ => ?_)
  · exact moves_then (by assumption) (Chip.gaugeWarn_moves ..) (by decide)
  · assumption

theorem Chip.gaugeSlot_moves (t : Nat) (code : Int) (cmOk : Bool) (c : Chip) : Moves [.tb, .sett, .gauge, .guards, .eva, .trace, .obs, .nv, .log, .draws] c (Chip.gaugeSlot t code cmOk c) := by
  unfold Chip.gaugeSlot
  refine moves_ite (fun _ => ?_) (fun _ => ?_)
  · extract_lets +onlyGivenNames x
    refine moves_cut x ?_ (fun _ => ?_)
    · unfold x
      exact moves_then (moves_refl _ _) (Chip.elapseTo_moves ..) (by decide)
    try clear_value x
    extract_lets +onlyGivenNames x
    refine moves_cut x ?_ (fun _ => ?_)
    · unfold x
      refine moves_ite (fun _ => ?_) (fun _ => ?_)
      · exact moves_then (by assumption) (Chip.chopSlot_moves ..) (by decide)
      · exact moves_then (by assumption) (Chip.sampleSlot_moves ..) (by decide)
    try clear_value x
    extract_lets +onlyGivenNames x
    clear_value x
    extract_lets +onlyGivenNames x
    refine moves_cut x ?_ (fun _ => ?_)
    · unfold x
      exact moves_then (by assumption) (Chip.onGauge_moves ..) (by decide)
    try clear_value x
    exact moves_then (by assumption) (Chip.onGauge_moves ..) (by decide)
  · exact moves_refl _ _

theorem Chip.gaugeInputLost_moves (c : Chip) : Moves [.sys, .tb, .ph, .grp, .le, .setpt, .sweep, .sett, .gauge, .guards, .eva, .trace, .obs, .dom, .nv, .cal, .log, .host, .draws] c (Chip.gaugeInputLost c) := by
  unfold Chip.gaugeInputLost
  refine moves_ite (fun _ => ?_) (fun _ => ?_)
  · extract_lets +onlyGivenNames x
    refine moves_cut x ?_ (fun _ => ?_)
    · unfold x
      refine moves_then ?_ (Chip.gaugeSend_moves ..) (by decide)
      refine moves_then ?_ (Chip.wake_moves ..) (by decide)
      exact moves_then (moves_refl _ _) (Chip.onGauge_moves ..) (by decide)
    try clear_value x
    refine moves_ite (fun _ => ?_) (fun _ => ?_)
    · exact moves_then (by assumption) (Chip.faultB_moves ..) (by decide)
    · refine moves_then ?_ (Chip.gaugeWarn_moves ..) (by decide)
      exact moves_then (by assumption) (Chip.condBack_moves ..) (by decide)
  · exact moves_refl _ _

theorem Chip.gaugeInputValid_moves (c : Chip) : Moves [.gauge, .dom] c (Chip.gaugeInputValid c) := by
  unfold Chip.gaugeInputValid
  refine moves_ite (fun _ => ?_) (fun _ => ?_)
  · refine moves_then ?_ (Chip.gaugeSend_moves ..) (by decide)
    refine moves_then ?_ (Chip.wake_moves ..) (by decide)
    exact moves_then (moves_refl _ _) (Chip.onGauge_moves ..) (by decide)
  · exact moves_refl _ _

theorem Chip.learn_moves (old new lo hi div : Rat) (set : Rat → GaugeUnit → GaugeUnit) (c : Chip) : Moves [.gauge, .guards, .eva, .trace, .obs, .nv, .log, .draws] c (Chip.learn old new lo hi div set c) := by
  unfold Chip.learn
  refine moves_ite (fun _ => ?_) (fun _ => ?_)
  · exact moves_refl _ _
  · refine moves_ite (fun _ => ?_) (fun _ => ?_)
    · exact moves_then (moves_refl _ _) (Chip.onGauge_moves ..) (by decide)
    · exact moves_then (moves_refl _ _) (Chip.gaugeWarn_moves ..) (by decide)

theorem Chip.anchorAt_moves (soc : Rat) (c : Chip) : Moves [.gauge, .guards, .eva, .trace, .obs, .nv, .log, .draws] c (Chip.anchorAt soc c) := by
  unfold Chip.anchorAt
  extract_lets +onlyGivenNames x
  refine moves_cut x ?_ (fun _ => ?_)
  · unfold x
    split
    · refine moves_ite (fun _ => ?_) (fun _ => ?_)
      · exact moves_then (moves_refl _ _) (Chip.learn_moves ..) (by decide)
      · exact moves_refl _ _
    · exact moves_refl _ _
  try clear_value x
  exact moves_then (by assumption) (Chip.onGauge_moves ..) (by decide)

theorem Chip.fitRest_moves (c : Chip) : Moves [.gauge, .guards, .eva, .trace, .obs, .nv, .log, .draws] c (Chip.fitRest c) := by
  unfold Chip.fitRest
  extract_lets +onlyGivenNames x
  clear_value x
  extract_lets +onlyGivenNames x
  clear_value x
  extract_lets +onlyGivenNames x
  refine moves_cut x ?_ (fun _ => ?_)
  · unfold x
    refine moves_ite (fun _ => ?_) (fun _ => ?_)
    · exact moves_refl _ _
    · exact moves_then (moves_refl _ _) (Chip.learn_moves ..) (by decide)
  try clear_value x
  exact moves_then (by assumption) (Chip.learn_moves ..) (by decide)

theorem Chip.restFound_moves (c : Chip) : Moves [.gauge, .guards, .eva, .trace, .obs, .nv, .log, .draws] c (Chip.restFound c) := by
  unfold Chip.restFound
  extract_lets +onlyGivenNames x
  clear_value x
  extract_lets +onlyGivenNames x
  clear_value x
  extract_lets +onlyGivenNames x
  clear_value x
  extract_lets +onlyGivenNames x
  clear_value x
  extract_lets +onlyGivenNames x
  refine moves_cut x ?_ (fun _ => ?_)
  · unfold x
    refine moves_then ?_ (Chip.onGauge_moves ..) (by decide)
    exact moves_then (moves_refl _ _) (Chip.anchorAt_moves ..) (by decide)
  try clear_value x
  extract_lets +onlyGivenNames x
  clear_value x
  refine moves_then ?_ (Chip.fitRest_moves ..) (by decide)
  refine moves_ite (fun _ => ?_) (fun _ => ?_)
  · exact moves_then (by assumption) (Chip.gaugeWarn_moves ..) (by decide)
  · assumption

theorem Chip.handOver_moves (reason : Nat) (clean : Bool) (c : Chip) : Moves [.gauge] c (Chip.handOver reason clean c) := by
  unfold Chip.handOver
  extract_lets +onlyGivenNames x
  clear_value x
  refine moves_then ?_ (Chip.gaugeSend_moves ..) (by decide)
  exact moves_then (moves_refl _ _) (Chip.onGauge_moves ..) (by decide)

theorem Chip.occasion_moves (reason : Nat) (c : Chip) : Moves [.gauge] c (Chip.occasion reason c) := by
  unfold Chip.occasion
  extract_lets +onlyGivenNames x
  clear_value x
  refine moves_ite (fun _ => ?_) (fun _ => ?_)
  · exact moves_then (moves_refl _ _) (Chip.handOver_moves ..) (by decide)
  · refine moves_ite (fun _ => ?_) (fun _ => ?_)
    · exact moves_refl _ _
    · exact moves_then (moves_refl _ _) (Chip.onGauge_moves ..) (by decide)

theorem Chip.occasionWaiting_moves (c : Chip) : Moves [.gauge] c (Chip.occasionWaiting c) := by
  unfold Chip.occasionWaiting
  split
  · refine moves_ite (fun _ => ?_) (fun _ => ?_)
    · exact moves_then (moves_refl _ _) (Chip.handOver_moves ..) (by decide)
    · exact moves_refl _ _
  · exact moves_refl _ _

theorem Chip.shutdownRecord_moves (c : Chip) : Moves [.gauge] c (Chip.shutdownRecord c) := by
  unfold Chip.shutdownRecord
  extract_lets +onlyGivenNames x
  clear_value x
  extract_lets +onlyGivenNames x
  refine moves_cut x ?_ (fun _ => ?_)
  · unfold x
    exact moves_then (moves_refl _ _) (Chip.onGauge_moves ..) (by decide)
  try clear_value x
  extract_lets +onlyGivenNames x
  clear_value x
  refine moves_then ?_ (Chip.gaugeSend_moves ..) (by decide)
  exact moves_then (moves_refl _ _) (Chip.onGauge_moves ..) (by decide)

theorem Chip.sendLimits_moves (c : Chip) : Moves [.gauge, .guards, .eva, .trace, .obs, .nv, .log, .draws] c (Chip.sendLimits c) := by
  unfold Chip.sendLimits
  extract_lets +onlyGivenNames x
  clear_value x
  extract_lets +onlyGivenNames x
  clear_value x
  extract_lets +onlyGivenNames x
  clear_value x
  extract_lets +onlyGivenNames x
  clear_value x
  extract_lets +onlyGivenNames x
  refine moves_cut x ?_ (fun _ => ?_)
  · unfold x
    exact moves_then (moves_refl _ _) (Chip.onGauge_moves ..) (by decide)
  try clear_value x
  extract_lets +onlyGivenNames x
  refine moves_cut x ?_ (fun _ => ?_)
  · unfold x
    exact moves_then (by assumption) (Chip.gaugeSend_moves ..) (by decide)
  try clear_value x
  refine moves_ite (fun _ => ?_) (fun _ => ?_)
  · exact moves_then (by assumption) (Chip.gaugeWarn_moves ..) (by decide)
  · assumption

theorem Chip.secondValues_moves (c : Chip) : Moves [.gauge] c (Chip.secondValues c).2 := by
  unfold Chip.secondValues
  extract_lets +onlyGivenNames x
  clear_value x
  extract_lets +onlyGivenNames x
  clear_value x
  extract_lets +onlyGivenNames x
  clear_value x
  extract_lets +onlyGivenNames x
  clear_value x
  dsimp only
  exact moves_then (moves_refl _ _) (Chip.onGauge_moves ..) (by decide)

theorem Chip.throughput_moves (ah : Rat) (c : Chip) : Moves [.gauge] c (Chip.throughput ah c) := by
  unfold Chip.throughput
  extract_lets +onlyGivenNames x
  clear_value x
  extract_lets +onlyGivenNames x
  clear_value x
  extract_lets +onlyGivenNames x
  refine moves_cut x ?_ (fun _ => ?_)
  · unfold x
    exact moves_then (moves_refl _ _) (Chip.onGauge_moves ..) (by decide)
  try clear_value x
  refine moves_ite (fun _ => ?_) (fun _ => ?_)
  · assumption
  · exact moves_then (by assumption) (Chip.gaugeSend_moves ..) (by decide)

theorem Chip.countCharge_moves (dq : Rat) (c : Chip) : Moves [.gauge] c (Chip.countCharge dq c) := by
  unfold Chip.countCharge
  extract_lets +onlyGivenNames x
  clear_value x
  exact moves_then (moves_refl _ _) (Chip.onGauge_moves ..) (by decide)

theorem Chip.firstSoc_moves (c : Chip) : Moves [.gauge] c (Chip.firstSoc c) := by
  unfold Chip.firstSoc
  extract_lets +onlyGivenNames x
  clear_value x
  refine moves_ite (fun _ => ?_) (fun _ => ?_)
  · exact moves_then (moves_refl _ _) (Chip.onGauge_moves ..) (by decide)
  · exact moves_refl _ _

theorem Chip.fullFound_moves (c : Chip) : Moves [.gauge, .guards, .eva, .trace, .obs, .nv, .log, .draws] c (Chip.fullFound c) := by
  unfold Chip.fullFound
  refine moves_then ?_ (Chip.onGauge_moves ..) (by decide)
  exact moves_then (moves_refl _ _) (Chip.anchorAt_moves ..) (by decide)

theorem Chip.socStep_moves (c : Chip) : Moves [.gauge, .guards, .eva, .trace, .obs, .nv, .log, .draws] c (Chip.socStep c) := by
  unfold Chip.socStep
  extract_lets +onlyGivenNames x
  clear_value x
  extract_lets +onlyGivenNames x
  refine moves_cut x ?_ (fun _ => ?_)
  · unfold x
    exact moves_then (moves_refl _ _) (Chip.onGauge_moves ..) (by decide)
  try clear_value x
  extract_lets +onlyGivenNames x
  refine moves_cut x ?_ (fun _ => ?_)
  · unfold x
    exact moves_then (by assumption) (Chip.onGauge_moves ..) (by decide)
  try clear_value x
  extract_lets +onlyGivenNames x
  clear_value x
  extract_lets +onlyGivenNames x
  refine moves_cut x ?_ (fun _ => ?_)
  · unfold x
    refine moves_ite (fun _ => ?_) (fun _ => ?_)
    · exact moves_then (by assumption) (Chip.gaugeWarn_moves ..) (by decide)
    · assumption
  try clear_value x
  refine moves_ite (fun _ => ?_) (fun _ => ?_)
  · refine moves_then ?_ (Chip.occasion_moves ..) (by decide)
    exact moves_then (by assumption) (Chip.onGauge_moves ..) (by decide)
  · assumption

theorem Chip.staleCheck_moves (c : Chip) : Moves [.gauge, .guards, .eva, .trace, .obs, .nv, .log, .draws] c (Chip.staleCheck c) := by
  unfold Chip.staleCheck
  refine moves_ite (fun _ => ?_) (fun _ => ?_)
  · refine moves_then ?_ (Chip.gaugeWarn_moves ..) (by decide)
    exact moves_then (moves_refl _ _) (Chip.onGauge_moves ..) (by decide)
  · exact moves_refl _ _

theorem Chip.ageStep_moves (c : Chip) : Moves [.gauge, .guards, .eva, .trace, .obs, .nv, .log, .draws] c (Chip.ageStep c) := by
  unfold Chip.ageStep
  extract_lets +onlyGivenNames x
  refine moves_cut x ?_ (fun _ => ?_)
  · unfold x
    exact moves_then (moves_refl _ _) (Chip.staleCheck_moves ..) (by decide)
  try clear_value x
  refine moves_ite (fun _ => ?_) (fun _ => ?_)
  · refine moves_then ?_ (Chip.occasion_moves ..) (by decide)
    exact moves_then (by assumption) (Chip.onGauge_moves ..) (by decide)
  · assumption

theorem Chip.secondWork_moves (dq : Rat) (c : Chip) : Moves [.gauge, .guards, .eva, .trace, .obs, .nv, .log, .draws] c (Chip.secondWork dq c) := by
  unfold Chip.secondWork
  extract_lets +onlyGivenNames x
  refine moves_cut x ?_ (fun _ => ?_)
  · unfold x
    exact moves_then (moves_refl _ _) (Chip.countCharge_moves ..) (by decide)
  try clear_value x
  extract_lets +onlyGivenNames x
  refine moves_cut x ?_ (fun _ => ?_)
  · unfold x
    refine moves_then ?_ (Chip.onGauge_moves ..) (by decide)
    refine moves_foldl _ _ ?_ (fun _ _ => ?_)
    · assumption
    · exact moves_then (moves_refl _ _) (Chip.learn_moves ..) (by decide)
  try clear_value x
  extract_lets +onlyGivenNames x
  refine moves_cut x ?_ (fun _ => ?_)
  · unfold x
    exact moves_then (by assumption) (Chip.firstSoc_moves ..) (by decide)
  try clear_value x
  extract_lets +onlyGivenNames x
  clear_value x
  extract_lets +onlyGivenNames x
  refine moves_cut x ?_ (fun _ => ?_)
  · unfold x
    exact moves_then (by assumption) (Chip.onGauge_moves ..) (by decide)
  try clear_value x
  extract_lets +onlyGivenNames x
  refine moves_cut x ?_ (fun _ => ?_)
  · unfold x
    refine moves_ite (fun _ => ?_) (fun _ => ?_)
    · exact moves_then (by assumption) (Chip.restFound_moves ..) (by decide)
    · assumption
  try clear_value x
  extract_lets +onlyGivenNames x
  clear_value x
  extract_lets +onlyGivenNames x
  refine moves_cut x ?_ (fun _ => ?_)
  · unfold x
    exact moves_then (by assumption) (Chip.onGauge_moves ..) (by decide)
  try clear_value x
  extract_lets +onlyGivenNames x
  refine moves_cut x ?_ (fun _ => ?_)
  · unfold x
    refine moves_then ?_ (Chip.socStep_moves ..) (by decide)
    refine moves_ite (fun _ => ?_) (fun _ => ?_)
    · exact moves_then (by assumption) (Chip.fullFound_moves ..) (by decide)
    · assumption
  try clear_value x
  extract_lets +onlyGivenNames x
  refine moves_cut x ?_ (fun _ => ?_)
  · unfold x
    refine moves_ite (fun _ => ?_) (fun _ => ?_)
    · exact moves_then (by assumption) (Chip.occasion_moves ..) (by decide)
    · assumption
  try clear_value x
  refine moves_ite (fun _ => ?_) (fun _ => ?_)
  · exact moves_then (by assumption) (Chip.occasion_moves ..) (by decide)
  · assumption

theorem Chip.earlyWork_moves (dq : Rat) (c : Chip) : Moves [.gauge] c (Chip.earlyWork dq c) := by
  unfold Chip.earlyWork
  extract_lets +onlyGivenNames x
  clear_value x
  exact moves_then (moves_refl _ _) (Chip.onGauge_moves ..) (by decide)

theorem Chip.hedgehogSecond_moves (c : Chip) : Moves [.gauge, .guards, .eva, .trace, .obs, .dom, .nv, .log, .draws] c (Chip.hedgehogSecond c) := by
  unfold Chip.hedgehogSecond
  refine moves_ite (fun _ => ?_) (fun _ => ?_)
  · extract_lets +onlyGivenNames x
    refine moves_cut x ?_ (fun _ => ?_)
    · unfold x
      refine moves_then ?_ (Chip.wake_moves ..) (by decide)
      refine moves_then ?_ (Chip.count_moves ..) (by decide)
      exact moves_then (moves_refl _ _) (Chip.grant_moves ..) (by decide)
    try clear_value x
    extract_lets +onlyGivenNames x
    refine moves_cut x ?_ (fun _ => ?_)
    · unfold x
      exact moves_then (by assumption) (Chip.onGauge_moves ..) (by decide)
    try clear_value x
    refine moves_ite (fun _ => ?_) (fun _ => ?_)
    · assumption
    · extract_lets +onlyGivenNames x
      unfold x
      extract_lets +onlyGivenNames x
      refine moves_cut x ?_ (fun _ => ?_)
      · unfold x
        exact moves_then (by assumption) (Chip.secondValues_moves ..) (by decide)
      try clear_value x
      extract_lets +onlyGivenNames x
      refine moves_cut x ?_ (fun _ => ?_)
      · unfold x
        refine moves_ite (fun _ => ?_) (fun _ => ?_)
        · assumption
        · refine moves_then ?_ (Chip.gaugeSend_moves ..) (by decide)
          exact moves_then (by assumption) (Chip.onGauge_moves ..) (by decide)
      try clear_value x
      extract_lets +onlyGivenNames x
      refine moves_cut x ?_ (fun _ => ?_)
      · unfold x
        exact moves_then (by assumption) (Chip.throughput_moves ..) (by decide)
      try clear_value x
      extract_lets +onlyGivenNames x
      refine moves_cut x ?_ (fun _ => ?_)
      · unfold x
        refine moves_then ?_ (Chip.occasionWaiting_moves ..) (by decide)
        refine moves_then ?_ (Chip.ageStep_moves ..) (by decide)
        refine moves_ite (fun _ => ?_) (fun _ => ?_)
        · exact moves_then (by assumption) (Chip.secondWork_moves ..) (by decide)
        · exact moves_then (by assumption) (Chip.earlyWork_moves ..) (by decide)
      try clear_value x
      refine moves_ite (fun _ => ?_) (fun _ => ?_)
      · exact moves_then (by assumption) (Chip.sendLimits_moves ..) (by decide)
      · assumption
  · exact moves_refl _ _

theorem Chip.gaugeStart_moves (r : List Byte) (c : Chip) : Moves [.gauge] c (Chip.gaugeStart r c) := by
  unfold Chip.gaugeStart
  extract_lets +onlyGivenNames x
  clear_value x
  extract_lets +onlyGivenNames x
  clear_value x
  extract_lets +onlyGivenNames x
  clear_value x
  exact moves_then (moves_refl _ _) (Chip.onGauge_moves ..) (by decide)

end Sys2Proof.Machine
end

