-- ==== Sys2Proof/Laws/FrameGuardCmd.lean ====
section
/-!
SUPPORT. What the operations of Machine/GuardCmd.lean leave alone: for each, the parts of the device that it may change.
-/

-- one theorem after another: the checks of a large package would else hold too many threads at once
set_option Elab.async false

namespace Sys2Proof.Machine
open Sys2Proof

theorem Chip.faultRaise_moves (b : Block) (cl : Cls) (code unit : Nat) (d0 : Word) (c : Chip) : Moves [.sys, .tb, .ph, .grp, .le, .setpt, .sweep, .sett, .guards, .eva, .trace, .obs, .nv, .cal, .log, .host, .draws] c (Chip.faultRaise b cl code unit d0 c) := by
  unfold Chip.faultRaise
  refine moves_ite (fun _ => ?_) (fun _ => ?_)
  · exact moves_then (moves_refl _ _) (Chip.raise_moves ..) (by decide)
  · exact moves_refl _ _

theorem Chip.closeUnlock_moves (c : Chip) : Moves [.sys, .guards, .eva, .trace, .obs, .nv, .log, .draws] c (Chip.closeUnlock c) := by
  unfold Chip.closeUnlock
  refine moves_then ?_ (Chip.warn_moves ..) (by decide)
  exact moves_set_sys (moves_refl _ _) (by decide)

theorem Chip.factoryUnlock_moves (data : List Byte) (c : Chip) : Moves [.sys, .guards, .eva, .trace, .obs, .nv, .log, .draws] c (Chip.factoryUnlock data c) := by
  unfold Chip.factoryUnlock
  refine moves_ite (fun _ => ?_) (fun _ => ?_)
  · refine moves_ite (fun _ => ?_) (fun _ => ?_)
    · exact moves_set_sys (moves_refl _ _) (by decide)
    · exact moves_then (moves_refl _ _) (Chip.closeUnlock_moves ..) (by decide)
  · exact moves_refl _ _

theorem Chip.tmodeIgnored_moves (c : Chip) : Moves [.sys, .guards, .eva, .trace, .obs, .nv, .log, .draws] c (Chip.tmodeIgnored c) := by
  unfold Chip.tmodeIgnored
  refine moves_ite (fun _ => ?_) (fun _ => ?_)
  · exact moves_then (moves_refl _ _) (Chip.closeUnlock_moves ..) (by decide)
  · exact moves_refl _ _

theorem Chip.injectAs_moves (b : Block) (cl : Cls) (code unit : Nat) (c : Chip) : Moves [.sys, .tb, .ph, .grp, .le, .setpt, .sweep, .sett, .guards, .eva, .trace, .obs, .dom, .nv, .cal, .log, .host, .draws] c (Chip.injectAs b cl code unit c) := by
  have r : Moves [.sys, .tb, .ph, .grp, .le, .setpt, .sweep, .sett, .guards, .eva, .trace, .obs, .dom, .nv, .cal, .log, .host, .draws] c (c.raise b cl code unit 0 true) := moves_then (moves_refl _ _) (Chip.raise_moves ..) (by decide)
  unfold Chip.injectAs
  extract_lets own
  clear_value own
  have tail : Moves [.sys, .tb, .ph, .grp, .le, .setpt, .sweep, .sett, .guards, .eva, .trace, .obs, .dom, .nv, .cal, .log, .host, .draws] c (match groupAt (b.val - 28) with
      | some g => if code = 0x21 ∧ b = grpBlock g then c.loseSense g true else c.raise b cl code unit 0 true
      | none => c.raise b cl code unit 0 true) := by
    cases groupAt (b.val - 28) with
    | none => exact r
    | some g => exact moves_ite (fun _ => moves_then (moves_refl _ _) (Chip.loseSense_moves ..) (by decide)) (fun _ => r)
  have own' : ∀ k, Moves [.sys, .tb, .ph, .grp, .le, .setpt, .sweep, .sett, .guards, .eva, .trace, .obs, .dom, .nv, .cal, .log, .host, .draws] c (if !c.isUp k then c.raise b cl code unit 0 true
      else if code = 0x61 then (c.raise b cl code unit 0 true).restartAs k true else c.restartAs k true) := fun k =>
    moves_ite (fun _ => r) (fun _ => moves_ite (fun _ => moves_then r (Chip.restartAs_moves ..) (by decide))
      (fun _ => moves_then (moves_refl _ _) (Chip.restartAs_moves ..) (by decide)))
  cases own with
  | none => cases cl <;> exact tail
  | some k =>
    cases cl with
    | a => exact tail
    | b => exact tail
    | c => exact own' k

theorem Chip.inject_moves (b code unit : Nat) (c : Chip) : Moves [.sys, .tb, .ph, .grp, .le, .setpt, .sweep, .sett, .guards, .eva, .trace, .obs, .dom, .nv, .cal, .log, .host, .draws] c (Chip.inject b code unit c).1 := by
  unfold Chip.inject
  split
  · split
    · dsimp only
      exact moves_refl _ _
    · split
      · dsimp only
        exact moves_refl _ _
      · extract_lets +onlyGivenNames x
        clear_value x
        extract_lets +onlyGivenNames x
        refine moves_cut x ?_ (fun _ => ?_)
        · unfold x
          exact moves_set_sys (moves_refl _ _) (by decide)
        try clear_value x
        dsimp only
        exact moves_then (by assumption) (Chip.injectAs_moves ..) (by decide)
  · dsimp only
    exact moves_refl _ _

end Sys2Proof.Machine
end

