-- ==== Sys2Proof/Laws/FrameHost.lean ====
section
/-!
SUPPORT. What the operations of Machine/Host.lean leave alone: for each, the parts of the device that it may change.
-/

-- one theorem after another: the checks of a large package would else hold too many threads at once
set_option Elab.async false

namespace Sys2Proof.Machine
open Sys2Proof

theorem Chip.refuse_moves (h : HostCmd) (r : Result) (c : Chip) : Moves [.host] c (Chip.refuse h r c) := by
  unfold Chip.refuse
  exact moves_set_host (moves_refl _ _) (by decide)

theorem Chip.hostRx_moves (h : HostCmd) (c : Chip) : Moves [.eva, .trace, .obs, .host, .draws] c (Chip.hostRx h c) := by
  unfold Chip.hostRx
  extract_lets +onlyGivenNames x
  refine moves_cut x ?_ (fun _ => ?_)
  · unfold x
    refine moves_then ?_ (Chip.count_moves ..) (by decide)
    exact moves_then (moves_refl _ _) (Chip.grant_moves ..) (by decide)
  try clear_value x
  refine moves_ite (fun _ => ?_) (fun _ => ?_)
  · assumption
  · split
    · refine moves_ite (fun _ => ?_) (fun _ => ?_)
      · exact moves_set_host (by assumption) (by decide)
      · exact moves_then (by assumption) (Chip.refuse_moves ..) (by decide)
    · extract_lets +onlyGivenNames x
      clear_value x
      extract_lets +onlyGivenNames x
      clear_value x
      extract_lets +onlyGivenNames x
      refine moves_cut x ?_ (fun _ => ?_)
      · unfold x
        exact moves_set_host (by assumption) (by decide)
      try clear_value x
      refine moves_ite (fun _ => ?_) (fun _ => ?_)
      · refine moves_then ?_ (Chip.refuse_moves ..) (by decide)
        exact moves_set_host (by assumption) (by decide)
      · exact moves_set_host (by assumption) (by decide)

theorem Chip.goodFrames_moves (p : CanPort) (n : Nat) (c : Chip) : Moves [.host, .draws] c (Chip.goodFrames p n c) := by
  unfold Chip.goodFrames
  refine moves_ite (fun _ => ?_) (fun _ => ?_)
  · extract_lets +onlyGivenNames x
    unfold x
    refine moves_then ?_ (Chip.modCan_moves ..) (by decide)
    exact moves_then (moves_refl _ _) (Chip.draw_moves ..) (by decide)
  · exact moves_then (moves_refl _ _) (Chip.modCan_moves ..) (by decide)

theorem Chip.takeFrames_moves (p : CanPort) (n : Nat) (c : Chip) : Moves [.obs, .dom, .host] c (Chip.takeFrames p n c) := by
  unfold Chip.takeFrames
  extract_lets +onlyGivenNames x
  refine moves_cut x ?_ (fun _ => ?_)
  · unfold x
    refine moves_then ?_ (Chip.count_moves ..) (by decide)
    exact moves_then (moves_refl _ _) (Chip.modCan_moves ..) (by decide)
  try clear_value x
  extract_lets +onlyGivenNames x
  clear_value x
  extract_lets +onlyGivenNames x
  refine moves_cut x ?_ (fun _ => ?_)
  · unfold x
    exact moves_set_host (by assumption) (by decide)
  try clear_value x
  refine moves_ite (fun _ => ?_) (fun _ => ?_)
  · assumption
  · exact moves_then (by assumption) (Chip.wake_moves ..) (by decide)

theorem Chip.messageIn_moves (h : HostCmd) (c : Chip) : Moves [.eva, .trace, .obs, .dom, .host, .draws] c (Chip.messageIn h c) := by
  unfold Chip.messageIn
  refine moves_ite (fun _ => ?_) (fun _ => ?_)
  · extract_lets +onlyGivenNames x
    clear_value x
    extract_lets +onlyGivenNames x
    refine moves_cut x ?_ (fun _ => ?_)
    · unfold x
      refine moves_then ?_ (Chip.takeFrames_moves ..) (by decide)
      exact moves_then (moves_refl _ _) (Chip.goodFrames_moves ..) (by decide)
    try clear_value x
    refine moves_ite (fun _ => ?_) (fun _ => ?_)
    · assumption
    · exact moves_then (by assumption) (Chip.hostRx_moves ..) (by decide)
  · exact moves_refl _ _

theorem Chip.take_movesOf {h : HostCmd} {run : HostCmd → Chip → Chip} {T : List Part} {c e : Chip} (a : Moves T c e)
    (k : ∀ h d, Moves T d (run h d)) (sub : ∀ p ∈ [.host], p ∈ T) : Moves T c (Chip.take h run e) := by
  have m : ∀ u, Moves T e { e with host := u } := fun u => moves_mono (ps := [.host]) (by
    refine moves_set_host (moves_refl _ _) (by decide)) sub
  unfold Chip.take
  extract_lets s x
  have hx : Moves T c x := moves_trans a (m _)
  split
  · exact moves_then hx (Chip.answer_moves ..) sub
  · refine moves_trans ?_ (k _ _)
    exact moves_trans a (m _)

theorem Chip.receiveCommand_moves (h : HostCmd) (c : Chip) : Moves [.eva, .trace, .obs, .dom, .host, .draws] c (Chip.receiveCommand h c) := by
  unfold Chip.receiveCommand
  refine moves_ite (fun _ => ?_) (fun _ => ?_)
  · exact moves_refl _ _
  · exact moves_then (moves_refl _ _) (Chip.messageIn_moves ..) (by decide)

theorem Chip.hostCommand_movesOf {ref : HostRef} {type : Nat} {body : List Byte} {run : HostCmd → Chip → Chip} {T : List Part} {c e : Chip} (a : Moves T c e)
    (k : ∀ h d, Moves T d (run h d)) (sub : ∀ p ∈ [.eva, .trace, .obs, .dom, .host, .draws], p ∈ T) : Moves T c (Chip.hostCommand ref type body run e) := by
  unfold Chip.hostCommand
  extract_lets h x
  have hx : Moves T c x := moves_then a (Chip.receiveCommand_moves ..) (fun p hp => sub p (by revert hp; cases p <;> decide))
  refine moves_ite (fun _ => ?_) (fun _ => hx)
  exact Chip.take_movesOf hx k (fun p hp => sub p (by revert hp; cases p <;> decide))

theorem Chip.viaBadger_movesOf {run : HostCmd → Chip → Chip} {h : HostCmd} {T : List Part} {c e : Chip} (a : Moves T c e)
    (k : ∀ h d, Moves T d (run h d)) (sub : ∀ p ∈ [.eva, .trace, .obs, .mbx, .dom, .draws], p ∈ T) : Moves T c (Chip.viaBadger run h e) := by
  unfold Chip.viaBadger
  refine moves_trans ?_ (k _ _)
  exact moves_ite (fun _ => moves_then a (Chip.pass_moves ..) sub) (fun _ => a)

theorem Chip.badgerCommand_movesOf {ref : HostRef} {type : Nat} {body : List Byte} {run : HostCmd → Chip → Chip} {T : List Part} {c e : Chip} (a : Moves T c e)
    (k : ∀ h d, Moves T d (run h d)) (sub : ∀ p ∈ [.eva, .trace, .obs, .mbx, .dom, .host, .draws], p ∈ T) : Moves T c (Chip.badgerCommand ref type body run e) := by
  unfold Chip.badgerCommand
  extract_lets h x
  have hx : Moves T c x := moves_then a (Chip.receiveCommand_moves ..) (fun p hp => sub p (by revert hp; cases p <;> decide))
  refine moves_ite (fun _ => ?_) (fun _ => hx)
  refine Chip.take_movesOf hx (fun h d => ?_) (fun p hp => sub p (by revert hp; cases p <;> decide))
  exact Chip.viaBadger_movesOf (moves_refl _ _) k (fun p hp => sub p (by revert hp; cases p <;> decide))

theorem Chip.hostRxRefused_moves (h : HostCmd) (r : Result) (c : Chip) : Moves [.eva, .trace, .obs, .host, .draws] c (Chip.hostRxRefused h r c) := by
  unfold Chip.hostRxRefused
  extract_lets +onlyGivenNames x
  refine moves_cut x ?_ (fun _ => ?_)
  · unfold x
    exact moves_then (moves_refl _ _) (Chip.hostRx_moves ..) (by decide)
  try clear_value x
  refine moves_ite (fun _ => ?_) (fun _ => ?_)
  · refine moves_then ?_ (Chip.refuse_moves ..) (by decide)
    exact moves_set_host (by assumption) (by decide)
  · assumption

theorem Chip.complete_moves (h : HostCmd) (c : Chip) : Moves [.eva, .trace, .obs, .host, .draws] c (Chip.complete h c) := by
  unfold Chip.complete
  split
  · exact moves_then (moves_refl _ _) (Chip.hostRxRefused_moves ..) (by decide)
  · split
    · exact moves_then (moves_refl _ _) (Chip.hostRxRefused_moves ..) (by decide)
    · exact moves_then (moves_refl _ _) (Chip.hostRx_moves ..) (by decide)

theorem Chip.fragment_moves (f : CanFrame) (type tag : Nat) (c : Chip) : Moves [.eva, .trace, .obs, .host, .draws] c (Chip.fragment f type tag c) := by
  unfold Chip.fragment
  extract_lets +onlyGivenNames x
  clear_value x
  extract_lets +onlyGivenNames x
  clear_value x
  extract_lets +onlyGivenNames x
  clear_value x
  extract_lets +onlyGivenNames x
  clear_value x
  extract_lets +onlyGivenNames x
  clear_value x
  extract_lets +onlyGivenNames x
  clear_value x
  extract_lets +onlyGivenNames x
  refine moves_cut x ?_ (fun _ => ?_)
  · unfold x
    refine moves_ite (fun _ => ?_) (fun _ => ?_)
    · exact moves_then (moves_refl _ _) (Chip.modCan_moves ..) (by decide)
    · exact moves_refl _ _
  try clear_value x
  refine moves_ite (fun _ => ?_) (fun _ => ?_)
  · assumption
  · extract_lets +onlyGivenNames x
    clear_value x
    extract_lets +onlyGivenNames x
    clear_value x
    refine moves_ite (fun _ => ?_) (fun _ => ?_)
    · exact moves_then (by assumption) (Chip.modCan_moves ..) (by decide)
    · refine moves_ite (fun _ => ?_) (fun _ => ?_)
      · refine moves_then ?_ (Chip.complete_moves ..) (by decide)
        exact moves_then (by assumption) (Chip.modCan_moves ..) (by decide)
      · exact moves_then (by assumption) (Chip.modCan_moves ..) (by decide)

theorem Chip.frameSeen_moves (f : CanFrame) (c : Chip) : Moves [.host, .draws] c (Chip.frameSeen f c) := by
  unfold Chip.frameSeen
  extract_lets +onlyGivenNames x
  refine moves_cut x ?_ (fun _ => ?_)
  · unfold x
    exact moves_then (moves_refl _ _) (Chip.modCan_moves ..) (by decide)
  try clear_value x
  refine moves_ite (fun _ => ?_) (fun _ => ?_)
  · exact moves_then (by assumption) (Chip.goodFrames_moves ..) (by decide)
  · assumption

theorem Chip.frameRx_moves (f : CanFrame) (c : Chip) : Moves [.eva, .trace, .obs, .dom, .host, .draws] c (Chip.frameRx f c) := by
  unfold Chip.frameRx
  extract_lets +onlyGivenNames x
  refine moves_cut x ?_ (fun _ => ?_)
  · unfold x
    exact moves_then (moves_refl _ _) (Chip.frameSeen_moves ..) (by decide)
  try clear_value x
  extract_lets +onlyGivenNames x
  clear_value x
  extract_lets +onlyGivenNames x
  clear_value x
  extract_lets +onlyGivenNames x
  clear_value x
  refine moves_ite (fun _ => ?_) (fun _ => ?_)
  · extract_lets +onlyGivenNames x
    refine moves_cut x ?_ (fun _ => ?_)
    · unfold x
      exact moves_then (by assumption) (Chip.takeFrames_moves ..) (by decide)
    try clear_value x
    extract_lets +onlyGivenNames x
    clear_value x
    refine moves_ite (fun _ => ?_) (fun _ => ?_)
    · assumption
    · exact moves_then (by assumption) (Chip.fragment_moves ..) (by decide)
  · assumption

theorem Chip.reasmTimeout_moves (p : CanPort) (type tag : Nat) (c : Chip) : Moves [.host] c (Chip.reasmTimeout p type tag c) := by
  unfold Chip.reasmTimeout
  refine moves_ite (fun _ => ?_) (fun _ => ?_)
  · exact moves_then (moves_refl _ _) (Chip.modCan_moves ..) (by decide)
  · exact moves_refl _ _

theorem Chip.hostAns_moves (c : Chip) : Moves [.eva, .trace, .obs, .log, .host, .draws] c (Chip.hostAns c) := by
  unfold Chip.hostAns
  split
  · exact moves_refl _ _
  · refine moves_ite (fun _ => ?_) (fun _ => ?_)
    · extract_lets +onlyGivenNames x
      refine moves_cut x ?_ (fun _ => ?_)
      · unfold x
        refine moves_then ?_ (Chip.count_moves ..) (by decide)
        exact moves_then (moves_refl _ _) (Chip.grant_moves ..) (by decide)
      try clear_value x
      extract_lets +onlyGivenNames x
      clear_value x
      extract_lets +onlyGivenNames x
      clear_value x
      extract_lets +onlyGivenNames x
      refine moves_cut x ?_ (fun _ => ?_)
      · unfold x
        exact moves_set_host (by assumption) (by decide)
      try clear_value x
      extract_lets +onlyGivenNames x
      refine moves_cut x ?_ (fun _ => ?_)
      · unfold x
        refine moves_ite (fun _ => ?_) (fun _ => ?_)
        · exact moves_then (by assumption) (Chip.addLog_moves ..) (by decide)
        · assumption
      try clear_value x
      extract_lets +onlyGivenNames x
      clear_value x
      extract_lets +onlyGivenNames x
      clear_value x
      exact moves_then (by assumption) (Chip.modCan_moves ..) (by decide)
    · exact moves_refl _ _

theorem Chip.busOff_moves (p : CanPort) (c : Chip) : Moves [.guards, .eva, .trace, .obs, .nv, .log, .host, .draws] c (Chip.busOff p c) := by
  unfold Chip.busOff
  refine moves_ite (fun _ => ?_) (fun _ => ?_)
  · refine moves_then ?_ (Chip.warn_moves ..) (by decide)
    exact moves_then (moves_refl _ _) (Chip.modCan_moves ..) (by decide)
  · exact moves_refl _ _

theorem Chip.busOffRecovery_moves (p : CanPort) (c : Chip) : Moves [.host] c (Chip.busOffRecovery p c) := by
  unfold Chip.busOffRecovery
  exact moves_then (moves_refl _ _) (Chip.modCan_moves ..) (by decide)

end Sys2Proof.Machine
end

