-- ==== Sys2Proof/Laws/FrameNvStore.lean ====
section
/-!
SUPPORT. What the operations of Machine/NvStore.lean leave alone: for each, the parts of the device that it may change.
-/

-- one theorem after another: the checks of a large package would else hold too many threads at once
set_option Elab.async false

namespace Sys2Proof.Machine
open Sys2Proof

theorem Chip.nvFirst_moves (ks : List NvKind) (c : Chip) : Moves [.nv] c (Chip.nvFirst ks c) := by
  unfold Chip.nvFirst
  refine moves_ite (fun _ => ?_) (fun _ => ?_)
  · exact moves_refl _ _
  · exact moves_set_nv (moves_refl _ _) (by decide)

theorem Chip.answerWrite_moves (tag : Nat) (r : Result) (body : List Byte) (c : Chip) : Moves [.host] c (Chip.answerWrite tag r body c) := by
  unfold Chip.answerWrite
  split
  · exact moves_then (moves_refl _ _) (Chip.answer_moves ..) (by decide)
  · exact moves_refl _ _

theorem Chip.dropUser_moves (r : Result) (c : Chip) : Moves [.nv, .host] c (Chip.dropUser r c) := by
  unfold Chip.dropUser
  extract_lets +onlyGivenNames x
  clear_value x
  extract_lets +onlyGivenNames x
  clear_value x
  extract_lets +onlyGivenNames x
  refine moves_cut x ?_ (fun _ => ?_)
  · unfold x
    exact moves_set_nv (moves_refl _ _) (by decide)
  try clear_value x
  refine moves_foldl _ _ ?_ (fun _ _ => ?_)
  · assumption
  · exact moves_then (moves_refl _ _) (Chip.answerWrite_moves ..) (by decide)

theorem Chip.nvWorn_moves (c : Chip) : Moves [.sys, .tb, .ph, .grp, .le, .setpt, .sweep, .sett, .guards, .eva, .trace, .obs, .nv, .cal, .log, .host, .draws] c (Chip.nvWorn c) := by
  unfold Chip.nvWorn
  extract_lets +onlyGivenNames x
  refine moves_cut x ?_ (fun _ => ?_)
  · unfold x
    exact moves_then (moves_refl _ _) (Chip.dropUser_moves ..) (by decide)
  try clear_value x
  refine moves_then ?_ (Chip.faultB_moves ..) (by decide)
  exact moves_set_nv (by assumption) (by decide)

theorem Chip.erasePulses_moves (s : Sector) (pulses : Nat) (c : Chip) : Moves [.guards, .eva, .trace, .obs, .nv, .log, .draws] c (Chip.erasePulses s pulses c) := by
  unfold Chip.erasePulses
  extract_lets +onlyGivenNames x
  refine moves_cut x ?_ (fun _ => ?_)
  · unfold x
    exact moves_then (moves_refl _ _) (Chip.count_moves ..) (by decide)
  try clear_value x
  refine moves_ite (fun _ => ?_) (fun _ => ?_)
  · refine moves_then ?_ (Chip.bump_moves ..) (by decide)
    exact moves_then (by assumption) (Chip.raiseC_moves ..) (by decide)
  · assumption

theorem Chip.retireSector_moves (s : Sector) (c : Chip) : Moves [.sys, .tb, .ph, .grp, .le, .setpt, .sweep, .sett, .guards, .eva, .trace, .obs, .nv, .cal, .log, .host, .draws] c (Chip.retireSector s c) := by
  unfold Chip.retireSector
  split
  · exact moves_refl _ _
  · extract_lets +onlyGivenNames x
    clear_value x
    extract_lets +onlyGivenNames x
    refine moves_cut x ?_ (fun _ => ?_)
    · unfold x
      exact moves_set_nv (moves_refl _ _) (by decide)
    try clear_value x
    extract_lets +onlyGivenNames x
    refine moves_cut x ?_ (fun _ => ?_)
    · unfold x
      refine moves_then ?_ (Chip.bump_moves ..) (by decide)
      exact moves_then (by assumption) (Chip.raiseC_moves ..) (by decide)
    try clear_value x
    split
    · exact moves_set_nv (by assumption) (by decide)
    · exact moves_then (by assumption) (Chip.nvWorn_moves ..) (by decide)

theorem Chip.programFailed_moves (i : Fin 54) (c : Chip) : Moves [.nv] c (Chip.programFailed i c) := by
  unfold Chip.programFailed
  extract_lets +onlyGivenNames x
  clear_value x
  extract_lets +onlyGivenNames x
  refine moves_cut x ?_ (fun _ => ?_)
  · unfold x
    exact moves_set_nv (moves_refl _ _) (by decide)
  try clear_value x
  exact moves_then (by assumption) (Chip.nvFirst_moves ..) (by decide)

theorem Chip.nvOpen_moves (k : NvKind) (s : Sector) (pages : List Nat) (c : Chip) : Moves [.nv] c (Chip.nvOpen k s pages c) := by
  unfold Chip.nvOpen
  exact moves_set_nv (moves_refl _ _) (by decide)

theorem Chip.beginRecord_moves {k : NvKind} {key : Nat} {seq : BitVec 16} {pay : List Byte} {c d : Chip} (e : Chip.beginRecord k key seq pay c = some d) :
    Moves [.obs, .nv] c d := by
  unfold Chip.beginRecord at e
  split at e
  · cases e
    refine moves_then ?_ (Chip.count_moves ..) (by decide)
    refine moves_then ?_ (Chip.nvOpen_moves ..) (by decide)
    refine moves_set_nv (moves_refl _ _) (by decide)
  · cases e

theorem Chip.nvBegin_moves {k : NvKind} {c d : Chip} (e : Chip.nvBegin k c = some d) : Moves [.obs, .nv] c d := by
  have nt : ∀ a s x y, Moves [.obs, .nv] c { c with nv := c.nv.note a s x y } := fun _ _ _ _ => by
    refine moves_set_nv (moves_refl _ _) (by decide)
  have ff : ∀ (d : Chip) (q : Prop) [Decidable q] (b : Chip), Moves [.obs, .nv] c b → (if q then none else some b) = some d → Moves [.obs, .nv] c d := by
    intro d q _ b hb h
    split at h
    · cases h
    · cases h; exact hb
  cases k with
  | record key pay u => exact Chip.beginRecord_moves e
  | copy key seq pay => exact Chip.beginRecord_moves e
  | carry sw => exact Chip.beginRecord_moves e
  | eraseRecord s =>
    unfold Chip.nvBegin at e
    extract_lets er at e
    dsimp only at e
    split at e
    · refine ff _ _ _ (moves_then ?_ (Chip.nvOpen_moves ..) (by decide)) e
      refine moves_set_nv ?_ (by decide)
      refine moves_set_nv (moves_refl _ _) (by decide)
    · cases e
  | eraseJournal =>
    obtain ⟨d', h, rfl⟩ := Option.map_eq_some_iff.mp e
    have hd : Moves [.obs, .nv] c d' := ff _ _ _ (moves_then (nt _ _ _ _) (Chip.nvOpen_moves ..) (by decide)) h
    exact moves_set_nv hd (by decide)
  | eraseStripe s => exact ff _ _ _ (moves_then (nt _ _ _ _) (Chip.nvOpen_moves ..) (by decide)) e
  | counterBit n =>
    cases e
    exact moves_then (moves_then (moves_refl _ _) (Chip.nvOpen_moves ..) (by decide)) (Chip.count_moves ..) (by decide)
  | retire s =>
    cases e
    exact moves_then (moves_then (moves_refl _ _) (Chip.nvOpen_moves ..) (by decide)) (Chip.count_moves ..) (by decide)

theorem Chip.recordStored_moves (key : Nat) (pay : List Byte) (c : Chip) : Moves [.nv, .log] c (Chip.recordStored key pay c) := by
  unfold Chip.recordStored
  refine moves_ite (fun _ => ?_) (fun _ => ?_)
  · exact moves_set_log (moves_refl _ _) (by decide)
  · refine moves_ite (fun _ => ?_) (fun _ => ?_)
    · extract_lets +onlyGivenNames x
      clear_value x
      extract_lets +onlyGivenNames x
      clear_value x
      extract_lets +onlyGivenNames x
      refine moves_cut x ?_ (fun _ => ?_)
      · unfold x
        exact moves_set_nv (moves_refl _ _) (by decide)
      try clear_value x
      refine moves_ite (fun _ => ?_) (fun _ => ?_)
      · exact moves_then (by assumption) (Chip.nvQueue_moves ..) (by decide)
      · assumption
    · exact moves_refl _ _

theorem Chip.endRecord_moves (o : NvOp) (i : Fin 54) (verified : Bool) (key : Nat) (pay : List Byte) (c : Chip) : Moves [.nv, .log, .host] c (Chip.endRecord o i verified key pay c) := by
  unfold Chip.endRecord
  extract_lets +onlyGivenNames x
  clear_value x
  extract_lets +onlyGivenNames x
  refine moves_cut x ?_ (fun _ => ?_)
  · unfold x
    exact moves_set_nv (moves_refl _ _) (by decide)
  try clear_value x
  refine moves_ite (fun _ => ?_) (fun _ => ?_)
  · refine moves_ite (fun _ => ?_) (fun _ => ?_)
    · assumption
    · exact moves_then (by assumption) (Chip.programFailed_moves ..) (by decide)
  · refine moves_ite (fun _ => ?_) (fun _ => ?_)
    · extract_lets +onlyGivenNames x
      refine moves_cut x ?_ (fun _ => ?_)
      · unfold x
        exact moves_set_nv (by assumption) (by decide)
      try clear_value x
      extract_lets +onlyGivenNames x
      refine moves_cut x ?_ (fun _ => ?_)
      · unfold x
        exact moves_then (by assumption) (Chip.recordStored_moves ..) (by decide)
      try clear_value x
      extract_lets +onlyGivenNames x
      refine moves_cut x ?_ (fun _ => ?_)
      · unfold x
        split
        · split
          · refine moves_ite (fun _ => ?_) (fun _ => ?_)
            · assumption
            · exact moves_then (by assumption) (Chip.answerWrite_moves ..) (by decide)
          · assumption
        · assumption
        · assumption
        · assumption
        · assumption
        · assumption
        · assumption
        · assumption
      try clear_value x
      refine moves_ite (fun _ => ?_) (fun _ => ?_)
      · assumption
      · exact moves_then (by assumption) (Chip.programFailed_moves ..) (by decide)
    · refine moves_ite (fun _ => ?_) (fun _ => ?_)
      · exact moves_refl _ _
      · refine moves_then ?_ (Chip.programFailed_moves ..) (by decide)
        exact moves_then (by assumption) (Chip.nvFirst_moves ..) (by decide)

theorem Chip.endErase_moves (k : NvKind) (s : Sector) (cells : NvCells) (c : Chip) : Moves [.sys, .tb, .ph, .grp, .le, .setpt, .sweep, .sett, .guards, .eva, .trace, .obs, .nv, .cal, .log, .host, .draws] c (Chip.endErase k s cells c) := by
  unfold Chip.endErase
  extract_lets +onlyGivenNames x
  clear_value x
  extract_lets +onlyGivenNames x
  refine moves_cut x ?_ (fun _ => ?_)
  · unfold x
    refine moves_then ?_ (Chip.erasePulses_moves ..) (by decide)
    exact moves_set_nv (moves_refl _ _) (by decide)
  try clear_value x
  extract_lets +onlyGivenNames x
  refine moves_cut x ?_ (fun _ => ?_)
  · unfold x
    refine moves_ite (fun _ => ?_) (fun _ => ?_)
    · exact moves_set_nv (by assumption) (by decide)
    · assumption
  try clear_value x
  split
  · split
    · extract_lets +onlyGivenNames x
      clear_value x
      extract_lets +onlyGivenNames x
      refine moves_cut x ?_ (fun _ => ?_)
      · unfold x
        exact moves_set_nv (by assumption) (by decide)
      try clear_value x
      refine moves_ite (fun _ => ?_) (fun _ => ?_)
      · exact moves_set_nv (by assumption) (by decide)
      · exact moves_then (by assumption) (Chip.nvFirst_moves ..) (by decide)
    · assumption
  · refine moves_ite (fun _ => ?_) (fun _ => ?_)
    · extract_lets +onlyGivenNames x
      clear_value x
      extract_lets +onlyGivenNames x
      clear_value x
      extract_lets +onlyGivenNames x
      clear_value x
      exact moves_set_nv (by assumption) (by decide)
    · exact moves_then (by assumption) (Chip.nvWorn_moves ..) (by decide)
  · refine moves_ite (fun _ => ?_) (fun _ => ?_)
    · exact moves_set_nv (by assumption) (by decide)
    · extract_lets +onlyGivenNames x
      clear_value x
      extract_lets +onlyGivenNames x
      refine moves_cut x ?_ (fun _ => ?_)
      · unfold x
        refine moves_ite (fun _ => ?_) (fun _ => ?_)
        · assumption
        · refine moves_then ?_ (Chip.queueCarry_moves ..) (by decide)
          exact moves_set_nv (by assumption) (by decide)
      try clear_value x
      exact moves_then (by assumption) (Chip.raiseC_moves ..) (by decide)
  · assumption
  · assumption
  · assumption
  · assumption
  · assumption

theorem Chip.nvEnd_moves (cells : NvCells) (c : Chip) : Moves [.sys, .tb, .ph, .grp, .le, .setpt, .sweep, .sett, .guards, .eva, .trace, .obs, .nv, .cal, .log, .host, .draws] c (Chip.nvEnd cells c) := by
  unfold Chip.nvEnd
  split
  · exact moves_refl _ _
  · extract_lets +onlyGivenNames x
    clear_value x
    split
    · split
      · exact moves_then (moves_refl _ _) (Chip.endRecord_moves ..) (by decide)
      · exact moves_refl _ _
    · split
      · exact moves_then (moves_refl _ _) (Chip.endRecord_moves ..) (by decide)
      · exact moves_refl _ _
    · exact moves_then (moves_refl _ _) (Chip.endErase_moves ..) (by decide)
    · exact moves_then (moves_refl _ _) (Chip.endErase_moves ..) (by decide)
    · exact moves_then (moves_refl _ _) (Chip.endErase_moves ..) (by decide)
    · extract_lets +onlyGivenNames x
      clear_value x
      exact moves_set_nv (moves_refl _ _) (by decide)
    · refine moves_then ?_ (Chip.retireSector_moves ..) (by decide)
      exact moves_set_nv (moves_refl _ _) (by decide)
    · exact moves_refl _ _

theorem Chip.answerRead_moves (h : HostCmd) (busy : Bool) (body : List Byte) (c : Chip) : Moves [.host] c (Chip.answerRead h busy body c) := by
  unfold Chip.answerRead
  refine moves_ite (fun _ => ?_) (fun _ => ?_)
  · exact moves_set_host (moves_refl _ _) (by decide)
  · exact moves_then (moves_refl _ _) (Chip.answer_moves ..) (by decide)

theorem Chip.answerReads_moves (c : Chip) : Moves [.host] c (Chip.answerReads c) := by
  unfold Chip.answerReads
  refine moves_foldl _ _ ?_ (fun _ _ => ?_)
  · exact moves_set_host (moves_refl _ _) (by decide)
  · exact moves_then (moves_refl _ _) (Chip.answer_moves ..) (by decide)

end Sys2Proof.Machine
end

