-- ==== Sys2Proof/Laws/FrameHostOps.lean ====
section
/-!
SUPPORT. What the operations of Machine/HostOps.lean leave alone: for each, the parts of the device that it may change.
-/

-- one theorem after another: the checks of a large package would else hold too many threads at once
set_option Elab.async false

namespace Sys2Proof.Machine
open Sys2Proof

theorem Chip.sweepStart_moves (d : SweepDesc) (h : HostCmd) (c : Chip) : Moves [.sys, .tb, .ph, .grp, .le, .setpt, .sweep, .sett, .guards, .eva, .trace, .obs, .mbx, .dom, .nv, .cal, .log, .host, .draws] c (Chip.sweepStart d h c) := by
  unfold Chip.sweepStart
  split
  · exact moves_then (moves_refl _ _) (Chip.done_moves ..) (by decide)
  · extract_lets +onlyGivenNames x
    refine moves_ite (fun _ => ?_) (fun _ => ?_)
    · refine moves_then ?_ (Chip.askSweep_moves ..) (by decide)
      exact moves_set_host (moves_refl _ _) (by decide)
    · refine moves_then ?_ (Chip.done_moves ..) (by decide)
      refine moves_then ?_ (Chip.changeMode_moves ..) (by decide)
      exact moves_then (moves_refl _ _) (Chip.bookSweep_moves ..) (by decide)

theorem Chip.sweepAbort_moves (tag : Nat) (h : HostCmd) (c : Chip) : Moves [.sweep, .eva, .trace, .obs, .mbx, .dom, .host, .draws] c (Chip.sweepAbort tag h c) := by
  unfold Chip.sweepAbort
  extract_lets +onlyGivenNames x
  unfold x
  refine moves_ite (fun _ => ?_) (fun _ => ?_)
  · refine moves_set_host ?_ (by decide)
    exact moves_set_sweep (moves_refl _ _) (by decide)
  · refine moves_ite (fun _ => ?_) (fun _ => ?_)
    · refine moves_set_host ?_ (by decide)
      exact moves_set_sweep (moves_refl _ _) (by decide)
    · refine moves_ite (fun _ => ?_) (fun _ => ?_)
      · exact moves_then (moves_refl _ _) (Chip.done_moves ..) (by decide)
      · exact moves_then (moves_refl _ _) (Chip.done_moves ..) (by decide)

theorem Chip.clearCommand_moves (block code : Nat) (h : HostCmd) (c : Chip) : Moves [.sys, .tb, .ph, .grp, .le, .setpt, .sweep, .sett, .guards, .eva, .trace, .obs, .mbx, .dom, .nv, .cal, .log, .host, .draws] c (Chip.clearCommand block code h c) := by
  unfold Chip.clearCommand
  refine moves_ite (fun _ => ?_) (fun _ => ?_)
  · exact moves_then (moves_refl _ _) (Chip.done_moves ..) (by decide)
  · split
    refine moves_then ?_ (Chip.done_moves ..) (by decide)
    refine moves_fst (by assumption) ?_
    exact moves_then (moves_refl _ _) (Chip.faultClear_moves ..) (by decide)

theorem Chip.checkPassword_moves (pw : Word) (write : Bool) (c : Chip) : Moves [.guards, .eva, .trace, .obs, .nv, .log, .draws] c (Chip.checkPassword pw write c).2 := by
  unfold Chip.checkPassword
  extract_lets +onlyGivenNames x
  clear_value x
  split
  · dsimp only
    exact moves_refl _ _
  · extract_lets +onlyGivenNames x
    clear_value x
    extract_lets +onlyGivenNames x
    clear_value x
    split
    · dsimp only
      exact moves_set_nv (moves_refl _ _) (by decide)
    · extract_lets +onlyGivenNames x
      clear_value x
      extract_lets +onlyGivenNames x
      refine moves_cut x ?_ (fun _ => ?_)
      · unfold x
        exact moves_set_nv (moves_refl _ _) (by decide)
      try clear_value x
      dsimp only
      refine moves_ite (fun _ => ?_) (fun _ => ?_)
      · exact moves_then (by assumption) (Chip.warn_moves ..) (by decide)
      · assumption

theorem Chip.nvRead_moves (pw : Word) (key : Nat) (h : HostCmd) (c : Chip) : Moves [.guards, .eva, .trace, .obs, .nv, .log, .host, .draws] c (Chip.nvRead pw key h c) := by
  unfold Chip.nvRead
  split
  · refine moves_then ?_ (Chip.answer_moves ..) (by decide)
    refine moves_snd (by assumption) ?_
    exact moves_then (moves_refl _ _) (Chip.checkPassword_moves ..) (by decide)
  · refine moves_ite (fun _ => ?_) (fun _ => ?_)
    · refine moves_then ?_ (Chip.answer_moves ..) (by decide)
      refine moves_snd (by assumption) ?_
      exact moves_then (moves_refl _ _) (Chip.checkPassword_moves ..) (by decide)
    · split
      · refine moves_ite (fun _ => ?_) (fun _ => ?_)
        · refine moves_then ?_ (Chip.answer_moves ..) (by decide)
          refine moves_snd (by assumption) ?_
          exact moves_then (moves_refl _ _) (Chip.checkPassword_moves ..) (by decide)
        · extract_lets +onlyGivenNames x
          clear_value x
          refine moves_then ?_ (Chip.answerRead_moves ..) (by decide)
          refine moves_snd (by assumption) ?_
          exact moves_then (moves_refl _ _) (Chip.checkPassword_moves ..) (by decide)
      · refine moves_then ?_ (Chip.answer_moves ..) (by decide)
        refine moves_snd (by assumption) ?_
        exact moves_then (moves_refl _ _) (Chip.checkPassword_moves ..) (by decide)

theorem Chip.nvWrite_moves (pw : Word) (key : Nat) (pay : List Byte) (h : HostCmd) (c : Chip) : Moves [.guards, .eva, .trace, .obs, .nv, .log, .host, .draws] c (Chip.nvWrite pw key pay h c) := by
  unfold Chip.nvWrite
  split
  · refine moves_then ?_ (Chip.answer_moves ..) (by decide)
    refine moves_snd (by assumption) ?_
    exact moves_then (moves_refl _ _) (Chip.checkPassword_moves ..) (by decide)
  · refine moves_ite (fun _ => ?_) (fun _ => ?_)
    · refine moves_then ?_ (Chip.answer_moves ..) (by decide)
      refine moves_snd (by assumption) ?_
      exact moves_then (moves_refl _ _) (Chip.checkPassword_moves ..) (by decide)
    · refine moves_ite (fun _ => ?_) (fun _ => ?_)
      · refine moves_then ?_ (Chip.answer_moves ..) (by decide)
        refine moves_snd (by assumption) ?_
        exact moves_then (moves_refl _ _) (Chip.checkPassword_moves ..) (by decide)
      · refine moves_ite (fun _ => ?_) (fun _ => ?_)
        · refine moves_then ?_ (Chip.answer_moves ..) (by decide)
          refine moves_snd (by assumption) ?_
          exact moves_then (moves_refl _ _) (Chip.checkPassword_moves ..) (by decide)
        · refine moves_ite (fun _ => ?_) (fun _ => ?_)
          · refine moves_then ?_ (Chip.answer_moves ..) (by decide)
            refine moves_snd (by assumption) ?_
            exact moves_then (moves_refl _ _) (Chip.checkPassword_moves ..) (by decide)
          · split
            refine moves_ite (fun _ => ?_) (fun _ => ?_)
            · refine moves_then ?_ (Chip.answer_moves ..) (by decide)
              refine moves_snd (by assumption) ?_
              exact moves_then (moves_refl _ _) (Chip.checkPassword_moves ..) (by decide)
            · refine moves_then ?_ (Chip.nvQueue_moves ..) (by decide)
              refine moves_snd (by assumption) ?_
              exact moves_then (moves_refl _ _) (Chip.checkPassword_moves ..) (by decide)

theorem Chip.logRead_moves (pw : Word) (first n : Nat) (h : HostCmd) (c : Chip) : Moves [.guards, .eva, .trace, .obs, .nv, .log, .host, .draws] c (Chip.logRead pw first n h c) := by
  unfold Chip.logRead
  refine moves_ite (fun _ => ?_) (fun _ => ?_)
  · exact moves_then (moves_refl _ _) (Chip.answer_moves ..) (by decide)
  · split
    · refine moves_then ?_ (Chip.answer_moves ..) (by decide)
      refine moves_snd (by assumption) ?_
      exact moves_then (moves_refl _ _) (Chip.checkPassword_moves ..) (by decide)
    · extract_lets +onlyGivenNames x
      clear_value x
      refine moves_then ?_ (Chip.answerRead_moves ..) (by decide)
      refine moves_snd (by assumption) ?_
      exact moves_then (moves_refl _ _) (Chip.checkPassword_moves ..) (by decide)

theorem Chip.calSet_moves (r : CalReq) (h : HostCmd) (c : Chip) : Moves [.eva, .trace, .obs, .nv, .cal, .log, .host, .draws] c (Chip.calSet r h c) := by
  unfold Chip.calSet
  refine moves_ite (fun _ => ?_) (fun _ => ?_)
  · exact moves_then (moves_refl _ _) (Chip.answer_moves ..) (by decide)
  · split
    · exact moves_then (moves_refl _ _) (Chip.answer_moves ..) (by decide)
    · extract_lets +onlyGivenNames x
      refine moves_cut x ?_ (fun _ => ?_)
      · unfold x
        exact moves_then (moves_refl _ _) (Chip.grant_moves ..) (by decide)
      try clear_value x
      extract_lets +onlyGivenNames x
      clear_value x
      extract_lets +onlyGivenNames x
      clear_value x
      extract_lets +onlyGivenNames x
      refine moves_cut x ?_ (fun _ => ?_)
      · unfold x
        exact moves_set_cal (by assumption) (by decide)
      try clear_value x
      extract_lets +onlyGivenNames x
      refine moves_cut x ?_ (fun _ => ?_)
      · unfold x
        exact moves_then (by assumption) (Chip.addLog_moves ..) (by decide)
      try clear_value x
      refine moves_then ?_ (Chip.answer_moves ..) (by decide)
      exact moves_then (by assumption) (Chip.stampCal_moves ..) (by decide)

theorem Chip.joinCommand_moves (h : HostCmd) (c : Chip) : Moves [.sett, .eva, .trace, .obs, .mbx, .dom, .host, .draws] c (Chip.joinCommand h c) := by
  unfold Chip.joinCommand
  extract_lets +onlyGivenNames x
  clear_value x
  refine moves_ite (fun _ => ?_) (fun _ => ?_)
  · exact moves_then (moves_refl _ _) (Chip.done_moves ..) (by decide)
  · extract_lets +onlyGivenNames x
    clear_value x
    extract_lets +onlyGivenNames x
    refine moves_cut x ?_ (fun _ => ?_)
    · unfold x
      refine moves_foldl _ _ ?_ (fun _ _ => ?_)
      · exact moves_refl _ _
      · exact moves_then (moves_refl _ _) (Chip.modPort_moves ..) (by decide)
    try clear_value x
    exact moves_set_host (by assumption) (by decide)

theorem Chip.cfgRelease_moves (h : HostCmd) (c : Chip) : Moves [.sys, .host] c (Chip.cfgRelease h c) := by
  unfold Chip.cfgRelease
  refine moves_then ?_ (Chip.answer_moves ..) (by decide)
  exact moves_set_sys (moves_refl _ _) (by decide)

end Sys2Proof.Machine
end

