-- ==== Sys2Proof/Laws/FrameRegPath.lean ====
section
/-!
SUPPORT. What the operations of Machine/RegPath.lean leave alone: for each, the parts of the device that it may change.
-/

-- one theorem after another: the checks of a large package would else hold too many threads at once
set_option Elab.async false

namespace Sys2Proof.Machine
open Sys2Proof

theorem Chip.gaugePeak_moves (f : Peak → Rat → Peak) (c : Chip) : Moves [.gauge] c (Chip.gaugePeak f c) := by
  unfold Chip.gaugePeak
  exact moves_set_gauge (moves_refl _ _) (by decide)

theorem Chip.rearmed_moves (a : Nat) (c : Chip) : Moves [.tb, .grp, .le, .gauge, .eva] c (Chip.rearmed a c) := by
  unfold Chip.rearmed
  refine moves_ite (fun _ => ?_) (fun _ => ?_)
  · exact moves_set_tb (moves_refl _ _) (by decide)
  · refine moves_ite (fun _ => ?_) (fun _ => ?_)
    · exact moves_set_eva (moves_refl _ _) (by decide)
    · refine moves_ite (fun _ => ?_) (fun _ => ?_)
      · exact moves_then (moves_refl _ _) (Chip.gaugePeak_moves ..) (by decide)
      · refine moves_ite (fun _ => ?_) (fun _ => ?_)
        · exact moves_then (moves_refl _ _) (Chip.gaugePeak_moves ..) (by decide)
        · refine moves_ite (fun _ => ?_) (fun _ => ?_)
          · exact moves_then (moves_refl _ _) (Chip.modLe_moves ..) (by decide)
          · refine moves_ite (fun _ => ?_) (fun _ => ?_)
            · exact moves_then (moves_refl _ _) (Chip.modGv_moves ..) (by decide)
            · exact moves_refl _ _

theorem Chip.regRead_moves (r : Reader) (a : Nat) (c : Chip) : Moves [.tb, .grp, .le, .gauge, .eva, .latch] c (Chip.regRead r a c).2.2 := by
  unfold Chip.regRead
  split
  · exact moves_refl _ _
  · split
    · exact moves_refl _ _
    · refine moves_then ?_ (Chip.rearmed_moves ..) (by decide)
      refine moves_set_latch ?_ (by decide)
      exact moves_refl _ _

theorem Chip.readBy_moves (r : Reader) (a : Nat) (c : Chip) : Moves [.tb, .grp, .le, .gauge, .eva, .latch] c (Chip.readBy r a c) := by
  unfold Chip.readBy
  exact moves_ite (fun _ => Chip.regRead_moves ..) (fun _ => moves_refl _ _)

end Sys2Proof.Machine
end

