-- ==== Sys2Proof/Laws/FrameHostWrite.lean ====
section
/-!
SUPPORT. What the operations of Machine/HostWrite.lean leave alone: for each, the parts of the device that it may change.
-/

-- one theorem after another: the checks of a large package would else hold too many threads at once
set_option Elab.async false

namespace Sys2Proof.Machine
open Sys2Proof

theorem Chip.readWords_moves (a n : Nat) (ws : List Word) (c : Chip) : Moves [.tb, .grp, .le, .gauge, .eva, .latch] c (Chip.readWords a n ws c).2.2 := by
  induction n generalizing a ws c with
  | zero => exact moves_refl _ _
  | succ n ih =>
    unfold Chip.readWords
    have h := Chip.regRead_moves .host a c
    split
    · rename_i e; rw [e] at h; exact moves_trans h (ih ..)
    · rename_i e; rw [e] at h; exact h

theorem Chip.readReg_moves (a n : Nat) (h : HostCmd) (c : Chip) : Moves [.tb, .grp, .le, .gauge, .eva, .host, .latch] c (Chip.readReg a n h c) := by
  unfold Chip.readReg
  refine moves_ite (fun _ => moves_then (moves_refl _ _) (Chip.answer_moves ..) (by decide)) (fun _ => ?_)
  refine moves_ite (fun _ => moves_then (moves_refl _ _) (Chip.answer_moves ..) (by decide)) (fun _ => ?_)
  have k := Chip.readWords_moves a n [] c
  split
  rename_i e; rw [e] at k
  exact moves_then (moves_mono k (by decide)) (Chip.answer_moves ..) (by decide)

theorem Chip.answerWritten_moves (h : HostCmd) (a : Nat) (r : Result) (c : Chip) : Moves [.host] c (Chip.answerWritten h a r c) := by
  unfold Chip.answerWritten
  exact moves_then (moves_refl _ _) (Chip.answer_moves ..) (by decide)

theorem Chip.doneWritten_moves (h : HostCmd) (a : Nat) (r : Result) (c : Chip) : Moves [.eva, .trace, .obs, .mbx, .dom, .host, .draws] c (Chip.doneWritten h a r c) := by
  unfold Chip.doneWritten
  exact moves_then (moves_refl _ _) (Chip.done_moves ..) (by decide)

theorem Chip.leaveSweep_moves (g : Group) (c : Chip) : Moves [.sys, .tb, .ph, .grp, .le, .setpt, .cap, .sweep, .sett, .guards, .eva, .trace, .obs, .mbx, .dom, .nv, .cal, .log, .host, .draws] c (Chip.leaveSweep g c) := by
  unfold Chip.leaveSweep
  refine moves_ite (fun _ => ?_) (fun _ => ?_)
  · exact moves_refl _ _
  · refine moves_ite (fun _ => ?_) (fun _ => ?_)
    · extract_lets +onlyGivenNames x
      refine moves_cut x ?_ (fun _ => ?_)
      · unfold x
        exact moves_then (moves_refl _ _) (Chip.abortSweep_moves ..) (by decide)
      try clear_value x
      refine moves_ite (fun _ => ?_) (fun _ => ?_)
      · exact moves_then (by assumption) (Chip.changeMode_moves ..) (by decide)
      · assumption
    · refine moves_then ?_ (Chip.abortSweepGrant_moves ..) (by decide)
      exact moves_set_sweep (moves_refl _ _) (by decide)

theorem Chip.runSelNow_moves (g : Group) (c : Chip) : Moves [.sys, .tb, .ph, .grp, .le, .setpt, .sweep, .sett, .guards, .eva, .trace, .obs, .nv, .cal, .log, .host, .draws] c (Chip.runSelNow g c) := by
  unfold Chip.runSelNow
  extract_lets +onlyGivenNames x
  clear_value x
  refine moves_ite (fun _ => ?_) (fun _ => ?_)
  · exact moves_refl _ _
  · refine moves_ite (fun _ => ?_) (fun _ => ?_)
    · exact moves_then (moves_refl _ _) (Chip.changeMode_moves ..) (by decide)
    · refine moves_ite (fun _ => ?_) (fun _ => ?_)
      · exact moves_then (moves_refl _ _) (Chip.present_moves ..) (by decide)
      · exact moves_refl _ _

theorem Chip.disableGroup_moves (h : HostCmd) (g : Group) (c : Chip) : Moves [.tb, .ph, .grp, .le, .setpt, .sett, .eva, .trace, .obs, .mbx, .dom, .log, .host, .draws] c (Chip.disableGroup h g c) := by
  unfold Chip.disableGroup
  extract_lets +onlyGivenNames x
  clear_value x
  refine moves_ite (fun _ => ?_) (fun _ => ?_)
  · exact moves_then (moves_refl _ _) (Chip.doneWritten_moves ..) (by decide)
  · refine moves_ite (fun _ => ?_) (fun _ => ?_)
    · exact moves_set_host (moves_refl _ _) (by decide)
    · refine moves_ite (fun _ => ?_) (fun _ => ?_)
      · refine moves_then ?_ (Chip.doneWritten_moves ..) (by decide)
        exact moves_then (moves_refl _ _) (Chip.beginStop_moves ..) (by decide)
      · exact moves_then (moves_refl _ _) (Chip.doneWritten_moves ..) (by decide)

theorem Chip.writeReq_moves (g : Group) (value mask : Word) (h : HostCmd) (c : Chip) : Moves [.sys, .tb, .ph, .grp, .le, .setpt, .cap, .sweep, .sett, .guards, .eva, .trace, .obs, .mbx, .dom, .nv, .cal, .log, .host, .draws] c (Chip.writeReq g value mask h c) := by
  unfold Chip.writeReq
  refine moves_ite (fun _ => ?_) (fun _ => ?_)
  · exact moves_then (moves_refl _ _) (Chip.doneWritten_moves ..) (by decide)
  · refine moves_ite (fun _ => ?_) (fun _ => ?_)
    · exact moves_then (moves_refl _ _) (Chip.doneWritten_moves ..) (by decide)
    · extract_lets +onlyGivenNames x
      refine moves_cut x ?_ (fun _ => ?_)
      · unfold x
        exact moves_then (moves_refl _ _) (Chip.leaveSweep_moves ..) (by decide)
      try clear_value x
      extract_lets +onlyGivenNames x
      clear_value x
      extract_lets +onlyGivenNames x
      refine moves_cut x ?_ (fun _ => ?_)
      · unfold x
        exact moves_then (by assumption) (Chip.modGrp_moves ..) (by decide)
      try clear_value x
      extract_lets +onlyGivenNames x
      refine moves_cut x ?_ (fun _ => ?_)
      · unfold x
        refine moves_ite (fun _ => ?_) (fun _ => ?_)
        · exact moves_then (by assumption) (Chip.runSelNow_moves ..) (by decide)
        · assumption
      try clear_value x
      refine moves_ite (fun _ => ?_) (fun _ => ?_)
      · exact moves_then (by assumption) (Chip.disableGroup_moves ..) (by decide)
      · refine moves_then ?_ (Chip.doneWritten_moves ..) (by decide)
        refine moves_ite (fun _ => ?_) (fun _ => ?_)
        · exact moves_then (by assumption) (Chip.tryStart_moves ..) (by decide)
        · assumption

theorem Chip.writeHsel_moves (g : Group) (value mask : Word) (h : HostCmd) (c : Chip) : Moves [.tb, .grp, .le, .setpt, .sweep, .sett, .eva, .trace, .obs, .mbx, .dom, .host, .draws] c (Chip.writeHsel g value mask h c) := by
  unfold Chip.writeHsel
  extract_lets +onlyGivenNames x
  clear_value x
  refine moves_ite (fun _ => ?_) (fun _ => ?_)
  · exact moves_then (moves_refl _ _) (Chip.doneWritten_moves ..) (by decide)
  · refine moves_ite (fun _ => ?_) (fun _ => ?_)
    · exact moves_then (moves_refl _ _) (Chip.doneWritten_moves ..) (by decide)
    · refine moves_ite (fun _ => ?_) (fun _ => ?_)
      · exact moves_then (moves_refl _ _) (Chip.doneWritten_moves ..) (by decide)
      · refine moves_ite (fun _ => ?_) (fun _ => ?_)
        · exact moves_then (moves_refl _ _) (Chip.doneWritten_moves ..) (by decide)
        · refine moves_then ?_ (Chip.doneWritten_moves ..) (by decide)
          refine moves_then ?_ (Chip.selection_moves ..) (by decide)
          refine moves_then ?_ (Chip.modGrp_moves ..) (by decide)
          refine moves_then ?_ (Chip.grant_moves ..) (by decide)
          exact moves_then (moves_refl _ _) (Chip.badgerFirst_moves ..) (by decide)

theorem Chip.writeModeReq_moves (value mask : Word) (h : HostCmd) (c : Chip) : Moves [.sys, .eva, .trace, .obs, .mbx, .dom, .host, .draws] c (Chip.writeModeReq value mask h c) := by
  unfold Chip.writeModeReq
  refine moves_ite (fun _ => ?_) (fun _ => ?_)
  · exact moves_then (moves_refl _ _) (Chip.doneWritten_moves ..) (by decide)
  · refine moves_then ?_ (Chip.doneWritten_moves ..) (by decide)
    refine moves_ite (fun _ => ?_) (fun _ => ?_)
    · exact moves_then (moves_refl _ _) (Chip.requestShdn_moves ..) (by decide)
    · exact moves_refl _ _

theorem Chip.writeGaugeCmd_moves (value mask : Word) (h : HostCmd) (c : Chip) : Moves [.host] c (Chip.writeGaugeCmd value mask h c) := by
  unfold Chip.writeGaugeCmd
  refine moves_ite (fun _ => ?_) (fun _ => ?_)
  · exact moves_then (moves_refl _ _) (Chip.answerWritten_moves ..) (by decide)
  · refine moves_ite (fun _ => ?_) (fun _ => ?_)
    · exact moves_then (moves_refl _ _) (Chip.answerWritten_moves ..) (by decide)
    · refine moves_ite (fun _ => ?_) (fun _ => ?_)
      · exact moves_then (moves_refl _ _) (Chip.answerWritten_moves ..) (by decide)
      · exact moves_refl _ _

theorem Chip.writeStatus_moves (b : Block) (value mask : Word) (h : HostCmd) (c : Chip) : Moves [.guards, .eva, .trace, .obs, .log, .host, .draws] c (Chip.writeStatus b value mask h c) := by
  unfold Chip.writeStatus
  extract_lets +onlyGivenNames x
  refine moves_cut x ?_ (fun _ => ?_)
  · unfold x
    refine moves_ite (fun _ => ?_) (fun _ => ?_)
    · refine moves_ite (fun _ => ?_) (fun _ => ?_)
      · refine moves_then ?_ (Chip.dropWarning_moves ..) (by decide)
        exact moves_then (moves_refl _ _) (Chip.grantAs_moves ..) (by decide)
      · exact moves_then (moves_refl _ _) (Chip.grant_moves ..) (by decide)
    · exact moves_refl _ _
  try clear_value x
  exact moves_then (by assumption) (Chip.answerWritten_moves ..) (by decide)

theorem Chip.writeRstCause_moves (value mask : Word) (h : HostCmd) (c : Chip) : Moves [.sys, .eva, .trace, .obs, .host, .draws] c (Chip.writeRstCause value mask h c) := by
  unfold Chip.writeRstCause
  extract_lets +onlyGivenNames x
  refine moves_cut x ?_ (fun _ => ?_)
  · unfold x
    exact moves_then (moves_refl _ _) (Chip.grant_moves ..) (by decide)
  try clear_value x
  extract_lets +onlyGivenNames x
  clear_value x
  extract_lets +onlyGivenNames x
  refine moves_cut x ?_ (fun _ => ?_)
  · unfold x
    refine moves_ite (fun _ => ?_) (fun _ => ?_)
    · exact moves_set_sys (by assumption) (by decide)
    · exact moves_refl _ _
  try clear_value x
  exact moves_then (by assumption) (Chip.answerWritten_moves ..) (by decide)

theorem Chip.writeFiCtl_moves (value mask : Word) (h : HostCmd) (c : Chip) : Moves [.sys, .tb, .ph, .grp, .le, .setpt, .sweep, .sett, .guards, .eva, .trace, .obs, .dom, .nv, .cal, .log, .host, .draws] c (Chip.writeFiCtl value mask h c) := by
  unfold Chip.writeFiCtl
  refine moves_ite (fun _ => ?_) (fun _ => ?_)
  · exact moves_then (moves_refl _ _) (Chip.answerWritten_moves ..) (by decide)
  · extract_lets +onlyGivenNames x
    clear_value x
    refine moves_ite (fun _ => ?_) (fun _ => ?_)
    · refine moves_then ?_ (Chip.answerWritten_moves ..) (by decide)
      exact moves_set_sys (moves_refl _ _) (by decide)
    · split
      refine moves_then ?_ (Chip.answerWritten_moves ..) (by decide)
      refine moves_fst (by assumption) ?_
      exact moves_then (moves_refl _ _) (Chip.inject_moves ..) (by decide)

theorem Chip.writeTo_moves (k : WriteTo) (value mask : Word) (h : HostCmd) (c : Chip) : Moves [.sys, .tb, .ph, .grp, .le, .setpt, .cap, .sweep, .sett, .guards, .eva, .trace, .obs, .mbx, .dom, .nv, .cal, .log, .host, .draws] c (Chip.writeTo k value mask h c) := by
  unfold Chip.writeTo
  split
  · exact moves_then (moves_refl _ _) (Chip.writeModeReq_moves ..) (by decide)
  · exact moves_then (moves_refl _ _) (Chip.writeRstCause_moves ..) (by decide)
  · exact moves_then (moves_refl _ _) (Chip.writeFiCtl_moves ..) (by decide)
  · exact moves_then (moves_refl _ _) (Chip.writeGaugeCmd_moves ..) (by decide)
  · exact moves_then (moves_refl _ _) (Chip.writeReq_moves ..) (by decide)
  · exact moves_then (moves_refl _ _) (Chip.writeHsel_moves ..) (by decide)
  · exact moves_then (moves_refl _ _) (Chip.writeStatus_moves ..) (by decide)

theorem Chip.writeReg_moves (a : Nat) (value mask : Word) (h : HostCmd) (c : Chip) : Moves [.sys, .tb, .ph, .grp, .le, .setpt, .cap, .sweep, .sett, .guards, .eva, .trace, .obs, .mbx, .dom, .nv, .cal, .log, .host, .draws] c (Chip.writeReg a value mask h c) := by
  unfold Chip.writeReg
  refine moves_ite (fun _ => ?_) (fun _ => ?_)
  · exact moves_then (moves_refl _ _) (Chip.answer_moves ..) (by decide)
  · split
    · exact moves_then (moves_refl _ _) (Chip.answerWritten_moves ..) (by decide)
    · refine moves_ite (fun _ => ?_) (fun _ => ?_)
      · exact moves_then (moves_refl _ _) (Chip.writeTo_moves ..) (by decide)
      · exact moves_then (moves_refl _ _) (Chip.answer_moves ..) (by decide)

theorem Chip.hostWrite_moves (h : HostRef) (a : Nat) (value mask : Word) (c : Chip) : Moves [.sys, .tb, .ph, .grp, .le, .setpt, .cap, .sweep, .sett, .guards, .eva, .trace, .obs, .mbx, .dom, .nv, .cal, .log, .host, .draws] c (Chip.hostWrite h a value mask c) := by
  unfold Chip.hostWrite
  refine moves_ite (fun _ => ?_) (fun _ => ?_)
  · refine Chip.badgerCommand_movesOf ?_ ?_ (by decide)
    · exact moves_refl _ _
    · intros
      exact moves_then (moves_refl _ _) (Chip.writeReg_moves ..) (by decide)
  · refine Chip.hostCommand_movesOf ?_ ?_ (by decide)
    · exact moves_refl _ _
    · intros
      exact moves_then (moves_refl _ _) (Chip.writeReg_moves ..) (by decide)

end Sys2Proof.Machine
end

