-- ==== Sys2Proof/Laws/FrameLcmd.lean ====
section
/-!
SUPPORT. What the operations of Machine/Lcmd.lean leave alone: for each, the parts of the device that it may change.
-/

-- one theorem after another: the checks of a large package would else hold too many threads at once
set_option Elab.async false

namespace Sys2Proof.Machine
open Sys2Proof

theorem Chip.hbLapse_moves (p : LcmdPort) (c : Chip) : Moves [.grp, .setpt, .lcmd, .sett, .guards, .eva, .trace, .obs, .nv, .log, .draws] c (Chip.hbLapse p c) := by
  unfold Chip.hbLapse
  refine moves_ite (fun _ => ?_) (fun _ => ?_)
  · extract_lets +onlyGivenNames x
    refine moves_cut x ?_ (fun _ => ?_)
    · unfold x
      refine moves_then ?_ (Chip.modLcmd_moves ..) (by decide)
      exact moves_then (moves_refl _ _) (Chip.grant_moves ..) (by decide)
    try clear_value x
    extract_lets +onlyGivenNames x
    refine moves_cut x ?_ (fun _ => ?_)
    · unfold x
      refine moves_foldl _ _ ?_ (fun _ _ => ?_)
      · assumption
      · exact moves_then (moves_refl _ _) (Chip.cancelPort_moves ..) (by decide)
    try clear_value x
    exact moves_then (by assumption) (Chip.warn_moves ..) (by decide)
  · exact moves_refl _ _

theorem Chip.hbAlive_moves (p : LcmdPort) (c : Chip) : Moves [.grp, .setpt, .lcmd, .sett, .guards, .eva, .trace, .obs, .nv, .log, .draws] c (Chip.hbAlive p c) := by
  unfold Chip.hbAlive
  refine moves_then ?_ (Chip.modLcmd_moves ..) (by decide)
  refine moves_then ?_ (Chip.grant_moves ..) (by decide)
  exact moves_then (moves_refl _ _) (Chip.hbLapse_moves ..) (by decide)

theorem Chip.lcmdFrame_moves (p : LcmdPort) (f : List Byte) (t : Nat) (c : Chip) : Moves [.tb, .grp, .setpt, .lcmd, .sett, .guards, .eva, .trace, .obs, .nv, .log, .draws] c (Chip.lcmdFrame p f t c) := by
  unfold Chip.lcmdFrame
  refine moves_ite (fun _ => ?_) (fun _ => ?_)
  · exact moves_refl _ _
  · extract_lets +onlyGivenNames x
    refine moves_cut x ?_ (fun _ => ?_)
    · unfold x
      exact moves_then (moves_refl _ _) (Chip.elapseTo_moves ..) (by decide)
    try clear_value x
    extract_lets +onlyGivenNames x
    clear_value x
    extract_lets +onlyGivenNames x
    clear_value x
    extract_lets +onlyGivenNames x
    refine moves_cut x ?_ (fun _ => ?_)
    · unfold x
      exact moves_then (by assumption) (Chip.modLcmd_moves ..) (by decide)
    try clear_value x
    extract_lets +onlyGivenNames x
    refine moves_cut x ?_ (fun _ => ?_)
    · unfold x
      refine moves_ite (fun _ => ?_) (fun _ => ?_)
      · exact moves_then (by assumption) (Chip.count_moves ..) (by decide)
      · assumption
    try clear_value x
    refine moves_ite (fun _ => ?_) (fun _ => ?_)
    · exact moves_then (by assumption) (Chip.hbAlive_moves ..) (by decide)
    · assumption

theorem Chip.lcmdAbandon_moves (p : LcmdPort) (gap : Bool) (c : Chip) : Moves [.lcmd] c (Chip.lcmdAbandon p gap c) := by
  unfold Chip.lcmdAbandon
  refine moves_ite (fun _ => ?_) (fun _ => ?_)
  · exact moves_refl _ _
  · exact moves_then (moves_refl _ _) (Chip.modLcmd_moves ..) (by decide)

theorem Chip.heartbeatTimeout_moves (p : LcmdPort) (c : Chip) : Moves [.lcmd] c (Chip.heartbeatTimeout p c) := by
  unfold Chip.heartbeatTimeout
  extract_lets +onlyGivenNames x
  clear_value x
  refine moves_ite (fun _ => ?_) (fun _ => ?_)
  · exact moves_then (moves_refl _ _) (Chip.modLcmd_moves ..) (by decide)
  · exact moves_refl _ _

theorem Chip.takeFrame_moves (p : LcmdPort) (f : LcmdFrame) (c : Chip) : Moves [.sys, .tb, .ph, .grp, .le, .setpt, .lcmd, .sweep, .sett, .guards, .eva, .trace, .obs, .nv, .cal, .log, .host, .draws] c (Chip.takeFrame p f c) := by
  unfold Chip.takeFrame
  extract_lets +onlyGivenNames x
  clear_value x
  extract_lets +onlyGivenNames x
  extract_lets +onlyGivenNames x
  clear_value x
  refine moves_ite (fun _ => ?_) (fun _ => ?_)
  · exact moves_refl _ _
  · refine moves_ite (fun _ => ?_) (fun _ => ?_)
    · exact moves_then (moves_refl _ _) (Chip.modLcmd_moves ..) (by decide)
    · refine moves_ite (fun _ => ?_) (fun _ => ?_)
      · exact moves_then (moves_refl _ _) (Chip.modLcmd_moves ..) (by decide)
      · refine moves_ite (fun _ => ?_) (fun _ => ?_)
        · extract_lets +onlyGivenNames x
          clear_value x
          refine moves_ite (fun _ => ?_) (fun _ => ?_)
          · exact moves_then (moves_refl _ _) (Chip.modLcmd_moves ..) (by decide)
          · extract_lets +onlyGivenNames x
            unfold x
            refine moves_ite (fun _ => ?_) (fun _ => ?_)
            · exact moves_then (moves_refl _ _) (Chip.selection_moves ..) (by decide)
            · refine moves_then ?_ (Chip.modLcmd_moves ..) (by decide)
              exact moves_then (moves_refl _ _) (Chip.selection_moves ..) (by decide)
        · refine moves_ite (fun _ => ?_) (fun _ => ?_)
          · exact moves_then (moves_refl _ _) (Chip.modLcmd_moves ..) (by decide)
          · refine moves_ite (fun _ => ?_) (fun _ => ?_)
            · exact moves_then (moves_refl _ _) (Chip.sendFlit_moves ..) (by decide)
            · exact moves_then (moves_refl _ _) (Chip.actForecast_moves ..) (by decide)

theorem Chip.lcmdRx_moves (p : LcmdPort) (c : Chip) : Moves [.sys, .tb, .ph, .grp, .le, .setpt, .lcmd, .sweep, .sett, .guards, .eva, .trace, .obs, .nv, .cal, .log, .host, .draws] c (Chip.lcmdRx p c) := by
  unfold Chip.lcmdRx
  split
  · exact moves_refl _ _
  · refine moves_then ?_ (Chip.takeFrame_moves ..) (by decide)
    refine moves_then ?_ (Chip.modLcmd_moves ..) (by decide)
    refine moves_then ?_ (Chip.grant_moves ..) (by decide)
    exact moves_then (moves_refl _ _) (Chip.hbLapse_moves ..) (by decide)

end Sys2Proof.Machine
end

