-- ==== Sys2Proof/Laws/FrameShutdown.lean ====
section
/-!
SUPPORT. What the operations of Machine/Shutdown.lean leave alone: for each, the parts of the device that it may change.
-/

-- one theorem after another: the checks of a large package would else hold too many threads at once
set_option Elab.async false

namespace Sys2Proof.Machine
open Sys2Proof

theorem Chip.gaugeStored_moves (k : NvKind) (c : Chip) : Moves [.sys, .nv, .cal, .log] c (Chip.gaugeStored k c) := by
  unfold Chip.gaugeStored
  split
  · refine moves_ite (fun _ => ?_) (fun _ => ?_)
    · exact moves_then (moves_refl _ _) (Chip.enterCommits_moves ..) (by decide)
    · exact moves_refl _ _
  · exact moves_refl _ _
  · exact moves_refl _ _
  · exact moves_refl _ _
  · exact moves_refl _ _
  · exact moves_refl _ _
  · exact moves_refl _ _
  · exact moves_refl _ _

theorem Chip.shdnOnHold_moves (c : Chip) : Moves [.sys, .ph, .grp, .obs, .nv, .cal, .log] c (Chip.shdnOnHold c) := by
  unfold Chip.shdnOnHold
  extract_lets +onlyGivenNames x
  refine moves_cut x ?_ (fun _ => ?_)
  · unfold x
    exact moves_then (moves_refl _ _) (Chip.stopAll_moves ..) (by decide)
  try clear_value x
  extract_lets +onlyGivenNames x
  clear_value x
  extract_lets +onlyGivenNames x
  clear_value x
  extract_lets +onlyGivenNames x
  refine moves_cut x ?_ (fun _ => ?_)
  · unfold x
    exact moves_mk (.inr (by decide)) (.inl rfl) (.inl rfl) (.inl rfl) (.inr (by decide)) (.inl rfl) (.inl rfl) (.inl rfl) (.inl rfl) (.inl rfl) (.inl rfl) (.inl rfl) (.inl rfl) (.inl rfl) (.inl rfl) (.inl rfl) (.inl rfl) (.inl rfl) (.inl rfl) (.inl rfl) (.inl rfl) (.inr (by decide)) (.inl rfl) (.inl rfl) (.inl rfl) (.inl rfl) (.inl rfl) (by assumption)
  try clear_value x
  exact moves_then (by assumption) (Chip.shdnAdvance_moves ..) (by decide)

theorem Chip.shdnGroup_moves (was : Mode) (g : Group) (c : Chip) : Moves [.ph, .grp, .setpt, .obs] c (Chip.shdnGroup was g c) := by
  unfold Chip.shdnGroup
  refine moves_ite (fun _ => ?_) (fun _ => ?_)
  · exact moves_refl _ _
  · refine moves_ite (fun _ => ?_) (fun _ => ?_)
    · exact moves_then (moves_refl _ _) (Chip.stopGroup_moves ..) (by decide)
    · exact moves_then (moves_refl _ _) (Chip.rampDown_moves ..) (by decide)

theorem Chip.shdnBegin_moves (k : ShdnCause) (c : Chip) : Moves [.sys, .tb, .ph, .grp, .le, .setpt, .sweep, .sett, .eva, .trace, .obs, .nv, .cal, .log, .host, .draws] c (Chip.shdnBegin k c) := by
  unfold Chip.shdnBegin
  refine moves_ite (fun _ => ?_) (fun _ => ?_)
  · extract_lets +onlyGivenNames x
    refine moves_cut x ?_ (fun _ => ?_)
    · unfold x
      refine moves_ite (fun _ => ?_) (fun _ => ?_)
      · exact moves_then (moves_refl _ _) (Chip.badgerFirst_moves ..) (by decide)
      · exact moves_refl _ _
    try clear_value x
    extract_lets +onlyGivenNames x
    refine moves_cut x ?_ (fun _ => ?_)
    · unfold x
      exact moves_then (by assumption) (Chip.grant_moves ..) (by decide)
    try clear_value x
    extract_lets +onlyGivenNames x
    refine moves_cut x ?_ (fun _ => ?_)
    · unfold x
      refine moves_then ?_ (Chip.dropUser_moves ..) (by decide)
      exact moves_then (by assumption) (Chip.abortSweep_moves ..) (by decide)
    try clear_value x
    extract_lets +onlyGivenNames x
    clear_value x
    extract_lets +onlyGivenNames x
    refine moves_cut x ?_ (fun _ => ?_)
    · unfold x
      refine moves_then ?_ (Chip.bump_moves ..) (by decide)
      exact moves_then (by assumption) (Chip.enterDevice_moves ..) (by decide)
    try clear_value x
    extract_lets +onlyGivenNames x
    clear_value x
    extract_lets +onlyGivenNames x
    refine moves_cut x ?_ (fun _ => ?_)
    · unfold x
      exact moves_set_sys (by assumption) (by decide)
    try clear_value x
    refine moves_ite (fun _ => ?_) (fun _ => ?_)
    · exact moves_then (by assumption) (Chip.shdnOnHold_moves ..) (by decide)
    · refine moves_then ?_ (Chip.shdnAdvance_moves ..) (by decide)
      refine moves_foldl _ _ ?_ (fun _ _ => ?_)
      · assumption
      · exact moves_then (moves_refl _ _) (Chip.shdnGroup_moves ..) (by decide)
  · exact moves_refl _ _

end Sys2Proof.Machine
end

