-- ==== Sys2Proof/Laws/FrameMessages.lean ====
section
/-!
SUPPORT. What the operations of Machine/Messages.lean leave alone: for each, the parts of the device that it may change.
-/

-- one theorem after another: the checks of a large package would else hold too many threads at once
set_option Elab.async false

namespace Sys2Proof.Machine
open Sys2Proof

theorem Chip.message_movesOf {m : Mailbox} {ws : List Word} {act : Chip → Chip} {T : List Part} {c e : Chip} (a : Moves T c e)
    (k : ∀ d, Moves T d (act d)) (sub : ∀ p ∈ [.eva, .trace, .obs, .mbx, .dom, .draws], p ∈ T) : Moves T c (Chip.message m ws act e) := by
  unfold Chip.message
  refine moves_ite (fun _ => ?_) (fun _ => a)
  exact moves_trans (moves_then a (Chip.pass_moves ..) sub) (k _)

theorem Chip.gaugeTaken_moves (m : GaugeMsg) (c : Chip) : Moves [.gauge] c (Chip.gaugeTaken m c) := by
  unfold Chip.gaugeTaken
  exact moves_then (moves_refl _ _) (Chip.onGauge_moves ..) (by decide)

theorem Chip.chgLimits_moves (iLim vLim : Nat) (c : Chip) : Moves [.setpt, .gauge, .draws] c (Chip.chgLimits iLim vLim c) := by
  unfold Chip.chgLimits
  refine moves_ite (fun _ => ?_) (fun _ => ?_)
  · split
    · extract_lets +onlyGivenNames x
      refine moves_cut x ?_ (fun _ => ?_)
      · unfold x
        refine moves_then ?_ (Chip.onGauge_moves ..) (by decide)
        exact moves_then (moves_refl _ _) (Chip.gaugeTaken_moves ..) (by decide)
      try clear_value x
      exact moves_then (by assumption) (Chip.chargeSwap_moves ..) (by decide)
    · exact moves_refl _ _
  · exact moves_refl _ _

theorem Chip.chargeLimitTimeout_moves (c : Chip) : Moves [.setpt, .gauge] c (Chip.chargeLimitTimeout c) := by
  unfold Chip.chargeLimitTimeout
  split
  · extract_lets +onlyGivenNames x
    clear_value x
    refine moves_ite (fun _ => ?_) (fun _ => ?_)
    · refine moves_then ?_ (Chip.present_moves ..) (by decide)
      exact moves_then (moves_refl _ _) (Chip.onGauge_moves ..) (by decide)
    · exact moves_refl _ _
  · exact moves_refl _ _

theorem Chip.gaugeInput_moves (lost : Bool) (c : Chip) : Moves [.gauge] c (Chip.gaugeInput lost c) := by
  unfold Chip.gaugeInput
  refine moves_ite (fun _ => ?_) (fun _ => ?_)
  · refine moves_then ?_ (Chip.onGauge_moves ..) (by decide)
    exact moves_then (moves_refl _ _) (Chip.gaugeTaken_moves ..) (by decide)
  · exact moves_refl _ _

theorem Chip.answerSaves_moves (r : Result) (which : Nat × Option Nat → Bool) (c : Chip) : Moves [.gauge, .host] c (Chip.answerSaves r which c) := by
  unfold Chip.answerSaves
  extract_lets +onlyGivenNames x
  clear_value x
  extract_lets +onlyGivenNames x
  refine moves_cut x ?_ (fun _ => ?_)
  · unfold x
    refine moves_foldl _ _ ?_ (fun _ _ => ?_)
    · exact moves_refl _ _
    · split
      · exact moves_then (moves_refl _ _) (Chip.answer_moves ..) (by decide)
      · exact moves_refl _ _
  try clear_value x
  exact moves_then (by assumption) (Chip.onGauge_moves ..) (by decide)

theorem Chip.groupState_moves (g : Group) (m : Mode) (dir : Nat) (c : Chip) : Moves [.gauge, .guards, .eva, .trace, .obs, .nv, .log, .draws] c (Chip.groupState g m dir c) := by
  unfold Chip.groupState
  refine moves_ite (fun _ => ?_) (fun _ => ?_)
  · extract_lets +onlyGivenNames x
    refine moves_cut x ?_ (fun _ => ?_)
    · unfold x
      exact moves_then (moves_refl _ _) (Chip.onGauge_moves ..) (by decide)
    try clear_value x
    refine moves_ite (fun _ => ?_) (fun _ => ?_)
    · exact moves_then (by assumption) (Chip.sendLimits_moves ..) (by decide)
    · assumption
  · exact moves_refl _ _

theorem Chip.shdnMessage_moves (c : Chip) : Moves [.gauge] c (Chip.shdnMessage c) := by
  unfold Chip.shdnMessage
  refine moves_ite (fun _ => ?_) (fun _ => ?_)
  · exact moves_then (moves_refl _ _) (Chip.shutdownRecord_moves ..) (by decide)
  · exact moves_refl _ _

theorem Chip.gaugeSave_moves (tag : Nat) (c : Chip) : Moves [.gauge, .host] c (Chip.gaugeSave tag c) := by
  unfold Chip.gaugeSave
  refine moves_ite (fun _ => ?_) (fun _ => ?_)
  · extract_lets +onlyGivenNames x
    refine moves_cut x ?_ (fun _ => ?_)
    · unfold x
      refine moves_then ?_ (Chip.occasion_moves ..) (by decide)
      exact moves_then (moves_refl _ _) (Chip.onGauge_moves ..) (by decide)
    try clear_value x
    refine moves_ite (fun _ => ?_) (fun _ => ?_)
    · exact moves_then (by assumption) (Chip.answerSaves_moves ..) (by decide)
    · assumption
  · exact moves_refl _ _

theorem Chip.calMessage_moves (set : Bool) (secs : Nat) (c : Chip) : Moves [.gauge] c (Chip.calMessage set secs c) := by
  unfold Chip.calMessage
  refine moves_ite (fun _ => ?_) (fun _ => ?_)
  · exact moves_then (moves_refl _ _) (Chip.onGauge_moves ..) (by decide)
  · exact moves_refl _ _

theorem Chip.nvStateMessage_moves (writable readOnly : Bool) (c : Chip) : Moves [.gauge, .guards, .eva, .trace, .obs, .nv, .log, .draws] c (Chip.nvStateMessage writable readOnly c) := by
  unfold Chip.nvStateMessage
  refine moves_ite (fun _ => ?_) (fun _ => ?_)
  · refine moves_then ?_ (Chip.occasionWaiting_moves ..) (by decide)
    refine moves_then ?_ (Chip.staleCheck_moves ..) (by decide)
    exact moves_then (moves_refl _ _) (Chip.onGauge_moves ..) (by decide)
  · exact moves_refl _ _

theorem Chip.gaugeRecord_moves (r : List Byte) (c : Chip) : Moves [.gauge, .guards, .eva, .trace, .obs, .nv, .log, .draws] c (Chip.gaugeRecord r c) := by
  unfold Chip.gaugeRecord
  refine moves_ite (fun _ => ?_) (fun _ => ?_)
  · extract_lets +onlyGivenNames x
    refine moves_cut x ?_ (fun _ => ?_)
    · unfold x
      exact moves_then (moves_refl _ _) (Chip.onGauge_moves ..) (by decide)
    try clear_value x
    refine moves_ite (fun _ => ?_) (fun _ => ?_)
    · exact moves_then (by assumption) (Chip.gaugeStart_moves ..) (by decide)
    · refine moves_then ?_ (Chip.gaugeWarn_moves ..) (by decide)
      exact moves_then (by assumption) (Chip.onGauge_moves ..) (by decide)
  · exact moves_refl _ _

theorem Chip.recordMessage_moves (r : List Byte) (c : Chip) : Moves [.sys, .gauge, .nv, .cal, .log, .host] c (Chip.recordMessage r c) := by
  unfold Chip.recordMessage
  refine moves_ite (fun _ => ?_) (fun _ => ?_)
  · extract_lets +onlyGivenNames x
    refine moves_cut x ?_ (fun _ => ?_)
    · unfold x
      exact moves_then (moves_refl _ _) (Chip.gaugeTaken_moves ..) (by decide)
    try clear_value x
    extract_lets +onlyGivenNames x
    clear_value x
    refine moves_ite (fun _ => ?_) (fun _ => ?_)
    · refine moves_then ?_ (Chip.shdnAdvance_moves ..) (by decide)
      refine moves_then ?_ (Chip.gaugeStored_moves ..) (by decide)
      exact moves_then (by assumption) (Chip.answerSaves_moves ..) (by decide)
    · extract_lets +onlyGivenNames x
      clear_value x
      extract_lets +onlyGivenNames x
      refine moves_cut x ?_ (fun _ => ?_)
      · unfold x
        refine moves_ite (fun _ => ?_) (fun _ => ?_)
        · exact moves_set_nv (by assumption) (by decide)
        · exact moves_then (by assumption) (Chip.nvQueue_moves ..) (by decide)
      try clear_value x
      exact moves_then (by assumption) (Chip.answerSaves_moves ..) (by decide)
  · exact moves_refl _ _

theorem Chip.logMessage_moves (code unit : Nat) (c : Chip) : Moves [.log] c (Chip.logMessage code unit c) := by
  unfold Chip.logMessage
  refine moves_ite (fun _ => ?_) (fun _ => ?_)
  · exact moves_then (moves_refl _ _) (Chip.addLog_moves ..) (by decide)
  · exact moves_refl _ _

theorem Chip.ahMessage_moves (n : Nat) (c : Chip) : Moves [.gauge, .nv] c (Chip.ahMessage n c) := by
  unfold Chip.ahMessage
  refine moves_ite (fun _ => ?_) (fun _ => ?_)
  · refine moves_then ?_ (Chip.bump_moves ..) (by decide)
    exact moves_then (moves_refl _ _) (Chip.gaugeTaken_moves ..) (by decide)
  · exact moves_refl _ _

theorem Chip.recordReq_moves (c : Chip) : Moves [.gauge] c (Chip.recordReq c) := by
  unfold Chip.recordReq
  refine moves_ite (fun _ => ?_) (fun _ => ?_)
  · extract_lets +onlyGivenNames x
    clear_value x
    refine moves_then ?_ (Chip.onGauge_moves ..) (by decide)
    exact moves_then (moves_refl _ _) (Chip.gaugeTaken_moves ..) (by decide)
  · exact moves_refl _ _

theorem Chip.doneMessage_moves (tag result : Nat) (c : Chip) : Moves [.host] c (Chip.doneMessage tag result c) := by
  unfold Chip.doneMessage
  split
  · refine moves_ite (fun _ => ?_) (fun _ => ?_)
    · exact moves_then (moves_refl _ _) (Chip.answer_moves ..) (by decide)
    · exact moves_refl _ _
  · exact moves_refl _ _

theorem Chip.modeMessage_moves (t : Target) (m : Mode) (k : Cause) (c : Chip) : Moves [.log] c (Chip.modeMessage t m k c) := by
  unfold Chip.modeMessage
  extract_lets +onlyGivenNames x
  clear_value x
  extract_lets +onlyGivenNames x
  clear_value x
  refine moves_ite (fun _ => ?_) (fun _ => ?_)
  · exact moves_then (moves_refl _ _) (Chip.addLog_moves ..) (by decide)
  · exact moves_refl _ _

theorem Chip.faultMessage_moves (b : Block) (code unit : Nat) (c : Chip) : Moves [.log] c (Chip.faultMessage b code unit c) := by
  unfold Chip.faultMessage
  extract_lets +onlyGivenNames x
  clear_value x
  refine moves_ite (fun _ => ?_) (fun _ => ?_)
  · exact moves_then (moves_refl _ _) (Chip.addLog_moves ..) (by decide)
  · exact moves_refl _ _

theorem Chip.countMessage_moves (n : Nat) (k : Counter) (c : Chip) : Moves [.nv] c (Chip.countMessage n k c) := by
  unfold Chip.countMessage
  refine moves_ite (fun _ => ?_) (fun _ => ?_)
  · exact moves_then (moves_refl _ _) (Chip.bump_moves ..) (by decide)
  · exact moves_refl _ _

theorem Chip.sweepEndMessage_moves (tag cause : Nat) (c : Chip) : Moves [.sweep, .host] c (Chip.sweepEndMessage tag cause c) := by
  unfold Chip.sweepEndMessage
  split
  · refine moves_ite (fun _ => ?_) (fun _ => ?_)
    · split
      extract_lets +onlyGivenNames x
      clear_value x
      extract_lets +onlyGivenNames x
      clear_value x
      extract_lets +onlyGivenNames x
      refine moves_cut x ?_ (fun _ => ?_)
      · unfold x
        exact moves_set_sweep (moves_refl _ _) (by decide)
      try clear_value x
      refine moves_foldl _ _ ?_ (fun _ _ => ?_)
      · assumption
      · refine moves_ite (fun _ => ?_) (fun _ => ?_)
        · exact moves_then (moves_refl _ _) (Chip.unsolicited_moves ..) (by decide)
        · exact moves_refl _ _
    · exact moves_refl _ _
  · exact moves_refl _ _

end Sys2Proof.Machine
end

