-- ==== Sys2Proof/Laws/FrameNv.lean ====
section
/-!
SUPPORT. What the operations of Machine/Nv.lean leave alone: for each, the parts of the device that it may change.
-/

-- one theorem after another: the checks of a large package would else hold too many threads at once
set_option Elab.async false

namespace Sys2Proof.Machine
open Sys2Proof

theorem Chip.nvSkip_moves (k : NvKind) (ks : List NvKind) (c : Chip) : Moves [.sys, .nv, .cal, .log] c (Chip.nvSkip k ks c) := by
  unfold Chip.nvSkip
  extract_lets +onlyGivenNames x
  clear_value x
  extract_lets +onlyGivenNames x
  clear_value x
  extract_lets +onlyGivenNames x
  refine moves_cut x ?_ (fun _ => ?_)
  · unfold x
    exact moves_mk (.inr (by decide)) (.inl rfl) (.inl rfl) (.inl rfl) (.inl rfl) (.inl rfl) (.inl rfl) (.inl rfl) (.inl rfl) (.inl rfl) (.inl rfl) (.inl rfl) (.inl rfl) (.inl rfl) (.inl rfl) (.inl rfl) (.inl rfl) (.inl rfl) (.inl rfl) (.inl rfl) (.inl rfl) (.inr (by decide)) (.inl rfl) (.inl rfl) (.inl rfl) (.inl rfl) (.inl rfl) (moves_refl _ _)
  try clear_value x
  refine moves_then ?_ (Chip.shdnAdvance_moves ..) (by decide)
  exact moves_then (by assumption) (Chip.gaugeStored_moves ..) (by decide)

theorem Chip.nvOpStart_moves (c : Chip) : Moves [.sys, .obs, .nv, .cal, .log] c (Chip.nvOpStart c) := by
  unfold Chip.nvOpStart
  refine moves_ite (fun _ => ?_) (fun _ => ?_)
  · exact moves_refl _ _
  · extract_lets +onlyGivenNames x
    clear_value x
    extract_lets +onlyGivenNames x
    clear_value x
    extract_lets +onlyGivenNames x
    refine moves_cut x ?_ (fun _ => ?_)
    · unfold x
      refine moves_ite (fun _ => ?_) (fun _ => ?_)
      · exact moves_set_nv (moves_refl _ _) (by decide)
      · exact moves_refl _ _
    try clear_value x
    extract_lets +onlyGivenNames x
    refine moves_cut x ?_ (fun _ => ?_)
    · unfold x
      exact moves_set_nv (by assumption) (by decide)
    try clear_value x
    split
    · exact moves_then (by assumption) (Chip.shdnAdvance_moves ..) (by decide)
    · refine moves_ite (fun _ => ?_) (fun _ => ?_)
      · split
        · refine moves_then ?_ (Chip.nvBegin_moves (by assumption)) (by decide)
          exact moves_set_nv (by assumption) (by decide)
        · refine moves_ite (fun _ => ?_) (fun _ => ?_)
          · exact moves_then (by assumption) (Chip.nvSkip_moves ..) (by decide)
          · assumption
      · refine moves_ite (fun _ => ?_) (fun _ => ?_)
        · exact moves_then (by assumption) (Chip.nvSkip_moves ..) (by decide)
        · assumption

theorem Chip.afterOp_moves (c : Chip) : Moves [.sys, .code, .tb, .ph, .grp, .le, .setpt, .lcmd, .refs, .aux, .snap, .cap, .sweep, .sett, .gauge, .guards, .eva, .trace, .obs, .mbx, .dom, .nv, .cal, .log, .host, .latch, .draws] c (Chip.afterOp c) := by
  unfold Chip.afterOp
  refine moves_ite (fun _ => ?_) (fun _ => ?_)
  · exact moves_refl _ _
  · refine moves_ite (fun _ => ?_) (fun _ => ?_)
    · exact moves_then (moves_refl _ _) (Chip.toOff_moves ..) (by decide)
    · refine moves_ite (fun _ => ?_) (fun _ => ?_)
      · extract_lets +onlyGivenNames x
        refine moves_cut x ?_ (fun _ => ?_)
        · unfold x
          exact moves_then (moves_refl _ _) (Chip.modDom_moves ..) (by decide)
        try clear_value x
        split
        · refine moves_then ?_ (Chip.startBoot_moves ..) (by decide)
          exact moves_set_sys (by assumption) (by decide)
        · assumption
      · exact moves_refl _ _

theorem Chip.nvOpEnd_moves (cells : NvCells) (c : Chip) : Moves [.sys, .code, .tb, .ph, .grp, .le, .setpt, .lcmd, .refs, .aux, .snap, .cap, .sweep, .sett, .gauge, .guards, .eva, .trace, .obs, .mbx, .dom, .nv, .cal, .log, .host, .latch, .draws] c (Chip.nvOpEnd cells c) := by
  unfold Chip.nvOpEnd
  split
  · exact moves_refl _ _
  · extract_lets +onlyGivenNames x
    refine moves_cut x ?_ (fun _ => ?_)
    · unfold x
      exact moves_then (moves_refl _ _) (Chip.nvEnd_moves ..) (by decide)
    try clear_value x
    refine moves_ite (fun _ => ?_) (fun _ => ?_)
    · exact moves_refl _ _
    · extract_lets +onlyGivenNames x
      refine moves_cut x ?_ (fun _ => ?_)
      · unfold x
        refine moves_ite (fun _ => ?_) (fun _ => ?_)
        · exact moves_then (by assumption) (Chip.gaugeStored_moves ..) (by decide)
        · assumption
      try clear_value x
      refine moves_then ?_ (Chip.shdnAdvance_moves ..) (by decide)
      refine moves_then ?_ (Chip.afterOp_moves ..) (by decide)
      exact moves_then (by assumption) (Chip.answerReads_moves ..) (by decide)

theorem Chip.nvComplete_moves (c : Chip) : Moves [.gauge, .eva, .trace, .obs, .nv, .draws] c (Chip.nvComplete c) := by
  unfold Chip.nvComplete
  split
  · exact moves_refl _ _
  · refine moves_ite (fun _ => ?_) (fun _ => ?_)
    · exact moves_refl _ _
    · split
      · extract_lets +onlyGivenNames x
        clear_value x
        extract_lets +onlyGivenNames x
        refine moves_cut x ?_ (fun _ => ?_)
        · unfold x
          exact moves_then (moves_refl _ _) (Chip.grant_moves ..) (by decide)
        try clear_value x
        extract_lets +onlyGivenNames x
        clear_value x
        extract_lets +onlyGivenNames x
        refine moves_cut x ?_ (fun _ => ?_)
        · unfold x
          exact moves_set_nv (by assumption) (by decide)
        try clear_value x
        refine moves_ite (fun _ => ?_) (fun _ => ?_)
        · exact moves_set_gauge (by assumption) (by decide)
        · assumption
      · extract_lets +onlyGivenNames x
        refine moves_cut x ?_ (fun _ => ?_)
        · unfold x
          exact moves_then (moves_refl _ _) (Chip.grant_moves ..) (by decide)
        try clear_value x
        exact moves_set_nv (by assumption) (by decide)
      · exact moves_refl _ _
      · exact moves_refl _ _
      · exact moves_refl _ _
      · exact moves_refl _ _
      · exact moves_refl _ _
      · exact moves_refl _ _

theorem Chip.nvReclaim_moves (c : Chip) : Moves [.nv] c (Chip.nvReclaim c) := by
  unfold Chip.nvReclaim
  refine moves_ite (fun _ => ?_) (fun _ => ?_)
  · exact moves_refl _ _
  · split
    · refine moves_then ?_ (Chip.nvFirst_moves ..) (by decide)
      exact moves_set_nv (moves_refl _ _) (by decide)
    · exact moves_refl _ _

theorem Chip.journalSwitch_moves (c : Chip) : Moves [.nv] c (Chip.journalSwitch c) := by
  unfold Chip.journalSwitch
  refine moves_ite (fun _ => ?_) (fun _ => ?_)
  · exact moves_then (moves_refl _ _) (Chip.nvFirst_moves ..) (by decide)
  · exact moves_refl _ _

theorem Chip.counterIncrement_moves (k : Counter) (c : Chip) : Moves [.nv] c (Chip.counterIncrement k c) := by
  unfold Chip.counterIncrement
  refine moves_ite (fun _ => ?_) (fun _ => ?_)
  · exact moves_then (moves_refl _ _) (Chip.nvQueue_moves ..) (by decide)
  · exact moves_refl _ _

theorem Chip.counterSetSwitch_moves (c : Chip) : Moves [.nv] c (Chip.counterSetSwitch c) := by
  unfold Chip.counterSetSwitch
  refine moves_ite (fun _ => ?_) (fun _ => ?_)
  · exact moves_refl _ _
  · extract_lets +onlyGivenNames x
    clear_value x
    refine moves_ite (fun _ => ?_) (fun _ => ?_)
    · exact moves_then (moves_refl _ _) (Chip.nvQueue_moves ..) (by decide)
    · refine moves_ite (fun _ => ?_) (fun _ => ?_)
      · exact moves_refl _ _
      · exact moves_then (moves_refl _ _) (Chip.nvQueue_moves ..) (by decide)

theorem Chip.carryWrite_moves (c : Chip) : Moves [.nv] c (Chip.carryWrite c) := by
  unfold Chip.carryWrite
  extract_lets +onlyGivenNames x
  clear_value x
  refine moves_ite (fun _ => ?_) (fun _ => ?_)
  · exact moves_then (moves_refl _ _) (Chip.queueCarry_moves ..) (by decide)
  · exact moves_refl _ _

theorem Chip.minuteWake_moves (c : Chip) : Moves [.dom, .nv] c (Chip.minuteWake c) := by
  unfold Chip.minuteWake
  refine moves_ite (fun _ => ?_) (fun _ => ?_)
  · extract_lets +onlyGivenNames x
    refine moves_cut x ?_ (fun _ => ?_)
    · unfold x
      refine moves_then ?_ (Chip.bump_moves ..) (by decide)
      exact moves_then (moves_refl _ _) (Chip.bump_moves ..) (by decide)
    try clear_value x
    extract_lets +onlyGivenNames x
    clear_value x
    extract_lets +onlyGivenNames x
    refine moves_cut x ?_ (fun _ => ?_)
    · unfold x
      exact moves_set_nv (by assumption) (by decide)
    try clear_value x
    exact moves_then (by assumption) (Chip.wake_moves ..) (by decide)
  · exact moves_refl _ _

theorem Chip.calStamp_moves (c : Chip) : Moves [.nv, .cal] c (Chip.calStamp c) := by
  unfold Chip.calStamp
  refine moves_ite (fun _ => ?_) (fun _ => ?_)
  · exact moves_then (moves_refl _ _) (Chip.stampCal_moves ..) (by decide)
  · exact moves_refl _ _

theorem Chip.calendarEnd_moves (c : Chip) : Moves [.cal] c (Chip.calendarEnd c) := by
  unfold Chip.calendarEnd
  refine moves_ite (fun _ => ?_) (fun _ => ?_)
  · exact moves_set_cal (moves_refl _ _) (by decide)
  · exact moves_refl _ _

theorem Chip.logFlush_moves (c : Chip) : Moves [.nv, .log] c (Chip.logFlush c) := by
  unfold Chip.logFlush
  extract_lets +onlyGivenNames x
  clear_value x
  refine moves_ite (fun _ => ?_) (fun _ => ?_)
  · exact moves_then (moves_refl _ _) (Chip.queueLog_moves ..) (by decide)
  · exact moves_refl _ _

end Sys2Proof.Machine
end

