-- ==== Sys2Proof/Laws/FramePower.lean ====
section
/-!
SUPPORT. What the operations of Machine/Power.lean leave alone: for each, the parts of the device that it may change.
-/

-- one theorem after another: the checks of a large package would else hold too many threads at once
set_option Elab.async false

namespace Sys2Proof.Machine
open Sys2Proof

theorem Chip.supplyFirst_moves (c : Chip) : Moves [.sys, .tb, .ph, .grp, .le, .setpt, .sweep, .sett, .eva, .trace, .obs, .nv, .cal, .log, .host, .draws] c (Chip.supplyFirst c) := by
  unfold Chip.supplyFirst
  split
  · exact moves_then (moves_refl _ _) (Chip.shdnBegin_moves ..) (by decide)
  · exact moves_refl _ _

theorem Chip.supplyEvent_moves (f : SysUnit → SysUnit) (c : Chip) : Moves [.sys, .tb, .ph, .grp, .le, .setpt, .sweep, .sett, .eva, .trace, .obs, .nv, .cal, .log, .host, .draws] c (Chip.supplyEvent f c) := by
  unfold Chip.supplyEvent
  extract_lets +onlyGivenNames x
  refine moves_cut x ?_ (fun _ => ?_)
  · unfold x
    exact moves_then (moves_refl _ _) (Chip.supplyFirst_moves ..) (by decide)
  try clear_value x
  refine moves_then ?_ (Chip.grant_moves ..) (by decide)
  exact moves_set_sys (by assumption) (by decide)

theorem Chip.vinLow_moves (c : Chip) : Moves [.sys, .guards, .eva, .trace, .obs, .nv, .log, .draws] c (Chip.vinLow c) := by
  unfold Chip.vinLow
  refine moves_ite (fun _ => ?_) (fun _ => ?_)
  · exact moves_refl _ _
  · refine moves_ite (fun _ => ?_) (fun _ => ?_)
    · exact moves_set_sys (moves_refl _ _) (by decide)
    · refine moves_then ?_ (Chip.warn_moves ..) (by decide)
      exact moves_set_sys (moves_refl _ _) (by decide)

theorem Chip.vinRecovered_moves (c : Chip) : Moves [.sys, .tb, .ph, .grp, .le, .setpt, .sweep, .sett, .eva, .trace, .obs, .nv, .cal, .log, .host, .draws] c (Chip.vinRecovered c) := by
  unfold Chip.vinRecovered
  refine moves_ite (fun _ => ?_) (fun _ => ?_)
  · exact moves_then (moves_refl _ _) (Chip.supplyEvent_moves ..) (by decide)
  · exact moves_refl _ _

theorem Chip.rideRecovered_moves (c : Chip) : Moves [.sys, .tb, .ph, .grp, .le, .setpt, .sweep, .sett, .gauge, .eva, .trace, .obs, .nv, .cal, .log, .host, .draws] c (Chip.rideRecovered c) := by
  unfold Chip.rideRecovered
  refine moves_ite (fun _ => ?_) (fun _ => ?_)
  · refine moves_then ?_ (Chip.occasionWaiting_moves ..) (by decide)
    refine moves_then ?_ (Chip.bump_moves ..) (by decide)
    exact moves_then (moves_refl _ _) (Chip.supplyEvent_moves ..) (by decide)
  · exact moves_refl _ _

theorem Chip.rideLimitReached_moves (c : Chip) : Moves [.sys] c (Chip.rideLimitReached c) := by
  unfold Chip.rideLimitReached
  refine moves_ite (fun _ => ?_) (fun _ => ?_)
  · exact moves_refl _ _
  · refine moves_ite (fun _ => ?_) (fun _ => ?_)
    · exact moves_set_sys (moves_refl _ _) (by decide)
    · refine moves_then ?_ (Chip.requestShdn_moves ..) (by decide)
      exact moves_set_sys (moves_refl _ _) (by decide)

theorem Chip.vinHighRise_moves (c : Chip) : Moves [.sys, .guards, .eva, .trace, .obs, .nv, .log, .draws] c (Chip.vinHighRise c) := by
  unfold Chip.vinHighRise
  refine moves_ite (fun _ => ?_) (fun _ => ?_)
  · refine moves_then ?_ (Chip.warn_moves ..) (by decide)
    exact moves_set_sys (moves_refl _ _) (by decide)
  · exact moves_refl _ _

theorem Chip.vinHighFall_moves (c : Chip) : Moves [.sys, .tb, .ph, .grp, .le, .setpt, .sweep, .sett, .eva, .trace, .obs, .nv, .cal, .log, .host, .draws] c (Chip.vinHighFall c) := by
  unfold Chip.vinHighFall
  refine moves_ite (fun _ => ?_) (fun _ => ?_)
  · exact moves_then (moves_refl _ _) (Chip.supplyEvent_moves ..) (by decide)
  · exact moves_refl _ _

theorem Chip.vinOver_moves (c : Chip) : Moves [.sys, .tb, .ph, .grp, .le, .setpt, .sweep, .sett, .guards, .eva, .trace, .obs, .nv, .cal, .log, .host, .draws] c (Chip.vinOver c) := by
  unfold Chip.vinOver
  refine moves_ite (fun _ => ?_) (fun _ => ?_)
  · exact moves_then (moves_refl _ _) (Chip.faultB_moves ..) (by decide)
  · exact moves_refl _ _

theorem Chip.holdupActive_moves (c : Chip) : Moves [.sys, .tb, .ph, .grp, .le, .setpt, .sweep, .sett, .eva, .trace, .obs, .nv, .cal, .log, .host, .draws] c (Chip.holdupActive c) := by
  unfold Chip.holdupActive
  extract_lets +onlyGivenNames x
  refine moves_cut x ?_ (fun _ => ?_)
  · unfold x
    refine moves_then ?_ (Chip.supplyEvent_moves ..) (by decide)
    exact moves_then (moves_refl _ _) (Chip.stopAll_moves ..) (by decide)
  try clear_value x
  exact moves_mk (.inl rfl) (.inl rfl) (.inl rfl) (.inl rfl) (.inl rfl) (.inl rfl) (.inl rfl) (.inl rfl) (.inl rfl) (.inl rfl) (.inl rfl) (.inl rfl) (.inl rfl) (.inr (by decide)) (.inl rfl) (.inl rfl) (.inl rfl) (.inr (by decide)) (.inl rfl) (.inl rfl) (.inl rfl) (.inl rfl) (.inl rfl) (.inl rfl) (.inr (by decide)) (.inl rfl) (.inl rfl) (by assumption)

theorem Chip.powerLoss_moves (c : Chip) : Moves [.sys, .code, .tb, .ph, .grp, .le, .setpt, .lcmd, .refs, .aux, .snap, .cap, .sweep, .sett, .gauge, .guards, .eva, .trace, .obs, .mbx, .dom, .nv, .cal, .log, .host, .latch, .draws] c (Chip.powerLoss c) := by
  unfold Chip.powerLoss
  refine moves_ite (fun _ => ?_) (fun _ => ?_)
  · exact moves_refl _ _
  · refine moves_ite (fun _ => ?_) (fun _ => ?_)
    · refine moves_ite (fun _ => ?_) (fun _ => ?_)
      · exact moves_then (moves_refl _ _) (Chip.holdupActive_moves ..) (by decide)
      · exact moves_then (moves_refl _ _) (Chip.toOff_moves ..) (by decide)
    · extract_lets +onlyGivenNames x
      refine moves_cut x ?_ (fun _ => ?_)
      · unfold x
        refine moves_then ?_ (Chip.holdupActive_moves ..) (by decide)
        exact moves_then (moves_refl _ _) (Chip.supplyFirst_moves ..) (by decide)
      try clear_value x
      refine moves_ite (fun _ => ?_) (fun _ => ?_)
      · exact moves_then (by assumption) (Chip.shdnOnHold_moves ..) (by decide)
      · exact moves_then (by assumption) (Chip.requestShdn_moves ..) (by decide)

theorem Chip.vholdCross_moves (above : Bool) (c : Chip) : Moves [.sys, .tb, .ph, .grp, .le, .setpt, .sweep, .sett, .eva, .trace, .obs, .nv, .cal, .log, .host, .draws] c (Chip.vholdCross above c) := by
  unfold Chip.vholdCross
  refine moves_ite (fun _ => ?_) (fun _ => ?_)
  · extract_lets +onlyGivenNames x
    clear_value x
    extract_lets +onlyGivenNames x
    refine moves_cut x ?_ (fun _ => ?_)
    · unfold x
      exact moves_then (moves_refl _ _) (Chip.supplyEvent_moves ..) (by decide)
    try clear_value x
    refine moves_ite (fun _ => ?_) (fun _ => ?_)
    · exact moves_then (by assumption) (Chip.tryStarts_moves ..) (by decide)
    · assumption
  · exact moves_refl _ _

theorem Chip.vholdFloor_moves (c : Chip) : Moves [.sys, .code, .tb, .ph, .grp, .le, .setpt, .lcmd, .refs, .aux, .snap, .cap, .sweep, .sett, .gauge, .guards, .eva, .trace, .obs, .mbx, .dom, .nv, .cal, .log, .host, .latch, .draws] c (Chip.vholdFloor c) := by
  unfold Chip.vholdFloor
  refine moves_ite (fun _ => ?_) (fun _ => ?_)
  · exact moves_then (moves_refl _ _) (Chip.toOff_moves ..) (by decide)
  · exact moves_refl _ _

theorem Chip.chargeEnd_moves (c : Chip) : Moves [.sys] c (Chip.chargeEnd c) := by
  unfold Chip.chargeEnd
  refine moves_ite (fun _ => ?_) (fun _ => ?_)
  · exact moves_set_sys (moves_refl _ _) (by decide)
  · exact moves_refl _ _

theorem Chip.capCrossing_moves (ns : Nat) (c : Chip) : Moves [.sys, .guards, .eva, .trace, .obs, .nv, .log, .draws] c (Chip.capCrossing ns c) := by
  unfold Chip.capCrossing
  refine moves_ite (fun _ => ?_) (fun _ => ?_)
  · refine moves_then ?_ (Chip.writeCap_moves ..) (by decide)
    exact moves_set_sys (moves_refl _ _) (by decide)
  · exact moves_refl _ _

theorem Chip.supplyCollapse_moves (r : Rail) (c : Chip) : Moves [.sys, .tb, .ph, .grp, .le, .setpt, .sweep, .sett, .guards, .eva, .trace, .obs, .nv, .cal, .log, .host, .draws] c (Chip.supplyCollapse r c) := by
  unfold Chip.supplyCollapse
  refine moves_ite (fun _ => ?_) (fun _ => ?_)
  · extract_lets +onlyGivenNames x
    clear_value x
    extract_lets +onlyGivenNames x
    refine moves_cut x ?_ (fun _ => ?_)
    · unfold x
      exact moves_set_sys (moves_refl _ _) (by decide)
    try clear_value x
    exact moves_then (by assumption) (Chip.raiseA_moves ..) (by decide)
  · exact moves_refl _ _

theorem Chip.rtcLost_moves (c : Chip) : Moves [.guards, .eva, .trace, .obs, .nv, .cal, .log, .draws] c (Chip.rtcLost c) := by
  unfold Chip.rtcLost
  refine moves_ite (fun _ => ?_) (fun _ => ?_)
  · refine moves_then ?_ (Chip.warn_moves ..) (by decide)
    exact moves_set_cal (moves_refl _ _) (by decide)
  · exact moves_refl _ _

theorem Chip.rtcBack_moves (c : Chip) : Moves [.cal] c (Chip.rtcBack c) := by
  unfold Chip.rtcBack
  refine moves_ite (fun _ => ?_) (fun _ => ?_)
  · exact moves_set_cal (moves_refl _ _) (by decide)
  · exact moves_refl _ _

theorem Chip.shutdownEnd_moves (b : BootInput) (c : Chip) : Moves [.sys, .code, .tb, .ph, .grp, .le, .setpt, .lcmd, .refs, .aux, .snap, .cap, .sweep, .sett, .gauge, .guards, .eva, .trace, .obs, .mbx, .dom, .nv, .cal, .log, .host, .latch, .draws] c (Chip.shutdownEnd b c) := by
  unfold Chip.shutdownEnd
  refine moves_ite (fun _ => ?_) (fun _ => ?_)
  · refine moves_ite (fun _ => ?_) (fun _ => ?_)
    · exact moves_then (moves_refl _ _) (Chip.toOff_moves ..) (by decide)
    · refine moves_ite (fun _ => ?_) (fun _ => ?_)
      · extract_lets +onlyGivenNames x
        refine moves_cut x ?_ (fun _ => ?_)
        · unfold x
          exact moves_then (moves_refl _ _) (Chip.resetDomains_moves ..) (by decide)
        try clear_value x
        exact moves_set_sys (by assumption) (by decide)
      · exact moves_then (moves_refl _ _) (Chip.startBoot_moves ..) (by decide)
  · exact moves_refl _ _

end Sys2Proof.Machine
end

