-- ==== Sys2Proof/Laws/FrameSpan.lean ====
section
/-!
SUPPORT. What the operations of Machine/Span.lean leave alone: for each, the parts of the device that it may change.
-/

-- one theorem after another: the checks of a large package would else hold too many threads at once
set_option Elab.async false

namespace Sys2Proof.Machine
open Sys2Proof

theorem Chip.shareSend_moves (t : Nat) (c : Chip) : Moves [.tb, .sett, .trace, .obs] c (Chip.shareSend t c) := by
  unfold Chip.shareSend
  extract_lets +onlyGivenNames x
  clear_value x
  refine moves_ite (fun _ => ?_) (fun _ => ?_)
  · extract_lets +onlyGivenNames x
    refine moves_cut x ?_ (fun _ => ?_)
    · unfold x
      exact moves_then (moves_refl _ _) (Chip.elapseTo_moves ..) (by decide)
    try clear_value x
    extract_lets +onlyGivenNames x
    clear_value x
    extract_lets +onlyGivenNames x
    clear_value x
    extract_lets +onlyGivenNames x
    clear_value x
    extract_lets +onlyGivenNames x
    refine moves_cut x ?_ (fun _ => ?_)
    · unfold x
      refine moves_foldl _ _ ?_ (fun _ _ => ?_)
      · assumption
      · exact moves_then (moves_refl _ _) (Chip.modSg_moves ..) (by decide)
    try clear_value x
    exact moves_then (by assumption) (Chip.broadcast_moves ..) (by decide)
  · exact moves_refl _ _

theorem Chip.shareIn_moves (f : FlitHdr) (r : SharePay) (c : Chip) : Moves [.sys, .tb, .ph, .grp, .le, .setpt, .sweep, .sett, .guards, .eva, .trace, .obs, .nv, .cal, .log, .host, .draws] c (Chip.shareIn f r c) := by
  unfold Chip.shareIn
  extract_lets +onlyGivenNames x
  unfold x
  refine moves_ite (fun _ => ?_) (fun _ => ?_)
  · extract_lets +onlyGivenNames x
    clear_value x
    refine moves_foldl _ _ ?_ (fun _ _ => ?_)
    · refine moves_then ?_ (Chip.modPeer_moves ..) (by decide)
      exact moves_then (moves_refl _ _) (Chip.receive_moves ..) (by decide)
    · refine moves_ite (fun _ => ?_) (fun _ => ?_)
      · refine moves_then ?_ (Chip.joinStarted_moves ..) (by decide)
        exact moves_then (moves_refl _ _) (Chip.modSg_moves ..) (by decide)
      · exact moves_refl _ _
  · exact moves_then (moves_refl _ _) (Chip.receive_moves ..) (by decide)

theorem Chip.irefRx_moves (g : Group) (c : Chip) : Moves [.sett, .eva, .trace, .obs, .draws] c (Chip.irefRx g c) := by
  unfold Chip.irefRx
  split
  · refine moves_then ?_ (Chip.modSg_moves ..) (by decide)
    exact moves_then (moves_refl _ _) (Chip.grant_moves ..) (by decide)
  · exact moves_refl _ _

theorem Chip.reportSend_moves (t : Nat) (c : Chip) : Moves [.tb, .sett, .trace, .obs] c (Chip.reportSend t c) := by
  unfold Chip.reportSend
  refine moves_ite (fun _ => ?_) (fun _ => ?_)
  · extract_lets +onlyGivenNames x
    refine moves_cut x ?_ (fun _ => ?_)
    · unfold x
      exact moves_then (moves_refl _ _) (Chip.elapseTo_moves ..) (by decide)
    try clear_value x
    exact moves_then (by assumption) (Chip.broadcast_moves ..) (by decide)
  · exact moves_refl _ _

theorem Chip.leaderCount_moves (g : Group) (c : Chip) : Moves [.sys, .tb, .ph, .grp, .le, .setpt, .sweep, .sett, .guards, .eva, .trace, .obs, .nv, .cal, .log, .host, .draws] c (Chip.leaderCount g c) := by
  unfold Chip.leaderCount
  refine moves_ite (fun _ => ?_) (fun _ => ?_)
  · extract_lets +onlyGivenNames x
    clear_value x
    extract_lets +onlyGivenNames x
    clear_value x
    refine moves_then ?_ (Chip.judgeHealth_moves ..) (by decide)
    exact moves_then (moves_refl _ _) (Chip.modSg_moves ..) (by decide)
  · exact moves_refl _ _

theorem Chip.leaderCounts_moves (c : Chip) : Moves [.sys, .tb, .ph, .grp, .le, .setpt, .sweep, .sett, .guards, .eva, .trace, .obs, .nv, .cal, .log, .host, .draws] c (Chip.leaderCounts c) := by
  unfold Chip.leaderCounts
  refine moves_foldl _ _ ?_ (fun _ _ => ?_)
  · exact moves_refl _ _
  · exact moves_then (moves_refl _ _) (Chip.leaderCount_moves ..) (by decide)

theorem Chip.orderRejoin_moves (a : Address) (known : Bool) (g : Group) (c : Chip) : Moves [.sett, .obs] c (Chip.orderRejoin a known g c) := by
  unfold Chip.orderRejoin
  extract_lets +onlyGivenNames x
  clear_value x
  refine moves_ite (fun _ => ?_) (fun _ => ?_)
  · exact moves_then (moves_refl _ _) (Chip.sendFlit_moves ..) (by decide)
  · exact moves_refl _ _

theorem Chip.reportIn_moves (f : FlitHdr) (t : Nat) (r : Vector ReportRec 4) (c : Chip) : Moves [.sys, .tb, .ph, .grp, .le, .setpt, .cap, .sweep, .sett, .guards, .eva, .trace, .obs, .mbx, .dom, .nv, .cal, .log, .host, .draws] c (Chip.reportIn f t r c) := by
  unfold Chip.reportIn
  refine moves_ite (fun _ => ?_) (fun _ => ?_)
  · exact moves_refl _ _
  · extract_lets +onlyGivenNames x
    refine moves_cut x ?_ (fun _ => ?_)
    · unfold x
      exact moves_then (moves_refl _ _) (Chip.elapseTo_moves ..) (by decide)
    try clear_value x
    extract_lets +onlyGivenNames x
    clear_value x
    extract_lets +onlyGivenNames x
    unfold x
    refine moves_ite (fun _ => ?_) (fun _ => ?_)
    · extract_lets +onlyGivenNames x
      clear_value x
      extract_lets +onlyGivenNames x
      refine moves_cut x ?_ (fun _ => ?_)
      · unfold x
        refine moves_then ?_ (Chip.modPeer_moves ..) (by decide)
        exact moves_then (by assumption) (Chip.receive_moves ..) (by decide)
      try clear_value x
      extract_lets +onlyGivenNames x
      refine moves_cut x ?_ (fun _ => ?_)
      · unfold x
        refine moves_foldl _ _ ?_ (fun _ _ => ?_)
        · assumption
        · exact moves_then (moves_refl _ _) (Chip.orderRejoin_moves ..) (by decide)
      try clear_value x
      refine moves_then ?_ (Chip.refreshTopo_moves ..) (by decide)
      exact moves_then (by assumption) (Chip.leaderCounts_moves ..) (by decide)
    · exact moves_then (by assumption) (Chip.receive_moves ..) (by decide)

theorem Chip.deviceGone_moves (a : Address) (c : Chip) : Moves [.sys, .tb, .ph, .grp, .le, .setpt, .cap, .sweep, .sett, .guards, .eva, .trace, .obs, .mbx, .dom, .nv, .cal, .log, .host, .draws] c (Chip.deviceGone a c) := by
  unfold Chip.deviceGone
  split
  · refine moves_ite (fun _ => ?_) (fun _ => ?_)
    · refine moves_then ?_ (Chip.refreshTopo_moves ..) (by decide)
      refine moves_then ?_ (Chip.leaderCounts_moves ..) (by decide)
      exact moves_then (moves_refl _ _) (Chip.modPeer_moves ..) (by decide)
    · exact moves_refl _ _
  · exact moves_refl _ _

theorem Chip.leadClaimIn_moves (f : FlitHdr) (groups : Nat) (c : Chip) : Moves [.sys, .tb, .ph, .grp, .le, .setpt, .sweep, .sett, .guards, .eva, .trace, .obs, .nv, .cal, .log, .host, .draws] c (Chip.leadClaimIn f groups c) := by
  unfold Chip.leadClaimIn
  refine Chip.deliver3_movesOf ?_ ?_ (by decide)
  · exact moves_refl _ _
  · intros
    extract_lets +onlyGivenNames x
    refine moves_cut x ?_ (fun _ => ?_)
    · unfold x
      exact moves_then (moves_refl _ _) (Chip.modPeer_moves ..) (by decide)
    try clear_value x
    refine moves_foldl _ _ ?_ (fun _ _ => ?_)
    · assumption
    · exact moves_then (moves_refl _ _) (Chip.judgeClaims_moves ..) (by decide)

theorem Chip.leaderTimeout_moves (g : Group) (c : Chip) : Moves [.sett] c (Chip.leaderTimeout g c) := by
  unfold Chip.leaderTimeout
  extract_lets +onlyGivenNames x
  clear_value x
  split
  · refine moves_ite (fun _ => ?_) (fun _ => ?_)
    · exact moves_then (moves_refl _ _) (Chip.modSg_moves ..) (by decide)
    · exact moves_refl _ _
  · exact moves_refl _ _

theorem Chip.leaderLost_moves (g : Group) (c : Chip) : Moves [.sys, .tb, .ph, .grp, .le, .setpt, .sweep, .sett, .guards, .eva, .trace, .obs, .nv, .cal, .log, .host, .draws] c (Chip.leaderLost g c) := by
  unfold Chip.leaderLost
  refine moves_ite (fun _ => ?_) (fun _ => ?_)
  · extract_lets +onlyGivenNames x
    refine moves_cut x ?_ (fun _ => ?_)
    · unfold x
      exact moves_then (moves_refl _ _) (Chip.modSg_moves ..) (by decide)
    try clear_value x
    extract_lets +onlyGivenNames x
    refine moves_cut x ?_ (fun _ => ?_)
    · unfold x
      refine moves_then ?_ (Chip.modGrp_moves ..) (by decide)
      exact moves_then (by assumption) (Chip.topoGrant_moves ..) (by decide)
    try clear_value x
    extract_lets +onlyGivenNames x
    clear_value x
    extract_lets +onlyGivenNames x
    refine moves_cut x ?_ (fun _ => ?_)
    · unfold x
      refine moves_ite (fun _ => ?_) (fun _ => ?_)
      · exact moves_then (by assumption) (Chip.abortSweepOf_moves ..) (by decide)
      · assumption
    try clear_value x
    extract_lets +onlyGivenNames x
    refine moves_cut x ?_ (fun _ => ?_)
    · unfold x
      refine moves_ite (fun _ => ?_) (fun _ => ?_)
      · assumption
      · refine moves_ite (fun _ => ?_) (fun _ => ?_)
        · refine moves_then ?_ (Chip.changeMode_moves ..) (by decide)
          exact moves_then (by assumption) (Chip.modSg_moves ..) (by decide)
        · refine moves_ite (fun _ => ?_) (fun _ => ?_)
          · exact moves_then (by assumption) (Chip.changeMode_moves ..) (by decide)
          · assumption
    try clear_value x
    extract_lets +onlyGivenNames x
    refine moves_cut x ?_ (fun _ => ?_)
    · unfold x
      exact moves_then (by assumption) (Chip.refreshBounds_moves ..) (by decide)
    try clear_value x
    exact moves_set_setpt (by assumption) (by decide)
  · exact moves_refl _ _

theorem Chip.deviceSafeIn_moves (f : FlitHdr) (c : Chip) : Moves [.sys, .tb, .ph, .grp, .le, .setpt, .sweep, .sett, .guards, .eva, .trace, .obs, .nv, .cal, .log, .host, .draws] c (Chip.deviceSafeIn f c) := by
  unfold Chip.deviceSafeIn
  refine Chip.deliver3_movesOf ?_ ?_ (by decide)
  · exact moves_refl _ _
  · intros
    extract_lets +onlyGivenNames x
    refine moves_cut x ?_ (fun _ => ?_)
    · unfold x
      exact moves_then (moves_refl _ _) (Chip.modPeer_moves ..) (by decide)
    try clear_value x
    extract_lets +onlyGivenNames x
    refine moves_cut x ?_ (fun _ => ?_)
    · unfold x
      refine moves_foldl _ _ ?_ (fun _ _ => ?_)
      · assumption
      · extract_lets +onlyGivenNames x
        clear_value x
        refine moves_ite (fun _ => ?_) (fun _ => ?_)
        · exact moves_then (moves_refl _ _) (Chip.modSg_moves ..) (by decide)
        · exact moves_refl _ _
    try clear_value x
    exact moves_then (by assumption) (Chip.leaderCounts_moves ..) (by decide)

theorem Chip.phaseLostIn_moves (f : FlitHdr) (g : Group) (c : Chip) : Moves [.sys, .tb, .ph, .grp, .le, .setpt, .sweep, .sett, .guards, .eva, .trace, .obs, .nv, .cal, .log, .host, .draws] c (Chip.phaseLostIn f g c) := by
  unfold Chip.phaseLostIn
  refine Chip.deliver3_movesOf ?_ ?_ (by decide)
  · exact moves_refl _ _
  · intros
    refine moves_then ?_ (Chip.leaderCount_moves ..) (by decide)
    exact moves_then (moves_refl _ _) (Chip.modPeer_moves ..) (by decide)

theorem Chip.followOrder_moves (g : Group) (m : Mode) (k : Cause) (s0 : Nat) (c : Chip) : Moves [.sys, .tb, .ph, .grp, .le, .setpt, .sweep, .sett, .guards, .eva, .trace, .obs, .nv, .cal, .log, .host, .draws] c (Chip.followOrder g m k s0 c) := by
  unfold Chip.followOrder
  extract_lets +onlyGivenNames x
  clear_value x
  extract_lets +onlyGivenNames x
  clear_value x
  extract_lets +onlyGivenNames x
  refine moves_cut x ?_ (fun _ => ?_)
  · unfold x
    exact moves_then (moves_refl _ _) (Chip.modSg_moves ..) (by decide)
  try clear_value x
  refine moves_ite (fun _ => ?_) (fun _ => ?_)
  · assumption
  · refine moves_ite (fun _ => ?_) (fun _ => ?_)
    · refine moves_ite (fun _ => ?_) (fun _ => ?_)
      · exact moves_then (by assumption) (Chip.changeMode_moves ..) (by decide)
      · assumption
    · refine moves_ite (fun _ => ?_) (fun _ => ?_)
      · refine moves_ite (fun _ => ?_) (fun _ => ?_)
        · exact moves_then (by assumption) (Chip.changeMode_moves ..) (by decide)
        · assumption
      · refine moves_ite (fun _ => ?_) (fun _ => ?_)
        · exact moves_then (by assumption) (Chip.groupToSafe_moves ..) (by decide)
        · refine moves_ite (fun _ => ?_) (fun _ => ?_)
          · assumption
          · refine moves_ite (fun _ => ?_) (fun _ => ?_)
            · exact moves_then (by assumption) (Chip.joinStarted_moves ..) (by decide)
            · refine moves_ite (fun _ => ?_) (fun _ => ?_)
              · exact moves_then (by assumption) (Chip.changeMode_moves ..) (by decide)
              · assumption

theorem Chip.modeOrderIn_moves (f : FlitHdr) (g : Group) (m : Mode) (k : Cause) (s0 : Nat) (c : Chip) : Moves [.sys, .tb, .ph, .grp, .le, .setpt, .sweep, .sett, .guards, .eva, .trace, .obs, .nv, .cal, .log, .host, .draws] c (Chip.modeOrderIn f g m k s0 c) := by
  unfold Chip.modeOrderIn
  refine Chip.deliver3_movesOf ?_ ?_ (by decide)
  · exact moves_refl _ _
  · intros
    refine moves_ite (fun _ => ?_) (fun _ => ?_)
    · exact moves_then (moves_refl _ _) (Chip.followOrder_moves ..) (by decide)
    · exact moves_refl _ _

theorem Chip.setOrderIn_moves (f : FlitHdr) (g : Group) (set : Fin 16) (c : Chip) : Moves [.grp, .le, .setpt, .sweep, .sett, .eva, .trace, .obs, .draws] c (Chip.setOrderIn f g set c) := by
  unfold Chip.setOrderIn
  refine Chip.deliver3_movesOf ?_ ?_ (by decide)
  · exact moves_refl _ _
  · intros
    refine moves_ite (fun _ => ?_) (fun _ => ?_)
    · refine moves_then ?_ (Chip.select_moves ..) (by decide)
      refine moves_ite (fun _ => ?_) (fun _ => ?_)
      · exact moves_then (moves_refl _ _) (Chip.abortSweepOf_moves ..) (by decide)
      · exact moves_refl _ _
    · exact moves_refl _ _

theorem Chip.selFwdIn_moves (f : FlitHdr) (g : Group) (set : Fin 16) (src : Nat) (c : Chip) : Moves [.grp, .le, .setpt, .sweep, .sett, .eva, .trace, .obs, .draws] c (Chip.selFwdIn f g set src c) := by
  unfold Chip.selFwdIn
  refine Chip.deliver3_movesOf ?_ ?_ (by decide)
  · exact moves_refl _ _
  · intros
    refine moves_ite (fun _ => ?_) (fun _ => ?_)
    · exact moves_then (moves_refl _ _) (Chip.selection_moves ..) (by decide)
    · exact moves_refl _ _

theorem Chip.fcastFwdIn_moves (f : FlitHdr) (p : LcmdPort) (frame : List Byte) (te : Nat) (c : Chip) : Moves [.sys, .tb, .ph, .grp, .le, .setpt, .sweep, .sett, .guards, .eva, .trace, .obs, .nv, .cal, .log, .host, .draws] c (Chip.fcastFwdIn f p frame te c) := by
  unfold Chip.fcastFwdIn
  refine Chip.deliver3_movesOf ?_ ?_ (by decide)
  · exact moves_refl _ _
  · intros
    extract_lets +onlyGivenNames x
    refine moves_ite (fun _ => ?_) (fun _ => ?_)
    · exact moves_then (moves_refl _ _) (Chip.actForecast_moves ..) (by decide)
    · exact moves_refl _ _

theorem Chip.phFloorIn_moves (f : FlitHdr) (g : Group) (floor : Nat) (c : Chip) : Moves [.grp, .setpt, .sett, .eva, .trace, .obs, .draws] c (Chip.phFloorIn f g floor c) := by
  unfold Chip.phFloorIn
  refine Chip.deliver3_movesOf ?_ ?_ (by decide)
  · exact moves_refl _ _
  · intros
    refine moves_ite (fun _ => ?_) (fun _ => ?_)
    · refine moves_then ?_ (Chip.refreshBounds_moves ..) (by decide)
      refine moves_then ?_ (Chip.modGrp_moves ..) (by decide)
      exact moves_then (moves_refl _ _) (Chip.modSg_moves ..) (by decide)
    · exact moves_refl _ _

theorem Chip.resumeIn_moves (f : FlitHdr) (g : Group) (c : Chip) : Moves [.setpt, .sett, .eva, .trace, .obs, .draws] c (Chip.resumeIn f g c) := by
  unfold Chip.resumeIn
  extract_lets +onlyGivenNames x
  unfold x
  refine moves_ite (fun _ => ?_) (fun _ => ?_)
  · extract_lets +onlyGivenNames x
    refine moves_cut x ?_ (fun _ => ?_)
    · unfold x
      refine moves_then ?_ (Chip.topoGrant_moves ..) (by decide)
      exact moves_then (moves_refl _ _) (Chip.receive_moves ..) (by decide)
    try clear_value x
    refine moves_ite (fun _ => ?_) (fun _ => ?_)
    · refine moves_then ?_ (Chip.present_moves ..) (by decide)
      exact moves_then (by assumption) (Chip.modSg_moves ..) (by decide)
    · assumption
  · exact moves_then (moves_refl _ _) (Chip.receive_moves ..) (by decide)

end Sys2Proof.Machine
end

