-- ==== Sys2Proof/Laws/FrameTelemetry.lean ====
section
/-!
SUPPORT. What the operations of Machine/Telemetry.lean leave alone: for each, the parts of the device that it may change.
-/

-- one theorem after another: the checks of a large package would else hold too many threads at once
set_option Elab.async false

namespace Sys2Proof.Machine
open Sys2Proof

theorem Chip.readItems_moves (items : List Nat) (c : Chip) : Moves [.snap, .eva, .trace, .obs, .draws] c (Chip.readItems items c).2 := by
  unfold Chip.readItems
  extract_lets +onlyGivenNames x
  refine moves_cut x ?_ (fun _ => ?_)
  · unfold x
    exact moves_then (moves_refl _ _) (Chip.openSnap_moves ..) (by decide)
  try clear_value x
  extract_lets +onlyGivenNames x
  clear_value x
  extract_lets +onlyGivenNames x
  clear_value x
  extract_lets +onlyGivenNames x
  clear_value x
  dsimp only
  exact moves_then (by assumption) (Chip.closeSnap_moves ..) (by decide)

theorem Chip.telemBody_moves (items : List Nat) (c : Chip) : Moves [.snap, .eva, .trace, .obs, .draws] c (Chip.telemBody items c).2 := by
  unfold Chip.telemBody
  split
  split
  · refine moves_then ?_ (Chip.readItems_moves ..) (by decide)
    refine moves_snd (by assumption) ?_
    exact moves_then (moves_refl _ _) (Chip.readItems_moves ..) (by decide)
  · dsimp only
    refine moves_snd (by assumption) ?_
    exact moves_then (moves_refl _ _) (Chip.readItems_moves ..) (by decide)

theorem Chip.telemGet_moves (items : List Nat) (h : HostCmd) (c : Chip) : Moves [.snap, .eva, .trace, .obs, .host, .draws] c (Chip.telemGet items h c) := by
  unfold Chip.telemGet
  refine moves_ite (fun _ => ?_) (fun _ => ?_)
  · exact moves_then (moves_refl _ _) (Chip.answer_moves ..) (by decide)
  · split
    refine moves_then ?_ (Chip.answer_moves ..) (by decide)
    refine moves_snd (by assumption) ?_
    exact moves_then (moves_refl _ _) (Chip.telemBody_moves ..) (by decide)

theorem Chip.telemSub_moves (r : SubReq) (h : HostCmd) (c : Chip) : Moves [.host, .draws] c (Chip.telemSub r h c) := by
  unfold Chip.telemSub
  split
  · exact moves_then (moves_refl _ _) (Chip.answer_moves ..) (by decide)
  · refine moves_ite (fun _ => ?_) (fun _ => ?_)
    · exact moves_then (moves_refl _ _) (Chip.answer_moves ..) (by decide)
    · refine moves_ite (fun _ => ?_) (fun _ => ?_)
      · refine moves_then ?_ (Chip.answer_moves ..) (by decide)
        exact moves_set_host (moves_refl _ _) (by decide)
      · extract_lets +onlyGivenNames x
        clear_value x
        extract_lets +onlyGivenNames x
        clear_value x
        extract_lets +onlyGivenNames x
        clear_value x
        extract_lets +onlyGivenNames x
        clear_value x
        refine moves_ite (fun _ => ?_) (fun _ => ?_)
        · exact moves_then (moves_refl _ _) (Chip.answer_moves ..) (by decide)
        · split
          extract_lets +onlyGivenNames x
          clear_value x
          extract_lets +onlyGivenNames x
          refine moves_cut x ?_ (fun _ => ?_)
          · unfold x
            refine moves_set_host ?_ (by decide)
            refine moves_snd (by assumption) ?_
            exact moves_then (moves_refl _ _) (Chip.draw_moves ..) (by decide)
          try clear_value x
          extract_lets +onlyGivenNames x
          clear_value x
          exact moves_then (by assumption) (Chip.answer_moves ..) (by decide)

theorem Chip.telemStream_moves (k : Fin 8) (c : Chip) : Moves [.snap, .eva, .trace, .obs, .host, .draws] c (Chip.telemStream k c) := by
  unfold Chip.telemStream
  split
  · exact moves_refl _ _
  · extract_lets +onlyGivenNames x
    clear_value x
    extract_lets +onlyGivenNames x
    clear_value x
    extract_lets +onlyGivenNames x
    refine moves_cut x ?_ (fun _ => ?_)
    · unfold x
      refine moves_ite (fun _ => ?_) (fun _ => ?_)
      · exact moves_set_host (moves_refl _ _) (by decide)
      · exact moves_refl _ _
    try clear_value x
    refine moves_ite (fun _ => ?_) (fun _ => ?_)
    · split
      extract_lets +onlyGivenNames x
      clear_value x
      refine moves_foldl _ _ ?_ (fun _ _ => ?_)
      · refine moves_snd (by assumption) ?_
        exact moves_then (by assumption) (Chip.telemBody_moves ..) (by decide)
      · refine moves_ite (fun _ => ?_) (fun _ => ?_)
        · exact moves_then (moves_refl _ _) (Chip.unsolicited_moves ..) (by decide)
        · exact moves_refl _ _
    · assumption

end Sys2Proof.Machine
end

