-- ==== Sys2Proof/Laws/FrameTick.lean ====
section
/-!
SUPPORT. What the operations of Machine/Tick.lean leave alone: for each, the parts of the device that it may change.
-/

-- one theorem after another: the checks of a large package would else hold too many threads at once
set_option Elab.async false

namespace Sys2Proof.Machine
open Sys2Proof

theorem Chip.tick_moves (c : Chip) : Moves [.sys, .tb, .sett, .eva, .trace, .obs, .mbx, .dom, .nv, .cal, .host, .draws] c (Chip.tick c) := by
  unfold Chip.tick
  extract_lets +onlyGivenNames x
  refine moves_cut x ?_ (fun _ => ?_)
  · unfold x
    refine moves_then ?_ (Chip.joinCheck_moves ..) (by decide)
    exact moves_then (moves_refl _ _) (Chip.elapse_moves ..) (by decide)
  try clear_value x
  extract_lets +onlyGivenNames x
  clear_value x
  extract_lets +onlyGivenNames x
  refine moves_cut x ?_ (fun _ => ?_)
  · unfold x
    exact moves_set_sys (by assumption) (by decide)
  try clear_value x
  refine moves_ite (fun _ => ?_) (fun _ => ?_)
  · extract_lets +onlyGivenNames x
    refine moves_cut x ?_ (fun _ => ?_)
    · unfold x
      exact moves_then (by assumption) (Chip.calendarSecond_moves ..) (by decide)
    try clear_value x
    exact moves_set_draws (by assumption) (by decide)
  · exact moves_set_draws (by assumption) (by decide)

end Sys2Proof.Machine
end

