-- ==== Sys2Proof/Laws/FrameTimebase.lean ====
section
/-!
SUPPORT. What the operations of Machine/Timebase.lean leave alone: for each, the parts of the device that it may change.
-/

-- one theorem after another: the checks of a large package would else hold too many threads at once
set_option Elab.async false

namespace Sys2Proof.Machine
open Sys2Proof

theorem Chip.onTb_moves (f : Timebase → Timebase) (c : Chip) : Moves [.tb] c (Chip.onTb f c) := by
  unfold Chip.onTb
  exact moves_set_tb (moves_refl _ _) (by decide)

theorem Chip.rateChange_moves (c : Chip) : Moves [.sett, .draws] c (Chip.rateChange c) := by
  unfold Chip.rateChange
  split
  · exact moves_refl _ _
  · extract_lets +onlyGivenNames x
    unfold x
    extract_lets +onlyGivenNames x
    clear_value x
    extract_lets +onlyGivenNames x
    clear_value x
    refine moves_then ?_ (Chip.onSett_moves ..) (by decide)
    exact moves_then (moves_refl _ _) (Chip.draw_moves ..) (by decide)

theorem Chip.tbChange_moves (f : Timebase → Timebase) (c : Chip) : Moves [.tb, .sett, .eva, .trace, .obs, .draws] c (Chip.tbChange f c) := by
  unfold Chip.tbChange
  refine moves_then ?_ (Chip.grant_moves ..) (by decide)
  refine moves_then ?_ (Chip.onTb_moves ..) (by decide)
  exact moves_then (moves_refl _ _) (Chip.rateChange_moves ..) (by decide)

theorem Chip.tbLock_moves (c : Chip) : Moves [.sys, .tb, .ph, .grp, .le, .setpt, .sweep, .sett, .guards, .eva, .trace, .obs, .nv, .cal, .log, .host, .draws] c (Chip.tbLock c) := by
  unfold Chip.tbLock
  refine moves_ite (fun _ => ?_) (fun _ => ?_)
  · refine moves_then ?_ (Chip.tryStarts_moves ..) (by decide)
    refine moves_then ?_ (Chip.autoClear_moves ..) (by decide)
    exact moves_then (moves_refl _ _) (Chip.tbChange_moves ..) (by decide)
  · exact moves_refl _ _

theorem Chip.referenceLost_moves (c : Chip) : Moves [.tb, .sett, .guards, .eva, .trace, .obs, .nv, .log, .draws] c (Chip.referenceLost c) := by
  unfold Chip.referenceLost
  split
  · refine moves_ite (fun _ => ?_) (fun _ => ?_)
    · refine moves_then ?_ (Chip.warn_moves ..) (by decide)
      exact moves_then (moves_refl _ _) (Chip.tbChange_moves ..) (by decide)
    · exact moves_refl _ _
  · exact moves_refl _ _

theorem Chip.referenceQualified_moves (c : Chip) : Moves [.tb, .sett, .eva, .trace, .obs, .draws] c (Chip.referenceQualified c) := by
  unfold Chip.referenceQualified
  refine moves_ite (fun _ => ?_) (fun _ => ?_)
  · exact moves_then (moves_refl _ _) (Chip.tbChange_moves ..) (by decide)
  · exact moves_refl _ _

theorem Chip.relockComplete_moves (c : Chip) : Moves [.tb, .ph, .grp, .le, .setpt, .sett, .guards, .eva, .trace, .obs, .nv, .log, .draws] c (Chip.relockComplete c) := by
  unfold Chip.relockComplete
  refine moves_ite (fun _ => ?_) (fun _ => ?_)
  · refine moves_then ?_ (Chip.tryStarts_moves ..) (by decide)
    refine moves_then ?_ (Chip.warn_moves ..) (by decide)
    exact moves_then (moves_refl _ _) (Chip.tbChange_moves ..) (by decide)
  · exact moves_refl _ _

theorem Chip.tbLimit_moves (suppressed : Bool) (c : Chip) : Moves [.sys, .tb, .ph, .grp, .le, .setpt, .sweep, .sett, .guards, .eva, .trace, .obs, .nv, .cal, .log, .host, .draws] c (Chip.tbLimit suppressed c) := by
  unfold Chip.tbLimit
  refine moves_ite (fun _ => ?_) (fun _ => ?_)
  · exact moves_refl _ _
  · refine moves_ite (fun _ => ?_) (fun _ => ?_)
    · exact moves_then (moves_refl _ _) (Chip.onTb_moves ..) (by decide)
    · exact moves_then (moves_refl _ _) (Chip.raiseA_moves ..) (by decide)

theorem Chip.ferrMeasure_moves (ppm : Int) (c : Chip) : Moves [.tb, .draws] c (Chip.ferrMeasure ppm c) := by
  unfold Chip.ferrMeasure
  refine moves_ite (fun _ => ?_) (fun _ => ?_)
  · refine moves_ite (fun _ => ?_) (fun _ => ?_)
    · exact moves_then (moves_refl _ _) (Chip.onTb_moves ..) (by decide)
    · split
      refine moves_then ?_ (Chip.onTb_moves ..) (by decide)
      refine moves_snd (by assumption) ?_
      exact moves_then (moves_refl _ _) (Chip.draw_moves ..) (by decide)
  · exact moves_refl _ _

theorem Chip.refGain_moves (r : RefSel) (c : Chip) : Moves [.tb, .ph, .grp, .le, .setpt, .refs, .sett, .eva, .trace, .obs, .log, .draws] c (Chip.refGain r c) := by
  unfold Chip.refGain
  refine moves_ite (fun _ => ?_) (fun _ => ?_)
  · refine moves_then ?_ (Chip.tryStarts_moves ..) (by decide)
    exact moves_set_refs (moves_refl _ _) (by decide)
  · exact moves_refl _ _

theorem Chip.refLoss_moves (r : RefSel) (c : Chip) : Moves [.sys, .tb, .ph, .grp, .le, .setpt, .refs, .sweep, .sett, .guards, .eva, .trace, .obs, .nv, .cal, .log, .host, .draws] c (Chip.refLoss r c) := by
  unfold Chip.refLoss
  refine moves_ite (fun _ => ?_) (fun _ => ?_)
  · exact moves_refl _ _
  · extract_lets +onlyGivenNames x
    clear_value x
    extract_lets +onlyGivenNames x
    clear_value x
    extract_lets +onlyGivenNames x
    refine moves_cut x ?_ (fun _ => ?_)
    · unfold x
      exact moves_set_refs (moves_refl _ _) (by decide)
    try clear_value x
    refine moves_foldl _ _ ?_ (fun _ _ => ?_)
    · assumption
    · exact moves_then (moves_refl _ _) (Chip.faultB_moves ..) (by decide)

end Sys2Proof.Machine
end

