-- ==== Sys2Proof/Laws/FrameUpdate.lean ====
section
/-!
SUPPORT. What the operations of Machine/Update.lean leave alone: for each, the parts of the device that it may change.
-/

-- one theorem after another: the checks of a large package would else hold too many threads at once
set_option Elab.async false

namespace Sys2Proof.Machine
open Sys2Proof

theorem Chip.updBegin_moves (length : Nat) (h : HostCmd) (c : Chip) : Moves [.code, .host] c (Chip.updBegin length h c) := by
  unfold Chip.updBegin
  extract_lets +onlyGivenNames b
  refine moves_ite (fun _ => moves_then (moves_refl _ _) (Chip.answer_moves ..) (by decide)) (fun _ => ?_)
  refine moves_ite (fun _ => moves_then (moves_refl _ _) (Chip.answer_moves ..) (by decide)) (fun _ => ?_)
  refine moves_then ?_ (Chip.answer_moves ..) (by decide)
  refine moves_mk (.inl rfl) (.inr (by decide)) (.inl rfl) (.inl rfl) (.inl rfl) (.inl rfl) (.inl rfl) (.inl rfl) (.inl rfl) (.inl rfl) (.inl rfl) (.inl rfl) (.inl rfl) (.inl rfl) (.inl rfl) (.inl rfl) (.inl rfl) (.inl rfl) (.inl rfl) (.inl rfl) (.inl rfl) (.inl rfl) (.inl rfl) (.inl rfl) (.inr (by decide)) (.inl rfl) (.inl rfl) (moves_refl _ _) (wcode := ?_)
  intro k
  refine banks_canonical (CodeUnit.eraseOther_banks ..) (banks_canonical (CodeUnit.changeState_banks ..) ?_)
  unfold CodeUnit.setMem
  cases b
  · exact ⟨rfl, k.2⟩
  · exact ⟨k.1, rfl⟩

theorem Chip.updData_moves (off : Nat) (data : List Byte) (h : HostCmd) (c : Chip) : Moves [.code, .host] c (Chip.updData off data h c) := by
  unfold Chip.updData
  refine moves_ite (fun _ => moves_then (moves_refl _ _) (Chip.answer_moves ..) (by decide)) (fun _ => ?_)
  refine moves_ite (fun _ => moves_then (moves_refl _ _) (Chip.answer_moves ..) (by decide)) (fun _ => ?_)
  refine moves_ite (fun _ => moves_then (moves_refl _ _) (Chip.answer_moves ..) (by decide)) (fun _ => ?_)
  refine moves_ite (fun _ => moves_then (moves_refl _ _) (Chip.answer_moves ..) (by decide)) (fun _ => ?_)
  extract_lets b spans n
  refine moves_then ?_ (Chip.answer_moves ..) (by decide)
  refine moves_mk (.inl rfl) (.inr (by decide)) (.inl rfl) (.inl rfl) (.inl rfl) (.inl rfl) (.inl rfl) (.inl rfl) (.inl rfl) (.inl rfl) (.inl rfl) (.inl rfl) (.inl rfl) (.inl rfl) (.inl rfl) (.inl rfl) (.inl rfl) (.inl rfl) (.inl rfl) (.inl rfl) (.inl rfl) (.inl rfl) (.inl rfl) (.inl rfl) (.inr (by decide)) (.inl rfl) (.inl rfl) (moves_refl _ _) (wcode := ?_)
  intro k
  unfold CodeUnit.setMem CodeUnit.bankMem
  cases b
  · exact ⟨memWriteBytes_wf _ _ k.1, k.2⟩
  · exact ⟨k.1, memWriteBytes_wf _ _ k.2⟩

theorem Chip.updCommit_moves (h : HostCmd) (c : Chip) : Moves [.host] c (Chip.updCommit h c) := by
  unfold Chip.updCommit
  split
  · exact moves_then (moves_refl _ _) (Chip.answer_moves ..) (by decide)
  · exact moves_set_host (moves_refl _ _) (by decide)

theorem Chip.answerCommit_moves (r : Result) (body : List Byte) (c : Chip) : Moves [.host] c (Chip.answerCommit r body c) := by
  unfold Chip.answerCommit
  split
  · exact moves_then (moves_refl _ _) (Chip.answer_moves ..) (by decide)
  · exact moves_refl _ _

theorem Chip.bankStateWrite_moves (c : Chip) : Moves [.code, .host] c (Chip.bankStateWrite c) := by
  unfold Chip.bankStateWrite
  split
  · refine moves_ite (fun _ => moves_refl _ _) (fun _ => ?_)
    rename_i b _ _ _ _ _
    extract_lets +onlyGivenNames s y
    refine moves_then ?_ (Chip.answerCommit_moves ..) (by decide)
    refine moves_mk (.inl rfl) (.inr (by decide)) (.inl rfl) (.inl rfl) (.inl rfl) (.inl rfl) (.inl rfl) (.inl rfl) (.inl rfl) (.inl rfl) (.inl rfl) (.inl rfl) (.inl rfl) (.inl rfl) (.inl rfl) (.inl rfl) (.inl rfl) (.inl rfl) (.inl rfl) (.inl rfl) (.inl rfl) (.inl rfl) (.inl rfl) (.inl rfl) (.inr (by decide)) (.inl rfl) (.inl rfl) (moves_refl _ _) (wcode := ?_)
    intro k
    exact banks_canonical (CodeUnit.eraseOther_banks ..) (banks_canonical (CodeUnit.writeState_banks ..) (banks_canonical (CodeUnit.setInfo_banks ..) k))
  · exact moves_refl _ _

theorem Chip.askAbort_moves (o : Operation) (h : HostCmd) (c : Chip) : Moves [.host] c (Chip.askAbort o h c) := by
  unfold Chip.askAbort
  exact moves_set_host (moves_refl _ _) (by decide)

theorem Chip.hostAbort_moves (tag type : Nat) (h : HostCmd) (c : Chip) : Moves [.eva, .trace, .obs, .host, .draws] c (Chip.hostAbort tag type h c) := by
  unfold Chip.hostAbort
  refine moves_ite (fun _ => ?_) (fun _ => ?_)
  · exact moves_then (moves_refl _ _) (Chip.answer_moves ..) (by decide)
  · refine moves_ite (fun _ => ?_) (fun _ => ?_)
    · exact moves_then (moves_refl _ _) (Chip.askAbort_moves ..) (by decide)
    · refine moves_ite (fun _ => ?_) (fun _ => ?_)
      · exact moves_then (moves_refl _ _) (Chip.askAbort_moves ..) (by decide)
      · refine moves_ite (fun _ => ?_) (fun _ => ?_)
        · refine moves_then ?_ (Chip.answer_moves ..) (by decide)
          exact moves_then (moves_refl _ _) (Chip.grant_moves ..) (by decide)
        · split
          · extract_lets +onlyGivenNames x
            refine moves_cut x ?_ (fun _ => ?_)
            · unfold x
              exact moves_then (moves_refl _ _) (Chip.grant_moves ..) (by decide)
            try clear_value x
            refine moves_then ?_ (Chip.answer_moves ..) (by decide)
            refine moves_then ?_ (Chip.refuse_moves ..) (by decide)
            exact moves_set_host (by assumption) (by decide)
          · exact moves_then (moves_refl _ _) (Chip.answer_moves ..) (by decide)

theorem Chip.completeNv_moves (c : Chip) : Moves [.gauge, .eva, .trace, .obs, .nv, .draws] c (Chip.completeNv c) := by
  unfold Chip.completeNv
  exact moves_then (moves_refl _ _) (Chip.nvComplete_moves ..) (by decide)

theorem Chip.completePre_moves (g : Group) (c : Chip) : Moves [.sys, .tb, .ph, .grp, .le, .setpt, .sweep, .sett, .guards, .eva, .trace, .obs, .nv, .cal, .log, .host, .draws] c (Chip.completePre g c) := by
  unfold Chip.completePre
  extract_lets +onlyGivenNames x
  clear_value x
  refine moves_ite (fun _ => ?_) (fun _ => ?_)
  · extract_lets +onlyGivenNames x
    clear_value x
    extract_lets +onlyGivenNames x
    refine moves_cut x ?_ (fun _ => ?_)
    · unfold x
      refine moves_then ?_ (Chip.modGrp_moves ..) (by decide)
      exact moves_then (moves_refl _ _) (Chip.grant_moves ..) (by decide)
    try clear_value x
    extract_lets +onlyGivenNames x
    refine moves_cut x ?_ (fun _ => ?_)
    · unfold x
      refine moves_ite (fun _ => ?_) (fun _ => ?_)
      · exact moves_then (by assumption) (Chip.changeMode_moves ..) (by decide)
      · assumption
    try clear_value x
    refine moves_ite (fun _ => ?_) (fun _ => ?_)
    · exact moves_then (by assumption) (Chip.beginStop_moves ..) (by decide)
    · assumption
  · exact moves_refl _ _

theorem Chip.completeCommit_moves (c : Chip) : Moves [.code, .eva, .trace, .obs, .host, .draws] c (Chip.completeCommit c) := by
  unfold Chip.completeCommit
  refine moves_ite (fun _ => ?_) (fun _ => ?_)
  · extract_lets +onlyGivenNames x
    refine moves_cut x ?_ (fun _ => ?_)
    · unfold x
      exact moves_then (moves_refl _ _) (Chip.grant_moves ..) (by decide)
    try clear_value x
    exact moves_mk (.inl rfl) (.inr (by decide)) (.inl rfl) (.inl rfl) (.inl rfl) (.inl rfl) (.inl rfl) (.inl rfl) (.inl rfl) (.inl rfl) (.inl rfl) (.inl rfl) (.inl rfl) (.inl rfl) (.inl rfl) (.inl rfl) (.inl rfl) (.inl rfl) (.inl rfl) (.inl rfl) (.inl rfl) (.inl rfl) (.inl rfl) (.inl rfl) (.inr (by decide)) (.inl rfl) (.inl rfl) (by assumption)
  · exact moves_refl _ _

theorem Chip.completeOp_moves (o : Operation) (c : Chip) : Moves [.sys, .code, .tb, .ph, .grp, .le, .setpt, .cap, .sweep, .sett, .gauge, .guards, .eva, .trace, .obs, .mbx, .dom, .nv, .cal, .log, .host, .draws] c (Chip.completeOp o c) := by
  unfold Chip.completeOp
  split
  · exact moves_then (moves_refl _ _) (Chip.completeSweep_moves ..) (by decide)
  · exact moves_then (moves_refl _ _) (Chip.completeNv_moves ..) (by decide)
  · exact moves_then (moves_refl _ _) (Chip.completePre_moves ..) (by decide)
  · exact moves_then (moves_refl _ _) (Chip.completeCommit_moves ..) (by decide)

theorem Chip.takeAbort_moves {o : Operation} {c : Chip} {h : Option HostCmd} {d : Chip} (e : Chip.takeAbort o c = some (h, d)) : Moves [.host] c d := by
  unfold Chip.takeAbort at e
  split at e
  · cases e
    refine moves_set_host (moves_refl _ _) (by decide)
  · cases e

theorem Chip.answerTo_moves (h : Option HostCmd) (r : Result) (c : Chip) : Moves [.host] c (Chip.answerTo h r c) := by
  unfold Chip.answerTo
  split
  · exact moves_then (moves_refl _ _) (Chip.answer_moves ..) (by decide)
  · exact moves_refl _ _

theorem Chip.abortNv_moves (c : Chip) : Moves [.eva, .trace, .obs, .nv, .host, .draws] c (Chip.abortNv c) := by
  unfold Chip.abortNv
  split
  · exact moves_refl _ _
  · extract_lets +onlyGivenNames x
    refine moves_cut x ?_ (fun _ => ?_)
    · unfold x
      refine moves_then ?_ (Chip.grant_moves ..) (by decide)
      exact moves_then (moves_refl _ _) (Chip.takeAbort_moves (by assumption)) (by decide)
    try clear_value x
    split
    · assumption
    · extract_lets +onlyGivenNames x
      clear_value x
      refine moves_ite (fun _ => ?_) (fun _ => ?_)
      · extract_lets +onlyGivenNames x
        clear_value x
        extract_lets +onlyGivenNames x
        refine moves_cut x ?_ (fun _ => ?_)
        · unfold x
          exact moves_set_nv (by assumption) (by decide)
        try clear_value x
        refine moves_then ?_ (Chip.answerWrite_moves ..) (by decide)
        exact moves_then (by assumption) (Chip.answer_moves ..) (by decide)
      · refine moves_ite (fun _ => ?_) (fun _ => ?_)
        · extract_lets +onlyGivenNames x
          clear_value x
          extract_lets +onlyGivenNames x
          refine moves_cut x ?_ (fun _ => ?_)
          · unfold x
            exact moves_set_nv (by assumption) (by decide)
          try clear_value x
          refine moves_then ?_ (Chip.answerWrite_moves ..) (by decide)
          exact moves_then (by assumption) (Chip.answer_moves ..) (by decide)
        · exact moves_then (by assumption) (Chip.answer_moves ..) (by decide)

theorem Chip.abortPre_moves (g : Group) (c : Chip) : Moves [.sys, .tb, .ph, .grp, .le, .setpt, .sweep, .sett, .guards, .eva, .trace, .obs, .mbx, .dom, .nv, .cal, .log, .host, .draws] c (Chip.abortPre g c) := by
  unfold Chip.abortPre
  split
  · exact moves_refl _ _
  · extract_lets +onlyGivenNames x
    refine moves_cut x ?_ (fun _ => ?_)
    · unfold x
      refine moves_then ?_ (Chip.grant_moves ..) (by decide)
      refine moves_then ?_ (Chip.badgerFirst_moves ..) (by decide)
      exact moves_then (moves_refl _ _) (Chip.takeAbort_moves (by assumption)) (by decide)
    try clear_value x
    extract_lets +onlyGivenNames x
    clear_value x
    extract_lets +onlyGivenNames x
    refine moves_cut x ?_ (fun _ => ?_)
    · unfold x
      exact moves_then (by assumption) (Chip.modGrp_moves ..) (by decide)
    try clear_value x
    extract_lets +onlyGivenNames x
    refine moves_cut x ?_ (fun _ => ?_)
    · unfold x
      refine moves_ite (fun _ => ?_) (fun _ => ?_)
      · exact moves_then (by assumption) (Chip.changeMode_moves ..) (by decide)
      · assumption
    try clear_value x
    split
    · exact moves_then (by assumption) (Chip.doneWritten_moves ..) (by decide)
    · assumption

theorem Chip.abortCommit_moves (c : Chip) : Moves [.eva, .trace, .obs, .host, .draws] c (Chip.abortCommit c) := by
  unfold Chip.abortCommit
  split
  · exact moves_refl _ _
  · extract_lets +onlyGivenNames x
    refine moves_cut x ?_ (fun _ => ?_)
    · unfold x
      refine moves_then ?_ (Chip.grant_moves ..) (by decide)
      exact moves_then (moves_refl _ _) (Chip.takeAbort_moves (by assumption)) (by decide)
    try clear_value x
    refine moves_ite (fun _ => ?_) (fun _ => ?_)
    · extract_lets +onlyGivenNames x
      clear_value x
      extract_lets +onlyGivenNames x
      refine moves_cut x ?_ (fun _ => ?_)
      · unfold x
        exact moves_set_host (by assumption) (by decide)
      try clear_value x
      refine moves_then ?_ (Chip.answerCommit_moves ..) (by decide)
      exact moves_then (by assumption) (Chip.answerTo_moves ..) (by decide)
    · exact moves_then (by assumption) (Chip.answerTo_moves ..) (by decide)

theorem Chip.abortOp_moves (o : Operation) (c : Chip) : Moves [.sys, .tb, .ph, .grp, .le, .setpt, .cap, .sweep, .sett, .guards, .eva, .trace, .obs, .mbx, .dom, .nv, .cal, .log, .host, .draws] c (Chip.abortOp o c) := by
  unfold Chip.abortOp
  split
  · exact moves_then (moves_refl _ _) (Chip.abortSweepGrant_moves ..) (by decide)
  · exact moves_then (moves_refl _ _) (Chip.abortNv_moves ..) (by decide)
  · exact moves_then (moves_refl _ _) (Chip.abortPre_moves ..) (by decide)
  · exact moves_then (moves_refl _ _) (Chip.abortCommit_moves ..) (by decide)

end Sys2Proof.Machine
end

