-- ==== Sys2Proof/Machine/Pins.lean ====
section
/-!
DEFINITION. Pins that only show what State holds: the derived clocks, which TB_COUNT alone advances (R204, R218, R219), the configuration pins (R115,
R127, R153, R154) and the crystal amplifier's output (R203).
-/

namespace Sys2Proof.Machine

/-- The level of a clock divided by an even `n`, at a tick: `n / 2` ticks high, then `n / 2` low (R218). That the high half begins where TB_COUNT is a
multiple of `n` is the model's choice (DESIGN CHOICE, log 127). -/
def dividedClock (n count : Nat) : Bool := decide (count % n < n / 2)

/-- TRC_STB: the timebase divided by 16, low where the trace port drives its pins low (R644, R645). -/
def Chip.trcStb (c : Chip) : Bool := c.trace.running && dividedClock 16 c.tb.count

/-- BMCLK: the timebase divided by BM_DIV, low where BM_DIV is 0 (R218). -/
def Chip.bmclk (c : Chip) : Bool := c.tb.bmDiv != 0 && dividedClock c.tb.bmDiv c.tb.count

/-- CFG_SCK while step 5 reads the flash: the timebase divided by 48 (R218, R124). Step 5 begins and ends inside one command, so no state shows it. -/
def Chip.cfgSckRead (c : Chip) : Bool := dividedClock 48 c.tb.count

/-- What a pin does. -/
inductive PinDrive where
  | low
  | high
  /-- high impedance without pulls -/
  | highZ
  /-- high impedance with an internal pull-up -/
  | pulledUp
deriving DecidableEq, Repr

/-- CFG_CS_N, CFG_SCK and CFG_IO0-3. -/
structure CfgPins where
  cs : PinDrive
  sck : PinDrive
  io : PinDrive
deriving DecidableEq, Repr

/-- At high impedance before step 5 and with RST_N low (R115, R127); released at step 7 or by CFG_RELEASE (R153); in between CFG_CS_N is driven high
and CFG_SCK low (R154). CFG_IO0-3 carry their pull-ups during step 5 only (R127, R657), which begins and ends inside one command. -/
def Chip.cfgPins (c : Chip) : CfgPins :=
  if !c.powered || c.sys.rstLow || (c.sys.dev == .boot && c.sys.result == .codeCorrupt) then ⟨.highZ, .highZ, .highZ⟩
  else if c.sys.cfgReleased then ⟨.pulledUp, .highZ, .highZ⟩
  else ⟨.high, .low, .highZ⟩

/-- CANx_STB (R605): high while the port is off the bus or disabled, low while it is on the bus, and not driven in OFF. A port in bus-off stays on the bus
in this sense, since it counts recessive bits there (R606; DESIGN CHOICE, log 99). -/
def Chip.canStb (p : CanPort) (c : Chip) : PinDrive :=
  if !c.powered then .highZ else if (c.host.ports[p]).st = .off then .high else .low

/-- The crystal amplifier drives XOUT from power-on until an image's REFSEL of 1 disables it (R203). -/
def Chip.xoutDriven (c : Chip) : Bool := c.powered && !c.sys.xoutOff

end Sys2Proof.Machine
end

