-- ==== Sys2Proof/Laws/Pins.lean ====
section
/-!
SUPPORT. The derived clocks: every half lasts half the divisor, at every tick.
-/

namespace Sys2Proof.Machine

/-- Half a divisor later the level is the other one. -/
theorem dividedClock_half (n t : Nat) (h : 0 < n) : dividedClock (2 * n) (t + n) = !dividedClock (2 * n) t := by
  have e : 2 * n / 2 = n := by omega
  have b : t % (2 * n) < 2 * n := Nat.mod_lt _ (by omega)
  have s : (t + n) % (2 * n) = (t % (2 * n) + n) % (2 * n) := by rw [Nat.add_mod, Nat.mod_eq_of_lt (show n < 2 * n by omega)]
  unfold dividedClock
  rw [e, s]
  by_cases k : t % (2 * n) < n
  · rw [Nat.mod_eq_of_lt (by omega)]
    simp [k]
  · rw [Nat.mod_eq_sub_mod (by omega), Nat.mod_eq_of_lt (by omega)]
    simp [k]
    omega

/-- Inside a half the level stays. -/
theorem dividedClock_stays (n t : Nat) (h : 0 < n) (k : t % n + 1 < n) : dividedClock (2 * n) (t + 1) = dividedClock (2 * n) t := by
  have e : 2 * n / 2 = n := by omega
  have b : t % (2 * n) < 2 * n := Nat.mod_lt _ (by omega)
  have m : t % (2 * n) % n = t % n := Nat.mod_mul_left_mod t 2 n
  have s : (t + 1) % (2 * n) = (t % (2 * n) + 1) % (2 * n) := by rw [Nat.add_mod, Nat.mod_eq_of_lt (show 1 < 2 * n by omega)]
  unfold dividedClock
  rw [e, s]
  by_cases q : t % (2 * n) < n
  · rw [Nat.mod_eq_of_lt q] at m
    rw [Nat.mod_eq_of_lt (by omega)]
    simp [q]
    omega
  · rw [Nat.mod_eq_sub_mod (by omega), Nat.mod_eq_of_lt (by omega)] at m
    rw [Nat.mod_eq_of_lt (by omega)]
    simp [q]
    omega

end Sys2Proof.Machine
end

