-- ==== Sys2Proof/WellFormed.lean ====
section
/-!
DEFINITION. Which commands are well formed: their operands lie within the widths and lengths that the spec gives them on the wire or in
the register they come from. A command that is not well formed cannot arrive; `exec` still gives each one a next state.
-/

namespace Sys2Proof

/-- A number of at most `w` bits. -/
def fits (w n : Nat) : Bool := decide (n < 2 ^ w)

/-- An integer between two bounds. -/
def between (lo hi x : Int) : Bool := decide (lo ≤ x) && decide (x ≤ hi)

/-- A host command's tag has 16 bits and its priority three (R608, R612). -/
def HostRef.wf (h : HostRef) : Bool := fits 16 h.tag && fits 3 h.prio

/-- A frame's identifier has 29 bits, and its data at most 64 bytes, 8 in classic format (R604, R608). -/
def CanFrame.wf (f : CanFrame) : Bool := fits 29 f.ident && decide (f.data.length ≤ if f.fd then 64 else 8) && fits 16 f.recAdd && fits 16 f.tecAdd

/-- The fields of TELEM_SUB (R632). -/
def SubReq.wf (r : SubReq) : Bool := fits 8 r.stream && fits 8 r.prio && fits 16 r.periodMs && fits 8 r.ports && r.items.all (fits 8)

/-- The fields of CAL_SET (R596, R624). -/
def CalReq.wf : CalReq → Bool
  | .count secs => fits 64 secs
  | .date year month day hour minute second => fits 16 year && fits 8 month && fits 8 day && fits 8 hour && fits 8 minute && fits 8 second
  | .badForm => true

/-- The fields of a sweep descriptor, 32 bytes in all (R468). -/
def SweepDesc.wf (d : SweepDesc) : Bool :=
  fits 8 d.group && fits 8 d.mode && fits 16 d.points && fits 32 d.fStart && fits 32 d.fStop && fits 16 d.settle && fits 16 d.dwell &&
  fits 16 d.ampStart && fits 16 d.ampStop && d.reserved.length == 12

/-- The header of a flit: a destination is a device or 0xF (R421). -/
def FlitHdr.wf (f : FlitHdr) : Bool := (decide (f.dst < 8) || f.dst == 15) && fits 3 f.hops && fits 8 f.seq

/-- The payload of an EPOCH (R430). -/
def EpochPay.wf (e : EpochPay) : Bool :=
  fits 64 e.tstamp && fits 32 e.corr && between (-(2 ^ 31)) (2 ^ 31 - 1) e.slope && fits 8 e.role && fits 8 e.topoGen

/-- One group's record in a SHARE (R438). -/
def ShareRec.wf (r : ShareRec) : Bool := between (-32768) 32767 r.iref && fits 8 r.set && fits 8 r.healthy

/-- The payload of a SHARE (R438). -/
def SharePay.wf (r : SharePay) : Bool := fits 64 r.ct && r.recs.toList.all ShareRec.wf

/-- One group's record in a REPORT (R440). -/
def ReportRec.wf (r : ReportRec) : Bool :=
  fits 8 r.assigned && fits 8 r.healthy && fits 8 r.switching && between (-32768) 32767 r.iMean

/-- The payload of a TOPO (R449). -/
def TopoPay.wf (r : TopoPay) : Bool := fits 8 r.gen && decide (r.order.length ≤ 8)

/-- Times of a delay exchange run forwards, and the partner's turnaround lies within the whole (R420). -/
def DelayExchange.wf (x : DelayExchange) : Bool := decide (x.t1 + x.turnaround ≤ x.t4)

/-- What the partner sends in the TRAIN exchange, and the 4096 delay exchanges (R418, R420). -/
def TrainInput.wf (i : TrainInput) : Bool := fits 8 i.chainSize && i.exchanges.length == 4096 && i.exchanges.all DelayExchange.wf

/-- The command is well formed. -/
def Instr.wf : Instr → Bool
  | .powerOnResetRelease _ => true
  | .bootDone periods => fits 32 periods
  | .rstNAssert => true
  | .rstNRelease _ => true
  | .rstStuck => true
  | .vinLow => true
  | .rideThroughRecovery => true
  | .rideThroughLimit => true
  | .vinHigh => true
  | .vinHighRelease => true
  | .vinOver => true
  | .powerLoss => true
  | .vholdOkCrossing _ => true
  | .vholdFloor => true
  | .supplyCollapse _ => true
  | .rtcOscLost => true
  | .rtcOscBack => true
  | .enableFalling => true
  | .enableRising => true
  | .vselChange _ => true
  | .tripAssert _ => true
  | .tripDeassert _ => true
  | .phTrip _ => true
  | .shootReq _ _ => true
  | .tbLock => true
  | .referenceLost => true
  | .referenceQualified => true
  | .relockComplete => true
  | .tbLimit _ => true
  | .refReady _ => true
  | .refLost _ => true
  | .phasePeriodStart _ t _ => fits 64 t
  | .phOpen _ => true
  | .diagWindowLapse _ => true
  | .firingSlot _ t _ => fits 64 t
  | .groupPeriodStart _ t => fits 64 t
  | .balPass _ => true
  | .phState _ => true
  | .phaseTrigger _ _ t => fits 64 t
  | .phaseConversionDone _ code => between (-2048) 2047 code
  | .groupVoltageTrigger _ t => fits 64 t
  | .groupFreeRun _ t => fits 64 t
  | .groupConversionDone _ code _ => between (-8192) 16383 code
  | .grpOv _ => true
  | .grpOvWarn _ => true
  | .senseLost _ => true
  | .senseBack _ => true
  | .pgFilter _ => true
  | .auxConversion => true
  | .auxConversionDone code _ => fits 16 code
  | .ffVinUpdate _ => true
  | .setpointSwap t => fits 64 t
  | .swapRequest => true
  | .rampDone _ => true
  | .modeChange _ _ _ => true
  | .groupStart _ => true
  | .prechargeComplete _ => true
  | .prechargeTimeout _ => true
  | .softstartTimeout _ => true
  | .lightloadEntry _ => true
  | .shdnStart _ => true
  | .shutdownEnd _ => true
  | .snapFill t => fits 64 t
  | .publish => true
  | .openSnap _ => true
  | .closeSnap _ => true
  | .snapHeld _ => true
  | .mailboxWrite _ _ => true
  | .mailboxRead _ => true
  | .doorbellRing _ _ => true
  | .domainUp _ => true
  | .wakeHoldLapse _ => true
  | .powerDownRequest _ => true
  | .latchedRead _ _ => true
  | .rclRead _ _ => true
  | .eccCrit _ => true
  | .eccDed _ => true
  | .watchdogExpiry _ => true
  | .faultRaise _ _ code unit _ => fits 8 code && fits 8 unit
  | .faultFrame _ => true
  | .conditionGone _ code unit => fits 8 code && fits 8 unit
  | .retry _ code unit => fits 8 code && fits 8 unit
  | .retriesReset _ => true
  | .factoryUnlock _ => true
  | .tmodeIgnored => true
  | .forecast _ frame t => frame.length == 12 && fits 64 t
  | .vreq _ frame t => frame.length == 12 && fits 64 t
  | .heartbeat _ frame t => frame.length == 12 && fits 64 t
  | .lcmdFrameAbandon _ _ => true
  | .heartbeatTimeout _ => true
  | .hbLapse _ => true
  | .lcmdRx _ => true
  | .fcastMiss _ _ => true
  | .hostSetSelect h _ _ _ => h.wf
  | .groupEnable h _ _ _ => h.wf
  | .groupDisable h _ _ _ => h.wf
  | .runSelChange h _ _ _ => h.wf
  | .shutdownRequest h _ _ => h.wf
  | .gaugeCmdSave h _ _ => h.wf
  | .warningClear h _ _ _ => h.wf
  | .faultInject h _ _ => h.wf
  | .writeCmd h _ _ _ => h.wf
  | .canFrameRx f => f.wf
  | .reassemblyTimeout _ type tag => fits 8 type && fits 16 tag
  | .readReg h _ words => h.wf && fits 8 words
  | .telemGet h items => h.wf && fits 8 items.length && items.all (fits 8)
  | .telemSub h r => h.wf && r.wf
  | .sweepStart h d => h.wf && d.wf
  | .sweepAbort h tag => h.wf && fits 16 tag
  | .faultClear h block code => h.wf && fits 8 block && fits 8 code
  | .nvRead h _ key => h.wf && fits 16 key
  | .nvWrite h _ key payload => h.wf && fits 16 key && fits 8 payload.length
  | .logRead h _ first words => h.wf && fits 32 first && fits 8 words
  | .calSet h r => h.wf && r.wf
  | .join h => h.wf
  | .cfgRelease h => h.wf
  | .abort h tag type => h.wf && fits 16 tag && fits 8 type
  | .updBegin h length => h.wf && fits 32 length
  | .updData h offset data => h.wf && fits 32 offset && decide (data.length ≤ 508)
  | .updCommit h => h.wf
  | .hostAns => true
  | .telemStream _ => true
  | .canBusoff _ => true
  | .canBusoffRecovery _ => true
  | .complete _ => true
  | .abortGrant _ => true
  | .bankStateWrite => true
  | .nvOpStart => true
  | .nvOpEnd c => decide (c.pulses ≤ 12)
  | .nvReclaim => true
  | .journalSwitch => true
  | .counterIncrement _ => true
  | .counterSetSwitch => true
  | .carryWrite => true
  | .minuteCountersWake => true
  | .calStamp => true
  | .calendarEnd => true
  | .logFlush => true
  | .gaugeSlot t code _ => fits 64 t && between (-8388607) 8388607 code
  | .gaugeInputLost => true
  | .gaugeInputValid => true
  | .hedgehogSecond => true
  | .chargeLimitTimeout => true
  | .chgLimits iLim vLim => fits 24 iLim && fits 24 vLim
  | .gaugeInput _ => true
  | .groupState _ _ dir => fits 2 dir
  | .shdn => true
  | .gaugeSave tag => fits 16 tag
  | .cal _ secs => fits 40 secs
  | .nvState _ _ => true
  | .gaugeRecord r => r.length == 0 || r.length == 56
  | .record r => r.length == 56
  | .log code unit => fits 8 code && fits 8 unit
  | .ah increments => fits 16 increments
  | .recordReq => true
  | .done tag result => fits 16 tag && fits 8 result
  | .mode _ _ _ => true
  | .fault _ code unit => fits 8 code && fits 8 unit
  | .count increments _ => fits 16 increments
  | .sweepEnd tag cause => fits 16 tag && fits 8 cause
  | .linkUp _ i => i.wf
  | .trainingTimeout _ => true
  | .linkDown _ _ => true
  | .credit _ _ n => decide (1 ≤ n) && decide (n ≤ 8)
  | .flitDrop _ => true
  | .epochSend t => fits 64 t
  | .epoch f t e => f.wf && fits 64 t && e.wf
  | .shareSend t => fits 64 t
  | .share f r => f.wf && r.wf
  | .irefRx _ => true
  | .reportSend t => fits 64 t
  | .report f t r => f.wf && fits 64 t && r.toList.all ReportRec.wf
  | .deviceUnreachable _ => true
  | .formationEnd => true
  | .linkDownFlit f _ _ => f.wf
  | .topo f r => f.wf && r.wf
  | .headSilent => true
  | .headClaim f _ => f.wf
  | .localHead => true
  | .leadClaim f groups => f.wf && fits 4 groups
  | .leaderTimeout _ => true
  | .leaderLost _ => true
  | .deviceSafe f => f.wf
  | .modeOrder f _ _ _ s0 => f.wf && fits 64 s0
  | .setOrder f _ _ => f.wf
  | .selFwd f _ _ src => f.wf && fits 8 src
  | .fcastFwd f _ frame te => f.wf && frame.length == 12 && fits 64 te
  | .phFloor f _ floor => f.wf && fits 8 floor
  | .phaseLost f _ => f.wf
  | .resume f _ => f.wf
  | .swReq f tag d => f.wf && fits 16 tag && d.wf
  | .swSetup f tag _ d t0 => f.wf && fits 16 tag && d.wf && fits 64 t0
  | .swAck f tag _ answer => f.wf && fits 16 tag && fits 8 answer
  | .sweepSetupTimeout => true
  | .swDone f w written => f.wf && fits 16 w.tag && fits 16 written
  | .swDoneTimeout => true
  | .swAbort f w cause => f.wf && fits 16 w.tag && fits 8 cause
  | .swEnd f w _ cause => f.wf && fits 16 w.tag && fits 8 cause
  | .sweepPointStart t => fits 64 t
  | .sweepWindowClose => true
  | .capGrant => true
  | .capRelease => true
  | .vinWarnRecoveryCrossing => true
  | .vholdChargeEnd => true
  | .holdupCheck12vCrossing ns => fits 32 ns
  | .domainRestartEnd _ => true
  | .formTmaxNoEpoch => true
  | .antFiredGrant _ => true
  | .tbFerrMeasure _ => true

end Sys2Proof
end

