-- ==== Sys2Proof/Tests/Slice0.lean ====
section
/-!
SUPPORT. Tests: for every statement of Certificates/Slice0/Obligations.lean that has hypotheses, a named theorem that shows a block and operands which meet
them, clause by clause; a term that each check of WellFormed refuses; and single steps whose expected values are worked out from the spec.
-/

-- one theorem after another: the kernel evaluations below wait for nothing else
set_option Elab.async false

namespace Sys2Proof.Machine

/-! ### Blocks to test on -/

/-- A field group of a block changed. -/
def Chip.onSys (f : SysUnit → SysUnit) (c : Chip) : Chip := { c with sys := f c.sys }
def Chip.onHost (f : HostUnit → HostUnit) (c : Chip) : Chip := { c with host := f c.host }
def Chip.onNv (f : NvUnit → NvUnit) (c : Chip) : Chip := { c with nv := f c.nv }
def Chip.onSweep (f : SweepUnit → SweepUnit) (c : Chip) : Chip := { c with sweep := f c.sweep }
def Chip.onSetpt (f : SetptUnit → SetptUnit) (c : Chip) : Chip := { c with setpt := f c.setpt }

/-- A host command's reference: CAN0, tag 5. -/
def ref0 : HostRef := ⟨0, 5, false, 1, false, false⟩

/-- A broadcast flit from device 1 at the UP port. -/
def flit0 : FlitHdr := ⟨1, 15, 0, 0, 0, .good, none⟩

/-- A sweep of group 0, two points from 100 Hz to 1 kHz. -/
def plan0 : SweepDesc := ⟨0, 1, 2, 100000, 1000000, 8, 8, 100, 100, []⟩

/-- A boot with nothing found. -/
def boot0 : BootInput := ⟨0, false, false, true, true, true, none, false, true, 0, ⟨[], [], []⟩⟩

/-- A FORECAST for group 0 and a HEARTBEAT, as they come on the wire (R351 to R353), with CRC-16/CCITT-FALSE worked out apart. -/
def fcast : List Byte := [165, 0, 1, 1, 5, 0, 10, 0, 20, 0, 229, 223]
def beat : List Byte := [165, 0, 1, 3, 0, 0, 0, 0, 0, 0, 97, 33]

/-- A device of two in a chain, out of BOOT with everything up, group 0 in STANDBY with all phases and one voltage engine. -/
def up : Chip :=
  { sys := { dev := .perGroup, rails := true, loaded := true, vholdSeen := true, vholdOk := true, enable := true }
    tb := { st := .locked, count := 10 ^ 10 }
    grp := Vector.replicate 4 { mode := .standby, enable := true }
    le := (Vector.replicate 4 {}).set 0 { cfg := { en := true } }
    lcmd := Vector.replicate 4 { cfg := { en := true } }
    refs := { int_ := true, ext_ := true, vdda := true }
    sett := { chainSize := 2, ports := Vector.replicate 2 { st := .up, txCred := Vector.replicate 4 8, rxFree := Vector.replicate 4 8 } }
    gauge := { cfg := { en := true } }
    dom := Vector.replicate 3 { up := true }
    host := { ports := Vector.replicate 2 { en := true, fd := true, brs := true, st := .active } } }

/-- A block whose oldest command is the one given. -/
def Chip.asks (c : Chip) (h : HostRef) (type : Nat) (body : List Byte) : Chip := c.onHost fun u => { u with rx := [⟨h, type, body⟩] }

/-- An image of no code: its header with the SHA-256 of nothing (FIPS 180-4) and a signature of zeros, at an offset. -/
def image0 (off kind : Nat) : Memory :=
  (([0x4E, 0x44, 0x46, 0x57, BitVec.ofNat 8 kind, 1, 0, 0, 5, 0, 0, 0, 0, 4, 0, 0, 0, 0, 0, 0, 0, 0, 0xFE, 0xFE] : List Byte) ++ List.replicate 8 0 ++
    [0xE3, 0xB0, 0xC4, 0x42, 0x98, 0xFC, 0x1C, 0x14, 0x9A, 0xFB, 0xF4, 0xC8, 0x99, 0x6F, 0xB9, 0x24, 0x27, 0xAE, 0x41, 0xE4, 0x64, 0x9B, 0x93, 0x4C,
      0xA4, 0x95, 0x99, 0x1B, 0x78, 0x52, 0xB8, 0x55] ++ List.replicate 64 0).zipIdx.map (fun x : Byte × Nat => (off + x.2, x.1))

/-- The three images of a package. -/
def pack0 : Memory := image0 0 1 ++ image0 256 2 ++ image0 512 3

/-- A device whose session holds the whole package, in the bank it does not run from, and whose host commits it. -/
def signed : Chip :=
  { (up.asks ref0 0x12 []).onHost fun u => { u with updOpen := true, updBank := true, updLen := 768, updBytes := 768 } with
    code := { bank1 := pack0 } }

/-- Every check of the package passes but the signatures, which no value is given to. -/
theorem images_pass (h : ∀ a b, Config.signatureValid a b = true) :
    checkImages pack0 768 0 [1, 2, 3] [] = .ok [fwAt pack0 0, fwAt pack0 256, fwAt pack0 512] := by
  have s : ∀ off ∈ [0, 256, 512], (fwAt pack0 off).size = 256 := by decide +kernel
  have a : (!(fwAt pack0 0).valid 1 || decide (768 < 0 + 256) || (([2, 3] : List Nat).isEmpty && 0 + 256 != 768) || !(fwAt pack0 0).digestOk pack0) = false := by
    decide +kernel
  have b : (!(fwAt pack0 256).valid 2 || decide (768 < 256 + 256) || (([3] : List Nat).isEmpty && 256 + 256 != 768) || !(fwAt pack0 256).digestOk pack0) = false := by
    decide +kernel
  have c : (!(fwAt pack0 512).valid 3 || decide (768 < 512 + 256) || (([] : List Nat).isEmpty && 512 + 256 != 768) || !(fwAt pack0 512).digestOk pack0) = false := by
    decide +kernel
  simp only [checkImages, s 0 (by decide), h]
  simp only [a, Nat.zero_add, s 256 (by decide)]
  simp only [b, Nat.reduceAdd, s 512 (by decide), c]
  rfl

theorem signed_passes (h : ∀ a b, Config.signatureValid a b = true) : signed.commitCheck = .ok (false, 5) := by
  have e : checkImages (signed.code.bankMem signed.host.updBank) signed.host.updLen 0 [1, 2, 3] [] = _ := images_pass h
  have k : (!sameSet [fwAt pack0 0, fwAt pack0 256, fwAt pack0 512] || !runsOn [fwAt pack0 0, fwAt pack0 256, fwAt pack0 512] signed.sys.rev) = false := by
    decide +kernel
  have w : takesCfgVer [fwAt pack0 0, fwAt pack0 256, fwAt pack0 512] signed.sys.cfgVer = true := by decide +kernel
  have i : (fwAt pack0 0).setId = 5 := by decide +kernel
  unfold Chip.commitCheck
  simp only [e, k, w, i]
  rfl

/-- The same plan with its twelve reserved bytes, a CAN frame and what comes up in training, a SHARE and a REPORT with nothing in them. -/
def plan1 : SweepDesc := { plan0 with reserved := List.replicate 12 0 }
def can0 : CanFrame := { port := 0, ident := 0, extended := true, fd := false, brs := false, data := [] }
def train0 : TrainInput := ⟨0, true, 2, 0, List.replicate 4096 ⟨0, 0, 0⟩⟩
def share0 : SharePay := ⟨0, Vector.replicate 4 ⟨false, 0, .off, 0, 0, false⟩⟩
def report0 : Vector ReportRec 4 := Vector.replicate 4 ⟨0, 0, 0, false, false, false, 0, 0⟩

end Sys2Proof.Machine

namespace Sys2Proof.Tests

open Sys2Proof Sys2Proof.Machine

/-! ### What the statements assume can hold -/

theorem witness_SupplyEvents :
    (∃ (c : Chip), c.powered = true ∧ c.sys.vinWarn = false ∧ c.sys.ride = false) ∧
    (∃ (c : Chip), c.powered = true ∧ c.sys.vinWarn = false ∧ c.sys.ride = true) ∧
    (∃ (c : Chip), c.powered = true ∧ c.sys.vinWarn = true ∧ SupplyFree c) ∧
    (∃ (c : Chip), c.powered = true ∧ c.sys.vinWarn = true ∧ (¬SupplyFree c)) ∧
    (∃ (c : Chip), c.powered = true ∧ c.sys.ride = true ∧ c.sys.rideLimit = false ∧ c.sys.vinWarn = false ∧ (¬SupplyFree c)) ∧
    (∃ (c : Chip), c.powered = true ∧ c.sys.vinHigh = true ∧ (¬SupplyFree c)) ∧
    (∃ (c : Chip), c.powered = true ∧ c.sys.ride = true ∧ c.sys.rideLimit = false ∧ c.sys.vinWarn = false ∧ SupplyFree c) ∧
    (∃ (c : Chip), c.powered = true ∧ c.sys.vinHigh = false) ∧
    (∃ (c : Chip), c.powered = true ∧ c.sys.vinHigh = true ∧ SupplyFree c) ∧
    (∃ (c : Chip), c.powered = true ∧ c.sys.vinHigh = true) ∧
    (∃ (c : Chip), c.outOfBoot = true ∧ c.sys.dev ≠ .shutdown ∧ c.sys.ride = true ∧ c.sys.rideLimit = false) ∧
    (∃ (c : Chip), c.sys.dev = .boot ∧ c.sys.ride = true ∧ c.sys.rideLimit = false) ∧
    (∃ (c : Chip) (above : Bool), c.powered = true ∧ c.sys.vholdOk = !above ∧ SupplyFree c) ∧
    (∃ (c : Chip) (above : Bool), c.powered = true ∧ c.sys.vholdOk = !above ∧ (¬SupplyFree c)) ∧
    (∃ (c : Chip), c.charging = true) ∧
    (∃ (c : Chip), c.charging = true ∧ c.sys.capTiming = true ∧ c.sys.loaded = true ∧ c.sys.holdupCheck = true) ∧
    (∃ (c : Chip), c.powered = true ∧ c.sys.rails = true ∧ c.sys.holdup = false) ∧
    (∃ (c : Chip), c.powered = true ∧ c.cal.osc = true) ∧
    (∃ (c : Chip), c.powered = true) :=
  ⟨⟨up, by decide⟩,
    ⟨up.onSys fun u => { u with ride := true }, by decide⟩,
    ⟨up.onSys fun u => { u with vinWarn := true }, by decide⟩,
    ⟨up.onSys fun u => { u with dev := .perGroup, shdnReq := [.ride], vinWarn := true }, by decide⟩,
    ⟨up.onSys fun u => { u with dev := .perGroup, shdnReq := [.ride], ride := true }, by decide⟩,
    ⟨up.onSys fun u => { u with dev := .perGroup, shdnReq := [.ride], vinHigh := true }, by decide⟩,
    ⟨up.onSys fun u => { u with ride := true }, by decide⟩,
    ⟨up, by decide⟩,
    ⟨up.onSys fun u => { u with vinHigh := true }, by decide⟩,
    ⟨up.onSys fun u => { u with vinHigh := true }, by decide⟩,
    ⟨up.onSys fun u => { u with ride := true }, by decide⟩,
    ⟨up.onSys fun u => { u with dev := .boot, ride := true }, by decide⟩,
    ⟨up, false, by decide⟩,
    ⟨up.onSys fun u => { u with dev := .perGroup, shdnReq := [.ride] }, false, by decide⟩,
    ⟨up, by decide⟩,
    ⟨up.onSys fun u => { u with capTiming := true, holdupCheck := true }, by decide⟩,
    ⟨up, by decide⟩,
    ⟨{ up with cal := { up.cal with osc := true } }, by decide⟩,
    ⟨up, by decide⟩⟩

theorem witness_PowerLossAndOff :
    (∃ (c : Chip), c.sys.dev = .boot ∧ c.sys.holdup = false ∧ c.nv.op = none) ∧
    (∃ (c : Chip), c.sys.dev = .boot ∧ c.sys.holdup = false ∧ c.nv.op ≠ none) ∧
    (∃ (c : Chip), c.sys.dev = .shutdown ∧ c.sys.holdup = false) ∧
    (∃ (c : Chip), c.outOfBoot = true ∧ c.sys.dev ≠ .shutdown ∧ c.sys.holdup = false ∧ SupplyFree c) ∧
    (∃ (c : Chip), c.outOfBoot = true ∧ c.sys.dev ≠ .shutdown ∧ c.sys.holdup = false ∧ (¬SupplyFree c)) ∧
    (∃ (c : Chip), c.sys.holdup = true) :=
  ⟨⟨up.onSys fun u => { u with dev := .boot }, by decide⟩,
    ⟨(up.onSys fun u => { u with dev := .boot }).onNv fun u => { u with op := some ⟨.eraseJournal, 0, false, false, false, []⟩ }, by decide⟩,
    ⟨up.onSys fun u => { u with dev := .shutdown }, by decide⟩,
    ⟨up, by decide⟩,
    ⟨up.onSys fun u => { u with dev := .perGroup, shdnReq := [.ride] }, by decide⟩,
    ⟨up.onSys fun u => { u with holdup := true }, by decide⟩⟩

theorem witness_BootEntry :
    (∃ (c : Chip), c.sys.dev = .off ∧ (c.sys.rstLow = false ∨ c.sys.bootReq.isSome = true)) ∧
    (∃ (c : Chip) (b : BootInput), c.sys.dev = .off ∧ c.sys.rstLow = true ∧ c.sys.bootReq = none ∧ b.vinRecovered = true) ∧
    (∃ (c : Chip) (b : BootInput), c.sys.dev = .off ∧ c.sys.rstLow = true ∧ c.sys.bootReq = none ∧ b.vinRecovered = false) ∧
    (∃ (c : Chip), c.sys.rstLow = false ∧ c.sys.dev ≠ .off ∧ c.sys.dev ≠ .shutdown) ∧
    (∃ (c : Chip), c.sys.rstLow = false ∧ (c.sys.dev = .off ∨ c.sys.dev = .shutdown)) ∧
    (∃ (c : Chip), c.sys.rstLow = true ∧ c.sys.dev ≠ .off ∧ c.sys.dev ≠ .shutdown ∧ (c.sys.dev = .boot → c.sys.holdup = false) ∧ c.nv.op = none) ∧
    (∃ (c : Chip), c.sys.rstLow = true ∧ c.sys.dev ≠ .off ∧ c.sys.dev ≠ .shutdown ∧ (c.sys.dev = .boot → c.sys.holdup = false) ∧ c.nv.op ≠ none) ∧
    (∃ (c : Chip), c.sys.rstLow = true ∧ c.sys.dev = .boot ∧ c.sys.holdup = true) ∧
    (∃ (c : Chip), c.sys.rstLow = true ∧ c.sys.dev = .off) ∧
    (∃ (c : Chip), c.sys.rstLow = true ∧ c.sys.dev = .shutdown) ∧
    (∃ (c : Chip), c.powered = true ∧ c.sys.rstLow = true ∧ c.sys.bootReq = none ∧ c.sys.stuckLog = false) :=
  ⟨⟨{}, by decide⟩,
    ⟨({} : Chip).onSys fun u => { u with rstLow := true }, boot0, by decide⟩,
    ⟨({} : Chip).onSys fun u => { u with rstLow := true }, { boot0 with vinRecovered := false }, by decide⟩,
    ⟨up, by decide⟩,
    ⟨up.onSys fun u => { u with dev := .shutdown }, by decide⟩,
    ⟨up.onSys fun u => { u with rstLow := true }, by decide⟩,
    ⟨(up.onSys fun u => { u with rstLow := true }).onNv fun u => { u with op := some ⟨.eraseJournal, 0, false, false, false, []⟩ }, by decide⟩,
    ⟨up.onSys fun u => { u with rstLow := true, dev := .boot, holdup := true }, by decide⟩,
    ⟨up.onSys fun u => { u with dev := .off, rstLow := true }, by decide⟩,
    ⟨up.onSys fun u => { u with dev := .shutdown, rstLow := true }, by decide⟩,
    ⟨up.onSys fun u => { u with rstLow := true }, by decide⟩⟩

theorem witness_BootEnd :
    (∃ (c : Chip), c.sys.dev = .boot ∧ c.sys.rails = true ∧ c.sys.rstLow = false ∧ c.sys.holdup = false ∧ c.sys.result = .ok) ∧
    (∃ (c : Chip), c.sys.dev = .boot ∧ c.sys.rails = true ∧ c.sys.rstLow = false ∧ c.sys.holdup = false ∧ c.sys.result ≠ .ok) :=
  ⟨⟨up.onSys fun u => { u with dev := .boot }, by decide⟩,
    ⟨up.onSys fun u => { u with dev := .boot, result := .codeCorrupt }, by decide⟩⟩

theorem witness_ShutdownAndEnable :
    (∃ (c : Chip), c.outOfBoot = true ∧ c.sys.dev ≠ .shutdown ∧ c.sys.enable = true) ∧
    (∃ (c : Chip), (c.outOfBoot = false ∨ c.sys.dev = .shutdown) ∧ c.sys.enable = true) ∧
    (∃ (c : Chip), c.powered = true) ∧
    (∃ (c : Chip) (k : ShdnCause), c.outOfBoot = true ∧ c.sys.dev ≠ .shutdown ∧ c.firstShdn k = true) ∧
    (∃ (c : Chip), c.sys.dev = .shutdown ∧ c.sys.shdn = .over ∧ c.sys.shdnHold = true) ∧
    (∃ (c : Chip), c.sys.dev = .shutdown ∧ c.sys.shdn = .over ∧ c.sys.shdnHold = false ∧ c.sys.rstLow = false) ∧
    (∃ (c : Chip), c.sys.dev = .shutdown ∧ c.sys.shdn = .over ∧ c.sys.shdnHold = false ∧ c.sys.rstLow = true) :=
  ⟨⟨up, by decide⟩,
    ⟨up.onSys fun u => { u with dev := .shutdown }, by decide⟩,
    ⟨up, by decide⟩,
    ⟨up.onSys fun u => { u with shdnReq := [.host] }, .host, by decide⟩,
    ⟨up.onSys fun u => { u with dev := .shutdown, shdn := .over, shdnHold := true }, by decide⟩,
    ⟨up.onSys fun u => { u with dev := .shutdown, shdn := .over }, by decide⟩,
    ⟨up.onSys fun u => { u with dev := .shutdown, shdn := .over, rstLow := true }, by decide⟩⟩

theorem witness_GroupModes :
    (∃ (c : Chip) (g : Group) (m : Mode) (k : Cause), c.sys.dev = .perGroup ∧ c.mayChange g m k = true ∧ (¬(m = .charge ∧ c.gauge.lost = true)) ∧ c.shdnAsked = true) ∧
    (∃ (c : Chip), c.shdnAsked = true) ∧
    (∃ (c : Chip), c.latched = true ∧ c.shdnAsked = true) ∧
    (∃ (c : Chip) (g : Group) (m : Mode) (k : Cause), c.sys.dev = .perGroup ∧ c.mayChange g m k = true ∧ (¬(m = .charge ∧ c.gauge.lost = true)) ∧ c.shdnAsked = false) ∧
    (∃ (c : Chip) (g : Group) (k : Cause), c.sys.dev = .perGroup ∧ c.mayChange g .charge k = true ∧ c.gauge.lost = true) ∧
    (∃ (c : Chip), c.latched = true ∧ (c.sys.dev = .perGroup ∨ c.sys.dev = .standbyHeld) ∧ c.shdnAsked = false) ∧
    (∃ (c : Chip) (g : Group), (c.grp[g]).mode = .standby ∧ c.mayStart g = true ∧ c.shdnAsked = false) :=
  ⟨⟨up.onSys fun u => { u with shdnReq := [.host] }, 0, .softstart, .enable, by decide⟩,
    ⟨up.onSys fun u => { u with shdnReq := [.host] }, by decide⟩,
    ⟨(up.modGuard 0 fun u => { u with aCode := 1 }).onSys fun u => { u with shdnReq := [.host] }, by decide⟩,
    ⟨up, 0, .softstart, .enable, by decide⟩,
    ⟨(up.modGrp 0 fun u => { u with mode := .regulate, runSel := true }).onGauge fun u => { u with lost := true }, 0, .runSel, by decide⟩,
    ⟨up.modGuard 0 fun u => { u with aCode := 1 }, by decide⟩,
    ⟨up, 0, by decide⟩⟩

theorem witness_PrechargeAndSoftstart :
    (∃ (c : Chip) (g : Group) (t : Nat), (c.grp[g]).preHold = some t ∧ (c.grp[g]).mode = .precharge ∧ (c.grp[g]).preDone = false ∧ t + 24000 ≤ c.tb.count) ∧
    (∃ (c : Chip) (g : Group), (c.grp[g]).mode = .precharge ∧ (c.grp[g]).preDone = false ∧ (c.grp[g]).since + (c.grp[g]).cfg.preTmax * tkMs ≤ c.tb.count) ∧
    (∃ (c : Chip) (g : Group), (c.grp[g]).mode = .softstart ∧ (c.grp[g]).since + (c.grp[g]).cfg.ssTmax * tkMs ≤ c.tb.count) ∧
    (∃ (c : Chip) (g : Group), c.llReady g = true ∧ c.decides g = true ∧ c.shdnAsked = false) ∧
    (∃ (c : Chip) (g : Group), isRunning (c.grp[g]).mode = true) ∧
    (∃ (c : Chip) (g : Group) (e : Engine), c.setpt.rampReq[g] = some true ∧ c.rampEngine g = some e) ∧
    (∃ (c : Chip) (g : Group) (e : Engine), c.setpt.rampReq[g] = some false ∧ c.rampEngine g = some e ∧ c.sys.dev = .perGroup ∧ (c.grp[g]).stopping = true ∧ c.shdnAsked = false) ∧
    (∃ (c : Chip) (g : Group) (e : Engine), c.setpt.rampReq[g] = some false ∧ c.rampEngine g = some e ∧ c.sys.dev = .perGroup ∧ (c.grp[g]).stopping = false ∧ (c.grp[g]).mode = .softstart ∧ c.decides g = true ∧ c.gauge.lost = false ∧ c.shdnAsked = false) :=
  ⟨⟨up.modGrp 0 fun u => { u with mode := .precharge, preHold := some 0 }, 0, 0, by decide⟩,
    ⟨up.modGrp 0 fun u => { u with mode := .precharge }, 0, by decide⟩,
    ⟨up.modGrp 0 fun u => { u with mode := .softstart }, 0, by decide⟩,
    ⟨up.modGrp 0 fun u => { u with mode := .regulate, llSince := some 0, cfg := { u.cfg with llEn := true } }, 0, by decide⟩,
    ⟨up.modGrp 0 fun u => { u with mode := .regulate }, 0, by decide⟩,
    ⟨(up.onSetpt fun u => { u with rampReq := u.rampReq.set 0 (some true) }).modLe 0 fun u => { u with reqs := [.ramp] }, 0, 0, by decide⟩,
    ⟨((up.onSetpt fun u => { u with rampReq := u.rampReq.set 0 (some false) }).modGrp 0 fun u => { u with stopping := true }).modLe 0 fun u => { u with reqs := [.ramp] }, 0, 0, by decide⟩,
    ⟨((up.onSetpt fun u => { u with rampReq := u.rampReq.set 0 (some false) }).modGrp 0 fun u => { u with mode := .softstart }).modLe 0 fun u => { u with reqs := [.ramp] }, 0, 0, by decide⟩⟩

theorem witness_PeriodStarts :
    (∃ (c : Chip) (p : Phase) (g : Group) (t : Nat), c.groupOf p = some g ∧ c.ctrlUp = true ∧ isFixed (c.grp[g]).cfg.mod = true ∧ c.startDue p g t = true ∧ (c.ph[p]).pl.switching = false ∧ c.outputsHeld = false ∧ (c.ph[p]).pl.addedIn ≠ some (c.grp[g]).pcnt) ∧
    (∃ (c : Chip) (x : Chip) (p : Phase) (g : Group) (t : Nat) (o : PeriodObs), c.groupOf p = some g ∧ c.ctrlUp = true ∧ isFixed (c.grp[g]).cfg.mod = true ∧ c.startDue p g t = true ∧ (c.ph[p]).pl.switching = true ∧ x = (c.elapseTo t).closePeriod p g ((c.grp[g]).perStart + (c.ph[p]).cfg.ofs) o ∧ (x.ph[p]).pl.maySwitch = true ∧ c.outputsHeld = false ∧ (x.ph[p]).pl.addedIn ≠ some (c.grp[g]).pcnt) ∧
    (∃ (c : Chip) (g : Group) (t : Nat) (p : Phase) (low : Phase) (rest : List Phase), c.ctrlUp = true ∧ isFixed (c.grp[g]).cfg.mod = false ∧ (c.grp[g]).started = true ∧ (c.grp[g]).slotAt ≤ t * 8 ∧ c.passNext g = false ∧ c.rotation g = low :: rest ∧ turnOf low false (c.grp[g]).rotNext (low :: rest) = p ∧ (c.ph[p]).pl.switching = false ∧ (c.ph[p]).pl.maySwitch = true ∧ c.outputsHeld = false ∧ (c.ph[p]).pl.addedIn ≠ some (c.grp[g]).pcnt) ∧
    (∃ (c : Chip) (x : Chip) (g : Group) (t : Nat) (o : PeriodObs) (low : Phase) (rest : List Phase), c.ctrlUp = true ∧ isFixed (c.grp[g]).cfg.mod = false ∧ (c.grp[g]).started = true ∧ (c.grp[g]).slotAt ≤ t * 8 ∧ c.passNext g = true ∧ c.slotReady g = true ∧ x = (c.elapseTo t).turnRotation g (c.grp[g]).slotAt o ∧ x.rotation g = low :: rest ∧ (x.ph[low]).pl.switching = false ∧ (x.ph[low]).pl.maySwitch = true ∧ c.outputsHeld = false ∧ (x.ph[low]).pl.addedIn ≠ some (c.grp[g]).pcnt) ∧
    (∃ (c : Chip) (g : Group) (t : Nat), c.ctrlUp = true ∧ c.groupRuns g = true ∧ (c.grp[g]).started = false ∧ c.startPoint g ≤ t * 8) ∧
    (∃ (c : Chip) (g : Group) (t : Nat) (x : Nat), c.ctrlUp = true ∧ c.groupRuns g = true ∧ (c.grp[g]).started = true ∧ c.nextGroupPeriod g = some x ∧ x ≤ t * 8) :=
  ⟨⟨(up.modPl 0 fun u => { u with pstate := .active }).modGrp 0 fun u => { u with mode := .regulate, started := true, pcnt := 1, perStart := 80000000000 }, 0, 0, 10000000000, by decide⟩,
    ⟨(up.modPl 0 fun u => { u with pstate := .active, switching := true }).modGrp 0 fun u => { u with mode := .regulate, started := true, pcnt := 1, perStart := 80000000000 }, (Chip.closePeriod 0 0 80000000000 ⟨none, none, none, none⟩ (Chip.elapseTo 10000000000 ((up.modPl 0 fun u => { u with pstate := .active, switching := true }).modGrp 0 fun u => { u with mode := .regulate, started := true, pcnt := 1, perStart := 80000000000 }))), 0, 0, 10000000000, ⟨none, none, none, none⟩, by decide +kernel, by decide +kernel, by decide +kernel, by decide +kernel, by decide +kernel, rfl, by decide +kernel, by decide +kernel, by decide +kernel⟩,
    ⟨((up.modPl 3 fun u => { u with pstate := .active, inRot := true }).modPl 5 fun u => { u with pstate := .active, inRot := true }).modGrp 0 fun u => { u with mode := .regulate, started := true, pcnt := 1, perStart := 80000000000, slotAt := 80000000000, rotNext := 5, cfg := { u.cfg with mod := .cot } }, 0, 10000000000, 5, 3, [5], by decide⟩,
    ⟨((up.modPl 3 fun u => { u with pstate := .active, inRot := true }).modPl 5 fun u => { u with pstate := .active, inRot := true }).modGrp 0 fun u => { u with mode := .regulate, started := true, pcnt := 1, perStart := 80000000000, slotAt := 80000000000, rotNext := 3, cfg := { u.cfg with mod := .cot } }, (Chip.turnRotation 0 80000000000 ⟨none, none, none, none⟩ (Chip.elapseTo 10000000000 (((up.modPl 3 fun u => { u with pstate := .active, inRot := true }).modPl 5 fun u => { u with pstate := .active, inRot := true }).modGrp 0 fun u => { u with mode := .regulate, started := true, pcnt := 1, perStart := 80000000000, slotAt := 80000000000, rotNext := 3, cfg := { u.cfg with mod := .cot } }))), 0, 10000000000, ⟨none, none, none, none⟩, 3, [5], by decide +kernel, by decide +kernel, by decide +kernel, by decide +kernel, by decide +kernel, by decide +kernel, rfl, by decide +kernel, by decide +kernel, by decide +kernel, by decide +kernel, by decide +kernel⟩,
    ⟨(up.modPl 0 fun u => { u with pstate := .active }).modGrp 0 fun u => { u with mode := .regulate }, 0, 0, by decide⟩,
    ⟨(up.modPl 0 fun u => { u with pstate := .active }).modGrp 0 fun u => { u with mode := .regulate, started := true, pcnt := 1, perStart := 80000000000 }, 0, 10000000001, 80000000000, by decide⟩⟩

theorem witness_TripsAndDiagnosis :
    (∃ (c : Chip) (p : Phase), c.ctrlUp = true ∧ (c.ph[p]).pl.tripIn = false ∧ (c.ph[p]).pl.switching = false) ∧
    (∃ (c : Chip) (p : Phase), (c.ph[p]).pl.tripIn = true) ∧
    (∃ (c : Chip) (p : Phase), (c.ph[p]).pl.tripIn = false) ∧
    (∃ (c : Chip) (p : Phase), c.ctrlUp = true ∧ (c.ph[p]).pl.tripIn = false ∧ (c.ph[p]).pl.switching = true ∧ (c.ph[p]).pl.tripped = false) ∧
    (∃ (c : Chip) (p : Phase), c.ctrlUp = true ∧ (c.ph[p]).pl.tripIn = true) ∧
    (∃ (c : Chip) (p : Phase), (c.groupOf p).isSome = true ∧ (c.ph[p]).pl.tripHeld (c.ph[p]).cfg = true ∧ (c.ph[p]).pl.pstate ≠ .faulted) ∧
    (∃ (c : Chip), c.ctrlUp = true) ∧
    (∃ (c : Chip) (p : Phase), (c.groupOf p).isSome = true ∧ (c.ph[p]).bal.openDue = true ∧ (c.ph[p]).pl.pstate ≠ .faulted) ∧
    (∃ (c : Chip) (p : Phase) (g : Group), c.groupOf p = some g ∧ (c.counting g).contains p = true ∧ (c.grp[g]).cfg.window ≤ (c.ph[p]).bal.since ∧ (c.ph[p]).bal.unverified = false ∧ (c.grp[g]).cfg.stretchEn = true ∧ (c.ph[p]).bal.stretchWait = none) ∧
    (∃ (c : Chip) (p : Phase) (g : Group), c.groupOf p = some g ∧ (c.counting g).contains p = true ∧ (c.grp[g]).cfg.window ≤ (c.ph[p]).bal.since ∧ (c.ph[p]).bal.unverified = false ∧ ((c.grp[g]).cfg.stretchEn = false ∨ (c.ph[p]).bal.stretchWait = some 0)) :=
  ⟨⟨up, 0, by decide⟩,
    ⟨up.modPl 0 fun u => { u with tripIn := true }, 0, by decide⟩,
    ⟨up, 0, by decide⟩,
    ⟨up.modPl 0 fun u => { u with switching := true }, 0, by decide⟩,
    ⟨up.modPl 0 fun u => { u with tripIn := true }, 0, by decide⟩,
    ⟨up.modPh 0 fun u => { u with cfg := { u.cfg with tripK := 1 }, pl := { u.pl with tripped := true, tripRun := 1 } }, 0, by decide⟩,
    ⟨up, by decide⟩,
    ⟨(up.modPh 0 fun u => { u with bal := { u.bal with fails := 3, openDue := true } }), 0, by decide⟩,
    ⟨(up.modPh 0 fun u => { u with bal := { u.bal with since := 9 }, pl := { u.pl with pstate := .active } }).modGrp 0 fun u => { u with cfg := { u.cfg with diagEn := true, window := 9, stretchEn := true } }, 0, 0, by decide⟩,
    ⟨(up.modPh 0 fun u => { u with bal := { u.bal with since := 9 }, pl := { u.pl with pstate := .active } }).modGrp 0 fun u => { u with cfg := { u.cfg with diagEn := true, window := 9 } }, 0, 0, by decide⟩⟩

theorem witness_BalanceAndPhaseStates :
    (∃ (c : Chip) (g : Group), (c.grp[g]).bal.passDue = true ∧ c.groupRuns g = true) ∧
    (∃ (c : Chip) (p : Phase) (g : Group) (s : PState) (rest : List PState), c.groupOf p = some g ∧ (c.ph[p]).pl.reports = s :: rest ∧ isSwitchingMode (c.grp[g]).mode = false) ∧
    (∃ (c : Chip) (p : Phase) (g : Group) (s : PState) (rest : List PState), c.groupOf p = some g ∧ (c.ph[p]).pl.reports = s :: rest ∧ c.decides g = true ∧ c.sys.dev = .perGroup ∧ isSwitchingMode (c.grp[g]).mode = true ∧ c.healthyAll g < (c.grp[g]).cfg.derMin) :=
  ⟨⟨(up.modPl 0 fun u => { u with pstate := .active }).modGrp 0 fun u => { u with mode := .regulate, bal := { u.bal with passDue := true } }, 0, by decide⟩,
    ⟨up.modPl 0 fun u => { u with reports := [.active] }, 0, 0, .active, [], by decide⟩,
    ⟨(up.modPl 0 fun u => { u with reports := [.faulted] }).modGrp 0 fun u => { u with mode := .regulate, cfg := { u.cfg with derMin := 25 } }, 0, 0, .faulted, [], by decide⟩⟩

theorem witness_TimebaseAndReferences :
    (∃ (c : Chip), c.ctrlUp = true ∧ c.tb.st = .acquire) ∧
    (∃ (c : Chip), c.ctrlUp = true ∧ (c.tb.st = .locked ∨ c.tb.st = .relock)) ∧
    (∃ (c : Chip), c.ctrlUp = true ∧ c.tb.st = .acquire) ∧
    (∃ (c : Chip), c.ctrlUp = true ∧ c.tb.st = .holdover) ∧
    (∃ (c : Chip), c.ctrlUp = true ∧ c.tb.st = .freerun) ∧
    (∃ (c : Chip), c.ctrlUp = true ∧ c.tb.st = .relock) ∧
    (∃ (c : Chip), c.ctrlUp = true ∧ (c.tb.st = .acquire ∨ c.tb.st = .freerun ∨ c.tb.st = .relock)) ∧
    (∃ (c : Chip) (s : Bool), c.ctrlUp = true ∧ (s = false ∨ c.tb.st = .locked ∨ c.tb.st = .holdover)) ∧
    (∃ (c : Chip) (ppm : Int), c.ctrlUp = true ∧ -32768 ≤ ppm ∧ ppm ≤ 32767) ∧
    (∃ (c : Chip) (ppm : Int), c.ctrlUp = true ∧ (¬(-32768 ≤ ppm ∧ ppm ≤ 32767))) ∧
    (∃ (c : Chip) (r : RefSel), c.ctrlUp = true ∧ (r = .vdda → c.railsOk = true)) ∧
    (∃ (c : Chip), c.ctrlUp = true ∧ c.refs.ext_ = true) ∧
    (∃ (c : Chip), c.ctrlUp = true ∧ c.refs.vdda = true ∧ c.railsOk = false) :=
  ⟨⟨{ up with tb := { up.tb with st := .acquire } }, by decide⟩,
    ⟨up, by decide⟩,
    ⟨{ up with tb := { up.tb with st := .acquire } }, by decide⟩,
    ⟨{ up with tb := { up.tb with st := .holdover } }, by decide⟩,
    ⟨{ up with tb := { up.tb with st := .freerun } }, by decide⟩,
    ⟨{ up with tb := { up.tb with st := .relock } }, by decide⟩,
    ⟨{ up with tb := { up.tb with st := .acquire } }, by decide⟩,
    ⟨up, true, by decide⟩,
    ⟨up, 32767, by decide⟩,
    ⟨up, 32768, by decide⟩,
    ⟨up, .vdda, by decide⟩,
    ⟨up, by decide⟩,
    ⟨up.onSys fun u => { u with railBad := true }, by decide⟩⟩

theorem witness_PhaseConversions :
    (∃ (c : Chip) (p : Phase) (g : Group) (k : Trig) (t : Nat), c.groupOf p = some g ∧ c.ctrlUp = true ∧ (c.ph[p]).pl.plan.diag = false ∧ (c.ph[p]).pl.fired k = false ∧ c.trigAt g p k = some t ∧ accepts (c.ph[p]).conv.lastTrig t = true ∧ c.yieldsToA g p k t = false) ∧
    (∃ (c : Chip) (p : Phase) (g : Group) (k : Trig) (t : Nat), c.groupOf p = some g ∧ c.ctrlUp = true ∧ (c.ph[p]).pl.plan.diag = false ∧ (c.ph[p]).pl.fired k = false ∧ c.trigAt g p k = some t ∧ (accepts (c.ph[p]).conv.lastTrig t = false ∨ c.yieldsToA g p k t = true)) ∧
    (∃ (c : Chip) (p : Phase) (f : Flight) (rest : List Flight), (c.ph[p]).conv.flights = f :: rest) ∧
    (∃ (c : Chip) (p : Phase) (code : Int) (f : Flight) (rest : List Flight), (c.ph[p]).conv.flights = f :: rest ∧ f.notReady = false ∧ 0 < (c.ph[p]).cfg.ocLevel ∧ (codeOvr 12 (clampInt (-2048) 2047 code) = true ∨ (c.ph[p]).cfg.ocLevel ≤ (clampInt (-2048) 2047 code - (c.ph[p]).cfg.offs).natAbs) ∧ (c.ph[p]).pl.switching = true ∧ (c.ph[p]).pl.tripped = false) :=
  ⟨⟨up.modPh 0 fun u => { u with cfg := { u.cfg with trigA := { mode := 1, pos := 16 } }, pl := { u.pl with switching := true, start := 80000000000 }, conv := { u.conv with lastTrig := none } }, 0, 0, .a, 10000000002, by decide +kernel⟩,
    ⟨up.modPh 0 fun u => { u with cfg := { u.cfg with trigA := { mode := 1, pos := 16 } }, pl := { u.pl with switching := true, start := 80000000000 }, conv := { u.conv with lastTrig := some 10000000000 } }, 0, 0, .a, 10000000002, by decide +kernel⟩,
    ⟨up.modPh 0 fun u => { u with conv := { u.conv with flights := [⟨0, 0, .a, false, false⟩] } }, 0, ⟨0, 0, .a, false, false⟩, [], by decide⟩,
    ⟨up.modPh 0 fun u => { u with cfg := { u.cfg with ocLevel := 100 }, pl := { u.pl with switching := true }, conv := { u.conv with flights := [⟨0, 0, .a, false, false⟩] } }, 0, 100, ⟨0, 0, .a, false, false⟩, [], by decide⟩⟩

theorem witness_GroupConversions :
    (∃ (c : Chip) (g : Group) (t : Nat), c.ctrlUp = true ∧ c.pulsing g = true ∧ ((c.elapseTo t).takeEvent g t).isSome = true ∧ ((c.grp[g]).conv.events + 1) % ((c.grp[g]).cfg.dec + 1) ≠ 0) ∧
    (∃ (c : Chip) (g : Group) (t : Nat), c.ctrlUp = true ∧ c.pulsing g = true ∧ ((c.elapseTo t).takeEvent g t).isSome = true ∧ ((c.grp[g]).conv.events + 1) % ((c.grp[g]).cfg.dec + 1) = 0 ∧ accepts (c.grp[g]).conv.lastTrig t = true) ∧
    (∃ (c : Chip) (g : Group) (t : Nat), c.ctrlUp = true ∧ c.pulsing g = true ∧ ((c.elapseTo t).takeEvent g t).isSome = true ∧ ((c.grp[g]).conv.events + 1) % ((c.grp[g]).cfg.dec + 1) = 0 ∧ accepts (c.grp[g]).conv.lastTrig t = false) ∧
    (∃ (c : Chip) (g : Group) (t : Nat), c.ctrlUp = true ∧ c.outOfBoot = true ∧ c.sys.holdup = false ∧ c.pulsing g = false ∧ c.freeFrom g < t ∧ (t - c.freeFrom g) % 2400 = 0 ∧ accepts (c.grp[g]).conv.lastTrig t = true) ∧
    (∃ (c : Chip) (g : Group) (code : Int) (n : Int) (f : Flight) (rest : List Flight), (c.grp[g]).conv.flights = f :: rest ∧ f.notReady = false ∧ c.awaitsPhase g f = false ∧ ((c.grp[g]).conv.checking = false ∨ f.local_ = true) ∧ n = clampInt (gvRange ((c.grp[g]).cfg.diff && !f.local_)).1 (gvRange ((c.grp[g]).cfg.diff && !f.local_)).2 code) ∧
    (∃ (c : Chip) (g : Group) (f : Flight) (rest : List Flight), (c.grp[g]).conv.flights = f :: rest ∧ f.notReady = true ∧ c.awaitsPhase g f = false ∧ ((c.grp[g]).conv.checking = false ∨ f.local_ = true)) ∧
    (∃ (c : Chip) (g : Group) (f : Flight) (rest : List Flight), (c.grp[g]).conv.flights = f :: rest ∧ c.awaitsPhase g f = false ∧ (c.grp[g]).conv.checking = true ∧ f.local_ = false) :=
  ⟨⟨(up.modPh 0 fun u => { u with cfg := { u.cfg with trigA := { mode := 1, pos := 16 } }, pl := { u.pl with switching := true, start := 80000000000 } }).modGrp 0 fun u => { u with mode := .regulate, started := true, cfg := { u.cfg with dec := 1 } }, 0, 10000000002, by decide +kernel⟩,
    ⟨(up.modPh 0 fun u => { u with cfg := { u.cfg with trigA := { mode := 1, pos := 16 } }, pl := { u.pl with switching := true, start := 80000000000 } }).modGrp 0 fun u => { u with mode := .regulate, started := true }, 0, 10000000002, by decide +kernel⟩,
    ⟨(up.modPh 0 fun u => { u with cfg := { u.cfg with trigA := { mode := 1, pos := 16 } }, pl := { u.pl with switching := true, start := 80000000000 } }).modGrp 0 fun u => { u with mode := .regulate, started := true, conv := { u.conv with lastTrig := some 10000000000 } }, 0, 10000000002, by decide +kernel⟩,
    ⟨up, 0, 2400, by decide⟩,
    ⟨up.modGrp 0 fun u => { u with conv := { u.conv with flights := [⟨0, 0, .a, false, false⟩] } }, 0, 0, 0, ⟨0, 0, .a, false, false⟩, [], by decide⟩,
    ⟨up.modGrp 0 fun u => { u with conv := { u.conv with flights := [⟨0, 0, .a, true, false⟩] } }, 0, ⟨0, 0, .a, true, false⟩, [], by decide⟩,
    ⟨up.modGrp 0 fun u => { u with conv := { u.conv with flights := [⟨0, 0, .a, false, false⟩], checking := true } }, 0, ⟨0, 0, .a, false, false⟩, [], by decide⟩⟩

theorem witness_GroupSenseAndGuards :
    (∃ (c : Chip) (g : Group) (w : Word × Bool), (c.grp[g]).conv.ovReq = some w) ∧
    (∃ (c : Chip) (g : Group), 16 ≤ (c.grp[g]).conv.ovwRun ∧ (c.grp[g]).conv.ovwDone = false ∧ c.phasesOf g ≠ []) ∧
    (∃ (c : Chip) (g : Group), 16 ≤ (c.grp[g]).conv.oorRun ∧ (c.grp[g]).conv.lost = false ∧ (c.grp[g]).cfg.diff = true ∧ ((c.grp[g]).cfg.lossWarn = true ∨ c.isMember g = true)) ∧
    (∃ (c : Chip) (g : Group), 16 ≤ (c.grp[g]).conv.oorRun ∧ (c.grp[g]).conv.lost = false ∧ (c.grp[g]).cfg.diff = true ∧ (c.grp[g]).cfg.lossWarn = false ∧ c.isMember g = false) ∧
    (∃ (c : Chip) (g : Group), (c.grp[g]).conv.lost = true ∧ (c.grp[g]).conv.checking = true ∧ 16 ≤ (c.grp[g]).conv.inRun) ∧
    (∃ (c : Chip) (e : Engine) (g : Group), groupAt (c.le[e]).cfg.group = some g ∧ (c.le[e]).cfg.en = true ∧ (c.le[e]).cfg.vffMode ≠ 0 ∧ c.law g ≠ .idle) :=
  ⟨⟨up.modGrp 0 fun u => { u with conv := { u.conv with ovReq := some (7, false) } }, 0, (7, false), by decide⟩,
    ⟨up.modGrp 0 fun u => { u with conv := { u.conv with ovwRun := 16 } }, 0, by decide⟩,
    ⟨up.modGrp 0 fun u => { u with conv := { u.conv with oorRun := 16 }, cfg := { u.cfg with diff := true, lossWarn := true } }, 0, by decide⟩,
    ⟨up.modGrp 0 fun u => { u with conv := { u.conv with oorRun := 16 }, cfg := { u.cfg with diff := true } }, 0, by decide⟩,
    ⟨up.modGrp 0 fun u => { u with conv := { u.conv with lost := true, checking := true, inRun := 16 } }, 0, by decide⟩,
    ⟨(up.modLe 0 fun u => { u with cfg := { u.cfg with vffMode := 1 } }).modGrp 0 fun u => { u with mode := .regulate }, 0, 0, by decide⟩⟩

theorem witness_AuxConversions :
    (∃ (c : Chip) (s : Slot), c.ctrlUp = true ∧ c.outOfBoot = true ∧ c.aux.busy = none ∧ c.aux.nextSlot c.aux.next = some s) ∧
    (∃ (c : Chip) (s : Slot) (notReady : Bool), c.aux.busy = some (s.val, notReady)) :=
  ⟨⟨{ up with aux := { up.aux with slots := up.aux.slots.set 4 { en := true } } }, 4, by decide⟩,
    ⟨{ up with aux := { up.aux with busy := some (4, false) } }, 4, false, by decide⟩⟩

theorem witness_SetpointSwap :
    (∃ (c : Chip), c.setpt.pending = none) ∧
    (∃ (c : Chip) (chs : List Change), c.setpt.pending = some chs) ∧
    (∃ (c : Chip) (chs : List Change), c.setpt.pending = some chs) :=
  ⟨⟨up, by decide⟩,
    ⟨up.onSetpt fun u => { u with pending := some [] }, [], by decide⟩,
    ⟨up.onSetpt fun u => { u with pending := some [] }, [], by decide⟩⟩

theorem witness_SelectionsAndPreparations :
    (∃ (c : Chip) (v : Fin 16), c.ctrlUp = true ∧ (¬(c.setpt.adopted = true ∧ c.setpt.value = v))) ∧
    (∃ (c : Chip) (v : Fin 16), c.ctrlUp = true ∧ c.setpt.adopted = true ∧ c.setpt.value = v) ∧
    (∃ (c : Chip) (p : LcmdPort) (g : Group), ∃ q ∈ (c.grp[g]).preps, q.closed = false ∧ q.port = p ∧ q.windowEnd < c.tb.count) ∧
    (∃ (c : Chip) (g : Group) (e : Engine), c.outerEngine g = some e ∧ (c.le[e]).antReq = true ∧ c.firstReq e = some .ant) :=
  ⟨⟨up, 3, by decide⟩,
    ⟨up.onSetpt fun u => { u with adopted := true, value := 3 }, 3, by decide⟩,
    ⟨up.modGrp 0 fun u => { u with preps := [{ port := 2, src := 0, step := 5, ts := 100, windowEnd := 200, arrival := 1 }] }, 2, 0, by decide⟩,
    ⟨up.modLe 0 fun u => { u with antReq := true, reqs := [.ant] }, 0, 0, by decide⟩⟩

theorem witness_LoadCommandFrames :
    (∃ (c : Chip) (p : LcmdPort) (f : List Byte), c.ctrlUp = true ∧ c.outOfBoot = true ∧ (c.lcmd[p]).cfg.en = true ∧ f.head? = some frameStart ∧ ((c.lcmd[p]).check f = .ok → frameType f ≠ 3)) ∧
    (∃ (c : Chip) (p : LcmdPort) (f : List Byte), c.ctrlUp = true ∧ c.outOfBoot = true ∧ (c.lcmd[p]).cfg.en = true ∧ f.head? = some frameStart ∧ (c.lcmd[p]).check f = .ok ∧ frameType f = 3) ∧
    (∃ (c : Chip) (p : LcmdPort) (f : List Byte), c.ctrlUp = true ∧ c.outOfBoot = true ∧ (c.lcmd[p]).cfg.en = true ∧ f.head? = some frameStart ∧ crc16 (f.take 10) ≠ BitVec.ofNat 16 (numAt f 10 1 * 256 + numAt f 11 1)) ∧
    (∃ (c : Chip) (p : LcmdPort) (f : List Byte), (c.lcmd[p]).check f = .ok ∧ frameType f ≠ 3 ∧ (c.lcmd[p]).queue.length < 4) ∧
    (∃ (c : Chip) (p : LcmdPort), (c.lcmd[p]).cfg.en = false) :=
  ⟨⟨up, 0, [0xA5], by decide⟩,
    ⟨up, 0, beat, by decide +kernel⟩,
    ⟨up, 0, [0xA5, 0, 0, 0, 0, 0, 0, 0, 0, 0, 0, 0], by decide +kernel⟩,
    ⟨up, 0, fcast, by decide +kernel⟩,
    ⟨up.modLcmd 0 fun u => { u with cfg := { u.cfg with en := false } }, 0, by decide⟩⟩

theorem witness_LoadCommandPorts :
    (∃ (c : Chip) (p : LcmdPort), c.ctrlUp = true ∧ c.outOfBoot = true ∧ (c.lcmd[p]).cfg.en = true) ∧
    (∃ (c : Chip) (p : LcmdPort), (c.lcmd[p]).alive = true ∧ (c.lcmd[p]).hbAt + (c.lcmd[p]).cfg.hbTimeout * tkMs ≤ c.tb.count) ∧
    (∃ (c : Chip) (p : LcmdPort), (c.lcmd[p]).lapseReq = true) ∧
    (∃ (c : Chip) (p : LcmdPort) (f : LcmdFrame) (rest : List LcmdFrame), (c.lcmd[p]).queue = f :: rest ∧ c.sys.dev ≠ .shutdown ∧ (c.lcmd[p]).aliveG = false ∧ (c.lcmd[p]).lapseReq = false) ∧
    (∃ (c : Chip) (p : LcmdPort) (f : LcmdFrame) (rest : List LcmdFrame), (c.lcmd[p]).queue = f :: rest) :=
  ⟨⟨up, 0, by decide⟩,
    ⟨up.modLcmd 0 fun u => { u with alive := true }, 0, by decide⟩,
    ⟨up.modLcmd 0 fun u => { u with lapseReq := true }, 0, by decide⟩,
    ⟨up.modLcmd 0 fun u => { u with queue := [⟨fcast, 9⟩] }, 0, ⟨fcast, 9⟩, [], by decide⟩,
    ⟨up.modLcmd 0 fun u => { u with queue := [⟨fcast, 9⟩] }, 0, ⟨fcast, 9⟩, [], by decide⟩⟩

theorem witness_MailboxWriteAndRead :
    (∃ (c : Chip) (m : Mailbox), c.isUp (mbxSender m) = true ∧ c.isUp (mbxReceiver m) = true ∧ (c.mbx[mbxIdx m]).full = false) ∧
    (∃ (c : Chip) (m : Mailbox), c.isUp (mbxSender m) = true ∧ c.isUp (mbxReceiver m) = false) ∧
    (∃ (c : Chip) (m : Mailbox), c.isUp (mbxSender m) = true ∧ c.isUp (mbxReceiver m) = true ∧ (c.mbx[mbxIdx m]).full = true) ∧
    (∃ (c : Chip) (m : Mailbox), c.isUp (mbxReceiver m) = true ∧ (c.mbx[mbxIdx m]).full = true) ∧
    (∃ (c : Chip) (m : Mailbox), (c.mbx[mbxIdx m]).full = false) :=
  ⟨⟨up, .bo, by decide⟩,
    ⟨up.modDom (coreIdx .owl) fun u => { u with up := false }, .bo, by decide⟩,
    ⟨up.modMbx (mbxIdx .bo) fun u => { u with full := true, written := 1 }, .bo, by decide⟩,
    ⟨up.modMbx (mbxIdx .bo) fun u => { u with full := true, written := 1 }, .bo, by decide⟩,
    ⟨up, .bo, by decide⟩⟩

theorem witness_DomainsAndDoorbells :
    (∃ (c : Chip) (r : Core) (s : Core), r ≠ s ∧ c.isUp s = true) ∧
    (∃ (c : Chip) (k : Core), (c.dom[coreIdx k]).waking = true ∧ (c.dom[coreIdx k]).up = false ∧ (c.dom[coreIdx k]).restart = false) ∧
    (∃ (c : Chip) (k : Core), c.mayPowerDown k = true ∧ ((c.dom[coreIdx k]).hold = true ∨ c.rungFirst k = true ∨ (incoming k).any (fun m => (c.mbx[mbxIdx m]).full) = true)) ∧
    (∃ (c : Chip) (k : Core), c.mayPowerDown k = true ∧ (c.dom[coreIdx k]).hold = false ∧ c.rungFirst k = false ∧ (incoming k).any (fun m => (c.mbx[mbxIdx m]).full) = false) :=
  ⟨⟨up, .owl, .badger, by decide⟩,
    ⟨up.modDom (coreIdx .owl) fun u => { u with up := false, waking := true }, .owl, by decide⟩,
    ⟨up.modDom (coreIdx .hedgehog) fun u => { u with hold := true }, .hedgehog, by decide⟩,
    ⟨up, .hedgehog, by decide⟩⟩

theorem witness_Snapshots :
    (∃ (c : Chip) (t : Nat), c.fillTick t = false) ∧
    (∃ (c : Chip) (t : Nat), c.fillTick t = true ∧ c.snap.held (!c.snap.pub) = false) ∧
    (∃ (c : Chip) (t : Nat), c.fillTick t = true ∧ c.snap.held (!c.snap.pub) = true) ∧
    (∃ (c : Chip), c.snap.filled = true) ∧
    (∃ (c : Chip) (k : Core), c.isUp k = true) ∧
    (∃ (c : Chip) (k : Core), c.isUp k = true ∧ ((c.snap.open_[coreIdx k]).isSome = true ∨ c.snap.stale[coreIdx k] = true)) ∧
    (∃ (c : Chip) (k : Core) (h : SnapHold), c.snap.open_[coreIdx k] = some h ∧ h.since + tkMs < c.tb.count) :=
  ⟨⟨up, 0, by decide⟩,
    ⟨{ up with snap := { up.snap with period := 1 } }, 24000000000, by decide⟩,
    ⟨{ up with snap := { up.snap with period := 1, open_ := up.snap.open_.set 1 (some ⟨true, 0, 0⟩) } }, 24000000000, by decide⟩,
    ⟨{ up with snap := { up.snap with filled := true } }, by decide⟩,
    ⟨up, .owl, by decide⟩,
    ⟨{ up with snap := { up.snap with open_ := up.snap.open_.set 1 (some ⟨true, 0, 0⟩) } }, .owl, by decide⟩,
    ⟨{ up with snap := { up.snap with open_ := up.snap.open_.set 1 (some ⟨true, 0, 0⟩) } }, .owl, ⟨true, 0, 0⟩, by decide⟩⟩

theorem witness_RegisterReads :
    (∃ (c : Chip) (r : Reader), c.readerUp r = true ∧ c.ctrlUp = true) ∧
    (∃ (c : Chip) (r : Reader) (a : Word), isLatchPair a.toNat = true ∧ c.readerUp r = true) ∧
    (∃ (c : Chip) (r : Reader) (a : Word), isRcl a.toNat = true ∧ c.readerUp r = true) ∧
    (∃ (c : Chip) (r : Reader), c.readerUp r = true ∧ c.powered = true) ∧
    (∃ (c : Chip) (r : Reader), c.readerUp r = true ∧ c.ctrlUp = true) ∧
    (∃ (c : Chip) (r : Reader), c.readerUp r = false) :=
  ⟨⟨up, .owl, by decide⟩,
    ⟨up, .owl, 0x00010008, by decide⟩,
    ⟨up, .owl, 0x00010000, by decide⟩,
    ⟨up, .owl, by decide⟩,
    ⟨up, .owl, by decide⟩,
    ⟨up.modDom (coreIdx .owl) fun u => { u with up := false }, .owl, by decide⟩⟩

theorem witness_MemoryErrorsAndWatchdogs :
    (∃ (c : Chip), c.ctrlUp = true) ∧
    (∃ (c : Chip), c.ctrlUp = true) ∧
    (∃ (c : Chip), c.ctrlUp = true) ∧
    (∃ (c : Chip) (b : Block), c.ctrlUp = true ∧ blockOnTimebase b.val = true) ∧
    (∃ (c : Chip), c.ctrlUp = true ∧ c.isUp .owl = true) ∧
    (∃ (c : Chip), c.ctrlUp = true ∧ c.isUp .hedgehog = true) ∧
    (∃ (c : Chip) (off : Nat) (i : Nat), c.ctrlUp = true ∧ captureEntry off = some i) ∧
    (∃ (c : Chip), c.ctrlUp = true) ∧
    (∃ (c : Chip), c.isUp .badger = true) ∧
    (∃ (c : Chip) (k : Core), k ≠ .badger ∧ c.isUp k = true) ∧
    (∃ (c : Chip), (c.dom[coreIdx .hedgehog]).restart = true) ∧
    (∃ (c : Chip), (c.dom[coreIdx .owl]).restart = true) :=
  ⟨⟨up, by decide⟩,
    ⟨up, by decide⟩,
    ⟨up, by decide⟩,
    ⟨up, tbBlock, by decide⟩,
    ⟨up, by decide⟩,
    ⟨up, by decide⟩,
    ⟨up, 0x100, 0, by decide⟩,
    ⟨up, by decide⟩,
    ⟨up, by decide⟩,
    ⟨up, .owl, by decide⟩,
    ⟨up.modDom (coreIdx .hedgehog) fun u => { u with restart := true }, by decide⟩,
    ⟨up.modDom (coreIdx .owl) fun u => { u with restart := true }, by decide⟩⟩

theorem witness_FaultLifecycle :
    (∃ (c : Chip) (b : Block) (code : Nat) (unit : Nat), c.powered = true ∧ raises b .c code = true ∧ hasUnit b code unit = true) ∧
    (∃ (c : Chip) (b : Block) (code : Nat) (unit : Nat), c.powered = true ∧ raises b .b code = true ∧ hasUnit b code unit = true) ∧
    (∃ (c : Chip) (b : Block) (code : Nat) (unit : Nat), c.powered = true ∧ raises b .a code = true ∧ hasUnit b code unit = true) ∧
    (∃ (c : Chip) (b : Block) (code : Nat) (unit : Nat) (f : FaultRec), (c.guards[b]).faults.find? (fun f => f.code == code && f.unit == unit) = some f ∧ f.present = true ∧ c.condGone b f = true) ∧
    (∃ (c : Chip) (b : Block) (code : Nat) (unit : Nat) (n : Nat) (ms : Nat) (f : FaultRec), (c.guards[b]).faults.find? (fun f => f.code == code && f.unit == unit) = some f ∧ f.present = false ∧ c.retryRecord b code unit = some (true, n, ms) ∧ (c.guards[b]).retries < n ∧ f.at_ + ms * tkMs ≤ c.tb.count) ∧
    (∃ (c : Chip) (b : Block), (c.guards[b]).concerned ≠ [] ∧ (∀ p : Phase, b = phBlock p → (c.ph[p]).pl.switching = true) ∧ (∀ g ∈ (c.guards[b]).concerned, ∃ t : Nat, (c.grp[g]).runSince = some t ∧ ∀ x : Nat, (x = t ∨ x = (c.guards[b]).lastB ∨ ∃ p : Phase, b = phBlock p ∧ x = (c.ph[p]).pl.switchedAt) → x + 64 * (if b = sysBlock ∨ b = gaugeBlock then c.sys.retryMs else (c.grp[g]).cfg.retryMs) * tkMs ≤ c.tb.count)) :=
  ⟨⟨up, sysBlock, 0x40, blockUnit sysBlock, by decide⟩,
    ⟨up, sysBlock, 0x27, blockUnit sysBlock, by decide⟩,
    ⟨up, tbBlock, 2, blockUnit tbBlock, by decide⟩,
    ⟨up.modGuard sysBlock fun u => { u with faults := [⟨0x27, 0xFF, 1, 5, true, false⟩] }, sysBlock, 0x27, 0xFF, ⟨0x27, 0xFF, 1, 5, true, false⟩, by decide⟩,
    ⟨(up.modGuard (grpBlock 0) fun u => { u with faults := [⟨0x20, 0, 1, 5, false, false⟩] }).modGrp 0 fun u => { u with cfg := { u.cfg with retryMask := 4, retryN := 3, retryMs := 10 } }, grpBlock 0, 0x20, 0, 3, 10, ⟨0x20, 0, 1, 5, false, false⟩, by decide⟩,
    ⟨(up.modGrp 0 fun u => { u with runSince := some 0 }).modGuard (grpBlock 0) fun u => { u with concerned := [0] }, grpBlock 0, by decide, by decide, fun g hg => by
    obtain rfl := List.mem_singleton.mp hg
    refine ⟨0, by decide, fun x hx => ?_⟩
    rcases hx with rfl | rfl | ⟨p, hp, rfl⟩
    · decide
    · decide
    · revert p; decide⟩⟩

theorem witness_HostReception :
    (∃ (c : Chip) (h : HostRef), c.host.rx.contains ⟨h, 0x0D, []⟩ = false ∧ (c.host.ports[h.port]).takes h.fd h.brs = true ∧ h.tag ≠ 0 ∧ c.isUp .owl = false ∧ c.original ⟨h, 0x0D, []⟩ = none ∧ c.sys.result ≠ .codeCorrupt ∧ c.host.waiting < 16) ∧
    (∃ (c : Chip) (h : HostRef) (o : HostCmd), c.host.rx = [] ∧ (c.host.ports[h.port]).takes h.fd h.brs = true ∧ h.tag ≠ 0 ∧ c.original ⟨h, 0x0D, []⟩ = some o ∧ o.body = [] ∧ c.sys.result ≠ .codeCorrupt) ∧
    (∃ (c : Chip) (h : HostRef) (block : Nat) (code : Nat) (o : HostCmd), c.host.rx = [] ∧ (c.host.ports[h.port]).takes h.fd h.brs = true ∧ h.tag ≠ 0 ∧ c.original ⟨h, 0x07, leBytes 1 block ++ leBytes 1 code ++ [0, 0]⟩ = some o ∧ o.body ≠ leBytes 1 block ++ leBytes 1 code ++ [0, 0] ∧ c.sys.result ≠ .codeCorrupt) ∧
    (∃ (c : Chip) (h : HostRef), c.host.rx = [] ∧ (c.host.ports[h.port]).takes h.fd h.brs = true ∧ h.tag ≠ 0 ∧ c.original ⟨h, 0x0D, []⟩ = none ∧ c.sys.result ≠ .codeCorrupt ∧ 16 ≤ c.host.waiting) ∧
    (∃ (c : Chip) (h : HostRef), c.host.rx = [] ∧ (c.host.ports[h.port]).takes h.fd h.brs = true ∧ h.tag = 0) ∧
    (∃ (c : Chip) (h : HostRef), c.host.rx = [] ∧ (c.host.ports[h.port]).takes h.fd h.brs = true ∧ h.tag ≠ 0 ∧ c.sys.result = .codeCorrupt) ∧
    (∃ (c : Chip) (h : HostRef), c.nextCommand = some ⟨h, 0x0D, []⟩ ∧ c.sys.dev = .shutdown) ∧
    (∃ (c : Chip) (h : HostRef) (tag : Nat) (type : Nat), c.nextCommand = some ⟨h, 0x0E, leBytes 2 tag ++ [BitVec.ofNat 8 type, 0]⟩ ∧ c.sys.dev ≠ .shutdown ∧ h.bcast = true) :=
  ⟨⟨up.modDom (coreIdx .owl) fun u => { u with up := false }, ref0, by decide⟩,
    ⟨up.onHost fun u => { u with recent := [(10 ^ 10, ⟨ref0, 0x0D, []⟩)], dupMs := 1000 }, ref0, ⟨ref0, 0x0D, []⟩, by decide⟩,
    ⟨up.onHost fun u => { u with recent := [(10 ^ 10, ⟨ref0, 0x07, []⟩)], dupMs := 1000 }, ref0, 0, 0, ⟨ref0, 0x07, []⟩, by decide⟩,
    ⟨up.onHost fun u => { u with pending := List.replicate 16 ⟨ref0, 0x0D, []⟩ }, ref0, by decide⟩,
    ⟨up, { ref0 with tag := 0 }, by decide⟩,
    ⟨up.onSys fun u => { u with result := .codeCorrupt }, ref0, by decide⟩,
    ⟨(up.asks ref0 0x0D []).onSys fun u => { u with dev := .shutdown }, ref0, by decide⟩,
    ⟨up.asks { ref0 with bcast := true } 0x0E (leBytes 2 7 ++ [BitVec.ofNat 8 9, 0]), { ref0 with bcast := true }, 7, 9, by decide⟩⟩

theorem witness_ReadRegister :
    (∃ (c : Chip) (h : HostRef) (a : Word) (n : Nat), TakesNext ⟨h, 0x01, leBytes 4 a.toNat ++ leBytes 1 n ++ [0, 0, 0]⟩ c ∧ a.toNat % 4 = 0 ∧ 1 ≤ n ∧ n ≤ 64 ∧ (∀ i < n, mapped (a.toNat + 4 * i) = true ∧ c.regUp (a.toNat + 4 * i) = true)) ∧
    (∃ (c : Chip) (h : HostRef), TakesNext ⟨h, 0x01, leBytes 4 0x00010010 ++ leBytes 1 1 ++ [0, 0, 0]⟩ c ∧ c.ctrlUp = true) ∧
    (∃ (c : Chip) (h : HostRef) (a : Word) (n : Nat), TakesNext ⟨h, 0x01, leBytes 4 a.toNat ++ leBytes 1 n ++ [0, 0, 0]⟩ c ∧ a.toNat % 4 = 0 ∧ 1 ≤ n ∧ n ≤ 64 ∧ (∃ i < n, mapped (a.toNat + 4 * i) = false)) ∧
    (∃ (c : Chip) (h : HostRef) (a : Word) (n : Nat), TakesNext ⟨h, 0x01, leBytes 4 a.toNat ++ leBytes 1 n ++ [0, 0, 0]⟩ c ∧ (a.toNat % 4 ≠ 0 ∨ n < 1 ∨ 64 < n)) :=
  ⟨⟨up.asks ref0 0x01 (leBytes 4 (0x00010010 : Word).toNat ++ leBytes 1 (1 : Nat) ++ [0, 0, 0]), ref0, 0x00010010, 1, by decide⟩,
    ⟨up.asks ref0 0x01 (leBytes 4 0x00010010 ++ leBytes 1 1 ++ [0, 0, 0]), ref0, by decide⟩,
    ⟨up.asks ref0 0x01 (leBytes 4 (0x02000000 : Word).toNat ++ leBytes 1 (1 : Nat) ++ [0, 0, 0]), ref0, 0x02000000, 1, by decide⟩,
    ⟨up.asks ref0 0x01 (leBytes 4 (0x00010010 : Word).toNat ++ leBytes 1 (0 : Nat) ++ [0, 0, 0]), ref0, 0x00010010, 0, by decide⟩⟩

theorem witness_GroupRequests :
    (∃ (c : Chip) (h : HostRef) (g : Group) (v : Word) (m : Word), TakesNext ⟨h, 0x02, writeBody (reqAddr g) v m⟩ c ∧ CarriedOut ⟨h, 0x02, writeBody (reqAddr g) v m⟩ c ∧ c.ctrlUp = true ∧ c.badgerApplies = true ∧ (c.grp[g]).mode ≠ .sweep ∧ setsBit 0 v m = true ∧ m.getLsbD 1 = false ∧ ((c.grp[g]).mode ≠ .standby ∨ (c.modGrp g (fun u => { u with enable := true })).mayStart g = false)) ∧
    (∃ (c : Chip) (h : HostRef) (g : Group) (v : Word) (m : Word), TakesNext ⟨h, 0x02, writeBody (reqAddr g) v m⟩ c ∧ CarriedOut ⟨h, 0x02, writeBody (reqAddr g) v m⟩ c ∧ c.ctrlUp = true ∧ c.badgerApplies = true ∧ (c.grp[g]).mode = .standby ∧ setsBit 0 v m = true ∧ m.getLsbD 1 = false ∧ (c.modGrp g (fun u => { u with enable := true })).mayStart g = true ∧ c.shdnAsked = false) ∧
    (∃ (c : Chip) (h : HostRef) (g : Group) (v : Word) (m : Word), TakesNext ⟨h, 0x02, writeBody (reqAddr g) v m⟩ c ∧ CarriedOut ⟨h, 0x02, writeBody (reqAddr g) v m⟩ c ∧ c.ctrlUp = true ∧ c.badgerApplies = true ∧ (c.grp[g]).mode = .standby ∧ clearsBit 0 v m = true ∧ m.getLsbD 1 = false) ∧
    (∃ (c : Chip) (h : HostRef) (g : Group) (v : Word) (m : Word), TakesNext ⟨h, 0x02, writeBody (reqAddr g) v m⟩ c ∧ CarriedOut ⟨h, 0x02, writeBody (reqAddr g) v m⟩ c ∧ c.ctrlUp = true ∧ c.sys.dev = .perGroup ∧ c.badgerRuns = true ∧ c.decides g = true ∧ (c.grp[g]).mode = .precharge ∧ clearsBit 0 v m = true ∧ m.getLsbD 1 = false) ∧
    (∃ (c : Chip) (h : HostRef) (g : Group) (v : Word) (m : Word), TakesNext ⟨h, 0x02, writeBody (reqAddr g) v m⟩ c ∧ CarriedOut ⟨h, 0x02, writeBody (reqAddr g) v m⟩ c ∧ c.ctrlUp = true ∧ c.sys.dev = .perGroup ∧ c.badgerRuns = true ∧ c.decides g = true ∧ ((c.grp[g]).mode = .softstart ∨ isRunning (c.grp[g]).mode = true) ∧ (c.grp[g]).mode ≠ .sweep ∧ (c.grp[g]).ramping = false ∧ c.cutsAtOnce g = true ∧ c.shdnAsked = false ∧ clearsBit 0 v m = true ∧ m.getLsbD 1 = false) ∧
    (∃ (c : Chip) (h : HostRef) (g : Group) (v : Word) (m : Word), TakesNext ⟨h, 0x02, writeBody (reqAddr g) v m⟩ c ∧ CarriedOut ⟨h, 0x02, writeBody (reqAddr g) v m⟩ c ∧ c.ctrlUp = true ∧ c.sys.dev = .perGroup ∧ c.badgerRuns = true ∧ c.decides g = true ∧ ((c.grp[g]).mode = .softstart ∨ isRunning (c.grp[g]).mode = true) ∧ (c.grp[g]).mode ≠ .sweep ∧ (c.grp[g]).ramping = false ∧ c.cutsAtOnce g = false ∧ clearsBit 0 v m = true ∧ m.getLsbD 1 = false) ∧
    (∃ (c : Chip) (h : HostRef) (g : Group) (v : Word) (m : Word), TakesNext ⟨h, 0x02, writeBody (reqAddr g) v m⟩ c ∧ CarriedOut ⟨h, 0x02, writeBody (reqAddr g) v m⟩ c ∧ c.ctrlUp = true ∧ c.sys.dev = .perGroup ∧ c.badgerRuns = true ∧ c.decides g = true ∧ (c.grp[g]).mode = .regulate ∧ (c.grp[g]).ramping = false ∧ (c.grp[g]).runSel = false ∧ (c.grp[g]).cfg.chargeOk = true ∧ c.gauge.lost = false ∧ c.shdnAsked = false ∧ setsBit 1 v m = true ∧ m.getLsbD 0 = false) ∧
    (∃ (c : Chip) (h : HostRef) (g : Group) (v : Word) (m : Word), TakesNext ⟨h, 0x02, writeBody (reqAddr g) v m⟩ c ∧ CarriedOut ⟨h, 0x02, writeBody (reqAddr g) v m⟩ c ∧ c.ctrlUp = true ∧ c.badgerApplies = true ∧ (c.grp[g]).mode = .standby ∧ clearsBit 1 v m = true ∧ m.getLsbD 0 = false) ∧
    (∃ (c : Chip) (h : HostRef) (g : Group) (v : Word) (m : Word), TakesNext ⟨h, 0x02, writeBody (reqAddr g) v m⟩ c ∧ CarriedOut ⟨h, 0x02, writeBody (reqAddr g) v m⟩ c ∧ c.ctrlUp = true ∧ c.badgerApplies = false ∧ setsBit 0 v m = true) :=
  ⟨⟨(up.modGrp 0 fun u => { u with mode := .regulate }).asks ref0 0x02 (writeBody (reqAddr (0 : Group)) (1 : Word) (1 : Word)), ref0, 0, 1, 1, by decide⟩,
    ⟨up.asks ref0 0x02 (writeBody (reqAddr (0 : Group)) (1 : Word) (1 : Word)), ref0, 0, 1, 1, by decide⟩,
    ⟨up.asks ref0 0x02 (writeBody (reqAddr (0 : Group)) (0 : Word) (1 : Word)), ref0, 0, 0, 1, by decide⟩,
    ⟨(up.modGrp 0 fun u => { u with mode := .precharge }).asks ref0 0x02 (writeBody (reqAddr (0 : Group)) (0 : Word) (1 : Word)), ref0, 0, 0, 1, by decide⟩,
    ⟨((up.modGrp 0 fun u => { u with mode := .regulate }).onSys fun u => { u with shdnCut := 1 }).asks ref0 0x02 (writeBody (reqAddr (0 : Group)) (0 : Word) (1 : Word)), ref0, 0, 0, 1, by decide⟩,
    ⟨((up.modGrp 0 fun u => { u with mode := .regulate }).onSetpt fun u => { u with active := u.active.set 0 { refTo := 100 } }).asks ref0 0x02 (writeBody (reqAddr (0 : Group)) (0 : Word) (1 : Word)), ref0, 0, 0, 1, by decide⟩,
    ⟨(up.modGrp 0 fun u => { u with mode := .regulate, cfg := { u.cfg with chargeOk := true } }).asks ref0 0x02 (writeBody (reqAddr (0 : Group)) (2 : Word) (2 : Word)), ref0, 0, 2, 2, by decide⟩,
    ⟨up.asks ref0 0x02 (writeBody (reqAddr (0 : Group)) (0 : Word) (2 : Word)), ref0, 0, 0, 2, by decide⟩,
    ⟨(up.onSys fun u => { u with dev := .standbyHeld }).asks ref0 0x02 (writeBody (reqAddr (0 : Group)) (1 : Word) (1 : Word)), ref0, 0, 1, 1, by decide⟩⟩

theorem witness_HostWrites :
    (∃ (c : Chip) (h : HostRef) (a : Word) (v : Word) (m : Word), TakesNext ⟨h, 0x02, writeBody a.toNat v m⟩ c ∧ mapped a.toNat = false) ∧
    (∃ (c : Chip) (h : HostRef) (v : Word) (m : Word), TakesNext ⟨h, 0x02, writeBody 0x00010010 v m⟩ c) ∧
    (∃ (c : Chip) (h : HostRef) (v : Word) (m : Word), TakesNext ⟨h, 0x02, writeBody rstCauseAddr v m⟩ c ∧ c.powered = true ∧ setsBit 4 v m = true) ∧
    (∃ (c : Chip) (h : HostRef) (g : Group) (v : Word) (m : Word), TakesNext ⟨h, 0x02, writeBody (hselAddr g) v m⟩ c ∧ CarriedOut ⟨h, 0x02, writeBody (hselAddr g) v m⟩ c ∧ c.ctrlUp = true ∧ c.badgerApplies = true ∧ m.toNat % 16 ≠ 0 ∧ (c.grp[g]).cfg.hostEn = true ∧ (c.setRec g ((merge (BitVec.ofNat 32 (c.grp[g]).hsel) v m).toNat % 16)).defined = true ∧ c.isMember g = false) ∧
    (∃ (c : Chip) (h : HostRef) (g : Group) (v : Word) (m : Word), TakesNext ⟨h, 0x02, writeBody (hselAddr g) v m⟩ c ∧ CarriedOut ⟨h, 0x02, writeBody (hselAddr g) v m⟩ c ∧ c.ctrlUp = true ∧ c.badgerApplies = true ∧ m.toNat % 16 ≠ 0 ∧ (c.grp[g]).cfg.hostEn = true ∧ (c.setRec g ((merge (BitVec.ofNat 32 (c.grp[g]).hsel) v m).toNat % 16)).defined = false) ∧
    (∃ (c : Chip) (h : HostRef) (v : Word) (m : Word), TakesNext ⟨h, 0x02, writeBody modeReqAddr v m⟩ c ∧ CarriedOut ⟨h, 0x02, writeBody modeReqAddr v m⟩ c ∧ (c.badgerApplies = true ∨ (c.latched = true ∧ c.sys.dev = .safe)) ∧ c.outOfBoot = true ∧ c.sys.dev ≠ .shutdown ∧ setsBit 0 v m = true) ∧
    (∃ (c : Chip) (h : HostRef) (v : Word) (m : Word), TakesNext ⟨h, 0x02, writeBody gaugeCmdAddr v m⟩ c ∧ c.ctrlUp = true ∧ c.gauge.cfg.en = true ∧ setsBit 0 v m = true ∧ c.nv.readOnly = false) ∧
    (∃ (c : Chip) (h : HostRef) (v : Word) (m : Word), TakesNext ⟨h, 0x02, writeBody gaugeCmdAddr v m⟩ c ∧ c.ctrlUp = true ∧ c.gauge.cfg.en = false) ∧
    (∃ (c : Chip) (h : HostRef) (b : Block) (v : Word) (m : Word), TakesNext ⟨h, 0x02, writeBody (statusAddr b) v m⟩ c ∧ c.powered = true ∧ setsBit 28 v m = true ∧ (c.guards[b]).c = true) :=
  ⟨⟨up.asks ref0 0x02 (writeBody (0x02000000 : Word).toNat (0 : Word) (0 : Word)), ref0, 0x02000000, 0, 0, by decide⟩,
    ⟨up.asks ref0 0x02 (writeBody 0x00010010 (0 : Word) (0 : Word)), ref0, 0, 0, by decide⟩,
    ⟨up.asks ref0 0x02 (writeBody rstCauseAddr (0x10 : Word) (0x10 : Word)), ref0, 0x10, 0x10, by decide⟩,
    ⟨((up.modGrp 0 fun u => { u with cfg := { u.cfg with hostEn := true } }).onSetpt fun u => { u with sets := u.sets.set 3 (Vector.replicate 4 { defined := true }) }).asks ref0 0x02 (writeBody (hselAddr (0 : Group)) (3 : Word) (15 : Word)), ref0, 0, 3, 15, by decide⟩,
    ⟨(up.modGrp 0 fun u => { u with cfg := { u.cfg with hostEn := true } }).asks ref0 0x02 (writeBody (hselAddr (0 : Group)) (3 : Word) (15 : Word)), ref0, 0, 3, 15, by decide⟩,
    ⟨up.asks ref0 0x02 (writeBody modeReqAddr (1 : Word) (1 : Word)), ref0, 1, 1, by decide⟩,
    ⟨up.asks ref0 0x02 (writeBody gaugeCmdAddr (1 : Word) (1 : Word)), ref0, 1, 1, by decide⟩,
    ⟨(up.onGauge fun u => { u with cfg := {} }).asks ref0 0x02 (writeBody gaugeCmdAddr (0 : Word) (0 : Word)), ref0, 0, 0, by decide⟩,
    ⟨(up.modGuard 3 fun u => { u with c := true, cCode := 0x50 }).asks ref0 0x02 (writeBody (statusAddr (3 : Block)) (0x10000000 : Word) (0x10000000 : Word)), ref0, 3, 0x10000000, 0x10000000, by decide⟩⟩

theorem witness_FactoryTestAndFaultFrames :
    (∃ (c : Chip) (h : HostRef) (v : Word) (m : Word), TakesNext ⟨h, 0x02, writeBody fiCtlAddr v m⟩ c ∧ c.powered = true ∧ c.sys.test = false) ∧
    (∃ (c : Chip) (h : HostRef) (v : Word) (m : Word) (b : Block) (code : Nat) (unit : Nat), TakesNext ⟨h, 0x02, writeBody fiCtlAddr v m⟩ c ∧ c.powered = true ∧ c.sys.test = true ∧ m.toNat % 256 ≠ 0 ∧ (merge (BitVec.ofNat 32 c.sys.fiCtl) v m).toNat % 2 ^ 24 = unit * 65536 + code * 256 + b.val ∧ code < 256 ∧ isBootFault code = false ∧ hasUnit b code unit = true ∧ c.injectedClass b code = some .c ∧ b ≠ owlBlock ∧ b ≠ hhBlock) ∧
    (∃ (c : Chip) (h : HostRef) (v : Word) (m : Word) (b : Block) (code : Nat) (unit : Nat), TakesNext ⟨h, 0x02, writeBody fiCtlAddr v m⟩ c ∧ c.powered = true ∧ c.sys.test = true ∧ m.toNat % 256 ≠ 0 ∧ (merge (BitVec.ofNat 32 c.sys.fiCtl) v m).toNat % 2 ^ 24 = unit * 65536 + code * 256 + b.val ∧ code < 256 ∧ isBootFault code = false ∧ hasUnit b code unit = true ∧ c.injectedClass b code = some .b) ∧
    (∃ (c : Chip) (h : HostRef) (v : Word) (m : Word) (b : Block) (code : Nat) (unit : Nat), TakesNext ⟨h, 0x02, writeBody fiCtlAddr v m⟩ c ∧ c.powered = true ∧ c.sys.test = true ∧ m.toNat % 256 ≠ 0 ∧ (merge (BitVec.ofNat 32 c.sys.fiCtl) v m).toNat % 2 ^ 24 = unit * 65536 + code * 256 + b.val ∧ code < 256 ∧ isBootFault code = false ∧ hasUnit b code unit = true ∧ c.injectedClass b code = some .a) ∧
    (∃ (c : Chip) (h : HostRef) (v : Word) (m : Word) (b : Block) (k : Core) (code : Nat) (unit : Nat), TakesNext ⟨h, 0x02, writeBody fiCtlAddr v m⟩ c ∧ c.powered = true ∧ c.sys.test = true ∧ m.toNat % 256 ≠ 0 ∧ (merge (BitVec.ofNat 32 c.sys.fiCtl) v m).toNat % 2 ^ 24 = unit * 65536 + code * 256 + b.val ∧ code < 256 ∧ isBootFault code = false ∧ hasUnit b code unit = true ∧ c.injectedClass b code = some .c ∧ (k = .owl ∧ b = owlBlock ∨ k = .hedgehog ∧ b = hhBlock) ∧ c.isUp k = true) ∧
    (∃ (c : Chip) (h : HostRef) (v : Word) (m : Word) (code : Nat) (unit : Nat), TakesNext ⟨h, 0x02, writeBody fiCtlAddr v m⟩ c ∧ c.powered = true ∧ c.sys.test = true ∧ m.toNat % 256 ≠ 0 ∧ (merge (BitVec.ofNat 32 c.sys.fiCtl) v m).toNat % 2 ^ 24 = unit * 65536 + code * 256 + hhBlock.val ∧ code < 256 ∧ isBootFault code = false ∧ hasUnit hhBlock code unit = true ∧ c.injectedClass hhBlock code = some .c ∧ c.isUp .hedgehog = false) ∧
    (∃ (c : Chip) (bs : List Byte), c.sys.unlockOpen = true ∧ bs = Config.unlockValue) ∧
    (∃ (c : Chip) (bs : List Byte), c.sys.unlockOpen = true ∧ bs ≠ Config.unlockValue) ∧
    (∃ (c : Chip), c.sys.unlockOpen = true) ∧
    (∃ (c : Chip), c.sys.unlockOpen = false) ∧
    (∃ (c : Chip) (p : CanPort) (f : List Byte) (rest : List (List Byte)), (c.host.ports[p]).faults = f :: rest ∧ c.isUp .owl = true ∧ (c.host.ports[p]).onBus = true ∧ (c.host.ports[p]).overflow = false) ∧
    (∃ (c : Chip) (p : CanPort) (f : List Byte) (rest : List (List Byte)), (c.host.ports[p]).faults = f :: rest ∧ c.isUp .owl = true ∧ (c.host.ports[p]).onBus = true ∧ (c.host.ports[p]).overflow = true ∧ (∀ x ∈ f :: rest, x.length = 16)) :=
  ⟨⟨up.asks ref0 0x02 (writeBody fiCtlAddr (0 : Word) (0 : Word)), ref0, 0, 0, by decide⟩,
    ⟨(up.onSys fun u => { u with test := true }).asks ref0 0x02 (writeBody fiCtlAddr (BitVec.ofNat 32 (0xFF * 65536 + 64 * 256 + (sysBlock : Block).val) : Word) (0xFFFFFFFF : Word)), ref0, BitVec.ofNat 32 (0xFF * 65536 + 64 * 256 + (sysBlock : Block).val), 0xFFFFFFFF, sysBlock, 64, 0xFF, by decide⟩,
    ⟨(up.onSys fun u => { u with test := true }).asks ref0 0x02 (writeBody fiCtlAddr (BitVec.ofNat 32 (0xFF * 65536 + 39 * 256 + (sysBlock : Block).val) : Word) (0xFFFFFFFF : Word)), ref0, BitVec.ofNat 32 (0xFF * 65536 + 39 * 256 + (sysBlock : Block).val), 0xFFFFFFFF, sysBlock, 39, 0xFF, by decide⟩,
    ⟨(up.onSys fun u => { u with test := true }).asks ref0 0x02 (writeBody fiCtlAddr (BitVec.ofNat 32 (0xFF * 65536 + 2 * 256 + (tbBlock : Block).val) : Word) (0xFFFFFFFF : Word)), ref0, BitVec.ofNat 32 (0xFF * 65536 + 2 * 256 + (tbBlock : Block).val), 0xFFFFFFFF, tbBlock, 2, 0xFF, by decide⟩,
    ⟨(up.onSys fun u => { u with test := true }).asks ref0 0x02 (writeBody fiCtlAddr (BitVec.ofNat 32 (0xFF * 65536 + 0x5F * 256 + (owlBlock : Block).val) : Word) (0xFFFFFFFF : Word)), ref0, BitVec.ofNat 32 (0xFF * 65536 + 0x5F * 256 + (owlBlock : Block).val), 0xFFFFFFFF, owlBlock, .owl, 0x5F, 0xFF, by decide⟩,
    ⟨((up.onSys fun u => { u with test := true }).modDom (coreIdx .hedgehog) fun u => { u with up := false }).asks ref0 0x02 (writeBody fiCtlAddr (BitVec.ofNat 32 (0xFF * 65536 + 0x60 * 256 + (hhBlock : Block).val) : Word) (0xFFFFFFFF : Word)), ref0, BitVec.ofNat 32 (0xFF * 65536 + 0x60 * 256 + (hhBlock : Block).val), 0xFFFFFFFF, 0x60, 0xFF, by decide⟩,
    ⟨up.onSys fun u => { u with unlockOpen := true }, Config.unlockValue, by decide, rfl⟩,
    ⟨up.onSys fun u => { u with unlockOpen := true }, 0 :: Config.unlockValue, by decide, List.cons_ne_self _ _⟩,
    ⟨up.onSys fun u => { u with unlockOpen := true }, by decide⟩,
    ⟨up, by decide⟩,
    ⟨up.modCan 0 fun u => { u with faults := [[1]] }, 0, [1], [], by decide⟩,
    ⟨up.modCan 0 fun u => { u with faults := [List.replicate 16 0], overflow := true }, 0, List.replicate 16 0, [], by decide⟩⟩

theorem witness_FaultClears :
    (∃ (c : Chip) (h : HostRef) (block : Nat) (code : Nat), TakesNext ⟨h, 0x07, leBytes 1 block ++ leBytes 1 code ++ [0, 0]⟩ c ∧ CarriedOut ⟨h, 0x07, leBytes 1 block ++ leBytes 1 code ++ [0, 0]⟩ c ∧ (block ≤ 44 ∨ block = 0xFF) ∧ (¬(1 ≤ code ∧ code ≤ 4 ∧ (blocksNamed block).any (fun b => (c.guards[b]).aCode == code) = true)) ∧ (blocksNamed block).any (c.holds code) = false) ∧
    (∃ (c : Chip) (h : HostRef) (block : Nat) (code : Nat), TakesNext ⟨h, 0x07, leBytes 1 block ++ leBytes 1 code ++ [0, 0]⟩ c ∧ CarriedOut ⟨h, 0x07, leBytes 1 block ++ leBytes 1 code ++ [0, 0]⟩ c ∧ (block ≤ 44 ∨ block = 0xFF) ∧ 1 ≤ code ∧ code ≤ 4 ∧ (blocksNamed block).any (fun b => (c.guards[b]).aCode == code) = true) ∧
    (∃ (c : Chip) (h : HostRef) (block : Nat) (code : Nat), TakesNext ⟨h, 0x07, leBytes 1 block ++ leBytes 1 code ++ [0, 0]⟩ c ∧ CarriedOut ⟨h, 0x07, leBytes 1 block ++ leBytes 1 code ++ [0, 0]⟩ c ∧ 44 < block ∧ block ≠ 0xFF) ∧
    (∃ (c : Chip) (h : HostRef) (b : Block) (code : Nat), TakesNext ⟨h, 0x07, leBytes 1 b.val ++ leBytes 1 code ++ [0, 0]⟩ c ∧ CarriedOut ⟨h, 0x07, leBytes 1 b.val ++ leBytes 1 code ++ [0, 0]⟩ c ∧ (¬(1 ≤ code ∧ code ≤ 4 ∧ (c.guards[b]).aCode = code))) :=
  ⟨⟨up.asks ref0 0x07 (leBytes 1 (0 : Nat) ++ leBytes 1 (0x10 : Nat) ++ [0, 0]), ref0, 0, 0x10, by decide⟩,
    ⟨(up.modGuard 0 fun u => { u with aCode := 1 }).asks ref0 0x07 (leBytes 1 (0 : Nat) ++ leBytes 1 (1 : Nat) ++ [0, 0]), ref0, 0, 1, by decide⟩,
    ⟨up.asks ref0 0x07 (leBytes 1 (45 : Nat) ++ leBytes 1 (1 : Nat) ++ [0, 0]), ref0, 45, 1, by decide⟩,
    ⟨up.asks ref0 0x07 (leBytes 1 (0 : Block).val ++ leBytes 1 (0x10 : Nat) ++ [0, 0]), ref0, 0, 0x10, by decide⟩⟩

theorem witness_CanFramesAndAnswers :
    (∃ (c : Chip) (f : CanFrame), (f.good = false ∨ f.extended = false ∨ f.ident % 8192 ≠ c.host.netId ∨ (c.host.ports[f.port]).takes f.fd f.brs = false)) ∧
    (∃ (c : Chip) (f : CanFrame), f.good = true ∧ f.extended = true ∧ f.ident / 2 ^ 25 % 2 = 0 ∧ f.ident % 8192 = c.host.netId ∧ f.ident / 8192 % 16 = c.sett.addr.val ∧ f.ident / 2 ^ 17 % 256 ≠ 0xFF ∧ (c.host.ports[f.port]).takes f.fd f.brs = true ∧ 4 ≤ f.data.length ∧ f.data.length ≤ 64 ∧ numAt f.data 0 2 ≠ 0 ∧ numAt f.data 2 1 = 0 ∧ (c.host.ports[f.port]).reasm = []) ∧
    (∃ (c : Chip) (p : CanPort) (type : Nat) (tag : Nat), (c.host.ports[p]).reasm.any (fun r => r.type == type && r.tag == tag && decide (r.at_ + 10 * tkMs < c.tb.count)) = true) ∧
    (∃ (c : Chip) (h : HostCmd) (r : Result) (body : List Byte) (rest : List (HostCmd × Result × List Byte)), c.host.answers = (h, r, body) :: rest ∧ c.isUp .owl = true ∧ (c.host.ports[h.ref.port]).onBus = true) ∧
    (∃ (c : Chip) (p : CanPort), (c.host.ports[p]).onBus = true) ∧
    (∃ (c : Chip) (p : CanPort), (c.host.ports[p]).st = .busOff) :=
  ⟨⟨up, { port := 0, ident := 0, extended := false, fd := false, brs := false, data := [] }, by decide⟩,
    ⟨up, { port := 0, ident := 0, extended := true, fd := true, brs := false, data := [1, 0, 0, 0] }, by decide⟩,
    ⟨up.modCan 0 fun u => { u with reasm := [⟨1, 2, 1, [], false, 0, false, false, 0⟩] }, 0, 1, 2, by decide⟩,
    ⟨up.onHost fun u => { u with answers := [(⟨ref0, 1, []⟩, .ok, [])] }, ⟨ref0, 1, []⟩, .ok, [], [], by decide⟩,
    ⟨up, 0, by decide⟩,
    ⟨up.modCan 0 fun u => { u with st := .busOff }, 0, by decide⟩⟩

theorem witness_HostTelemetry :
    (∃ (c : Chip) (h : HostRef) (items : List Nat), TakesNext ⟨h, 0x03, [BitVec.ofNat 8 items.length, 0, 0, 0] ++ itemBytes items⟩ c ∧ itemsOk items = true ∧ telemSize items ≤ 480 ∧ c.snap.stale[coreIdx .owl] = false) ∧
    (∃ (c : Chip) (h : HostRef) (items : List Nat), TakesNext ⟨h, 0x03, [BitVec.ofNat 8 items.length, 0, 0, 0] ++ itemBytes items⟩ c ∧ itemsOk items = true ∧ telemSize items ≤ 480 ∧ c.snap.stale[coreIdx .owl] = true) ∧
    (∃ (c : Chip) (h : HostRef) (items : List Nat), TakesNext ⟨h, 0x03, [BitVec.ofNat 8 items.length, 0, 0, 0] ++ itemBytes items⟩ c ∧ (itemsOk items = false ∨ 480 < telemSize items)) ∧
    (∃ (c : Chip) (h : HostRef) (r : SubReq) (s : Fin 8), TakesNext ⟨h, 0x04, subBody r⟩ c ∧ r.stream = s.val ∧ 1 ≤ r.prio ∧ r.prio ≤ 7 ∧ r.ports ≤ 3 ∧ itemsOk r.items = true ∧ 4 + telemSize r.items ≤ 480 ∧ r.periodMs = 0) ∧
    (∃ (c : Chip) (h : HostRef) (r : SubReq) (s : Fin 8), TakesNext ⟨h, 0x04, subBody r⟩ c ∧ r.stream = s.val ∧ 1 ≤ r.prio ∧ r.prio ≤ 7 ∧ r.ports ≤ 3 ∧ itemsOk r.items = true ∧ 4 + telemSize r.items ≤ 480 ∧ r.periodMs ≠ 0 ∧ r.stream < c.host.streamMax ∧ c.host.streamMin ≤ r.periodMs ∧ (∀ p : CanPort, (portsOf r h.port).testBit p.val = true → c.host.chargedBy p s + streamRate c.host.ports[p] r.items r.periodMs ≤ (c.host.streamBps : Rat))) ∧
    (∃ (c : Chip) (h : HostRef) (r : SubReq) (s : Fin 8), TakesNext ⟨h, 0x04, subBody r⟩ c ∧ r.stream = s.val ∧ 1 ≤ r.prio ∧ r.prio ≤ 7 ∧ r.ports ≤ 3 ∧ itemsOk r.items = true ∧ 4 + telemSize r.items ≤ 480 ∧ r.periodMs ≠ 0 ∧ (c.host.streamMax ≤ r.stream ∨ r.periodMs < c.host.streamMin)) ∧
    (∃ (c : Chip) (k : Fin 8) (x : Stream), c.host.streams[k] = some x ∧ x.at_ + x.periodMs * tkMs ≤ c.tb.count ∧ c.isUp .owl = true ∧ c.snap.stale[coreIdx .owl] = false) ∧
    (∃ (c : Chip) (k : Fin 8) (x : Stream), c.host.streams[k] = some x ∧ x.at_ + x.periodMs * tkMs ≤ c.tb.count ∧ c.isUp .owl = false) ∧
    (∃ (c : Chip) (k : Fin 8), (∀ x : Stream, c.host.streams[k] = some x → c.tb.count < x.at_ + x.periodMs * tkMs)) :=
  ⟨⟨up.asks ref0 0x03 ([BitVec.ofNat 8 ([0] : List Nat).length, 0, 0, 0] ++ itemBytes ([0] : List Nat)), ref0, [0], by decide⟩,
    ⟨({ up with snap := { up.snap with stale := up.snap.stale.set 1 true } } : Chip).asks ref0 0x03 ([BitVec.ofNat 8 ([0] : List Nat).length, 0, 0, 0] ++ itemBytes ([0] : List Nat)), ref0, [0], by decide⟩,
    ⟨up.asks ref0 0x03 ([BitVec.ofNat 8 ([] : List Nat).length, 0, 0, 0] ++ itemBytes ([] : List Nat)), ref0, [], by decide⟩,
    ⟨up.asks ref0 0x04 (subBody (⟨1, 1, 0, 1, [0]⟩ : SubReq)), ref0, ⟨1, 1, 0, 1, [0]⟩, 1, by decide⟩,
    ⟨(up.onHost fun u => { u with streamMax := 8, streamMin := 10, streamBps := 1000000 }).asks ref0 0x04 (subBody (⟨1, 1, 1000, 1, [0]⟩ : SubReq)), ref0, ⟨1, 1, 1000, 1, [0]⟩, 1, by decide +kernel⟩,
    ⟨up.asks ref0 0x04 (subBody (⟨1, 1, 1000, 1, [0]⟩ : SubReq)), ref0, ⟨1, 1, 1000, 1, [0]⟩, 1, by decide⟩,
    ⟨up.onHost fun u => { u with streams := u.streams.set 0 (some ⟨1, 100, 1, [0], 0, 0⟩) }, 0, ⟨1, 100, 1, [0], 0, 0⟩, by decide⟩,
    ⟨(up.onHost fun u => { u with streams := u.streams.set 0 (some ⟨1, 100, 1, [0], 0, 0⟩) }).modDom (coreIdx .owl) fun u => { u with up := false }, 0, ⟨1, 100, 1, [0], 0, 0⟩, by decide⟩,
    ⟨up.onHost fun u => { u with streams := u.streams.set 0 (some ⟨1, 60000, 1, [0], 0, 10 ^ 10⟩) }, 0, by decide⟩⟩

theorem witness_SweepCommands :
    (∃ (c : Chip) (h : HostRef) (x : SweepDesc) (g : Group), TakesNext ⟨h, 0x05, descBytes x⟩ c ∧ CarriedOut ⟨h, 0x05, descBytes x⟩ c ∧ c.sweepRefusal x = none ∧ x.group = g.val ∧ (c.sett.groups[g]).span = false ∧ c.shdnAsked = false) ∧
    (∃ (c : Chip) (h : HostRef) (x : SweepDesc) (r : Result), TakesNext ⟨h, 0x05, descBytes x⟩ c ∧ CarriedOut ⟨h, 0x05, descBytes x⟩ c ∧ c.sweepRefusal x = some r) ∧
    (∃ (c : Chip) (h : HostRef) (tag : Nat), TakesNext ⟨h, 0x06, leBytes 2 tag ++ [0, 0]⟩ c ∧ CarriedOut ⟨h, 0x06, leBytes 2 tag ++ [0, 0]⟩ c ∧ c.sweep.ask ≠ some tag ∧ c.sweep.st ≠ .idle ∧ c.sweep.orig = true ∧ c.sweep.tag = tag) ∧
    (∃ (c : Chip) (h : HostRef) (tag : Nat), TakesNext ⟨h, 0x06, leBytes 2 tag ++ [0, 0]⟩ c ∧ CarriedOut ⟨h, 0x06, leBytes 2 tag ++ [0, 0]⟩ c ∧ c.sweep.ask = some tag) ∧
    (∃ (c : Chip) (h : HostRef) (tag : Nat), TakesNext ⟨h, 0x06, leBytes 2 tag ++ [0, 0]⟩ c ∧ CarriedOut ⟨h, 0x06, leBytes 2 tag ++ [0, 0]⟩ c ∧ c.sweep.st = .idle ∧ c.sweep.ask ≠ some tag) :=
  ⟨⟨(up.modGrp 0 fun u => { u with mode := .regulate, cfg := { u.cfg with period := 307200 } }).asks ref0 0x05 (descBytes plan0), ref0, plan0, 0, by decide +kernel⟩,
    ⟨up.asks ref0 0x05 (descBytes plan0), ref0, plan0, .wrongMode, by decide +kernel⟩,
    ⟨(up.onSweep fun u => { u with st := .running, orig := true, tag := 7 }).asks ref0 0x06 (leBytes 2 (7 : Nat) ++ [0, 0]), ref0, 7, by decide⟩,
    ⟨(up.onSweep fun u => { u with ask := some 0 }).asks ref0 0x06 (leBytes 2 (0 : Nat) ++ [0, 0]), ref0, 0, by decide⟩,
    ⟨up.asks ref0 0x06 (leBytes 2 (0 : Nat) ++ [0, 0]), ref0, 0, by decide⟩⟩

theorem witness_NvAccess :
    (∃ (c : Chip) (h : HostRef) (pw : Word) (key : Nat), TakesNext ⟨h, 0x08, leBytes 4 pw.toNat ++ leBytes 2 key ++ [0, 0]⟩ c ∧ c.nv.locked = false ∧ (c.nv.readPw = 0 ∨ c.nv.writePw = 0 ∨ pw = c.nv.readPw ∨ pw = c.nv.writePw)) ∧
    (∃ (c : Chip) (h : HostRef) (pw : Word) (key : Nat), TakesNext ⟨h, 0x08, leBytes 4 pw.toNat ++ leBytes 2 key ++ [0, 0]⟩ c ∧ c.nv.locked = false ∧ c.nv.readPw ≠ 0 ∧ c.nv.writePw ≠ 0 ∧ pw ≠ c.nv.readPw ∧ pw ≠ c.nv.writePw ∧ c.nv.fails < 7) ∧
    (∃ (c : Chip) (h : HostRef) (pw : Word) (key : Nat), TakesNext ⟨h, 0x08, leBytes 4 pw.toNat ++ leBytes 2 key ++ [0, 0]⟩ c ∧ c.nv.locked = false ∧ c.nv.readPw ≠ 0 ∧ c.nv.writePw ≠ 0 ∧ pw ≠ c.nv.readPw ∧ pw ≠ c.nv.writePw ∧ 7 ≤ c.nv.fails) ∧
    (∃ (c : Chip) (h : HostRef) (pw : Word) (key : Nat), TakesNext ⟨h, 0x08, leBytes 4 pw.toNat ++ leBytes 2 key ++ [0, 0]⟩ c ∧ c.nv.locked = true) ∧
    (∃ (c : Chip) (h : HostRef) (pw : Word) (key : Nat) (pay : List Byte), TakesNext ⟨h, 0x09, leBytes 4 pw.toNat ++ leBytes 2 key ++ [BitVec.ofNat 8 pay.length, 0] ++ pay⟩ c ∧ c.nv.locked = false ∧ (c.nv.writePw = 0 ∨ pw = c.nv.writePw) ∧ pay.length ≤ 240 ∧ 0x1000 ≤ key ∧ key ≤ 0xFFFE ∧ c.nv.readOnly = false ∧ (c.nv.queue.filter NvKind.isUser).length < 8 ∧ (pay = [] ∨ ((c.nv.wouldHold key pay).1 ≤ 1024 ∧ (c.nv.wouldHold key pay).2 ≤ 65536))) ∧
    (∃ (c : Chip) (h : HostRef) (pw : Word) (key : Nat) (pay : List Byte), TakesNext ⟨h, 0x09, leBytes 4 pw.toNat ++ leBytes 2 key ++ [BitVec.ofNat 8 pay.length, 0] ++ pay⟩ c ∧ c.nv.locked = false ∧ (c.nv.writePw = 0 ∨ pw = c.nv.writePw) ∧ pay.length ≤ 240 ∧ key < 0x1000) ∧
    (∃ (c : Chip) (h : HostRef) (pw : Word) (key : Nat) (pay : List Byte), TakesNext ⟨h, 0x09, leBytes 4 pw.toNat ++ leBytes 2 key ++ [BitVec.ofNat 8 pay.length, 0] ++ pay⟩ c ∧ c.nv.locked = false ∧ (c.nv.writePw = 0 ∨ pw = c.nv.writePw) ∧ pay.length ≤ 240 ∧ 0x1000 ≤ key ∧ key ≤ 0xFFFE ∧ c.nv.readOnly = true) :=
  ⟨⟨up.asks ref0 0x08 (leBytes 4 (0 : Word).toNat ++ leBytes 2 (0x1000 : Nat) ++ [0, 0]), ref0, 0, 0x1000, by decide⟩,
    ⟨(up.onNv fun u => { u with readPw := 1, writePw := 2 }).asks ref0 0x08 (leBytes 4 (3 : Word).toNat ++ leBytes 2 (0x1000 : Nat) ++ [0, 0]), ref0, 3, 0x1000, by decide⟩,
    ⟨(up.onNv fun u => { u with readPw := 1, writePw := 2, fails := 7 }).asks ref0 0x08 (leBytes 4 (3 : Word).toNat ++ leBytes 2 (0x1000 : Nat) ++ [0, 0]), ref0, 3, 0x1000, by decide⟩,
    ⟨(up.onNv fun u => { u with locked := true }).asks ref0 0x08 (leBytes 4 (0 : Word).toNat ++ leBytes 2 (0 : Nat) ++ [0, 0]), ref0, 0, 0, by decide⟩,
    ⟨up.asks ref0 0x09 (leBytes 4 (0 : Word).toNat ++ leBytes 2 (0x1000 : Nat) ++ [BitVec.ofNat 8 ([1] : List Byte).length, 0] ++ ([1] : List Byte)), ref0, 0, 0x1000, [1], by decide⟩,
    ⟨up.asks ref0 0x09 (leBytes 4 (0 : Word).toNat ++ leBytes 2 (0x20 : Nat) ++ [BitVec.ofNat 8 ([1] : List Byte).length, 0] ++ ([1] : List Byte)), ref0, 0, 0x20, [1], by decide⟩,
    ⟨(up.onNv fun u => { u with readOnly := true }).asks ref0 0x09 (leBytes 4 (0 : Word).toNat ++ leBytes 2 (0x1000 : Nat) ++ [BitVec.ofNat 8 ([1] : List Byte).length, 0] ++ ([1] : List Byte)), ref0, 0, 0x1000, [1], by decide⟩⟩

theorem witness_LogCalendarJoin :
    (∃ (c : Chip) (h : HostRef) (pw : Word) (first : Nat) (n : Nat), TakesNext ⟨h, 0x0A, leBytes 4 pw.toNat ++ leBytes 4 first ++ leBytes 1 n ++ [0, 0, 0]⟩ c ∧ 1 ≤ n ∧ n ≤ 14 ∧ c.nv.locked = false ∧ (c.nv.readPw = 0 ∨ c.nv.writePw = 0 ∨ pw = c.nv.readPw ∨ pw = c.nv.writePw)) ∧
    (∃ (c : Chip) (h : HostRef) (pw : Word) (first : Nat) (n : Nat), TakesNext ⟨h, 0x0A, leBytes 4 pw.toNat ++ leBytes 4 first ++ leBytes 1 n ++ [0, 0, 0]⟩ c ∧ (n = 0 ∨ 14 < n)) ∧
    (∃ (c : Chip) (h : HostRef) (r : CalReq) (n : Nat), TakesNext ⟨h, 0x0B, calBody r⟩ c ∧ calSecs r = some n) ∧
    (∃ (c : Chip) (h : HostRef) (r : CalReq), TakesNext ⟨h, 0x0B, calBody r⟩ c ∧ r ≠ .badForm ∧ calSecs r = none) ∧
    (∃ (c : Chip) (h : HostRef) (p : SettPort), TakesNext ⟨h, 0x0C, []⟩ c ∧ CarriedOut ⟨h, 0x0C, []⟩ c ∧ (if p.val = 0 then c.sett.upEn else c.sett.dnEn) = true ∧ (c.sett.ports[p]).st = .down) ∧
    (∃ (c : Chip) (h : HostRef), TakesNext ⟨h, 0x0C, []⟩ c ∧ CarriedOut ⟨h, 0x0C, []⟩ c ∧ (c.sett.upEn = false ∨ (c.sett.ports[(0 : SettPort)]).st ≠ .down) ∧ (c.sett.dnEn = false ∨ (c.sett.ports[(1 : SettPort)]).st ≠ .down)) ∧
    (∃ (c : Chip) (h : HostRef), TakesNext ⟨h, 0x0D, []⟩ c) :=
  ⟨⟨up.asks ref0 0x0A (leBytes 4 (0 : Word).toNat ++ leBytes 4 (0 : Nat) ++ leBytes 1 (1 : Nat) ++ [0, 0, 0]), ref0, 0, 0, 1, by decide⟩,
    ⟨up.asks ref0 0x0A (leBytes 4 (0 : Word).toNat ++ leBytes 4 (0 : Nat) ++ leBytes 1 (15 : Nat) ++ [0, 0, 0]), ref0, 0, 0, 15, by decide⟩,
    ⟨up.asks ref0 0x0B (calBody (.date 2000 3 1 0 0 0 : CalReq)), ref0, .date 2000 3 1 0 0 0, 60 * 86400, by decide⟩,
    ⟨up.asks ref0 0x0B (calBody (.date 2001 2 29 0 0 0 : CalReq)), ref0, .date 2001 2 29 0 0 0, by decide⟩,
    ⟨(up.onSett fun u => { u with upEn := true, ports := Vector.replicate 2 {} }).asks ref0 0x0C ([]), ref0, 0, by decide⟩,
    ⟨up.asks ref0 0x0C ([]), ref0, by decide⟩,
    ⟨up.asks ref0 0x0D ([]), ref0, by decide⟩⟩

theorem witness_FirmwareUpdates :
    (∃ (c : Chip) (h : HostRef) (n : Nat), TakesNext ⟨h, 0x10, leBytes 4 n ++ [0, 0, 0, 0]⟩ c ∧ (¬(c.sys.result ≠ .codeCorrupt ∧ (c.code.info c.sys.bank).trial = true ∧ (c.code.info c.updTarget).confirmed = true)) ∧ n % 256 = 0 ∧ n ≤ packageMax) ∧
    (∃ (c : Chip) (h : HostRef) (n : Nat), TakesNext ⟨h, 0x10, leBytes 4 n ++ [0, 0, 0, 0]⟩ c ∧ c.sys.result ≠ .codeCorrupt ∧ (c.code.info c.sys.bank).trial = true ∧ (c.code.info c.updTarget).confirmed = true) ∧
    (∃ (c : Chip) (h : HostRef) (off : Nat) (data : List Byte), TakesNext ⟨h, 0x11, leBytes 4 off ++ data⟩ c ∧ off % 8 = 0 ∧ data.length % 8 = 0 ∧ 8 ≤ data.length ∧ data.length ≤ 472 ∧ c.host.updOpen = true ∧ c.host.updDone = false ∧ off + data.length ≤ c.host.updLen ∧ c.sameBytes off data = true ∧ BanksCanonical c) ∧
    (∃ (c : Chip) (h : HostRef), TakesNext ⟨h, 0x12, []⟩ c ∧ c.host.updOpen = false) ∧
    (∃ (c : Chip) (h : HostRef), TakesNext ⟨h, 0x12, []⟩ c ∧ c.host.updOpen = true ∧ c.host.updDone = false ∧ c.host.updBytes ≠ c.host.updLen) ∧
    (∃ (c : Chip) (h : HostRef) (r : Result), TakesNext ⟨h, 0x12, []⟩ c ∧ c.commitCheck = .error r) ∧
    ((∀ a b, Config.signatureValid a b = true) → ∃ (c : Chip) (h : HostRef) (w : Bool × Nat), TakesNext ⟨h, 0x12, []⟩ c ∧ c.commitCheck = .ok w) ∧
    (∃ (c : Chip) (b : Bool) (w : Bool × Nat), c.code.writeReq = some b ∧ c.host.commitReq = some w ∧ c.sys.ride = false) ∧
    (∃ (c : Chip), c.sys.ride = true) :=
  ⟨⟨up.asks ref0 0x10 (leBytes 4 (256 : Nat) ++ [0, 0, 0, 0]), ref0, 256, by decide⟩,
    ⟨({ up with code := { up.code with info0 := { trial := true }, info1 := { confirmed := true } } } : Chip).asks ref0 0x10 (leBytes 4 (256 : Nat) ++ [0, 0, 0, 0]), ref0, 256, by decide⟩,
    ⟨(up.onHost fun u => { u with updOpen := true, updBank := true, updLen := 256 }).asks ref0 0x11 (leBytes 4 (0 : Nat) ++ ([1, 2, 3, 4, 5, 6, 7, 8] : List Byte)), ref0, 0, [1, 2, 3, 4, 5, 6, 7, 8], by decide⟩,
    ⟨up.asks ref0 0x12 ([]), ref0, by decide⟩,
    ⟨(up.onHost fun u => { u with updOpen := true, updLen := 256 }).asks ref0 0x12 ([]), ref0, by decide⟩,
    ⟨up.asks ref0 0x12 ([]), ref0, .updNoSession, by decide, rfl⟩,
    fun h => ⟨signed, ref0, (false, 5), by decide, signed_passes h⟩,
    ⟨{ up.onHost fun u => { u with commitReq := some (false, 5) } with code := { up.code with writeReq := some true } }, true, (false, 5), by decide⟩,
    ⟨up.onSys fun u => { u with ride := true }, by decide⟩⟩

theorem witness_CompleteAndAbort :
    (∃ (c : Chip) (o : NvOp) (key : Nat) (pay : List Byte) (u : Option Nat), c.nv.op = some o ∧ o.complete = false ∧ o.aborted = false ∧ o.kind = .record key pay u) ∧
    (∃ (c : Chip) (g : Group), (c.grp[g]).mode = .precharge ∧ (c.grp[g]).preReq = true ∧ (c.grp[g]).preDone = false ∧ c.decides g = true ∧ c.shdnAsked = false ∧ c.host.aborts = []) ∧
    (∃ (c : Chip), c.host.commitReq.isSome = true ∧ c.host.commitDone = false) ∧
    (∃ (c : Chip), c.sweep.st = .idle) ∧
    (∃ (c : Chip) (h : HostRef) (tag : Nat), TakesNext ⟨h, 0x0E, leBytes 2 tag ++ [BitVec.ofNat 8 0x09, 0]⟩ c ∧ (c.nv.queuedTag tag = true ∨ c.nv.openTag tag = true) ∧ (c.writeCmdOf tag).isSome = true) ∧
    (∃ (c : Chip) (h : HostRef) (tag : Nat), TakesNext ⟨h, 0x0E, leBytes 2 tag ++ [BitVec.ofNat 8 0x12, 0]⟩ c ∧ (c.commitCmd.map (·.ref.tag)) = some tag ∧ c.host.commitReq.isSome = true ∧ c.host.commitDone = false) ∧
    (∃ (c : Chip) (h : HostRef) (tag : Nat), TakesNext ⟨h, 0x0E, leBytes 2 tag ++ [BitVec.ofNat 8 0x09, 0]⟩ c ∧ c.nv.queuedTag tag = false ∧ c.nv.openTag tag = false ∧ c.host.pending.any (fun x => x.type == 0x09 && x.ref.tag == tag) = false ∧ c.host.waitingCmd tag 0x09 = none ∧ c.host.wasAnswered tag 0x09 = false) ∧
    (∃ (c : Chip) (a : HostCmd), c.host.aborts = [(.nvWrite, some a)] ∧ c.nv.queuedTag a.target = true) ∧
    (∃ (c : Chip) (a : HostCmd) (o : NvOp), c.host.aborts = [(.nvWrite, some a)] ∧ c.nv.queuedTag a.target = false ∧ c.nv.openTag a.target = true ∧ c.nv.op = some o) ∧
    (∃ (c : Chip) (a : HostCmd), c.host.aborts = [(.nvWrite, some a)] ∧ c.nv.queuedTag a.target = false ∧ c.nv.openTag a.target = false) ∧
    (∃ (c : Chip) (g : Group) (a : HostCmd), c.host.aborts = [(.precharge g, some a)] ∧ ((c.grp[g]).preWon = true ∨ (c.grp[g]).preDone = true)) ∧
    (∃ (c : Chip) (g : Group) (a : HostCmd), c.host.aborts = [(.precharge g, some a)] ∧ (c.grp[g]).mode = .precharge ∧ (c.grp[g]).preDone = false ∧ (c.grp[g]).preWon = false ∧ c.shdnAsked = false) ∧
    (∃ (c : Chip) (a : HostCmd), c.host.aborts = [(.commit, some a)] ∧ c.host.commitReq.isSome = true ∧ c.host.commitDone = false) :=
  ⟨⟨up.onNv fun u => { u with op := some ⟨.record 0x1000 [1] none, 10, false, false, false, []⟩ }, ⟨.record 0x1000 [1] none, 10, false, false, false, []⟩, 0x1000, [1], none, by decide⟩,
    ⟨up.modGrp 0 fun u => { u with mode := .precharge, preReq := true }, 0, by decide⟩,
    ⟨up.onHost fun u => { u with commitReq := some (false, 5) }, by decide⟩,
    ⟨up, by decide⟩,
    ⟨((up.onNv fun u => { u with queue := [.record 0x1000 [1] (some 7)] }).onHost fun u => { u with pending := [⟨{ ref0 with tag := 7 }, 0x09, []⟩] }).asks ref0 0x0E (leBytes 2 (7 : Nat) ++ [BitVec.ofNat 8 0x09, 0]), ref0, 7, by decide⟩,
    ⟨((up.onHost fun u => { u with commitReq := some (false, 5), pending := [⟨{ ref0 with tag := 7 }, 0x12, []⟩] })).asks ref0 0x0E (leBytes 2 (7 : Nat) ++ [BitVec.ofNat 8 0x12, 0]), ref0, 7, by decide⟩,
    ⟨up.asks ref0 0x0E (leBytes 2 (7 : Nat) ++ [BitVec.ofNat 8 0x09, 0]), ref0, 7, by decide⟩,
    ⟨(up.onNv fun u => { u with queue := [.record 0x1000 [1] (some 7)] }).onHost fun u => { u with aborts := [(.nvWrite, some ⟨ref0, 0x0E, leBytes 2 7 ++ [9, 0]⟩)] }, ⟨ref0, 0x0E, leBytes 2 7 ++ [9, 0]⟩, by decide⟩,
    ⟨(up.onNv fun u => { u with op := some ⟨.record 0x1000 [1] (some 7), 10, false, false, false, []⟩ }).onHost fun u => { u with aborts := [(.nvWrite, some ⟨ref0, 0x0E, leBytes 2 7 ++ [9, 0]⟩)] }, ⟨ref0, 0x0E, leBytes 2 7 ++ [9, 0]⟩, ⟨.record 0x1000 [1] (some 7), 10, false, false, false, []⟩, by decide⟩,
    ⟨up.onHost fun u => { u with aborts := [(.nvWrite, some ⟨ref0, 0x0E, leBytes 2 7 ++ [9, 0]⟩)] }, ⟨ref0, 0x0E, leBytes 2 7 ++ [9, 0]⟩, by decide⟩,
    ⟨(up.modGrp 0 fun u => { u with mode := .precharge, preWon := true }).onHost fun u => { u with aborts := [(.precharge 0, some ⟨ref0, 0x0E, leBytes 2 7 ++ [9, 0]⟩)] }, 0, ⟨ref0, 0x0E, leBytes 2 7 ++ [9, 0]⟩, by decide⟩,
    ⟨(up.modGrp 0 fun u => { u with mode := .precharge }).onHost fun u => { u with aborts := [(.precharge 0, some ⟨ref0, 0x0E, leBytes 2 7 ++ [9, 0]⟩)] }, 0, ⟨ref0, 0x0E, leBytes 2 7 ++ [9, 0]⟩, by decide⟩,
    ⟨up.onHost fun u => { u with commitReq := some (false, 5), aborts := [(.commit, some ⟨ref0, 0x0E, leBytes 2 7 ++ [9, 0]⟩)] }, ⟨ref0, 0x0E, leBytes 2 7 ++ [9, 0]⟩, by decide⟩⟩

theorem witness_NvOperations :
    (∃ (c : Chip) (key : Nat) (pay : List Byte) (u : Option Nat) (ks : List NvKind) (i : Fin 54), c.nv.op = none ∧ c.nv.readOnly = false ∧ c.nvAllowed = true ∧ c.sys.dev ≠ .shutdown ∧ c.nv.queue = .record key pay u :: ks ∧ c.nv.open_ = some i ∧ (c.nv.sectors[i]).used + recordSize pay ≤ 4096) ∧
    (∃ (c : Chip) (k : Counter) (ks : List NvKind), c.nv.op = none ∧ c.nv.readOnly = false ∧ c.nvAllowed = true ∧ c.sys.dev ≠ .shutdown ∧ c.nv.queue = .counterBit k :: ks ∧ c.nv.carryOnly = false ∧ 0 < c.nv.burst k) ∧
    (∃ (c : Chip), c.nv.op.isSome = true) ∧
    (∃ (c : Chip) (cells : NvCells) (o : NvOp) (k : Counter), c.nv.op = some o ∧ o.kind = .counterBit k ∧ c.sys.dev = .perGroup ∧ cells.verified = true) ∧
    (∃ (c : Chip) (cells : NvCells) (o : NvOp) (key : Nat) (pay : List Byte) (tag : Nat) (i : Fin 54) (r : NvRecord), c.nv.op = some o ∧ o.kind = .record key pay (some tag) ∧ o.sector = i.val + 10 ∧ 0x1000 ≤ key ∧ c.sys.dev = .perGroup ∧ o.complete = true ∧ o.aborted = false ∧ cells.verified = true ∧ (c.nv.sectors[i]).records.getLast? = some r) ∧
    (∃ (c : Chip) (cells : NvCells) (o : NvOp) (i : Fin 54), c.nv.op = some o ∧ o.kind = .eraseRecord (sectorNo i) ∧ o.sector = i.val + 10 ∧ c.sys.dev = .perGroup ∧ cells.verified = true ∧ cells.pulses ≤ 4) :=
  ⟨⟨up.onNv fun u => { u with queue := [.record 0x1000 [1] none], open_ := some 0 }, 0x1000, [1], none, [], 0, by decide⟩,
    ⟨up.onNv fun u => { u with queue := [.counterBit 3], pending := u.pending.set 3 2 }, 3, [], by decide⟩,
    ⟨up.onNv fun u => { u with op := some ⟨.record 0x1000 [1] none, 10, false, false, false, []⟩ }, by decide⟩,
    ⟨up.onNv fun u => { u with op := some ⟨.counterBit 3, 10, false, false, false, []⟩ }, ⟨1, true⟩, ⟨.counterBit 3, 10, false, false, false, []⟩, 3, by decide⟩,
    ⟨up.onNv fun u => { u with op := some ⟨.record 0x1000 [1] (some 7), 10, true, false, false, []⟩, sectors := u.sectors.set 0 { records := [⟨0x1000, 1, [1], false, 0, 16⟩] } }, ⟨1, true⟩, ⟨.record 0x1000 [1] (some 7), 10, true, false, false, []⟩, 0x1000, [1], 7, 0, ⟨0x1000, 1, [1], false, 0, 16⟩, by decide⟩,
    ⟨up.onNv fun u => { u with op := some ⟨.eraseRecord (sectorNo 0), 10, false, false, false, []⟩ }, ⟨1, true⟩, ⟨.eraseRecord (sectorNo 0), 10, false, false, false, []⟩, 0, by decide⟩⟩

theorem witness_NvHousekeeping :
    (∃ (c : Chip) (i : Fin 54), c.isUp .owl = true ∧ c.nv.gc = false ∧ c.nv.readOnly = false ∧ c.sys.dev ≠ .shutdown ∧ c.nv.tally NvSector.blank < 2 ∧ c.nv.oldestFull = some i) ∧
    (∃ (c : Chip), c.isUp .owl = true ∧ c.nv.journalFree < 4 ∧ c.nv.holds (· == .eraseJournal) = false ∧ c.nv.readOnly = false) ∧
    (∃ (c : Chip) (k : Counter), c.isUp .owl = true ∧ c.nv.carryOnly = false ∧ 1 ≤ c.nv.burst k ∧ c.nv.holds (· == .counterBit k) = false ∧ c.nv.readOnly = false) ∧
    (∃ (c : Chip), c.isUp .owl = true ∧ c.nv.carryOnly = false ∧ c.nv.stripeFull = true ∧ c.nv.stale = [] ∧ c.nv.holds (· == .carry true) = false ∧ c.nv.readOnly = false) ∧
    (∃ (c : Chip), c.isUp .owl = true ∧ c.nv.carryOnly = true ∧ c.nv.holds (· == .carry false) = false ∧ c.nv.readOnly = false ∧ ((∃ k : Counter, 64 ≤ c.nv.pending[k]) ∨ c.nv.carryAt + 600000 * tkMs ≤ c.tb.count)) ∧
    (∃ (c : Chip), c.outOfBoot = true ∧ (60 ≤ c.nv.runMin ∨ 60 ≤ c.nv.onMin)) ∧
    (∃ (c : Chip), c.isUp .owl = true ∧ c.outOfBoot = true ∧ c.sys.dev ≠ .shutdown ∧ c.nv.readOnly = false ∧ c.cal.stampAt + 3600 ≤ c.cal.up) ∧
    (∃ (c : Chip), c.powered = true ∧ c.cal.sec = calEnd) ∧
    (∃ (c : Chip), c.isUp .owl = true ∧ c.outOfBoot = true ∧ c.sys.dev ≠ .shutdown ∧ c.nv.readOnly = false ∧ c.logsLeft ≠ [] ∧ (c.log.urgent = true ∨ 7 ≤ c.logsLeft.length ∨ c.log.oldest + 10 ≤ c.cal.up)) :=
  ⟨⟨up.onNv fun u => { u with sectors := Vector.ofFn (fun i : Fin 54 => { order := some i.val, used := 4096 }) }, 0, by decide⟩,
    ⟨up.onNv fun u => { u with journals := u.journals.set 0 (List.replicate 253 ⟨0, 0, 0, 0, 0, 0⟩) }, by decide +kernel⟩,
    ⟨up.onNv fun u => { u with pending := u.pending.set 3 2 }, 3, by decide⟩,
    ⟨up.onNv fun u => { u with pending := u.pending.set 3 2, stripe := u.stripe.set 3 8192 }, by decide⟩,
    ⟨up.onNv fun u => { u with carryOnly := true, pending := u.pending.set 3 64 }, by decide⟩,
    ⟨up.onNv fun u => { u with runMin := 60 }, by decide⟩,
    ⟨{ up with cal := { up.cal with up := 3600 } }, by decide⟩,
    ⟨{ up with cal := { up.cal with sec := calEnd } }, by decide⟩,
    ⟨{ up with log := { up.log with next := 1, entries := [(0, ⟨0, 0, false, false, false, 0, 0, 0x40, 0, 0, [], 0⟩)], waiting := 1, urgent := true } }, by decide⟩⟩

theorem witness_GaugeSamplesAndSeconds :
    (∃ (c : Chip) (t : Nat), c.gaugeOn = true ∧ t = c.gauge.s + 600000 * c.gauge.slot ∧ c.gauge.inChop = true) ∧
    (∃ (c : Chip) (t : Nat) (code : Int) (ok : Bool), c.gaugeOn = true ∧ t = c.gauge.s + 600000 * c.gauge.slot ∧ c.gauge.inChop = false ∧ (c.gauge.cfg.ext = true ∨ c.gauge.slot % 4000 ≠ 8) ∧ c.gauge.outOfRange code ok = false ∧ c.gauge.lost = false ∧ (c.gauge.q + (code - c.gauge.cfg.offs - c.gauge.offsChop)).natAbs ≤ 2 ^ 63 - 1) ∧
    (∃ (c : Chip) (t : Nat) (code : Int) (ok : Bool), c.gaugeOn = true ∧ t = c.gauge.s + 600000 * c.gauge.slot ∧ c.gauge.inChop = false ∧ (c.gauge.cfg.ext = true ∨ c.gauge.slot % 4000 ≠ 8) ∧ (c.gauge.outOfRange code ok = true ∨ c.gauge.lost = true) ∧ (c.gauge.q + c.gauge.lastValid).natAbs ≤ 2 ^ 63 - 1) ∧
    (∃ (c : Chip) (t : Nat), c.gaugeOn = true ∧ t = c.gauge.s + 600000 * c.gauge.slot ∧ c.gauge.slot % 4000 = (if c.gauge.cfg.ext then 0 else 8)) ∧
    (∃ (c : Chip), c.gaugeOn = true ∧ c.gauge.lost = false ∧ (c.gauge.cfg.ext = true ∨ 16 ≤ c.gauge.oorRun) ∧ c.grp.toList.any (fun u => u.mode == .charge) = true) ∧
    (∃ (c : Chip), c.gaugeOn = true ∧ c.gauge.lost = false ∧ (c.gauge.cfg.ext = true ∨ 16 ≤ c.gauge.oorRun) ∧ c.grp.toList.any (fun u => u.mode == .charge) = false) ∧
    (∃ (c : Chip), c.gaugeOn = true ∧ c.gauge.lost = true ∧ 64 ≤ c.gauge.inRun) ∧
    (∃ (c : Chip), c.gaugeOn = true ∧ c.gauge.secReq = true) ∧
    (∃ (c : Chip) (g : Group) (i : Nat) (v : Nat), c.canPass .hb (messageWords 0x40 i (leBytes 3 v)) = true ∧ c.gaugeOn = true ∧ c.chgGroup = some g) ∧
    (∃ (c : Chip) (g : Group), c.chgGroup = some g ∧ c.gaugeOn = true ∧ (c.grp[g]).mode = .charge ∧ (∀ t, c.gauge.limAt = some t → t + 3 * tkSec ≤ c.tb.count)) :=
  ⟨⟨up.onGauge fun u => { u with s := 10 ^ 10 }, 10 ^ 10, by decide⟩,
    ⟨up.onGauge fun u => { u with slot := 100, s := 10 ^ 10 }, 10 ^ 10 + 60000000, 5, true, by decide⟩,
    ⟨up.onGauge fun u => { u with slot := 100, s := 10 ^ 10, lastValid := 3 }, 10 ^ 10 + 60000000, 8388607, true, by decide⟩,
    ⟨up.onGauge fun u => { u with slot := 8, s := 10 ^ 10 }, 10 ^ 10 + 4800000, by decide⟩,
    ⟨(up.onGauge fun u => { u with oorRun := 16 }).modGrp 0 fun u => { u with mode := .charge }, by decide⟩,
    ⟨up.onGauge fun u => { u with oorRun := 16 }, by decide⟩,
    ⟨up.onGauge fun u => { u with lost := true, inRun := 64 }, by decide⟩,
    ⟨up.onGauge fun u => { u with secReq := true }, by decide⟩,
    ⟨up, 0, 0, 0, by decide⟩,
    ⟨up.modGrp 0 fun u => { u with mode := .charge }, 0, by decide⟩⟩

theorem witness_GaugeMessages :
    (∃ (c : Chip) (lost : Bool), c.canPass .hb (messageWords 0x41 (bit lost).toNat []) = true ∧ c.gaugeOn = true) ∧
    (∃ (c : Chip) (lost : Bool), c.canPass .hb (messageWords 0x41 (bit lost).toNat []) = false) ∧
    (∃ (c : Chip) (g : Group) (m : Mode) (dir : Nat), c.canPass .bh (messageWords 0x30 (g.val * 2 ^ 20 + modeCode m * 2 ^ 16 + dir * 256) []) = true ∧ c.gaugeOn = true ∧ c.gauge.cfg.chgGroup = g.val ∧ m ≠ .charge) ∧
    (∃ (c : Chip) (g : Group) (dir : Nat), c.canPass .bh (messageWords 0x30 (g.val * 2 ^ 20 + modeCode .charge * 2 ^ 16 + dir * 256) []) = true ∧ c.gaugeOn = true ∧ c.gauge.cfg.chgGroup = g.val) ∧
    (∃ (c : Chip) (g : Group) (m : Mode) (dir : Nat), c.canPass .bh (messageWords 0x30 (g.val * 2 ^ 20 + modeCode m * 2 ^ 16 + dir * 256) []) = true ∧ c.gauge.cfg.chgGroup ≠ g.val) ∧
    (∃ (c : Chip), c.canPass .bh (messageWords 0x31 0 []) = true ∧ c.sys.dev = .shutdown ∧ c.sys.shdn = .gauge ∧ c.gauge.started = true) ∧
    (∃ (c : Chip) (tag : Nat), c.canPass .oh (taggedWords 0x50 tag []) = true ∧ c.gaugeOn = true ∧ c.nv.readOnly = false) ∧
    (∃ (c : Chip) (tag : Nat), c.canPass .oh (taggedWords 0x50 tag []) = true ∧ c.gaugeOn = true ∧ c.nv.readOnly = true) ∧
    (∃ (c : Chip) (set : Bool) (n : Nat), c.canPass .oh (messageWords 0x51 (bit set).toNat (leBytes 5 n)) = true ∧ c.gaugeOn = true) ∧
    (∃ (c : Chip) (w : Bool) (r : Bool), c.canPass .oh (messageWords 0x52 (bit w + 2 * bit r).toNat []) = true ∧ c.gaugeOn = true) ∧
    (∃ (c : Chip) (bs : List Byte), c.canPass .oh (messageWords 0x53 bs.length bs) = true ∧ c.gaugeOn = true ∧ c.gauge.started = false ∧ bs.length = 56 ∧ bs.headD 0 = 1) ∧
    (∃ (c : Chip) (bs : List Byte), c.canPass .oh (messageWords 0x53 bs.length bs) = true ∧ c.gaugeOn = true ∧ c.gauge.started = false ∧ (¬(bs.length = 56 ∧ bs.headD 0 = 1))) :=
  ⟨⟨up, true, by decide⟩,
    ⟨up.modMbx (mbxIdx .hb) fun u => { u with full := true, written := 1 }, true, by decide⟩,
    ⟨up, 0, .regulate, 0, by decide⟩,
    ⟨up, 0, 0, by decide⟩,
    ⟨up, 1, .regulate, 0, by decide⟩,
    ⟨(up.onGauge fun u => { u with started := true }).onSys fun u => { u with dev := .shutdown, shdn := .gauge }, by decide⟩,
    ⟨up, 0, by decide⟩,
    ⟨up.onNv fun u => { u with readOnly := true }, 0, by decide⟩,
    ⟨up, true, 0, by decide⟩,
    ⟨up, true, true, by decide⟩,
    ⟨up, 1 :: List.replicate 55 0, by decide⟩,
    ⟨up, [], by decide⟩⟩

theorem witness_OwlMessages :
    (∃ (c : Chip) (bs : List Byte), c.canPass .ho (messageWords 0x60 56 bs) = true ∧ c.owlRuns = true ∧ bs.length = 56 ∧ c.nv.readOnly = false ∧ c.nv.queue.any NvKind.isGauge = false) ∧
    (∃ (c : Chip) (bs : List Byte), c.canPass .ho (messageWords 0x60 56 bs) = true ∧ c.owlRuns = true ∧ bs.length = 56 ∧ c.nv.readOnly = false ∧ c.nv.queue.any NvKind.isGauge = true) ∧
    (∃ (c : Chip) (code : Nat) (unit : Nat), c.canPass .ho (messageWords 0x61 (code * 2 ^ 16 + unit * 256) []) = true ∧ c.owlRuns = true ∧ (c.log.rateSec ≠ c.cal.up ∨ c.log.rateN < 64) ∧ c.nv.readOnly = false) ∧
    (∃ (c : Chip) (g : Group) (m : Mode) (k : Cause), c.canPass .bo (messageWords 0x21 (g.val * 2 ^ 20 + modeCode m * 2 ^ 16 + causeCode k * 256) []) = true ∧ c.owlRuns = true ∧ c.log.entries = [] ∧ (c.log.rateSec ≠ c.cal.up ∨ c.log.rateN < 64) ∧ c.nv.readOnly = false) ∧
    (∃ (c : Chip) (b : Block) (code : Nat) (unit : Nat), c.canPass .bo (messageWords 0x22 (b.val * 2 ^ 16 + code * 256 + unit) []) = true ∧ c.owlRuns = true ∧ c.log.entries = [] ∧ (c.log.rateSec ≠ c.cal.up ∨ c.log.rateN < 64) ∧ c.nv.readOnly = false) ∧
    (∃ (c : Chip) (n : Nat), c.canPass .ho (messageWords 0x62 n []) = true ∧ c.owlRuns = true) ∧
    (∃ (c : Chip), c.canPass .ho (messageWords 0x63 0 []) = true ∧ c.owlRuns = true) ∧
    (∃ (c : Chip) (tag : Nat) (n : Nat) (h : HostCmd) (r : Result), c.canPass .bo (messageWords 0x20 (tag % 2 ^ 16 * 256 + n % 256) []) = true ∧ c.owlRuns = true ∧ c.host.pending.find? (fun h => h.carried && h.ref.tag == tag) = some h ∧ resultOf n = some r) ∧
    (∃ (c : Chip) (n : Nat) (k : Counter), c.canPass .bo (messageWords 0x23 (n * 256 + k.val) []) = true ∧ c.owlRuns = true) ∧
    (∃ (c : Chip) (n : Nat) (k : Counter), c.canPass .bo (messageWords 0x23 (n * 256 + k.val) []) = false) ∧
    (∃ (c : Chip) (tag : Nat) (cause : Nat) (t : Nat) (k : Nat) (points : Nat) (orig : Address) (seq : Word), c.canPass .bo (messageWords 0x24 (tag * 256 + cause) []) = true ∧ c.owlRuns = true ∧ c.sweep.owed.find? (fun o => o.1 == tag) = some (t, k, points, orig, seq)) :=
  ⟨⟨up, List.replicate 56 0, by decide⟩,
    ⟨up.onNv fun u => { u with queue := [.record keyGauge [] none] }, List.replicate 56 0, by decide⟩,
    ⟨up, 0, 0, by decide⟩,
    ⟨up, 0, .regulate, .enable, by decide⟩,
    ⟨up, 0, 0, 0, by decide⟩,
    ⟨up, 0, by decide⟩,
    ⟨up, by decide⟩,
    ⟨up.onHost fun u => { u with pending := [⟨{ ref0 with tag := 7 }, 0x02, writeBody gaugeCmdAddr 1 1⟩] }, 7, 0, ⟨{ ref0 with tag := 7 }, 0x02, writeBody gaugeCmdAddr 1 1⟩, .ok, by decide⟩,
    ⟨up, 0, 0, by decide⟩,
    ⟨up.modMbx (mbxIdx .bo) fun u => { u with full := true, written := 1 }, 0, 0, by decide⟩,
    ⟨up.onSweep fun u => { u with owed := [(7, 1, 2, 0, 3)] }, 7, 0, 7, 1, 2, 0, 3, by decide⟩⟩

theorem witness_ChainFlits :
    (∃ (c : Chip) (f : FlitHdr), (c.ctrlUp = false ∨ c.sys.holdup = true ∨ (c.sett.ports[f.port]).st ≠ .up)) ∧
    (∃ (c : Chip) (f : FlitHdr) (a : Address), c.ctrlUp = true ∧ c.sys.holdup = false ∧ (c.sett.ports[f.port]).st = .up ∧ f.crc = .good ∧ (f.src = c.sett.addr ∨ c.duplicate f (FlitBody.headClaim a).vc = true)) ∧
    (∃ (c : Chip) (f : FlitHdr), c.ctrlUp = true ∧ c.sys.holdup = false ∧ (c.sett.ports[f.port]).st = .up ∧ f.crc ≠ .good) ∧
    (∃ (c : Chip) (f : FlitHdr) (a : Address), Delivers f (.headClaim a) c) ∧
    (∃ (c : Chip) (f : FlitHdr) (a : Address), c.ctrlUp = true ∧ c.sys.holdup = false ∧ (c.sett.ports[f.port]).st = .up ∧ f.crc = .good ∧ f.src ≠ c.sett.addr ∧ c.duplicate f (FlitBody.headClaim a).vc = false ∧ f.dst ≠ c.sett.addr.val) ∧
    (∃ (c : Chip) (p : SettPort) (n : Nat), (c.sett.ports[p]).st = .up ∧ 1 ≤ n ∧ n ≤ 8 ∧ (c.sett.ports[p]).wait = []) ∧
    (∃ (c : Chip) (p : SettPort) (x : Flit) (t : Nat), (c.sett.ports[p]).st = .up ∧ (c.sett.ports[p]).wait = [⟨none, x, t⟩] ∧ (c.sett.ports[p]).txCred[x.body.vc] = 0 ∧ c.sys.holdup = false ∧ (c.sett.ports[p]).busyUntil ≤ c.tb.count) ∧
    (∃ (c : Chip) (p : SettPort) (q : SettPort) (x : Flit) (t : Nat) (rest : List Waiting), (c.sett.ports[p]).wait = ⟨some q, x, t⟩ :: rest ∧ t + 2400 ≤ c.tb.count) :=
  ⟨⟨up.modPort 0 fun u => { u with st := .down }, flit0, by decide⟩,
    ⟨up, { flit0 with src := 0 }, 0, by decide⟩,
    ⟨up, ⟨1, 15, 0, 0, 0, .bad, none⟩, by decide⟩,
    ⟨up, flit0, 0, by decide⟩,
    ⟨up, { flit0 with dst := 3 }, 0, by decide⟩,
    ⟨up, 0, 8, by decide⟩,
    ⟨up.modPort 0 fun u => { u with wait := [⟨none, ⟨0, 15, 0, 0, .deviceSafe, false⟩, 0⟩], txCred := Vector.replicate 4 0 }, 0, ⟨0, 15, 0, 0, .deviceSafe, false⟩, 0, by decide⟩,
    ⟨up.modPort 0 fun u => { u with wait := [⟨some 1, ⟨0, 15, 0, 0, .deviceSafe, false⟩, 0⟩] }, 0, 1, ⟨0, 15, 0, 0, .deviceSafe, false⟩, 0, [], by decide⟩⟩

theorem witness_ChainPorts :
    (∃ (c : Chip) (p : SettPort) (i : TrainInput), c.chained = true ∧ c.sys.holdup = false ∧ (c.sett.ports[p]).st = .training ∧ c.tb.st ≠ .acquire ∧ c.tb.st ≠ .freerun ∧ c.tb.count < (c.sett.ports[p]).trainEnd ∧ c.partnerOk p i = true ∧ i.build = c.sett.build ∧ c.sett.formed = false ∧ LeadsNone c) ∧
    (∃ (c : Chip) (p : SettPort) (i : TrainInput), c.chained = true ∧ c.sys.holdup = false ∧ (c.sett.ports[p]).st = .training ∧ c.tb.st ≠ .acquire ∧ c.tb.st ≠ .freerun ∧ c.tb.count < (c.sett.ports[p]).trainEnd ∧ c.partnerOk p i = false) ∧
    (∃ (c : Chip) (p : SettPort) (i : TrainInput), c.chained = true ∧ c.sys.holdup = false ∧ (c.sett.ports[p]).st = .training ∧ c.tb.st ≠ .acquire ∧ c.tb.st ≠ .freerun ∧ c.tb.count < (c.sett.ports[p]).trainEnd ∧ c.partnerOk p i = true ∧ i.build ≠ c.sett.build) ∧
    (∃ (c : Chip) (p : SettPort), c.chained = true ∧ (c.sett.ports[p]).st = .training ∧ (c.sett.ports[p]).trainEnd ≤ c.tb.count) ∧
    (∃ (c : Chip) (h : HostCmd) (ps : List SettPort) (e : Nat), c.host.joinCmds = [(h, ps, e)] ∧ e ≤ c.tb.count ∧ h ∈ c.host.pending ∧ (c.badgerRuns = false ∨ (c.isUp .owl = true ∧ (c.mbx[mbxIdx .bo]).full = false))) ∧
    (∃ (c : Chip) (p : SettPort) (k : LinkCause), c.ctrlUp = true ∧ (c.sett.ports[p]).st = .up ∧ (k = .lock ∨ k = .crc ∧ (c.sett.ports[p]).threeBad = true ∨ k = .starved ∧ (c.sett.ports[p]).starved c.tb.count = true ∨ k = .holdup ∧ c.sys.holdup = true) ∧ c.isHead = false ∧ c.sett.rebuilds = false ∧ c.sweep.st = .idle ∧ c.sweep.headTag = none ∧ c.sweep.ask = none) ∧
    (∃ (c : Chip) (f : FlitHdr) (p : SettPort) (k : LinkCause), Delivers f (.linkDown p k) c ∧ c.isHead = false ∧ c.sett.rebuilds = false ∧ c.sweep.st = .idle ∧ c.sweep.headTag = none ∧ c.sweep.ask = none) :=
  ⟨⟨up.modPort 1 fun u => { u with st := .training, trainEnd := 10 ^ 11 }, 1, ⟨1, true, 2, 0, []⟩, by decide⟩,
    ⟨up.modPort 1 fun u => { u with st := .training, trainEnd := 10 ^ 11 }, 1, ⟨3, true, 2, 0, []⟩, by decide⟩,
    ⟨up.modPort 1 fun u => { u with st := .training, trainEnd := 10 ^ 11 }, 1, ⟨1, true, 2, 1, []⟩, by decide⟩,
    ⟨up.modPort 1 fun u => { u with st := .training }, 1, by decide⟩,
    ⟨up.onHost fun u => { u with joinCmds := [(⟨ref0, 0x0C, []⟩, [1], 5)], pending := [⟨ref0, 0x0C, []⟩] }, ⟨ref0, 0x0C, []⟩, [1], 5, by decide⟩,
    ⟨up, 0, .lock, by decide⟩,
    ⟨up, flit0, 0, .crc, by decide⟩⟩

theorem witness_ChainTime :
    (∃ (c : Chip) (t : Nat), c.chained = true ∧ c.isHead = true ∧ t % 24000 = 0 ∧ c.sett.ports.toList.any (fun p => p.st == .up) = true ∧ c.headMaySend t = true) ∧
    (∃ (c : Chip) (f : FlitHdr) (t : Nat) (e : EpochPay), c.chained = true ∧ Delivers f (.epoch e) (c.elapseTo t) ∧ c.sett.role = .member) ∧
    (∃ (c : Chip) (f : FlitHdr) (t : Nat) (e : EpochPay), c.chained = true ∧ Delivers f (.epoch e) (c.elapseTo t) ∧ c.sett.role = .head ∧ c.sett.ctSet = true) ∧
    (∃ (c : Chip) (t : Nat), c.sett.epochAt = some t ∧ c.chained = true ∧ c.sett.role = .member ∧ c.sett.isSilent = false ∧ t + 76800 ≤ c.tb.count) ∧
    (∃ (c : Chip), c.sett.epochAt = none ∧ c.chained = true ∧ c.sett.role = .member ∧ c.sett.isSilent = false ∧ c.sett.bootAt + c.sett.formTmax * tkMs ≤ c.tb.count) :=
  ⟨⟨up.onSett fun u => { u with role := .head, ctSet := true }, 24000, by decide⟩,
    ⟨up, flit0, 0, ⟨100, 0, 0, 1, 1, 0⟩, by decide⟩,
    ⟨up.onSett fun u => { u with role := .head, ctSet := true }, flit0, 0, ⟨100, 0, 0, 1, 1, 0⟩, by decide⟩,
    ⟨up.onSett fun u => { u with epochAt := some 0 }, 0, by decide⟩,
    ⟨up, by decide⟩⟩

theorem witness_ChainTopology :
    (∃ (c : Chip), c.chained = true ∧ c.sett.role = .head ∧ c.actsHead = true ∧ c.sett.st = .forming ∧ (c.allReachable = true ∨ c.sett.bootAt + c.sett.formTmax * tkMs ≤ c.tb.count) ∧ NoSpans c ∧ c.sweep.st = .idle) ∧
    (∃ (c : Chip) (f : FlitHdr) (r : TopoPay), Delivers f (.topo r) c ∧ c.sett.role = .member ∧ NoSpans c ∧ c.sweep.st = .idle) ∧
    (∃ (c : Chip) (t : Nat), c.sett.claimAt = some t ∧ c.chained = true ∧ c.sett.role = .member ∧ t + 24000 ≤ c.tb.count ∧ NoSpans c ∧ c.sweep.st = .idle) :=
  ⟨⟨up.onSett fun u => { u with role := .head, ctSet := true, st := .forming }, by decide⟩,
    ⟨up, flit0, ⟨1, 3, [0, 1], 1, .line⟩, by decide⟩,
    ⟨up.onSett fun u => { u with claimAt := some 0 }, 0, by decide⟩⟩

theorem witness_SpanningData :
    (∃ (c : Chip) (t : Nat) (g : Group), c.chained = true ∧ c.isLeader g = true ∧ c.sys.holdup = false ∧ c.passes t c.sett.shareInt 0 = true) ∧
    (∃ (c : Chip) (f : FlitHdr) (r : SharePay) (g : Group), Delivers f (.share r) c ∧ c.isMember g = true ∧ (r.recs[g]).present = true ∧ (c.sett.groups[g]).leaderAddr = f.src ∧ (c.sett.peers[f.src]).safe = false) ∧
    (∃ (c : Chip) (g : Group) (v : Int), (c.sett.groups[g]).irefPend = some v) ∧
    (∃ (c : Chip) (t : Nat), c.chained = true ∧ c.passes t 24000 (2400 * c.sett.addr.val) = true) ∧
    (∃ (c : Chip) (f : FlitHdr) (t : Nat) (r : Vector ReportRec 4), c.chained = true ∧ Delivers f (.report r) (c.elapseTo t) ∧ LeadsNone c ∧ c.isHead = false ∧ c.sett.rebuilds = false) ∧
    (∃ (c : Chip) (a : Address) (t : Nat), (c.sett.peers[a]).heard = some t ∧ c.chained = true ∧ t + 48000 < c.tb.count ∧ LeadsNone c ∧ c.isHead = false ∧ c.sett.rebuilds = false) ∧
    (∃ (c : Chip) (f : FlitHdr), Delivers f .deviceSafe c ∧ LeadsNone c) ∧
    (∃ (c : Chip) (f : FlitHdr) (groups : Nat), Delivers f (.leadClaim groups) c ∧ NoSpans c) ∧
    (∃ (c : Chip) (f : FlitHdr) (g : Group), Delivers f (.phaseLost g) c ∧ c.isLeader g = true ∧ isSwitchingMode (c.grp[g]).mode = false) ∧
    (∃ (c : Chip) (g : Group) (t : Nat), (c.sett.groups[g]).shareAt = some t ∧ c.isMember g = true ∧ (c.sett.groups[g]).leaderOk = true ∧ t + 3 * c.sett.shareInt + 4800 ≤ c.tb.count) :=
  ⟨⟨(up.modSg 0 fun u => { u with span := true, leader := true }).onSett fun u => { u with shareInt := 4800 }, 9600, 0, by decide⟩,
    ⟨up.modSg 0 fun u => { u with span := true, leaderAddr := 1 }, flit0, ⟨0, Vector.replicate 4 ⟨true, 0, .regulate, 0, 1, true⟩⟩, 0, by decide⟩,
    ⟨up.modSg 0 fun u => { u with span := true, irefPend := some 7 }, 0, 7, by decide⟩,
    ⟨up, 24000, by decide⟩,
    ⟨up, flit0, 0, Vector.replicate 4 ⟨1, 1, 1, false, false, false, 0, 0⟩, by decide⟩,
    ⟨up.onSett fun u => { u with peers := u.peers.set 1 { heard := some 0 } }, 1, 0, by decide⟩,
    ⟨up, flit0, by decide⟩,
    ⟨up, flit0, 0, by decide⟩,
    ⟨up.modSg 0 fun u => { u with span := true, leader := true }, flit0, 0, by decide⟩,
    ⟨up.modSg 0 fun u => { u with span := true, leaderAddr := 1, leaderOk := true, shareAt := some 0 }, 0, 0, by decide⟩⟩

theorem witness_SpanningOrders :
    (∃ (c : Chip) (g : Group), (c.sett.groups[g]).lostReq = true ∧ c.sys.dev = .perGroup ∧ isRunning (c.grp[g]).mode = true ∧ c.shdnAsked = false) ∧
    (∃ (c : Chip) (g : Group), (c.sett.groups[g]).lostReq = true ∧ c.sys.dev = .perGroup ∧ ((c.grp[g]).mode = .precharge ∨ (c.grp[g]).mode = .softstart) ∧ c.shdnAsked = false) ∧
    (∃ (c : Chip) (f : FlitHdr) (g : Group) (m : Mode) (k : Cause) (s0 : Nat), Delivers f (.modeOrder g m k s0) c ∧ c.fromLeader f g = true ∧ c.sys.dev = .perGroup ∧ isRunning (c.grp[g]).mode = true ∧ c.gauge.lost = false ∧ c.shdnAsked = false ∧ listed (c.grp[g]).mode m = true ∧ ((c.sett.groups[g]).droop = false ∨ m = .standby ∨ m = .safe)) ∧
    (∃ (c : Chip) (f : FlitHdr) (g : Group) (m : Mode) (k : Cause) (s0 : Nat), Delivers f (.modeOrder g m k s0) c ∧ c.fromLeader f g = true ∧ c.sys.dev = .perGroup ∧ isRunning (c.grp[g]).mode = true ∧ m ≠ (c.grp[g]).mode ∧ listed (c.grp[g]).mode m = false) ∧
    (∃ (c : Chip) (f : FlitHdr) (g : Group) (m : Mode) (k : Cause) (s0 : Nat), Delivers f (.modeOrder g m k s0) c ∧ c.fromLeader f g = true ∧ (c.grp[g]).mode = .standby ∧ (m = .precharge ∨ m = .softstart) ∧ (c.modSg g (fun s => { s with ordered := true })).mayStart g = true ∧ c.shdnAsked = false) ∧
    (∃ (c : Chip) (f : FlitHdr) (g : Group) (m : Mode) (k : Cause) (s0 : Nat), Delivers f (.modeOrder g m k s0) c ∧ c.fromLeader f g = true ∧ (m = .standby ∨ m = .safe)) ∧
    (∃ (c : Chip) (f : FlitHdr) (g : Group) (set : Fin 16), Delivers f (.setOrder g set.val) c ∧ c.fromLeader f g = true ∧ (c.setRec g set.val).defined = true ∧ (c.grp[g]).mode ≠ .sweep) ∧
    (∃ (c : Chip) (f : FlitHdr) (g : Group) (set : Fin 16), Delivers f (.setOrder g set.val) c ∧ (c.setRec g set.val).defined = false) ∧
    (∃ (c : Chip) (f : FlitHdr) (g : Group) (set : Fin 16) (src : Nat), Delivers f (.selFwd g set.val src) c ∧ c.isLeader g = true ∧ (c.setRec g set.val).defined = true ∧ (c.grp[g]).mode ≠ .sweep) ∧
    (∃ (c : Chip) (f : FlitHdr) (p : LcmdPort) (frame : List Byte) (te : Nat), Delivers f (.fcastFwd p frame te) c ∧ c.isLeader (frameGroup frame) = true ∧ (c.grp[frameGroup frame]).mode = .regulate) ∧
    (∃ (c : Chip) (f : FlitHdr) (g : Group) (floor : Nat), Delivers f (.phFloor g floor) c ∧ c.fromLeader f g = true) ∧
    (∃ (c : Chip) (f : FlitHdr) (g : Group), Delivers f (.resume g) c ∧ c.fromLeader f g = true ∧ (c.sett.groups[g]).droop = true) :=
  ⟨⟨(up.modSg 0 fun u => { u with span := true, lostReq := true }).modGrp 0 fun u => { u with mode := .regulate }, 0, by decide⟩,
    ⟨(up.modSg 0 fun u => { u with span := true, lostReq := true }).modGrp 0 fun u => { u with mode := .precharge }, 0, by decide⟩,
    ⟨(up.modSg 0 fun u => { u with span := true, leaderAddr := 1 }).modGrp 0 fun u => { u with mode := .regulate }, flit0, 0, .lightload, .enable, 0, by decide⟩,
    ⟨(up.modSg 0 fun u => { u with span := true, leaderAddr := 1 }).modGrp 0 fun u => { u with mode := .regulate }, flit0, 0, .precharge, .enable, 0, by decide⟩,
    ⟨((up.modSg 0 fun u => { u with span := true, leaderAddr := 1 }).modGrp 0 fun u => { u with mode := .standby }).onSett fun u => { u with formed := true }, flit0, 0, .softstart, .enable, 0, by decide⟩,
    ⟨up.modSg 0 fun u => { u with span := true, leaderAddr := 1 }, flit0, 0, .standby, .enable, 0, by decide⟩,
    ⟨(up.modSg 0 fun u => { u with span := true, leaderAddr := 1 }).onSetpt fun u => { u with sets := u.sets.set 3 (Vector.replicate 4 { defined := true }) }, flit0, 0, 3, by decide⟩,
    ⟨up.modSg 0 fun u => { u with span := true, leaderAddr := 1 }, flit0, 0, 3, by decide⟩,
    ⟨(up.modSg 0 fun u => { u with span := true, leader := true }).onSetpt fun u => { u with sets := u.sets.set 3 (Vector.replicate 4 { defined := true }) }, flit0, 0, 3, 0, by decide⟩,
    ⟨(up.modSg 0 fun u => { u with span := true, leader := true }).modGrp 0 fun u => { u with mode := .regulate }, flit0, 0, fcast, 0, by decide⟩,
    ⟨up.modSg 0 fun u => { u with span := true, leaderAddr := 1 }, flit0, 0, 0, by decide⟩,
    ⟨up.modSg 0 fun u => { u with span := true, leaderAddr := 1, droop := true }, flit0, 0, by decide⟩⟩

theorem witness_SweepProtocol :
    (∃ (c : Chip) (f : FlitHdr) (tag : Nat) (w : SweepDesc), Delivers f (.swReq tag w) c ∧ c.actsHead = true ∧ c.sweep.headTag.isSome = true) ∧
    (∃ (c : Chip) (f : FlitHdr) (tag : Nat) (w : SweepDesc), Delivers f (.swReq tag w) c ∧ c.actsHead = true ∧ c.sweep.headTag = none ∧ NoSpans c) ∧
    (∃ (c : Chip) (f : FlitHdr) (tag : Nat) (orig : Address) (w : SweepDesc) (t0 : Nat), Delivers f (.swSetup tag orig w t0) c ∧ c.isMember (Fin.ofNat 4 w.group) = true ∧ c.phasesOf (Fin.ofNat 4 w.group) ≠ [] ∧ orig ≠ c.sett.addr ∧ c.sett.head ≠ c.sett.addr ∧ c.sweepRefusal w = none) ∧
    (∃ (c : Chip) (f : FlitHdr) (tag : Nat) (orig : Address) (w : SweepDesc) (t0 : Nat), Delivers f (.swSetup tag orig w t0) c ∧ (c.sett.groups[Fin.ofNat 4 w.group]).span = true ∧ c.phasesOf (Fin.ofNat 4 w.group) ≠ [] ∧ orig ≠ c.sett.addr ∧ c.sett.head ≠ c.sett.addr ∧ (c.sweepRefusal w).isSome = true) ∧
    (∃ (c : Chip) (f : FlitHdr) (tag : Nat) (w : SweepDesc) (t0 : Nat) (h : HostCmd), Delivers f (.swSetup tag c.sett.addr w t0) c ∧ c.isMember (Fin.ofNat 4 w.group) = true ∧ c.phasesOf (Fin.ofNat 4 w.group) ≠ [] ∧ c.sett.head ≠ c.sett.addr ∧ c.sweep.ask = some tag ∧ c.host.sweepCmd = some h ∧ h ∈ c.host.pending ∧ (c.badgerRuns = false ∨ (c.isUp .owl = true ∧ (c.mbx[mbxIdx .bo]).full = false)) ∧ c.sweepRefusal w = none) ∧
    (∃ (c : Chip) (f : FlitHdr) (tag : Nat) (w : SweepOwner) (answer : Nat), Delivers f (.swAck tag w.orig w.group answer) c ∧ c.sweep.headTag = some (tag, w.orig)) ∧
    (∃ (c : Chip) (tag : Nat), c.sweep.headTag = some (tag, c.sett.addr) ∧ c.sweep.ackBad = true ∧ c.sweep.ask = some tag) ∧
    (∃ (c : Chip) (tag : Nat), c.sweep.headTag = some (tag, c.sett.addr) ∧ c.sweep.ackBad = true ∧ c.sweep.ask ≠ some tag ∧ c.originates tag = true) ∧
    (∃ (c : Chip) (tag : Nat) (orig : Address), c.sweep.headTag = some (tag, orig) ∧ orig ≠ c.sett.addr ∧ c.sweep.acksLeft ≠ [] ∧ ((c.sweep.headT0 - 240000 : Nat) : Int) * 128 ≤ c.chainTime128) ∧
    (∃ (c : Chip) (f : FlitHdr) (w : SweepName) (written : Nat), Delivers f (.swDone w.tag w.owner.orig w.owner.group written) c ∧ w.owner.orig ≠ c.sett.addr) ∧
    (∃ (c : Chip) (f : FlitHdr) (w : SweepName) (written : Nat), Delivers f (.swDone w.tag w.owner.orig w.owner.group written) c ∧ w.owner.orig = c.sett.addr ∧ c.originates w.tag = true) ∧
    (∃ (c : Chip), c.originates c.sweep.tag = true ∧ c.sweep.request = false ∧ c.sweep.donesLeft ≠ [] ∧ c.sweep.t0Known = true ∧ ((c.sweep.tEnd + 2400000 : Nat) : Int) * 128 ≤ c.chainTime128) ∧
    (∃ (c : Chip) (f : FlitHdr) (w : SweepName) (cause : Nat), Delivers f (.swAbort w.tag w.owner.orig w.owner.group cause) c ∧ w.owner.orig = c.sett.addr ∧ c.sweep.ask = some w.tag) ∧
    (∃ (c : Chip) (f : FlitHdr) (w : SweepName) (cause : Nat), Delivers f (.swAbort w.tag w.owner.orig w.owner.group cause) c ∧ w.owner.orig = c.sett.addr ∧ c.sweep.ask ≠ some w.tag ∧ c.originates w.tag = true) ∧
    (∃ (c : Chip) (f : FlitHdr) (w : SweepName) (cause : Nat) (aborted : Bool), Delivers f (.swEnd w.tag w.owner.orig w.owner.group aborted cause) c ∧ c.sweep.origAddr ≠ w.owner.orig ∧ c.sweep.capOrig ≠ w.owner.orig ∧ c.sweep.headTag ≠ some (w.tag, w.owner.orig)) ∧
    (∃ (c : Chip) (f : FlitHdr) (w : SweepName) (cause : Nat), Delivers f (.swEnd w.tag w.owner.orig w.owner.group true cause) c ∧ c.sweep.st = .idle ∧ c.sweep.cap = .completed ∧ c.sweep.capChain = true ∧ c.sweep.capTag = w.tag ∧ c.sweep.capOrig = w.owner.orig) ∧
    (∃ (c : Chip) (f : FlitHdr) (w : SweepName) (cause : Nat) (aborted : Bool), Delivers f (.swEnd w.tag w.owner.orig w.owner.group aborted cause) c ∧ c.sweep.st ≠ .idle ∧ c.sweep.chain = true ∧ c.sweep.tag = w.tag ∧ c.sweep.origAddr = w.owner.orig) :=
  ⟨⟨(up.onSweep fun u => { u with headTag := some (9, 2) }).onSett fun u => { u with role := .head, ctSet := true }, flit0, 0, plan0, by decide⟩,
    ⟨up.onSett fun u => { u with role := .head, ctSet := true }, flit0, 0, plan0, by decide⟩,
    ⟨((up.modSg 0 fun u => { u with span := true, leaderAddr := 1 }).modGrp 0 fun u => { u with mode := .regulate, cfg := { u.cfg with period := 307200 } }).onSett fun u => { u with head := 1 }, flit0, 0, 1, plan0, 0, by decide +kernel⟩,
    ⟨((up.modSg 0 fun u => { u with span := true, leaderAddr := 1 }).modGrp 0 fun u => { u with mode := .standby }).onSett fun u => { u with head := 1 }, flit0, 0, 1, plan0, 0, by decide +kernel⟩,
    ⟨((((up.modSg 0 fun u => { u with span := true, leaderAddr := 1 }).modGrp 0 fun u => { u with mode := .regulate, cfg := { u.cfg with period := 307200 } }).onSett fun u => { u with head := 1 }).onHost fun u => { u with sweepCmd := some ⟨ref0, 0x05, []⟩, pending := [⟨ref0, 0x05, []⟩] }).onSweep fun u => { u with ask := some 9 }, flit0, 9, plan0, 0, ⟨ref0, 0x05, []⟩, by decide +kernel, by decide +kernel, by decide +kernel, by decide +kernel, by decide +kernel, by decide +kernel, by decide +kernel, by decide +kernel, by decide +kernel⟩,
    ⟨up.onSweep fun u => { u with headTag := some (9, 1) }, flit0, 9, ⟨1, 0⟩, 0, by decide⟩,
    ⟨up.onSweep fun u => { u with headTag := some (9, 0), ackBad := true, ask := some 9 }, 9, by decide⟩,
    ⟨up.onSweep fun u => { u with headTag := some (9, 0), ackBad := true, st := .running, chain := true, orig := true, tag := 9 }, 9, by decide⟩,
    ⟨up.onSweep fun u => { u with headTag := some (9, 2), acksLeft := [3] }, 9, 2, by decide⟩,
    ⟨up, flit0, ⟨0, ⟨1, 0⟩⟩, 0, by decide⟩,
    ⟨up.onSweep fun u => { u with st := .running, chain := true, orig := true, tag := 9 }, flit0, ⟨9, ⟨0, 0⟩⟩, 0, by decide⟩,
    ⟨up.onSweep fun u => { u with st := .running, chain := true, orig := true, tag := 9, donesLeft := [2], t0Known := true }, by decide⟩,
    ⟨up.onSweep fun u => { u with ask := some 9 }, flit0, ⟨9, ⟨0, 0⟩⟩, 0, by decide⟩,
    ⟨up.onSweep fun u => { u with st := .running, chain := true, orig := true, tag := 9 }, flit0, ⟨9, ⟨0, 0⟩⟩, 0, by decide⟩,
    ⟨up, flit0, ⟨0, ⟨1, 0⟩⟩, 0, true, by decide⟩,
    ⟨up.onSweep fun u => { u with cap := .completed, capChain := true, capTag := 9, capOrig := 1 }, flit0, ⟨9, ⟨1, 0⟩⟩, 0, by decide⟩,
    ⟨up.onSweep fun u => { u with st := .running, chain := true, tag := 9, origAddr := 1 }, flit0, ⟨9, ⟨1, 0⟩⟩, 0, true, by decide⟩⟩

theorem witness_SweepPoints :
    (∃ (c : Chip), c.sweep.st = .setup ∧ c.sweep.cap = .nobody ∧ CaptureCanonical c) ∧
    (∃ (c : Chip), c.sweep.releaseReq = true ∧ c.sweep.cap ≠ .nobody) ∧
    (∃ (c : Chip), c.sweep.st = .setup ∧ c.sweep.cap = .running ∧ c.sweep.capTag = c.sweep.tag ∧ c.sweep.windowOpen = false ∧ c.sweep.next < c.sweep.desc.points ∧ c.ctrlUp = true ∧ c.sweep.t0Known = false ∧ c.sweep.chain = false) ∧
    (∃ (c : Chip), c.sweep.st = .running ∧ c.sweep.windowOpen = true ∧ c.sweep.tClose ≤ c.tb.count) ∧
    (∃ (c : Chip), c.sweep.st ≠ .idle ∧ c.sweep.request = true) ∧
    (∃ (c : Chip) (tag : Nat) (cause : Nat) (rest : List Nat), c.sweep.ask = some tag ∧ c.sweep.askAbort = cause :: rest) ∧
    (∃ (c : Chip) (cause : Nat) (rest : List Nat), c.sweep.abortReq = cause :: rest ∧ c.sweep.st ≠ .idle ∧ (c.sweep.ask = none ∨ c.sweep.askAbort = [])) ∧
    (∃ (c : Chip) (a : HostCmd), c.sweep.st = .idle ∧ (c.sweep.ask = none ∨ c.sweep.askAbort = []) ∧ c.host.aborts = [(.sweep, some a)]) :=
  ⟨⟨up.onSweep fun u => { u with st := .setup }, by decide⟩,
    ⟨up.onSweep fun u => { u with releaseReq := true, cap := .completed }, by decide⟩,
    ⟨up.onSweep fun u => { u with st := .setup, cap := .running, desc := plan0 }, by decide⟩,
    ⟨up.onSweep fun u => { u with st := .running, windowOpen := true }, by decide⟩,
    ⟨up.onSweep fun u => { u with st := .ending, request := true }, by decide⟩,
    ⟨up.onSweep fun u => { u with ask := some 0, askAbort := [0] }, 0, 0, [], by decide⟩,
    ⟨up.onSweep fun u => { u with st := .running, abortReq := [4] }, 4, [], by decide⟩,
    ⟨up.onHost fun u => { u with aborts := [(.sweep, some ⟨ref0, 0x0E, leBytes 2 7 ++ [9, 0]⟩)] }, ⟨ref0, 0x0E, leBytes 2 7 ++ [9, 0]⟩, by decide⟩⟩

theorem witness_SwapRefused : ∃ (c : Chip) (chs : List Change), c.setpt.pending = some chs :=
  ⟨up.onSetpt fun u => { u with pending := some [] }, [], by decide⟩

theorem witness_FaultTakesGroupToSafe : ∃ (c : Chip) (g : Group) (code : Nat), c.powered = true ∧ c.sys.dev = .perGroup ∧ (code = 0x20 ∨ code = 0x21 ∨ 0x23 ≤ code ∧ code ≤ 0x26) ∧ (∀ f ∈ (c.guards[grpBlock g]).faults, f.code ≠ code) ∧ (c.grp[g]).mode ≠ .standby ∧ (c.grp[g]).mode ≠ .safe ∧ c.shdnAsked = false ∧ (code = 0x20 → c.ovWaiting = []) :=
  ⟨up.modGrp 0 fun u => { u with mode := .regulate }, 0, 0x20, by decide⟩

theorem witness_OnlyUpdatesWriteBanks : ∃ (i : Instr) (c : Chip) (d : Chip) (q : List Instr), exec i ⟨q, c⟩ = .next ⟨q, d⟩ ∧ (∀ h : HostRef, ∀ n : Nat, i ≠ .updBegin h n) ∧ (∀ h : HostRef, ∀ off : Nat, ∀ data : List Byte, i ≠ .updData h off data) :=
  ⟨.swapRequest, up, up.swapRequest, [], rfl, nofun, nofun⟩

theorem witness_StepKeepsMemoryCanonical : ∃ (s : State) (t : State), CaptureCanonical s.chip ∧ BanksCanonical s.chip ∧ step s = .next t :=
  ⟨⟨[], up⟩, ⟨[], up.tick⟩, by decide, by decide, rfl⟩

theorem witness_StepKeepsBooks : ∃ (s : State) (t : State), step s = .next t :=
  ⟨⟨[], up⟩, ⟨[], up.tick⟩, rfl⟩

/-! ### Ill-formed commands -/

/-- One term for each check on a command's own operands; each is refused. -/
theorem ill_formed_operands :
    ([.bootDone (2 ^ 32), .phasePeriodStart 0 (2 ^ 64) ⟨none, none, none, none⟩, .firingSlot 0 (2 ^ 64) ⟨none, none, none, none⟩, .groupPeriodStart 0 (2 ^ 64),
      .phaseTrigger 0 .a (2 ^ 64), .phaseConversionDone 0 2048, .phaseConversionDone 0 (-2049), .groupVoltageTrigger 0 (2 ^ 64), .groupFreeRun 0 (2 ^ 64),
      .groupConversionDone 0 16384 true, .auxConversionDone 65536 0, .setpointSwap (2 ^ 64), .snapFill (2 ^ 64), .faultRaise 0 .c 256 0 0, .faultRaise 0 .c 0 256 0,
      .conditionGone 0 256 0, .conditionGone 0 0 256, .retry 0 256 0, .retry 0 0 256, .forecast 0 [] 0, .forecast 0 fcast (2 ^ 64), .vreq 0 [] 0,
      .vreq 0 fcast (2 ^ 64), .heartbeat 0 [] 0, .heartbeat 0 beat (2 ^ 64), .reassemblyTimeout 0 256 0, .reassemblyTimeout 0 0 65536] : List Instr).all
      (fun i => !i.wf) = true := by decide

theorem ill_formed_host :
    ([.readReg ref0 0 256, .telemGet ref0 (List.replicate 256 0), .telemGet ref0 [256], .telemSub ref0 ⟨256, 0, 0, 0, []⟩, .telemSub ref0 ⟨0, 256, 0, 0, []⟩,
      .telemSub ref0 ⟨0, 0, 65536, 0, []⟩, .telemSub ref0 ⟨0, 0, 0, 256, []⟩, .telemSub ref0 ⟨0, 0, 0, 0, [256]⟩, .sweepAbort ref0 65536, .faultClear ref0 256 0,
      .faultClear ref0 0 256, .nvRead ref0 0 65536, .nvWrite ref0 0 65536 [], .nvWrite ref0 0 0 (List.replicate 256 0), .logRead ref0 0 (2 ^ 32) 0, .logRead ref0 0 0 256,
      .calSet ref0 (.count (2 ^ 64)), .calSet ref0 (.date 65536 0 0 0 0 0), .calSet ref0 (.date 0 256 0 0 0 0), .calSet ref0 (.date 0 0 256 0 0 0),
      .calSet ref0 (.date 0 0 0 256 0 0), .calSet ref0 (.date 0 0 0 0 256 0), .calSet ref0 (.date 0 0 0 0 0 256), .abort ref0 65536 0, .abort ref0 0 256,
      .updBegin ref0 (2 ^ 32), .updData ref0 (2 ^ 32) [], .updData ref0 0 (List.replicate 509 0), .hostSetSelect { ref0 with tag := 65536 } 0 0 0,
      .join { ref0 with prio := 8 }, .canFrameRx { can0 with ident := 2 ^ 29 }, .canFrameRx { can0 with data := List.replicate 9 0 },
      .canFrameRx { can0 with recAdd := 65536 }, .canFrameRx { can0 with tecAdd := 65536 },
      .canFrameRx { can0 with fd := true, data := List.replicate 65 0 }] : List Instr).all (fun i => !i.wf) = true := by decide +kernel

theorem ill_formed_messages :
    ([.nvOpEnd ⟨13, true⟩, .gaugeSlot (2 ^ 64) 0 true, .gaugeSlot 0 8388608 true, .gaugeSlot 0 (-8388608) true, .chgLimits (2 ^ 24) 0, .chgLimits 0 (2 ^ 24), .groupState 0 .standby 4, .gaugeSave 65536,
      .cal true (2 ^ 40), .gaugeRecord [0], .record [], .log 256 0, .log 0 256, .ah 65536, .done 65536 0, .done 0 256, .fault 0 256 0, .fault 0 0 256,
      .count 65536 0, .sweepEnd 65536 0, .sweepEnd 0 256] : List Instr).all (fun i => !i.wf) = true := by decide

/-- A sweep descriptor wrong in one field each. -/
theorem ill_formed_sweeps :
    ([{ plan1 with group := 256 }, { plan1 with mode := 256 }, { plan1 with points := 65536 }, { plan1 with fStart := 2 ^ 32 }, { plan1 with fStop := 2 ^ 32 },
      { plan1 with settle := 65536 }, { plan1 with dwell := 65536 }, { plan1 with ampStart := 65536 }, { plan1 with ampStop := 65536 },
      { plan1 with reserved := [] }] : List SweepDesc).all (fun d => !(Instr.sweepStart ref0 d).wf && !(Instr.swReq flit0 0 d).wf && !(Instr.swSetup flit0 0 0 d 0).wf) =
      true ∧ plan1.wf = true := by decide

/-- A flit's header wrong in one field each, with every flit's command. -/
theorem ill_formed_headers :
    ([{ flit0 with dst := 8 }, { flit0 with dst := 14 }, { flit0 with hops := 8 }, { flit0 with seq := 256 }] : List FlitHdr).all (fun f =>
      ([.headClaim f 0, .linkDownFlit f 0 .crc, .topo f ⟨0, 0, [], 0, .line⟩, .leadClaim f 0, .deviceSafe f, .modeOrder f 0 .standby .none 0, .setOrder f 0 0,
        .selFwd f 0 0 0, .fcastFwd f 0 fcast 0, .phFloor f 0 0, .phaseLost f 0, .resume f 0, .swAck f 0 ⟨0, 0⟩ 0, .swDone f ⟨0, ⟨0, 0⟩⟩ 0, .swAbort f ⟨0, ⟨0, 0⟩⟩ 0, .swEnd f ⟨0, ⟨0, 0⟩⟩ true 0,
        .epoch f 0 ⟨0, 0, 0, 0, 0, 0⟩, .share f share0, .report f 0 report0, .swReq f 0 plan1, .swSetup f 0 0 plan1 0] : List Instr).all (fun i => !i.wf)) = true := by
  decide

theorem ill_formed_flits :
    ([.linkUp 0 { train0 with chainSize := 256 }, .linkUp 0 { train0 with exchanges := [] },
      .linkUp 0 { train0 with exchanges := ⟨1, 0, 0⟩ :: train0.exchanges.drop 1 }, .credit 0 0 0, .credit 0 0 9, .epochSend (2 ^ 64), .epoch flit0 (2 ^ 64) ⟨0, 0, 0, 0, 0, 0⟩,
      .epoch flit0 0 ⟨2 ^ 64, 0, 0, 0, 0, 0⟩, .epoch flit0 0 ⟨0, 2 ^ 32, 0, 0, 0, 0⟩, .epoch flit0 0 ⟨0, 0, 2 ^ 31, 0, 0, 0⟩, .epoch flit0 0 ⟨0, 0, 0, 0, 256, 0⟩,
      .epoch flit0 0 ⟨0, 0, 0, 0, 0, 256⟩, .shareSend (2 ^ 64), .share flit0 { share0 with ct := 2 ^ 64 },
      .share flit0 { share0 with recs := Vector.replicate 4 ⟨true, 32768, .off, 0, 0, true⟩ }, .share flit0 { share0 with recs := Vector.replicate 4 ⟨true, 0, .off, 256, 0, true⟩ },
      .share flit0 { share0 with recs := Vector.replicate 4 ⟨true, 0, .off, 0, 256, true⟩ }, .reportSend (2 ^ 64), .report flit0 (2 ^ 64) report0,
      .report flit0 0 (Vector.replicate 4 ⟨256, 0, 0, false, false, false, 0, 0⟩), .report flit0 0 (Vector.replicate 4 ⟨0, 256, 0, false, false, false, 0, 0⟩),
      .report flit0 0 (Vector.replicate 4 ⟨0, 0, 256, false, false, false, 0, 0⟩), .report flit0 0 (Vector.replicate 4 ⟨0, 0, 0, false, false, false, 32768, 0⟩),
      .topo flit0 ⟨256, 0, [], 0, .line⟩, .topo flit0 ⟨0, 0, List.replicate 9 0, 0, .line⟩, .leadClaim flit0 16, .modeOrder flit0 0 .standby .none (2 ^ 64), .selFwd flit0 0 0 256, .fcastFwd flit0 0 [] 0,
      .fcastFwd flit0 0 fcast (2 ^ 64), .phFloor flit0 0 256, .swReq flit0 65536 plan1, .swSetup flit0 65536 0 plan1 0, .swSetup flit0 0 0 plan1 (2 ^ 64),
      .swAck flit0 65536 ⟨0, 0⟩ 0, .swAck flit0 0 ⟨0, 0⟩ 256, .swDone flit0 ⟨65536, ⟨0, 0⟩⟩ 0, .swDone flit0 ⟨0, ⟨0, 0⟩⟩ 65536,
      .swAbort flit0 ⟨65536, ⟨0, 0⟩⟩ 0, .swAbort flit0 ⟨0, ⟨0, 0⟩⟩ 256, .swEnd flit0 ⟨65536, ⟨0, 0⟩⟩ true 0, .swEnd flit0 ⟨0, ⟨0, 0⟩⟩ true 256, .sweepPointStart (2 ^ 64), .holdupCheck12vCrossing (2 ^ 32)] : List Instr).all (fun i => !i.wf) = true := by decide +kernel

/-- The same commands with every operand in its range are well formed. -/
theorem well_formed :
    ([.bootDone 0, .phaseConversionDone 0 2047, .forecast 0 fcast 0, .readReg ref0 0 255, .sweepStart ref0 plan1, .credit 0 0 8, .headClaim flit0 0, .share flit0 share0,
      .report flit0 0 report0, .swSetup flit0 0 0 plan1 0, .record (List.replicate 56 0), .canFrameRx can0, .linkUp 0 train0] : List Instr).all Instr.wf = true := by decide +kernel

/-! ### Single steps -/

/-- The chip after one step. -/
def after (i : Instr) (c : Chip) : Chip :=
  match step ⟨[i], c⟩ with
  | .next s => s.chip
  | _ => c

/-- CRC-16/CCITT-FALSE of "123456789" is 0x29B1, the algorithm's published check value (R352). -/
theorem test_crc16 : crc16 [0x31, 0x32, 0x33, 0x34, 0x35, 0x36, 0x37, 0x38, 0x39] = 0x29B1 := by decide +kernel

/-- SHA-256 of "abc", from FIPS 180-4 (R140). -/
theorem test_sha256 : sha256 [0x61, 0x62, 0x63] =
    [0xBA, 0x78, 0x16, 0xBF, 0x8F, 0x01, 0xCF, 0xEA, 0x41, 0x41, 0x40, 0xDE, 0x5D, 0xAE, 0x22, 0x23, 0xB0, 0x03, 0x61, 0xA3, 0x96, 0x17, 0x7A, 0x9C,
      0xB4, 0x10, 0xFF, 0x61, 0xF2, 0x00, 0x15, 0xAD] := by decide +kernel

/-- 1 kHz is 10^6 mHz: INC = 10^6 × 2^48 / (2.4 × 10^12) = 117 281 240.296, rounded (R471). -/
theorem test_sweep_inc : planInc { plan1 with fStart := 1000000 } 0 = 117281240 := by decide +kernel

/-- EVSEQ 0xFFFF_FFFF is followed by 0, and the wrap counted (R60). -/
theorem test_evseq_wraps :
    let c := after (.mailboxWrite .bo 9) { up with eva := { up.eva with seq := 0xFFFFFFFF } }
    c.eva.seq = 0 ∧ c.eva.wrap = 1 := by decide +kernel

/-- A second word is refused and counted, and the first one stands (R51). -/
theorem test_busy_full :
    let c := after (.mailboxWrite .bo 9) (after (.mailboxWrite .bo 7) up)
    (c.mbx[mbxIdx .bo]).data = 7 ∧ (c.mbx[mbxIdx .bo]).rejFull = 1 ∧ (c.mbx[mbxIdx .bo]).written = 1 := by decide +kernel

/-- A Class B fault of group 0 takes it to SAFE at once, and group 1 stays (R185). -/
theorem test_fault_to_safe :
    let c := after (.faultRaise (grpBlock 0) .b 0x20 0 0) (up.modGrp 0 fun u => { u with mode := .regulate })
    (c.grp[(0 : Group)]).mode = .safe ∧ (c.grp[(1 : Group)]).mode = .standby := by decide +kernel

/-- A warning stops nothing (R500). -/
theorem test_warning :
    let c := after (.faultRaise sysBlock .c 0x40 0xFF 0) (up.modGrp 0 fun u => { u with mode := .regulate })
    (c.grp[(0 : Group)]).mode = .regulate ∧ (c.guards[sysBlock]).cCode = 0x40 := by decide +kernel

/-- A swap requested while one is pending changes nothing (R42). -/
theorem test_second_swap : after .swapRequest (after .swapRequest up) = after .swapRequest up := rfl

/-- VSEL adopted: one change counted, and one event (R343). -/
theorem test_vsel :
    let c := after (.vselChange 3) up
    c.setpt.value = 3 ∧ c.setpt.cnt = 1 ∧ c.eva.seq = 1 := by decide +kernel

/-- Credits come back to eight at most (R428). -/
theorem test_credit_cap : ((after (.credit 0 2 8) (up.modPort 0 fun u => { u with txCred := Vector.replicate 4 3 })).sett.ports[(0 : SettPort)]).txCred[(2 : Fin 4)] = 8 := by
  decide +kernel

/-- An idle step is one tick of TB_COUNT (R205). -/
theorem test_idle_tick : step ⟨[], up⟩ = .next ⟨[], up.tick⟩ := rfl

/-- exp(-1) = 0.367 879 441 171 442 321 6 (R547). -/
theorem test_exp : absRat (expNeg 1 - 3678794411714423216 / 10000000000000000000) < 1 / 1000000000000000 := by decide +kernel

/-- A round trip of 1000 FS with a turnaround of 200 FS is a hop of 400 FS, 6400 sixteenths (R420). -/
theorem test_hop : hopDelay (List.replicate 4 ⟨5000, 6000, 200⟩) = 6400 := by decide +kernel

/-- The calendar stops at the end of its range (R594). -/
theorem test_calendar_end : ({ up with cal := { up.cal with sec := calEnd } }).calendarSecond.cal.sec = calEnd := by decide +kernel

end Sys2Proof.Tests
end

section
/-!
SUPPORT. A command that Owl takes next: what the taking does, what the message to Badger leaves alone, when the answer is made, and what a row that is a
register write then runs (R18, R37, R617, R626).
-/

namespace Sys2Proof.Machine
open Sys2Proof

/-! ### Owl takes a command -/

/-- The block once Owl has taken the command `h`, before it is executed. -/
def Chip.taken (h : HostCmd) (c : Chip) : Chip :=
  { c with host := { c.host with rx := c.host.rx.erase h, pending := c.host.pending ++ [h], cmds := c.host.cmds + 1 } }

theorem Chip.taken_moves (h : HostCmd) (c : Chip) : Moves [.host] c (c.taken h) := moves_set_host (moves_refl _ _) (by decide)

theorem owlUp_of_nextCommand {h : HostCmd} {c : Chip} (n : c.nextCommand = some h) : c.isUp .owl = true := by
  unfold Chip.nextCommand at n
  split at n
  · assumption
  · cases n

theorem receiveCommand_of_nextCommand {h : HostCmd} {c : Chip} (n : c.nextCommand = some h) : c.receiveCommand h = c := by
  have received : c.host.rx.contains h = true := by
    unfold Chip.nextCommand at n
    split at n
    · exact List.contains_iff_mem.2 (List.mem_of_find?_eq_some n)
    · cases n
  exact if_pos received

theorem takeRefusal_of_takesNext {h : HostCmd} {c : Chip} (n : TakesNext h c) : c.takeRefusal h = none := by
  obtain ⟨-, hdev, hcast⟩ := n
  have h1 : ¬((c.sys.dev == .shutdown && h.type != 0x01 && h.type != 0x0A) = true) := by
    rcases hdev with hd | hd | hd <;> simp [hd]
  have h2 : ¬((h.ref.bcast && !broadcastOk h.type) = true) := by
    rcases hcast with hb | hb <;> simp [hb]
  unfold Chip.takeRefusal
  rw [if_neg h1, if_neg h2]

theorem take_of_takesNext {h : HostCmd} {c : Chip} (n : TakesNext h c) (run : HostCmd → Chip → Chip) :
    c.take h run = run h (c.taken h) := by
  have e : Chip.takeRefusal h { c with host := { c.host with rx := c.host.rx.erase h, pending := c.host.pending ++ [h] } } = none :=
    Eq.trans (by rfl) (takeRefusal_of_takesNext n)
  unfold Chip.take
  simp only [e]
  rfl

theorem hostCommand_of_takesNext {ref : HostRef} {type : Nat} {body : List Byte} {c : Chip} (n : TakesNext ⟨ref, type, body⟩ c)
    (run : HostCmd → Chip → Chip) : c.hostCommand ref type body run = run ⟨ref, type, body⟩ (c.taken ⟨ref, type, body⟩) := by
  unfold Chip.hostCommand
  dsimp only
  rw [receiveCommand_of_nextCommand n.1, if_pos n.1, take_of_takesNext n]

/-! ### A message passes over a mailbox -/

theorem mailboxRead_isUp (m : Mailbox) (c : Chip) (k : Core) : (c.mailboxRead m).isUp k = c.isUp k := by
  unfold Chip.mailboxRead
  extract_lets i
  split
  · have hd : ∀ x : Chip, (x.modDom (coreIdx (mbxReceiver m)) (fun d => { d with hold := false, ringSince := false })).isUp k = x.isUp k := by
      intro x
      unfold Chip.isUp
      rw [Chip.modDom_dom]
      by_cases e : coreIdx (mbxReceiver m) = coreIdx k
      · rw [e, vmod_self]
      · rw [vmod_other _ _ _ _ e]
    rw [hd]
    have hg : (c.mbxGrant (45 + i.val) i.val 3 0).dom = c.dom := (Chip.mbxGrant_moves ..).same .dom
    unfold Chip.isUp
    rw [Chip.modMbx_dom, hg]
  · rfl

theorem passWord_isUp (m : Mailbox) (c : Chip) (w : Word) (k : Core) : (c.passWord m w).isUp k = c.isUp k := by
  have hw : (c.mailboxWrite m w).dom = c.dom := (Chip.mailboxWrite_moves ..).same .dom
  unfold Chip.passWord
  rw [mailboxRead_isUp]
  unfold Chip.isUp
  rw [hw]

theorem mbxGrant_modMbx_other (input src info : Nat) (data : Word) (c : Chip) {i j : Fin 6} (f : MailboxUnit → MailboxUnit) (hj : i ≠ j) :
    ((c.mbxGrant input src info data).modMbx i f).mbx[j] = c.mbx[j] := by
  have hg : (c.mbxGrant input src info data).mbx = c.mbx := (Chip.mbxGrant_moves ..).same .mbx
  rw [Chip.modMbx_mbx, vmod_other _ _ _ _ hj, hg]

theorem mailboxWrite_mbx_other (m : Mailbox) (w : Word) (c : Chip) {j : Fin 6} (hj : mbxIdx m ≠ j) :
    (c.mailboxWrite m w).mbx[j] = c.mbx[j] := by
  unfold Chip.mailboxWrite
  dsimp only
  split
  · rfl
  split
  · exact mbxGrant_modMbx_other _ _ _ _ c _ hj
  split
  · exact mbxGrant_modMbx_other _ _ _ _ c _ hj
  · exact mbxGrant_modMbx_other _ _ _ _ c _ hj

theorem mailboxRead_mbx_other (m : Mailbox) (c : Chip) {j : Fin 6} (hj : mbxIdx m ≠ j) : (c.mailboxRead m).mbx[j] = c.mbx[j] := by
  unfold Chip.mailboxRead
  dsimp only
  split
  · exact mbxGrant_modMbx_other _ _ _ _ c _ hj
  · rfl

/-- What no step of a fold changes the fold does not change. -/
theorem foldl_preserves {α β : Type} (f : Chip → β) (step : Chip → α → Chip) (same : ∀ d x, f (step d x) = f d) (l : List α) (c : Chip) :
    f (l.foldl step c) = f c := by
  induction l generalizing c with
  | nil => rfl
  | cons x l ih => exact (ih _).trans (same c x)

/-- What each word of a message leaves alone the whole message does, where the cut of the words taken leaves it alone too. -/
theorem pass_preserves {α : Type} (f : Chip → α) (m : Mailbox) (ws : List Word) (c : Chip)
    (word : ∀ d w, f (Chip.passWord m d w) = f d)
    (cut : ∀ d : Chip, f (d.modMbx (mbxIdx m) (fun u => { u with taken := [] })) = f d) : f (c.pass m ws) = f c := by
  unfold Chip.pass
  dsimp only
  rw [cut]
  split
  · rfl
  · exact foldl_preserves f _ word ws c

/-- A message leaves every core up or down as it was. -/
theorem pass_isUp (m : Mailbox) (ws : List Word) (c : Chip) (k : Core) : (c.pass m ws).isUp k = c.isUp k :=
  pass_preserves (fun d => d.isUp k) m ws c (fun d w => passWord_isUp m d w k) (fun _ => rfl)

theorem pass_mbx_other (m : Mailbox) (ws : List Word) (c : Chip) {j : Fin 6} (hj : mbxIdx m ≠ j) : (c.pass m ws).mbx[j] = c.mbx[j] :=
  pass_preserves (fun d => d.mbx[j]) m ws c
    (fun d w => (mailboxRead_mbx_other m (d.mailboxWrite m w) hj).trans (mailboxWrite_mbx_other m w d hj))
    (fun _ => vmod_other _ _ _ _ hj)

/-! ### Badger carries a command out -/

/-- The block once Owl has taken the command `h` and sent it to Badger, where Badger's core runs (R37). -/
def Chip.sent (h : HostCmd) (c : Chip) : Chip := if (c.taken h).badgerRuns then (c.taken h).pass .ob h.words else c.taken h

theorem Chip.sent_moves (h : HostCmd) (c : Chip) : Moves [.host, .mbx, .dom, .eva, .trace, .obs, .draws] c (c.sent h) := by
  have taken : Moves [.host, .mbx, .dom, .eva, .trace, .obs, .draws] c (c.taken h) := moves_mono (c.taken_moves h) (by decide)
  unfold Chip.sent
  exact moves_ite (fun _ => moves_then taken (Chip.pass_moves ..) (by decide)) (fun _ => taken)

theorem sent_host (h : HostCmd) (c : Chip) : (c.sent h).host = (c.taken h).host := by
  unfold Chip.sent
  split
  · exact (Chip.pass_moves ..).same .host
  · rfl

theorem sent_isUp (h : HostCmd) (c : Chip) (k : Core) : (c.sent h).isUp k = c.isUp k := by
  unfold Chip.sent
  split
  · exact pass_isUp ..
  · rfl

theorem sent_mbx_bo (h : HostCmd) (c : Chip) : (c.sent h).mbx[mbxIdx .bo] = c.mbx[mbxIdx .bo] := by
  unfold Chip.sent
  split
  · exact pass_mbx_other _ _ _ (by decide)
  · rfl

theorem badgerRuns_congr {c d : Chip} (hs : d.sys = c.sys) (hu : ∀ k, d.isUp k = c.isUp k) : d.badgerRuns = c.badgerRuns := by
  unfold Chip.badgerRuns
  rw [hs, hu]

theorem badgerApplies_congr {c d : Chip} (hs : d.sys = c.sys) (hu : ∀ k, d.isUp k = c.isUp k) : d.badgerApplies = c.badgerApplies := by
  unfold Chip.badgerApplies
  rw [badgerRuns_congr hs hu, hs]

theorem regUp_congr {c d : Chip} (a : Nat) (hs : d.sys = c.sys) (hu : ∀ k, d.isUp k = c.isUp k) : d.regUp a = c.regUp a := by
  have hp : d.powered = c.powered := by unfold Chip.powered; rw [hs]
  have hc : d.ctrlUp = c.ctrlUp := by unfold Chip.ctrlUp; rw [hp, hs]
  unfold Chip.regUp
  simp only [hu, hp, hc]

theorem badgerCommand_of_takesNext {ref : HostRef} {type : Nat} {body : List Byte} {c : Chip} (n : TakesNext ⟨ref, type, body⟩ c)
    (k : CarriedOut ⟨ref, type, body⟩ c) (run : HostCmd → Chip → Chip) :
    c.badgerCommand ref type body run = run ⟨ref, type, body⟩ (c.sent ⟨ref, type, body⟩) := by
  have send : c.canSend ⟨ref, type, body⟩ = true := by
    unfold Chip.canSend
    rcases k with k | ⟨k, -⟩ <;> simp [k]
  unfold Chip.badgerCommand
  dsimp only
  rw [receiveCommand_of_nextCommand n.1, if_pos (by simp [n.1, send]), take_of_takesNext n]
  rfl

/-! ### The answer is made -/

/-- A command that has been taken and is not yet answered is answered, whatever else has changed since (R617). -/
theorem answer_answered {h : HostCmd} {c d : Chip} (r : Result) (body : List Byte) (hh : d.host = (c.taken h).host) :
    Answered h r body c (d.answer h r body) := by
  have waits : d.host.pending.contains h = true := by
    rw [hh]
    exact List.contains_iff_mem.2 (List.mem_append_right _ List.mem_cons_self)
  unfold Chip.answer
  rw [if_pos waits]
  dsimp only
  rw [hh]
  exact ⟨rfl, rfl⟩

theorem answerWritten_answered {h : HostCmd} {c d : Chip} (a : Nat) (r : Result) (hh : d.host = (c.taken h).host) :
    ∃ body, Answered h r body c (d.answerWritten h a r) := ⟨_, answer_answered r _ hh⟩

/-- DONE can reach Owl: MBX_BO is free and Owl is up; or Badger's core does not run, and Owl gives the result itself (R142, R651). -/
def DoneFree (d : Chip) : Prop := d.badgerRuns = false ∨ (d.isUp .owl = true ∧ (d.mbx[mbxIdx .bo]).full = false)

theorem doneFree_sent {h : HostCmd} {c : Chip} (n : c.nextCommand = some h) (k : CarriedOut h c) : DoneFree (c.sent h) := by
  rcases k with k | ⟨-, k⟩
  · exact .inl ((badgerRuns_congr ((c.sent_moves h).same .sys) (sent_isUp h c)).trans k)
  · exact .inr ⟨(sent_isUp h c _).trans (owlUp_of_nextCommand n), (congrArg MailboxUnit.full (sent_mbx_bo h c)).trans k⟩

theorem doneFree_congr {c d : Chip} (hs : d.sys = c.sys) (hd : d.dom = c.dom) (hm : d.mbx = c.mbx) (f : DoneFree c) : DoneFree d := by
  have hu : ∀ k, d.isUp k = c.isUp k := fun k => by unfold Chip.isUp; rw [hd]
  unfold DoneFree
  rw [badgerRuns_congr hs hu, hu, hm]
  exact f

theorem done_answered {h : HostCmd} {c d : Chip} (r : Result) (body : List Byte) (hh : d.host = (c.taken h).host) (f : DoneFree d) :
    Answered h r body c (d.done h r body) := by
  unfold Chip.done
  split
  · exact answer_answered r body hh
  · rename_i runs
    have hr : d.isUp .badger = true ∧ d.sys.result = .ok := by simpa using runs
    have free : d.canPass .bo (doneWords h.ref.tag (resultCode r)) = true := by
      rcases f with f | ⟨owl, full⟩
      · simp [Chip.badgerRuns, hr] at f
      · unfold Chip.canPass
        dsimp only
        rw [show d.isUp (mbxSender .bo) = true from hr.1, show d.isUp (mbxReceiver .bo) = true from owl, full]
        simp
    rw [if_pos free]
    exact answer_answered r body (((Chip.pass_moves ..).same .host).trans hh)

theorem doneWritten_answered {h : HostCmd} {c d : Chip} (a : Nat) (r : Result) (hh : d.host = (c.taken h).host) (f : DoneFree d) :
    ∃ body, Answered h r body c (d.doneWritten h a r) := ⟨_, done_answered r _ hh f⟩

/-! ### Which register a write names -/

theorem mapped_of_lt {a : Nat} (h : a < 0x00110000) : mapped a = true := by simp [mapped, h]

theorem groupReg_some {base stride a : Nat} {g : Group} (h : groupReg base stride a = some g) :
    base ≤ a ∧ (a - base) % stride = 0 ∧ (a - base) / stride < 4 := by
  unfold groupReg at h
  split at h
  · rename_i hb
    unfold under at h
    split at h
    · exact ⟨hb.1, hb.2, ‹_›⟩
    · cases h
  · cases h

/-- Every writable register lies in a block window (R73). -/
theorem mapped_of_writableAt {a : Nat} {k : WriteTo} (h : writableAt a = some k) : mapped a = true := by
  apply mapped_of_lt
  unfold writableAt at h
  split at h
  · subst a; decide
  split at h
  · subst a; decide
  split at h
  · subst a; decide
  split at h
  · subst a; decide
  split at h
  · obtain ⟨h1, h2, h3⟩ := groupReg_some (by assumption)
    omega
  · obtain ⟨h1, h2, h3⟩ := groupReg_some (by assumption)
    omega
  · split at h
    · rename_i hs
      split at hs
      · unfold under at hs
        split at hs
        · omega
        · cases hs
      · cases hs
    · cases h

theorem writableAt_of_unmapped {a : Nat} (out : mapped a = false) : writableAt a = none := by
  cases w : writableAt a with
  | none => rfl
  | some k => rw [mapped_of_writableAt w] at out; cases out

theorem writableAt_hselAddr (g : Group) : writableAt (hselAddr g) = some (.hsel g) := by revert g; decide

theorem writableAt_statusAddr (b : Block) : writableAt (statusAddr b) = some (.status b) := by revert b; decide

theorem regUp_hselAddr (g : Group) (c : Chip) : c.regUp (hselAddr g) = c.ctrlUp := by
  have register : mbxDataAt (hselAddr g) = none := by revert g; decide
  have window : hselAddr g / 0x10000 = 0x06 := by revert g; decide
  simp only [Chip.regUp, register, window]

theorem regUp_statusAddr (b : Block) (c : Chip) : c.regUp (statusAddr b) = c.powered := by
  have register : mbxDataAt (statusAddr b) = none := by revert b; decide
  have window : statusAddr b / 0x10000 = 0x0A := by revert b; decide
  simp only [Chip.regUp, register, window]

/-! ### A write runs -/

section
variable {i : Instr} {h : HostRef} {a : Nat} {v m : Word} {c : Chip} {k : WriteTo} {ps : List Part} {post : Chip → Prop}

/-- A write to an address with no writable register is answered by Owl. -/
theorem hostWrite_unwritable (n : TakesNext ⟨h, 0x02, writeBody a v m⟩ c) (w : writableAt a = none) :
    c.hostWrite h a v m = (c.taken ⟨h, 0x02, writeBody a v m⟩).writeReg a v m ⟨h, 0x02, writeBody a v m⟩ := by
  unfold Chip.hostWrite
  rw [if_neg (by simp [w]), hostCommand_of_takesNext n]

/-- A write of Owl's own (R626). -/
theorem hostWrite_owls (n : TakesNext ⟨h, 0x02, writeBody a v m⟩ c) (w : writableAt a = some k) (own : k.isBadgers = false)
    (up : c.regUp a = true) :
    c.hostWrite h a v m = (c.taken ⟨h, 0x02, writeBody a v m⟩).writeTo k v m ⟨h, 0x02, writeBody a v m⟩ := by
  have hup : (c.taken ⟨h, 0x02, writeBody a v m⟩).regUp a = true := up
  unfold Chip.hostWrite
  rw [if_neg (by simp [w, own]), hostCommand_of_takesNext n]
  simp [Chip.writeReg, mapped_of_writableAt w, w, hup]

/-- A write that Badger makes (R37). -/
theorem hostWrite_badgers (n : TakesNext ⟨h, 0x02, writeBody a v m⟩ c) (co : CarriedOut ⟨h, 0x02, writeBody a v m⟩ c)
    (w : writableAt a = some k) (badgers : k.isBadgers = true) (up : c.regUp a = true) :
    c.hostWrite h a v m = (c.sent ⟨h, 0x02, writeBody a v m⟩).writeTo k v m ⟨h, 0x02, writeBody a v m⟩ := by
  have hup : (c.sent ⟨h, 0x02, writeBody a v m⟩).regUp a = true :=
    (regUp_congr a ((Chip.sent_moves ..).same .sys) (sent_isUp _ c)).trans up
  unfold Chip.hostWrite
  rw [if_pos (by simp [w, badgers, up]), badgerCommand_of_takesNext n co]
  simp [Chip.writeReg, mapped_of_writableAt w, w, hup]

/-- A row that is a write to an address with no writable register gives the answer that the address calls for. -/
theorem runs_unwritable (row : ∀ q, exec i ⟨q, c⟩ = .next ⟨q, c.hostWrite h a v m⟩) (n : TakesNext ⟨h, 0x02, writeBody a v m⟩ c)
    (w : writableAt a = none) (host : ∀ p ∈ [Part.host], p ∈ ps)
    (moved : Moves ps (c.taken ⟨h, 0x02, writeBody a v m⟩) ((c.taken ⟨h, 0x02, writeBody a v m⟩).writeReg a v m ⟨h, 0x02, writeBody a v m⟩))
    (holds : post ((c.taken ⟨h, 0x02, writeBody a v m⟩).writeReg a v m ⟨h, 0x02, writeBody a v m⟩)) : Runs i c ps post := by
  rw [hostWrite_unwritable n w] at row
  exact ⟨_, row, (moves_trans (moves_mono (c.taken_moves _) host) moved).keep, holds⟩

/-- A row that is a write of Owl's own does what the write does once the command is taken. -/
theorem runs_owls (row : ∀ q, exec i ⟨q, c⟩ = .next ⟨q, c.hostWrite h a v m⟩) (n : TakesNext ⟨h, 0x02, writeBody a v m⟩ c)
    (w : writableAt a = some k) (own : k.isBadgers = false) (up : c.regUp a = true) (host : ∀ p ∈ [Part.host], p ∈ ps)
    (moved : ∀ d x, Moves ps d (d.writeTo k v m x))
    (holds : post ((c.taken ⟨h, 0x02, writeBody a v m⟩).writeTo k v m ⟨h, 0x02, writeBody a v m⟩)) : Runs i c ps post := by
  rw [hostWrite_owls n w own up] at row
  exact ⟨_, row, (moves_trans (moves_mono (c.taken_moves _) host) (moved _ _)).keep, holds⟩

/-- A row that is a write of Badger's does what the write does once the command has been sent to Badger. -/
theorem runs_badgers (row : ∀ q, exec i ⟨q, c⟩ = .next ⟨q, c.hostWrite h a v m⟩) (n : TakesNext ⟨h, 0x02, writeBody a v m⟩ c)
    (co : CarriedOut ⟨h, 0x02, writeBody a v m⟩ c) (w : writableAt a = some k) (badgers : k.isBadgers = true) (up : c.regUp a = true)
    (sent : ∀ p ∈ [Part.host, .mbx, .dom, .eva, .trace, .obs, .draws], p ∈ ps)
    (moved : Moves ps (c.sent ⟨h, 0x02, writeBody a v m⟩) ((c.sent ⟨h, 0x02, writeBody a v m⟩).writeTo k v m ⟨h, 0x02, writeBody a v m⟩))
    (holds : post ((c.sent ⟨h, 0x02, writeBody a v m⟩).writeTo k v m ⟨h, 0x02, writeBody a v m⟩)) : Runs i c ps post := by
  rw [hostWrite_badgers n co w badgers up] at row
  exact ⟨_, row, (moves_trans (moves_mono (c.sent_moves _) sent) moved).keep, holds⟩

end

end Sys2Proof.Machine
end

section
/-!
SUPPORT. What a host selection does (R338, R339): a swap leaves the set records and who leads a group alone, and a selection in force is recorded in
its group alone.
-/

namespace Sys2Proof.Machine
open Sys2Proof

/-! ### What a swap leaves alone -/

theorem freeBuffer_groups (held : Option SettPort) (vc : Fin 4) (c : Chip) : (c.freeBuffer held vc).sett.groups = c.sett.groups := by
  unfold Chip.freeBuffer
  split
  · rfl
  · rfl

theorem servePort_groups (p : SettPort) (t now n : Nat) (c : Chip) : (c.servePort p t now n).sett.groups = c.sett.groups := by
  induction n generalizing t c with
  | zero => rfl
  | succ n ih =>
    unfold Chip.servePort
    extract_lets u t'
    split
    · rfl
    split
    · rfl
    · extract_lets vc x y
      rw [ih, freeBuffer_groups]
      rfl

theorem elapse_groups (n : Nat) (c : Chip) : (c.elapse n).sett.groups = c.sett.groups := by
  unfold Chip.elapse
  split
  · extract_lets before _ x y z w
    have hy : y.sett = c.sett := by unfold y; split <;> rfl
    have hz : z.sett = y.sett := by unfold z; split <;> rfl
    have hw : w.sett = z.sett := by
      unfold w
      split
      · exact (Chip.pushTrace_moves ..).same .sett
      · rfl
    rw [foldl_preserves (fun d => d.sett.groups) _ (fun d p => servePort_groups ..), hw, hz, hy]
  · rfl

theorem derateFlags_moves (chs : List Change) (c : Chip) : Moves [.grp] c (chs.foldl Chip.derateFlag c) :=
  moves_foldl chs Chip.derateFlag (moves_refl _ c) (fun d ch => Chip.derateFlag_moves d ch)

/-- A swap leaves every set record, and who leads each group, alone (R39). -/
theorem swapGrant_records (t : Nat) (c : Chip) :
    (c.swapGrant t).setpt.sets = c.setpt.sets ∧ (c.swapGrant t).sett.groups = c.sett.groups := by
  unfold Chip.swapGrant
  split
  · exact ⟨rfl, rfl⟩
  · rename_i chs _
    extract_lets x y z w
    have hp : z.setpt = c.setpt :=
      ((derateFlags_moves chs y).same .setpt).trans (((Chip.grant_moves ..).same .setpt).trans ((Chip.elapseTo_moves ..).same .setpt))
    have hs : z.sett = (c.elapseTo t).sett := ((derateFlags_moves chs y).same .sett).trans ((Chip.grant_moves ..).same .sett)
    refine ⟨?_, ?_⟩
    · show z.setpt.sets = _
      rw [hp]
    · show z.sett.groups = _
      rw [hs]
      exact elapse_groups _ c

theorem badgerFirst_records (c : Chip) : c.badgerFirst.setpt.sets = c.setpt.sets ∧ c.badgerFirst.sett.groups = c.sett.groups := by
  obtain ⟨h1, h2⟩ := swapGrant_records c.tb.count c
  obtain ⟨k1, k2⟩ := swapGrant_records c.tb.count (c.swapGrant c.tb.count)
  exact ⟨k1.trans h1, k2.trans h2⟩

theorem badgerFirst_of_idle {c : Chip} (h : c.setpt.pending = none) : c.badgerFirst = c := by
  have idle : ∀ t, c.swapGrant t = c := fun t => by unfold Chip.swapGrant; rw [h]
  unfold Chip.badgerFirst
  rw [idle, idle]

/-! ### A selection in force -/

theorem vmod_vmod {α : Type} {n : Nat} (v : Vector α n) (i : Fin n) (f k : α → α) : vmod (vmod v i f) i k = vmod v i (fun x => k (f x)) := by
  simp [vmod]

theorem vmod_congr {α : Type} {n : Nat} (v : Vector α n) (i : Fin n) {f k : α → α} (h : f v[i] = k v[i]) : vmod v i f = vmod v i k := by
  unfold vmod
  rw [h]

/-- A group with the selection of a set by a source in force, at the event `seq`; in SWEEP its swap waits. -/
def GroupUnit.selected (set src : Nat) (seq : Word) (u : GroupUnit) : GroupUnit :=
  { u with selSet := set, selSrc := src, selSeq := seq, selWait := decide (u.mode = .sweep) }

theorem select_grp (g : Group) (set src : Nat) (seq : Word) (c : Chip) :
    (c.select g set src seq).grp = vmod c.grp g (GroupUnit.selected set src seq) := by
  unfold Chip.select
  extract_lets x
  have hx : x.grp = vmod c.grp g (fun u => { u with selSet := set, selSrc := src, selSeq := seq }) := rfl
  have hm : (x.grp[g]).mode = (c.grp[g]).mode := by rw [hx, vmod_self]
  split
  · rename_i sweep
    rw [Chip.modGrp_grp, hx, vmod_vmod]
    exact vmod_congr _ _ (by rw [GroupUnit.selected, decide_eq_true (hm.symm.trans sweep)])
  · rename_i sweep
    have applied : (x.applySelection g).grp = vmod x.grp g (fun u => { u with selWait := false }) := (Chip.present_moves ..).same .grp
    rw [applied, hx, vmod_vmod]
    exact vmod_congr _ _ (by rw [GroupUnit.selected, decide_eq_false (hm ▸ sweep)])

/-- A selection of a defined set on a device that decides for the group is in force (R339, R341), and no other group changes. -/
theorem selection_grp (g : Group) (set src : Nat) (c : Chip) (defined : (c.setRec g set).defined = true) (decides : c.isMember g = false) :
    (c.selection g set src).1.grp = vmod c.grp g (GroupUnit.selected set src c.eva.seq) := by
  unfold Chip.selection
  extract_lets seq x y
  rw [if_neg (by simp [defined]), if_neg (by simp [decides])]
  have hx : x.grp = c.grp := by
    unfold x
    split
    · exact (Chip.abortSweepOf_moves ..).same .grp
    · rfl
  have hy : y.grp = vmod c.grp g (GroupUnit.selected set src c.eva.seq) := by
    unfold y
    rw [select_grp, hx]
  dsimp only
  split
  · exact ((Chip.broadcast_moves ..).same .grp).trans hy
  · exact hy

/-- A write of SETPT_Gn_HSEL that covers SET and names a defined set puts the host selection in force (R339), after what Badger asked for before. -/
theorem writeHsel_defined {g : Group} {v m : Word} {h : HostCmd} {c : Chip} {set : Nat} (applies : c.badgerApplies = true)
    (en : (c.grp[g]).cfg.hostEn = true) (covers : m.toNat % 16 ≠ 0) (hset : (merge (BitVec.ofNat 32 (c.grp[g]).hsel) v m).toNat % 16 = set)
    (defined : (c.setRec g set).defined = true) (decides : c.isMember g = false) :
    ∃ e seq, c.writeHsel g v m h = e.doneWritten h (hselAddr g) .ok ∧
      e.grp = vmod c.badgerFirst.grp g (fun u => GroupUnit.selected set 2 seq { u with hsel := set }) ∧
      Moves [.tb, .grp, .le, .setpt, .sweep, .sett, .eva, .trace, .obs, .draws] c e := by
  have granted : Moves [.eva, .trace, .obs, .draws] c.badgerFirst (c.badgerFirst.grant 41 1) := Chip.grant_moves ..
  obtain ⟨sets, groups⟩ := badgerFirst_records c
  let b := (c.badgerFirst.grant 41 1).modGrp g (fun u => { u with hsel := set })
  have hb : b.grp = vmod c.badgerFirst.grp g (fun u => { u with hsel := set }) := by
    unfold b
    rw [Chip.modGrp_grp, granted.same .grp]
  have hd : (b.setRec g set).defined = true := by
    have : b.setpt.sets = c.setpt.sets := (congrArg SetptUnit.sets (granted.same .setpt)).trans sets
    unfold Chip.setRec
    rw [this]
    exact defined
  have hm : b.isMember g = false := by
    have : b.sett.groups = c.sett.groups := (congrArg SettUnit.groups (granted.same .sett)).trans groups
    unfold Chip.isMember
    rw [this]
    exact decides
  refine ⟨(b.selection g set 2).1, b.eva.seq, ?_, ?_, ?_⟩
  · unfold Chip.writeHsel
    simp only [hset]
    rw [if_neg (by rw [applies]; exact Bool.false_ne_true), if_neg (by rw [en]; exact Bool.false_ne_true), if_neg covers, if_neg (by rw [defined]; exact Bool.false_ne_true)]
  · rw [selection_grp g set 2 b hd hm, hb, vmod_vmod]
  · refine moves_then ?_ (Chip.selection_moves ..) (by decide)
    refine moves_then ?_ (Chip.modGrp_moves ..) (by decide)
    exact moves_then (moves_mono (Chip.badgerFirst_moves c) (by decide)) granted (by decide)

end Sys2Proof.Machine
end

section
/-!
SUPPORT. What a write of each register of WRITE_CMD, HOST_SET_SELECT, SHUTDOWN_REQUEST, GAUGE_CMD_SAVE and WARNING_CLEAR does once its command has been
taken or sent, and the statement about these commands, one lemma a clause.
-/

namespace Sys2Proof.Machine
open Sys2Proof

/-! ### What the writes do -/

section
variable {h : HostCmd} {c : Chip} {v m : Word}

theorem writeReg_unmapped {a : Nat} (out : mapped a = false) : c.writeReg a v m h = c.answer h .addrInvalid (leBytes 4 a ++ leBytes 4 0) :=
  if_pos (by rw [out]; rfl)

theorem writeReg_unwritable {a : Nat} (inside : mapped a = true) (w : writableAt a = none) :
    c.writeReg a v m h = c.answerWritten h a .accessDenied := by
  unfold Chip.writeReg
  rw [if_neg (by rw [inside]; exact Bool.false_ne_true), w]

/-- A W1C write of RST_STUCK (R626). -/
theorem writeRstCause_sets (sets : setsBit 4 v m = true) :
    ((c.taken h).writeRstCause v m h).sys = { c.sys with rstStuck := false } ∧ Granted c ((c.taken h).writeRstCause v m h) ∧
      ∃ body, Answered h .ok body c ((c.taken h).writeRstCause v m h) := by
  have granted : Moves [.eva, .trace, .obs, .draws] (c.taken h) ((c.taken h).grant 42 1) := Chip.grant_moves ..
  unfold Chip.writeRstCause
  rw [if_pos sets]
  extract_lets x _ y
  have answered : Moves [.host] y (y.answerWritten h rstCauseAddr .ok) := Chip.answerWritten_moves ..
  refine ⟨?_, ?_, answerWritten_answered _ _ (granted.same .host)⟩
  · rw [answered.same .sys]
    show { x.sys with rstStuck := false } = _
    rw [granted.same .sys]
    rfl
  · unfold Granted
    rw [answered.same .eva]
    exact grant_granted 42 1 (c.taken h)

/-- The held warning of a block clears, its faults and every other block standing (R498, R626). -/
theorem dropWarning_guards (b : Block) (c : Chip) :
    ((c.dropWarning b).guards[b]).c = false ∧ ((c.dropWarning b).guards[b]).faults = (c.guards[b]).faults ∧
      ∀ k : Block, k ≠ b → (c.dropWarning b).guards[k] = c.guards[k] := by
  unfold Chip.dropWarning
  extract_lets g
  obtain ⟨i, hist, hg⟩ := writeHist_guards b .clear .c g.cCode g.cUnit 0 false (c.modGuard b (fun g => { g with c := false }))
  rw [hg, Chip.modGuard_guards, vmod_vmod]
  refine ⟨?_, ?_, fun k hk => vmod_other _ _ _ _ hk.symm⟩
  · rw [vmod_self]
  · rw [vmod_self]

/-- A W1C write of STATUS.C of a block with a warning held (R498, R626). -/
theorem writeStatus_clears {b : Block} (sets : setsBit 28 v m = true) (held : (c.guards[b]).c = true) :
    let d := (c.taken h).writeStatus b v m h
    (d.guards[b]).c = false ∧ (d.guards[b]).faults = (c.guards[b]).faults ∧ (∀ k : Block, k ≠ b → d.guards[k] = c.guards[k]) ∧ Granted c d ∧
      ∃ body, Answered h .ok body c d := by
  have hheld : ((c.taken h).guards[b]).c = true := held
  have granted := Chip.grantAs_moves 42 (guardInfo b .clear .c ((c.taken h).guards[b]).cCode 0 false) (c.taken h)
  have one := grantAs_granted 42 (guardInfo b .clear .c ((c.taken h).guards[b]).cCode 0 false) (c.taken h)
  unfold Chip.writeStatus
  rw [if_pos sets, if_pos hheld]
  generalize (c.taken h).grantAs 42 _ = s at granted one ⊢
  extract_lets x d
  have dropped : Moves [.guards, .log] s x := Chip.dropWarning_moves ..
  have answered : Moves [.host] x d := Chip.answerWritten_moves ..
  have hs : s.guards = c.guards := granted.same .guards
  have hd : d.guards = x.guards := answered.same .guards
  obtain ⟨clear, faults, others⟩ := dropWarning_guards b s
  rw [hs] at faults others
  rw [hd]
  refine ⟨clear, faults, others, ?_, answerWritten_answered _ _ ((dropped.same .host).trans (granted.same .host))⟩
  unfold Granted
  rw [answered.same .eva, dropped.same .eva]
  exact one

/-- A write of GAUGE_CMD that sets SAVE, with the gauge enabled and the store writable, is carried to Hedgehog and changes nothing else (R564). -/
theorem writeGaugeCmd_carried (en : c.gauge.cfg.en = true) (sets : setsBit 0 v m = true) (writable : c.nv.readOnly = false) :
    c.writeGaugeCmd v m h = c := by
  unfold Chip.writeGaugeCmd
  rw [if_neg (by simp [en]), if_neg (by simp [sets]), if_neg (by simp [writable])]

theorem writeGaugeCmd_disabled (off : c.gauge.cfg.en = false) : c.writeGaugeCmd v m h = c.answerWritten h gaugeCmdAddr .sourceDisabled := by
  unfold Chip.writeGaugeCmd
  rw [if_pos (by simp [off])]

/-- A write of SYS_MODE_REQ that sets SHUTDOWN and is applied requests SHDN_START (R162, R187, R188). -/
theorem writeModeReq_requests (applies : c.badgerApplies = true ∨ (c.latched = true ∧ c.sys.dev = .safe)) (out : c.outOfBoot = true)
    (dev : c.sys.dev ≠ .shutdown) (sets : setsBit 0 v m = true) :
    c.writeModeReq v m h = { c with sys := { c.sys with shdnReq := c.sys.shdnReq ++ [ShdnCause.host] } }.doneWritten h modeReqAddr .ok := by
  have applied : ¬((!c.badgerApplies && !(c.latched && c.sys.dev == .safe)) = true) := by
    rcases applies with ha | ⟨hl, hd⟩
    · simp [ha]
    · simp [hl, hd]
  unfold Chip.writeModeReq Chip.requestShdn
  rw [if_neg applied, if_pos sets, if_pos (by simp [out, dev])]

theorem writeHsel_undefined {g : Group} (applies : c.badgerApplies = true) (en : (c.grp[g]).cfg.hostEn = true) (covers : m.toNat % 16 ≠ 0)
    (undefined : (c.setRec g ((merge (BitVec.ofNat 32 (c.grp[g]).hsel) v m).toNat % 16)).defined = false) :
    c.writeHsel g v m h = c.doneWritten h (hselAddr g) .setUndefined := by
  unfold Chip.writeHsel
  dsimp only
  rw [if_neg (by rw [applies]; exact Bool.false_ne_true), if_neg (by rw [en]; exact Bool.false_ne_true), if_neg covers,
    if_pos (by rw [undefined]; rfl)]
end

/-! ### The clauses -/

section
variable {c : Chip} {h : HostRef} {v m : Word}

/-- WRITE_CMD outside the address map (R18, R626). -/
theorem writeCmd_unmapped {a : Word} (n : TakesNext ⟨h, 0x02, writeBody a.toNat v m⟩ c) (out : mapped a.toNat = false) :
    Runs (.writeCmd h a v m) c [.host] (fun d =>
      Answered ⟨h, 0x02, writeBody a.toNat v m⟩ .addrInvalid (leBytes 4 a.toNat ++ leBytes 4 0) c d) := by
  refine runs_unwritable (fun _ => rfl) n (writableAt_of_unmapped out) (by decide) ?_ ?_
  · rw [writeReg_unmapped out]
    exact Chip.answer_moves ..
  · rw [writeReg_unmapped out]
    exact answer_answered _ _ rfl

/-- WRITE_CMD to a register that takes no host write (R18, R626). -/
theorem writeCmd_denied (n : TakesNext ⟨h, 0x02, writeBody 0x00010010 v m⟩ c) :
    Runs (.writeCmd h 0x00010010 v m) c [.host] (fun d => Answered ⟨h, 0x02, writeBody 0x00010010 v m⟩ .accessDenied
      (leBytes 4 0x00010010 ++ leBytes 4 (c.regWord .host 0x00010010).toNat) c d) := by
  have inside : mapped 0x00010010 = true := by decide
  have unwritable : writableAt 0x00010010 = none := by decide
  refine runs_unwritable (a := 0x00010010) (fun _ => rfl) n unwritable (by decide) ?_ ?_
  · rw [writeReg_unwritable inside unwritable]
    exact Chip.answerWritten_moves ..
  · rw [writeReg_unwritable inside unwritable]
    exact answer_answered _ _ rfl

/-- WRITE_CMD that sets RST_STUCK (R626). -/
theorem writeCmd_rstCause (n : TakesNext ⟨h, 0x02, writeBody rstCauseAddr v m⟩ c) (powered : c.powered = true) (sets : setsBit 4 v m = true) :
    Runs (.writeCmd h 0x00000108 v m) c [.sys, .eva, .trace, .obs, .host, .draws] (fun d => d.sys = { c.sys with rstStuck := false } ∧ Granted c d ∧
      ∃ body, Answered ⟨h, 0x02, writeBody rstCauseAddr v m⟩ .ok body c d) :=
  runs_owls (k := .rstCause) (fun _ => rfl) n (by decide) rfl powered (by decide) (fun d x => d.writeRstCause_moves v m x) (writeRstCause_sets sets)

/-- HOST_SET_SELECT of a defined set (R339). -/
theorem hostSetSelect_defined {g : Group} (n : TakesNext ⟨h, 0x02, writeBody (hselAddr g) v m⟩ c)
    (co : CarriedOut ⟨h, 0x02, writeBody (hselAddr g) v m⟩ c) (up : c.ctrlUp = true) (applies : c.badgerApplies = true)
    (covers : m.toNat % 16 ≠ 0) (en : (c.grp[g]).cfg.hostEn = true)
    (defined : (c.setRec g ((merge (BitVec.ofNat 32 (c.grp[g]).hsel) v m).toNat % 16)).defined = true) (decides : c.isMember g = false) :
    Runs (.hostSetSelect h g v m) c [.sys, .tb, .ph, .grp, .le, .setpt, .cap, .sweep, .sett, .guards, .eva, .trace, .obs, .mbx, .dom, .nv, .cal, .log, .host, .draws]
        (fun d => (d.grp[g]).hsel = (merge (BitVec.ofNat 32 (c.grp[g]).hsel) v m).toNat % 16 ∧
      (d.grp[g]).selSet = (merge (BitVec.ofNat 32 (c.grp[g]).hsel) v m).toNat % 16 ∧ (d.grp[g]).selSrc = 2 ∧
      (c.setpt.pending = none → ∀ j : Group, j ≠ g → d.grp[j] = c.grp[j]) ∧ (∀ j : Group, (d.grp[j]).mode = (c.grp[j]).mode) ∧
      ∃ body, Answered ⟨h, 0x02, writeBody (hselAddr g) v m⟩ .ok body c d) := by
  refine runs_badgers (k := .hsel g) (fun _ => rfl) n co (writableAt_hselAddr g) rfl ((regUp_hselAddr g c).trans up) (by decide)
    (Chip.writeTo_moves ..) ?_
  generalize (⟨h, 0x02, writeBody (hselAddr g) v m⟩ : HostCmd) = cmd at n co ⊢
  generalize hset : (merge (BitVec.ofNat 32 (c.grp[g]).hsel) v m).toNat % 16 = set at defined ⊢
  have sent := c.sent_moves cmd
  have hg : (c.sent cmd).grp = c.grp := sent.same .grp
  have hp : (c.sent cmd).setpt = c.setpt := sent.same .setpt
  obtain ⟨d, seq, hw, hd, selected⟩ := writeHsel_defined (c := c.sent cmd) (g := g) (v := v) (m := m) (h := cmd) (set := set)
    ((badgerApplies_congr (sent.same .sys) (sent_isUp cmd c)).trans applies) (by rw [hg]; exact en) covers (by rw [hg]; exact hset)
    (by unfold Chip.setRec; rw [hp]; exact defined) (by unfold Chip.isMember; rw [sent.same .sett]; exact decides)
  have hgrp : ((c.sent cmd).writeHsel g v m cmd).grp =
      vmod (c.sent cmd).badgerFirst.grp g (fun u => GroupUnit.selected set 2 seq { u with hsel := set }) := by
    rw [hw, (Chip.doneWritten_moves ..).same .grp, hd]
  have modes : SameModes c ((c.sent cmd).writeHsel g v m cmd) := by
    refine sameModes_trans (sameModes_of_eq hg) (sameModes_trans (badgerFirst_modes (c.sent cmd)) ?_)
    refine sameModes_trans (sameModes_modGrp (g := g) (f := fun u => GroupUnit.selected set 2 seq { u with hsel := set }) fun _ => rfl) ?_
    exact sameModes_of_eq hgrp
  dsimp only [Chip.writeTo]
  refine ⟨?_, ?_, ?_, fun idle j hj => ?_, modes, ?_⟩
  · rw [hgrp, vmod_self]; rfl
  · rw [hgrp, vmod_self]; rfl
  · rw [hgrp, vmod_self]; rfl
  · rw [hgrp, vmod_other _ _ _ _ hj.symm, badgerFirst_of_idle (by rw [hp]; exact idle), hg]
  · rw [hw]
    exact doneWritten_answered _ _ ((selected.same .host).trans (sent_host cmd c))
      (doneFree_congr (selected.same .sys) (selected.same .dom) (selected.same .mbx) (doneFree_sent n.1 co))

/-- HOST_SET_SELECT of an undefined set (R339). -/
theorem hostSetSelect_undefined {g : Group} (n : TakesNext ⟨h, 0x02, writeBody (hselAddr g) v m⟩ c)
    (co : CarriedOut ⟨h, 0x02, writeBody (hselAddr g) v m⟩ c) (up : c.ctrlUp = true) (applies : c.badgerApplies = true)
    (covers : m.toNat % 16 ≠ 0) (en : (c.grp[g]).cfg.hostEn = true)
    (undefined : (c.setRec g ((merge (BitVec.ofNat 32 (c.grp[g]).hsel) v m).toNat % 16)).defined = false) :
    Runs (.hostSetSelect h g v m) c [.host, .mbx, .dom, .eva, .trace, .obs, .draws] (fun d =>
      ∃ body, Answered ⟨h, 0x02, writeBody (hselAddr g) v m⟩ .setUndefined body c d) := by
  have hw : ∀ x, (c.sent x).writeTo (.hsel g) v m x = (c.sent x).doneWritten x (hselAddr g) .setUndefined := fun x => by
    have sent := c.sent_moves x
    have hg : (c.sent x).grp = c.grp := sent.same .grp
    refine writeHsel_undefined ((badgerApplies_congr (sent.same .sys) (sent_isUp x c)).trans applies) (by rw [hg]; exact en) covers ?_
    unfold Chip.setRec
    rw [hg, sent.same .setpt]
    exact undefined
  refine runs_badgers (k := .hsel g) (fun _ => rfl) n co (writableAt_hselAddr g) rfl ((regUp_hselAddr g c).trans up) (by decide) ?_ ?_
  · rw [hw]
    exact moves_mono (Chip.doneWritten_moves ..) (by decide)
  · rw [hw]
    exact doneWritten_answered _ _ (sent_host _ c) (doneFree_sent n.1 co)

/-- SHUTDOWN_REQUEST (R162, R187, R188). -/
theorem shutdownRequest_requests (n : TakesNext ⟨h, 0x02, writeBody modeReqAddr v m⟩ c)
    (co : CarriedOut ⟨h, 0x02, writeBody modeReqAddr v m⟩ c) (applies : c.badgerApplies = true ∨ (c.latched = true ∧ c.sys.dev = .safe))
    (out : c.outOfBoot = true) (dev : c.sys.dev ≠ .shutdown) (sets : setsBit 0 v m = true) :
    Runs (.shutdownRequest h v m) c [.sys, .host, .mbx, .dom, .eva, .trace, .obs, .draws] (fun d =>
      d.sys = { c.sys with shdnReq := c.sys.shdnReq ++ [.host] } ∧ ∃ body, Answered ⟨h, 0x02, writeBody modeReqAddr v m⟩ .ok body c d) := by
  have powered : c.powered = true := (Bool.and_eq_true_iff.1 out).1
  refine runs_badgers (k := .modeReq) (fun _ => rfl) n co (by decide) rfl powered (by decide)
    (moves_mono (Chip.writeModeReq_moves ..) (by decide)) ?_
  generalize (⟨h, 0x02, writeBody modeReqAddr v m⟩ : HostCmd) = cmd at n co ⊢
  have sent := c.sent_moves cmd
  have hs : (c.sent cmd).sys = c.sys := sent.same .sys
  have ha : (c.sent cmd).badgerApplies = c.badgerApplies := badgerApplies_congr hs (sent_isUp cmd c)
  have hl : (c.sent cmd).latched = c.latched := by unfold Chip.latched; rw [sent.same .guards]
  have ho : (c.sent cmd).outOfBoot = c.outOfBoot := by unfold Chip.outOfBoot Chip.powered; rw [hs]
  have hw := writeModeReq_requests (h := cmd) (by rw [ha, hl, hs]; exact applies) (ho.trans out) (by rw [hs]; exact dev) sets
  dsimp only [Chip.writeTo]
  rw [hw]
  refine ⟨((Chip.doneWritten_moves ..).same .sys).trans ?_, doneWritten_answered _ _ (sent_host cmd c) (doneFree_sent n.1 co)⟩
  exact congrArg (fun s : SysUnit => { s with shdnReq := s.shdnReq ++ [ShdnCause.host] }) hs

/-- GAUGE_CMD_SAVE with the gauge enabled and the store writable (R564). -/
theorem gaugeCmdSave_waits (n : TakesNext ⟨h, 0x02, writeBody gaugeCmdAddr v m⟩ c) (up : c.ctrlUp = true) (en : c.gauge.cfg.en = true)
    (sets : setsBit 0 v m = true) (writable : c.nv.readOnly = false) :
    Runs (.gaugeCmdSave h v m) c [.host] (fun d => Taken ⟨h, 0x02, writeBody gaugeCmdAddr v m⟩ c d) := by
  refine runs_owls (k := .gaugeCmd) (fun _ => rfl) n (by decide) rfl up (by decide) (fun d x => d.writeGaugeCmd_moves v m x) ?_
  rw [Chip.writeTo, writeGaugeCmd_carried (c := c.taken _) en sets writable]
  exact ⟨rfl, rfl, List.mem_append_right _ List.mem_cons_self⟩

/-- GAUGE_CMD_SAVE without the gauge (R564). -/
theorem gaugeCmdSave_disabled (n : TakesNext ⟨h, 0x02, writeBody gaugeCmdAddr v m⟩ c) (up : c.ctrlUp = true) (off : c.gauge.cfg.en = false) :
    Runs (.gaugeCmdSave h v m) c [.host] (fun d => ∃ body, Answered ⟨h, 0x02, writeBody gaugeCmdAddr v m⟩ .sourceDisabled body c d) := by
  refine runs_owls (k := .gaugeCmd) (fun _ => rfl) n (by decide) rfl up (by decide) (fun d x => d.writeGaugeCmd_moves v m x) ?_
  rw [Chip.writeTo, writeGaugeCmd_disabled (c := c.taken _) off]
  exact answerWritten_answered _ _ rfl

/-- WARNING_CLEAR of a held warning (R498, R626). -/
theorem warningClear_clears {b : Block} (n : TakesNext ⟨h, 0x02, writeBody (statusAddr b) v m⟩ c) (powered : c.powered = true)
    (sets : setsBit 28 v m = true) (held : (c.guards[b]).c = true) :
    Runs (.warningClear h b v m) c [.guards, .eva, .trace, .obs, .log, .host, .draws] (fun d => (d.guards[b]).c = false ∧
      (d.guards[b]).faults = (c.guards[b]).faults ∧ (∀ k : Block, k ≠ b → d.guards[k] = c.guards[k]) ∧ Granted c d ∧
      ∃ body, Answered ⟨h, 0x02, writeBody (statusAddr b) v m⟩ .ok body c d) :=
  runs_owls (fun _ => rfl) n (writableAt_statusAddr b) rfl ((regUp_statusAddr b c).trans powered) (by decide)
    (fun d x => d.writeStatus_moves b v m x) (writeStatus_clears sets held)
end

/-- Settles O29, one lemma a clause: Owl takes the command, and the write of the register that it names is followed to its answer. -/
theorem hostWrites : Obligations.HostWrites :=
  ⟨fun _ _ _ _ _ => writeCmd_unmapped, fun _ _ _ _ => writeCmd_denied, fun _ _ _ _ => writeCmd_rstCause,
    fun _ _ _ _ _ => hostSetSelect_defined, fun _ _ _ _ _ => hostSetSelect_undefined, fun _ _ _ _ => shutdownRequest_requests,
    fun _ _ _ _ => gaugeCmdSave_waits, fun _ _ _ _ => gaugeCmdSave_disabled, fun _ _ _ _ _ => warningClear_clears⟩

end Sys2Proof.Machine
end

section
/-!
SUPPORT. A command that changes the block alone, a change of one group's converter, and the passing of time to a tick (R204, R205).
-/

namespace Sys2Proof.Machine
open Sys2Proof

/-- A command whose row is a move to a block of which `post` holds. -/
theorem runs_of_moves {i : Instr} {c d : Chip} {ps : List Part} {post : Chip → Prop} (row : ∀ q, exec i ⟨q, c⟩ = .next ⟨q, d⟩)
    (moved : Moves ps c d) (holds : post d) : Runs i c ps post := ⟨d, row, moved.keep, holds⟩

theorem modGv_conv_self (g : Group) (f : GroupConv → GroupConv) (c : Chip) : ((c.modGv g f).grp[g]).conv = f (c.grp[g]).conv :=
  congrArg GroupUnit.conv (vmod_self ..)

theorem modGv_cfg_self (g : Group) (f : GroupConv → GroupConv) (c : Chip) : ((c.modGv g f).grp[g]).cfg = (c.grp[g]).cfg :=
  (congrArg GroupUnit.cfg (vmod_self ..)).trans rfl

theorem modGv_other {g j : Group} (f : GroupConv → GroupConv) (c : Chip) (h : j ≠ g) : (c.modGv g f).grp[j] = c.grp[j] :=
  vmod_other _ _ _ _ h.symm

/-- With the CTRL domain up, time passes up to the tick, and never back (R204, R205). -/
theorem elapseTo_count (t : Nat) {c : Chip} (up : c.ctrlUp = true) : (c.elapseTo t).tb.count = max c.tb.count t := by
  unfold Chip.elapseTo Chip.elapse
  rw [if_pos up]
  extract_lets before _ x y z w
  have hy : y.tb = x.tb := by unfold y; split <;> rfl
  have hz : z.tb = y.tb := by unfold z; split <;> rfl
  have hw : w.tb = z.tb := by
    unfold w
    split
    · exact (Chip.pushTrace_moves ..).same .tb
    · rfl
  rw [foldl_preserves (fun d => d.tb) _ (fun d p => (Chip.servePort_moves ..).same .tb), hw, hz, hy]
  show c.tb.count + (t - c.tb.count) = _
  omega

end Sys2Proof.Machine
end

section
/-!
SUPPORT. The triggers and the results of a group converter (R263 to R270, R283 to R285, R291), and the statement about them, one lemma a clause.
-/

namespace Sys2Proof.Machine
open Sys2Proof

/-! ### The triggers of a group -/

/-- Taking an event moves no more of the group than SUB's and the rotation's own books (R283). -/
theorem takeEvent_grp {g : Group} {t : Nat} {c d : Chip} (e : c.takeEvent g t = some d) :
    (d.grp[g]).cfg = (c.grp[g]).cfg ∧ ∃ sub ev, (d.grp[g]).conv = { (c.grp[g]).conv with sub := sub, slotEv := ev } := by
  unfold Chip.takeEvent at e
  extract_lets u at e
  split at e
  · rw [(Chip.takePhaseEvent_moves e).same .grp]
    exact ⟨rfl, _, _, rfl⟩
  split at e
  · rw [(Chip.takePhaseEvent_moves e).same .grp]
    exact ⟨rfl, _, _, rfl⟩
  split at e
  · split at e
    · obtain ⟨j, -, rfl⟩ := Option.map_eq_some_iff.mp e
      exact ⟨modGv_cfg_self .., _, _, modGv_conv_self ..⟩
    · cases e
  split at e
  · cases e
    exact ⟨modGv_cfg_self .., _, _, modGv_conv_self ..⟩
  · cases e

/-- The start of a group conversion (R263, R284). -/
theorem startGv_conv (g : Group) (t : Nat) (c : Chip) : ((c.startGv g t).grp[g]).conv.lastTrig = some t ∧
    ((c.startGv g t).grp[g]).conv.flights.length = (c.grp[g]).conv.flights.length + 1 ∧
    ((c.startGv g t).grp[g]).conv.events = (c.grp[g]).conv.events ∧ ((c.startGv g t).grp[g]).conv.skip = (c.grp[g]).conv.skip := by
  unfold Chip.startGv
  extract_lets m ready
  rw [modGv_conv_self]
  exact ⟨rfl, List.length_append, rfl, rfl⟩

section
variable {c : Chip} {g : Group} {t : Nat}

/-- An event that is taken is counted, and then judged by DEC and by the last trigger (R283, R284). -/
theorem groupVoltageTrigger_event (up : c.ctrlUp = true) (pulsing : c.pulsing g = true)
    (event : ((c.elapseTo t).takeEvent g t).isSome = true) :
    ∃ x : Chip, x.tb.count = max c.tb.count t ∧
      (∃ sub ev, (x.grp[g]).conv = { (c.grp[g]).conv with events := (c.grp[g]).conv.events + 1, sub := sub, slotEv := ev }) ∧
      c.groupVoltageTrigger g t = if ((c.grp[g]).conv.events + 1) % ((c.grp[g]).cfg.dec + 1) ≠ 0 then x
        else if accepts (c.grp[g]).conv.lastTrig t then x.startGv g t
        else x.modGv g (fun v => { v with skip := satInc 0xFFFF v.skip }) := by
  obtain ⟨d, hd⟩ := Option.isSome_iff_exists.1 event
  obtain ⟨cfg, sub, ev, conv⟩ := takeEvent_grp hd
  rw [(Chip.elapseTo_moves t c).same .grp] at cfg conv
  have count : d.tb.count = max c.tb.count t := by
    rw [(Chip.takeEvent_moves hd).same .tb, elapseTo_count t up]
  refine ⟨d.modGv g (fun v => { v with events := (d.grp[g]).conv.events + 1 }), count, ⟨sub, ev, ?_⟩, ?_⟩
  · rw [modGv_conv_self, conv]
  · unfold Chip.groupVoltageTrigger
    rw [if_neg (by simp [up, pulsing]), hd]
    dsimp only
    rw [modGv_conv_self, modGv_cfg_self, cfg, conv]

/-- An event that is no (DEC+1)-th (R284). -/
theorem groupVoltageTrigger_decimated (up : c.ctrlUp = true) (pulsing : c.pulsing g = true)
    (event : ((c.elapseTo t).takeEvent g t).isSome = true) (dec : ((c.grp[g]).conv.events + 1) % ((c.grp[g]).cfg.dec + 1) ≠ 0) :
    Runs (.groupVoltageTrigger g t) c [.tb, .ph, .grp, .sett, .trace, .obs] (fun d => (d.grp[g]).conv.events = (c.grp[g]).conv.events + 1 ∧
      (d.grp[g]).conv.flights = (c.grp[g]).conv.flights ∧ (d.grp[g]).conv.skip = (c.grp[g]).conv.skip ∧ d.tb.count = max c.tb.count t) := by
  obtain ⟨x, count, ⟨sub, ev, conv⟩, e⟩ := groupVoltageTrigger_event up pulsing event
  refine runs_of_moves (fun _ => rfl) (Chip.groupVoltageTrigger_moves g t c) ?_
  rw [e, if_pos dec, conv]
  exact ⟨rfl, rfl, rfl, count⟩

/-- A (DEC+1)-th event that the converter accepts (R266, R284). -/
theorem groupVoltageTrigger_converts (up : c.ctrlUp = true) (pulsing : c.pulsing g = true)
    (event : ((c.elapseTo t).takeEvent g t).isSome = true) (dec : ((c.grp[g]).conv.events + 1) % ((c.grp[g]).cfg.dec + 1) = 0)
    (acc : accepts (c.grp[g]).conv.lastTrig t = true) :
    Runs (.groupVoltageTrigger g t) c [.tb, .ph, .grp, .sett, .trace, .obs]
        (fun d => (d.grp[g]).conv.lastTrig = some t ∧ (d.grp[g]).conv.events = (c.grp[g]).conv.events + 1 ∧
      (d.grp[g]).conv.flights.length = (c.grp[g]).conv.flights.length + 1 ∧ (d.grp[g]).conv.skip = (c.grp[g]).conv.skip) := by
  obtain ⟨x, -, ⟨sub, ev, conv⟩, e⟩ := groupVoltageTrigger_event up pulsing event
  obtain ⟨last, flights, events, skip⟩ := startGv_conv g t x
  rw [conv] at flights events skip
  refine runs_of_moves (fun _ => rfl) (Chip.groupVoltageTrigger_moves g t c) ?_
  rw [e, if_neg (not_not_intro dec), if_pos acc]
  exact ⟨last, events, flights, skip⟩

/-- A (DEC+1)-th event too soon after the last trigger (R266, R284). -/
theorem groupVoltageTrigger_skips (up : c.ctrlUp = true) (pulsing : c.pulsing g = true)
    (event : ((c.elapseTo t).takeEvent g t).isSome = true) (dec : ((c.grp[g]).conv.events + 1) % ((c.grp[g]).cfg.dec + 1) = 0)
    (acc : accepts (c.grp[g]).conv.lastTrig t = false) :
    Runs (.groupVoltageTrigger g t) c [.tb, .ph, .grp, .sett, .trace, .obs] (fun d => (d.grp[g]).conv.skip = satInc 0xFFFF (c.grp[g]).conv.skip ∧
      (d.grp[g]).conv.events = (c.grp[g]).conv.events + 1 ∧ (d.grp[g]).conv.flights = (c.grp[g]).conv.flights) := by
  obtain ⟨x, -, ⟨sub, ev, conv⟩, e⟩ := groupVoltageTrigger_event up pulsing event
  refine runs_of_moves (fun _ => rfl) (Chip.groupVoltageTrigger_moves g t c) ?_
  rw [e, if_neg (not_not_intro dec), if_neg (ne_true_of_eq_false acc), modGv_conv_self, conv]
  exact ⟨rfl, rfl, rfl⟩

/-- A free-running conversion starts every 2400 TK (R285). -/
theorem groupFreeRun_converts (up : c.ctrlUp = true) (out : c.outOfBoot = true) (held : c.sys.holdup = false) (idle : c.pulsing g = false)
    (after : c.freeFrom g < t) (period : (t - c.freeFrom g) % 2400 = 0) (acc : accepts (c.grp[g]).conv.lastTrig t = true) :
    Runs (.groupFreeRun g t) c [.tb, .grp, .sett, .trace, .obs] (fun d => (d.grp[g]).conv.lastTrig = some t ∧
      (d.grp[g]).conv.flights.length = (c.grp[g]).conv.flights.length + 1 ∧ d.tb.count = max c.tb.count t) := by
  have grp : (c.elapseTo t).grp = c.grp := (Chip.elapseTo_moves t c).same .grp
  obtain ⟨last, flights, -, -⟩ := startGv_conv g t (c.elapseTo t)
  have starts : c.groupFreeRun g t = (c.elapseTo t).startGv g t := by
    unfold Chip.groupFreeRun
    rw [if_neg (by simp [up, out, held, idle, after, period]), if_pos (by rw [grp]; exact acc)]
  refine runs_of_moves (fun _ => rfl) (Chip.groupFreeRun_moves g t c) ?_
  rw [grp] at flights
  rw [starts]
  exact ⟨last, flights, (congrArg Timebase.count ((Chip.startGv_moves g t _).same .tb)).trans (elapseTo_count t up)⟩
end

/-! ### The results of a group -/

/-- A remote conversion's part in the search for a lost sense moves the runs alone (R287, R288, R291). -/
theorem sense_runs (oor : Bool) (v : GroupConv) : ∃ inRun oorRun, v.sense oor = { v with inRun := inRun, oorRun := oorRun } := by
  unfold GroupConv.sense
  split
  · exact ⟨_, _, rfl⟩
  · exact ⟨_, _, rfl⟩

section
variable {c : Chip} {g : Group} {code : Int} {ok : Bool} {f : Flight} {rest : List Flight}

/-- The oldest conversion in progress ends: `m` is the block with its books moved, before anything is delivered (R266, R267, R313). -/
theorem groupConversionDone_books {n : Int} {w : Word} (flights : (c.grp[g]).conv.flights = f :: rest) (free : c.awaitsPhase g f = false)
    (hn : n = clampInt (gvRange ((c.grp[g]).cfg.diff && !f.local_)).1 (gvRange ((c.grp[g]).cfg.diff && !f.local_)).2 code)
    (hw : w = resultWord 14 c.refs.alignGv f.notReady (decide (n = (gvRange ((c.grp[g]).cfg.diff && !f.local_)).1) ||
        decide (n = (gvRange ((c.grp[g]).cfg.diff && !f.local_)).2)) f.local_ (c.grp[g]).conv.seq n) :
    ∃ (m : Chip) (ovr : Bool), Moves [.grp, .obs] c m ∧ (∀ j : Group, j ≠ g → m.grp[j] = c.grp[j]) ∧
      m.obs[(12 : Fin 32)] = c.obs[(12 : Fin 32)] + 1 ∧
      (∃ inRun oorRun, (m.grp[g]).conv = { (c.grp[g]).conv with
        flights := rest, res := w, seq := (c.grp[g]).conv.seq + 1, inRun := inRun, oorRun := oorRun }) ∧
      c.groupConversionDone g code ok =
        if (c.grp[g]).conv.checking && !f.local_ then m
        else
          let d := m.modGv g (fun k => { k with
            v := (c.grp[g]).cfg.corrected f.local_ n, vTick := f.trig, vValid := true, vOvr := ovr, vNotReady := f.notReady })
          if f.notReady then d.skipNotReady g f.trig else d.useGv g f.trig ((c.grp[g]).cfg.corrected f.local_ n) w := by
  subst hn hw
  generalize done : c.groupConversionDone g code ok = d
  unfold Chip.groupConversionDone at done
  extract_lets u at done
  rw [show u.conv.flights = f :: rest from flights] at done
  dsimp -zeta only at done
  rw [if_neg (by rw [free]; exact Bool.false_ne_true)] at done
  extract_lets signed r n ovr w v x y m at done
  have conv : (y.grp[g]).conv = { (c.grp[g]).conv with flights := rest, res := w, seq := (c.grp[g]).conv.seq + 1 } := by
    unfold y x
    rw [Chip.count_grp, modGv_conv_self]
  have moved : Moves [.grp, .obs] c y := moves_then (moves_mono (Chip.modGv_moves ..) (by decide)) (Chip.count_moves ..) (by decide)
  have others : ∀ j : Group, j ≠ g → y.grp[j] = c.grp[j] := fun j hj => by
    unfold y x
    rw [Chip.count_grp, modGv_other _ _ hj]
  have counted : y.obs[(12 : Fin 32)] = c.obs[(12 : Fin 32)] + 1 := count_self ..
  refine ⟨m, ovr, ?_, ?_, ?_, ?_, done.symm⟩
  all_goals clear done; unfold m; clear_value y; split
  · exact moves_then moved (Chip.modGv_moves ..) (by decide)
  · exact moved
  · exact fun j hj => (modGv_other _ y hj).trans (others j hj)
  · exact others
  · exact counted
  · exact counted
  · obtain ⟨inRun, oorRun, runs⟩ := sense_runs (ovr || !ok) (y.grp[g]).conv
    refine ⟨inRun, oorRun, ?_⟩
    rw [modGv_conv_self, runs, conv]
  · exact ⟨_, _, conv⟩

/-- Every result is delivered but a remote one while CHECKING (R291). -/
theorem not_checking_remote {checking onLocal : Bool} (h : checking = false ∨ onLocal = true) : ¬(checking && !onLocal) = true := by
  rcases h with rfl | rfl
  · exact Bool.false_ne_true
  · rw [Bool.not_true, Bool.and_false]
    exact Bool.false_ne_true

/-- A ready result that is delivered goes to the guards, the engines and telemetry (R266, R269). -/
theorem groupConversionDone_used {n : Int} (flights : (c.grp[g]).conv.flights = f :: rest) (ready : f.notReady = false)
    (free : c.awaitsPhase g f = false) (delivers : (c.grp[g]).conv.checking = false ∨ f.local_ = true)
    (hn : n = clampInt (gvRange ((c.grp[g]).cfg.diff && !f.local_)).1 (gvRange ((c.grp[g]).cfg.diff && !f.local_)).2 code) :
    Runs (.groupConversionDone g code ok) c [.sys, .tb, .ph, .grp, .le, .setpt, .lcmd, .sweep, .sett, .guards, .eva, .trace, .obs, .nv, .cal, .log, .host, .draws]
        (fun d => ∃ m : Chip, ∃ v : Int, ∃ w : Word, v = (c.grp[g]).cfg.corrected f.local_ n ∧
      w = resultWord 14 c.refs.alignGv false (decide (n = (gvRange ((c.grp[g]).cfg.diff && !f.local_)).1) ||
        decide (n = (gvRange ((c.grp[g]).cfg.diff && !f.local_)).2)) f.local_ (c.grp[g]).conv.seq n ∧
      (m.grp[g]).conv.flights = rest ∧ (m.grp[g]).conv.seq = (c.grp[g]).conv.seq + 1 ∧ (m.grp[g]).conv.res = w ∧ (m.grp[g]).conv.v = v ∧
      (m.grp[g]).conv.vTick = f.trig ∧ (m.grp[g]).conv.vValid = true ∧ (∀ j : Group, j ≠ g → m.grp[j] = c.grp[j]) ∧
      m.obs[(12 : Fin 32)] = c.obs[(12 : Fin 32)] + 1 ∧ Keeps [.grp, .obs] c m ∧ d = m.useGv g f.trig v w) := by
  obtain ⟨m, ovr, moved, others, counted, ⟨inRun, oorRun, conv⟩, done⟩ := groupConversionDone_books (ok := ok) flights free hn rfl
  refine runs_of_moves (fun _ => rfl) (Chip.groupConversionDone_moves g code ok c) ?_
  rw [done, if_neg (not_checking_remote delivers)]
  dsimp only
  rw [if_neg (ne_true_of_eq_false ready), ready]
  rw [ready] at conv
  refine ⟨_, _, _, rfl, rfl, ?_, ?_, ?_, ?_, ?_, ?_, fun j hj => (modGv_other _ m hj).trans (others j hj), counted,
    (moves_then moved (Chip.modGv_moves ..) (by decide)).keep, rfl⟩
  all_goals rw [modGv_conv_self]
  all_goals rw [conv]

/-- A result that lacked its reference is delivered to no guard and to no telemetry (R270, R314). -/
theorem groupConversionDone_notReady (flights : (c.grp[g]).conv.flights = f :: rest) (notReady : f.notReady = true)
    (free : c.awaitsPhase g f = false) (delivers : (c.grp[g]).conv.checking = false ∨ f.local_ = true) :
    Runs (.groupConversionDone g code ok) c [.sys, .tb, .ph, .grp, .le, .setpt, .lcmd, .sweep, .sett, .guards, .eva, .trace, .obs, .nv, .cal, .log, .host, .draws]
        (fun d => (d.grp[g]).conv.flights = rest ∧ (d.grp[g]).conv.seq = (c.grp[g]).conv.seq + 1 ∧
      (d.grp[g]).conv.vNotReady = true ∧ (d.grp[g]).conv.vLast = (c.grp[g]).conv.vLast ∧
      (d.grp[g]).conv.vAvg = (c.grp[g]).conv.vAvg ∧ (d.grp[g]).conv.ovReq = (c.grp[g]).conv.ovReq ∧
      d.obs[(12 : Fin 32)] = c.obs[(12 : Fin 32)] + 1) := by
  obtain ⟨m, ovr, -, -, counted, ⟨inRun, oorRun, conv⟩, done⟩ := groupConversionDone_books (code := code) (ok := ok) flights free rfl rfl
  refine runs_of_moves (fun _ => rfl) (Chip.groupConversionDone_moves g code ok c) ?_
  rw [done, if_neg (not_checking_remote delivers)]
  dsimp only
  rw [if_pos notReady, (Chip.skipNotReady_moves ..).same .grp, (Chip.skipNotReady_moves ..).same .obs, modGv_conv_self, conv]
  exact ⟨rfl, rfl, notReady, rfl, rfl, rfl, counted⟩

/-- A remote result while CHECKING delivers no value (R291). -/
theorem groupConversionDone_checking (flights : (c.grp[g]).conv.flights = f :: rest) (free : c.awaitsPhase g f = false)
    (checking : (c.grp[g]).conv.checking = true) (remote : f.local_ = false) :
    Runs (.groupConversionDone g code ok) c [.sys, .tb, .ph, .grp, .le, .setpt, .lcmd, .sweep, .sett, .guards, .eva, .trace, .obs, .nv, .cal, .log, .host, .draws]
        (fun d => (d.grp[g]).conv.flights = rest ∧ (d.grp[g]).conv.seq = (c.grp[g]).conv.seq + 1 ∧
      (d.grp[g]).conv.v = (c.grp[g]).conv.v ∧ d.obs[(12 : Fin 32)] = c.obs[(12 : Fin 32)] + 1) := by
  obtain ⟨m, ovr, -, -, counted, ⟨inRun, oorRun, conv⟩, done⟩ := groupConversionDone_books (code := code) (ok := ok) flights free rfl rfl
  refine runs_of_moves (fun _ => rfl) (Chip.groupConversionDone_moves g code ok c) ?_
  rw [done, if_pos (by rw [checking, remote]; rfl), conv]
  exact ⟨rfl, rfl, rfl, counted⟩
end

/-- Settles O13, one lemma a clause: what a trigger does follows from its event, and what a result does from the books of its conversion. -/
theorem groupConversions : Obligations.GroupConversions :=
  ⟨fun _ _ _ => groupVoltageTrigger_decimated, fun _ _ _ => groupVoltageTrigger_converts, fun _ _ _ => groupVoltageTrigger_skips,
    fun _ _ _ => groupFreeRun_converts, fun _ _ _ _ _ _ _ => groupConversionDone_used, fun _ _ _ _ _ _ => groupConversionDone_notReady,
    fun _ _ _ _ _ _ => groupConversionDone_checking⟩

end Sys2Proof.Machine
end

section
/-!
SUPPORT. The auxiliary converter (R294 to R297), and the statement about it, one lemma a clause.
-/

namespace Sys2Proof.Machine
open Sys2Proof

/-- The comparison of a die sensor's value moves no slot, and leaves the sequencer free (R502, R503). -/
theorem dieCompare_aux (slot : Slot) (k : Fin 4) (t : Rat) (c : Chip) : ∃ hot, (c.dieCompare slot k t).aux = { c.aux with warned := hot } := by
  unfold Chip.dieCompare
  extract_lets _ x y hot fresh _ z
  have hy : y.aux = c.aux := by
    unfold y
    split
    · exact (Chip.raiseB_moves ..).same .aux
    · rfl
  have hz : z.aux = { c.aux with warned := hot } := congrArg (fun a : AuxUnit => { a with warned := hot }) hy
  refine ⟨hot, ?_⟩
  split
  · exact ((Chip.raiseC_moves ..).same .aux).trans hz
  · exact hz

/-- A value that joins a slot's block leaves its result word standing (R297). -/
theorem add_res (x : Rat) (s : AuxSlot) : (s.add x).res = s.res := by
  unfold AuxSlot.add
  extract_lets t n
  split
  · rfl
  · rfl

section
variable {c : Chip} {s : Slot} {notReady : Bool} {code : Nat} {die : Int}

/-- The sequencer converts its next enabled slot (R294). -/
theorem auxConversion_converts (up : c.ctrlUp = true) (out : c.outOfBoot = true) (idle : c.aux.busy = none)
    (next : c.aux.nextSlot c.aux.next = some s) :
    Runs (.auxConversion) c [.aux] (fun d => d.aux = { c.aux with busy := some (s.val, !c.refReady (c.aux.slots[s]).refOf), next := s.val + 1 }) := by
  refine runs_of_moves (fun _ => rfl) (Chip.auxConversion_moves c) ?_
  unfold Chip.auxConversion
  rw [if_neg (by simp [up, out, idle]), next]

/-- The slot's conversion ends: `m` is the block with its books moved, and a die sensor's new value is compared (R295, R297). -/
theorem auxConversionDone_books (busy : c.aux.busy = some (s.val, notReady)) :
    ∃ (u : AuxSlot) (m : Chip), u.res = resultWord 16 false notReady
        ((c.aux.value c.aux.slots[s] (min code 65535) die).2 || decide (min code 65535 = 0) || decide (min code 65535 = 65535)) false c.aux.seq
        ((min code 65535 : Nat) : Int) ∧
      (notReady = true → u.val = (c.aux.slots[s]).val) ∧
      m = { c with aux := { c.aux with slots := c.aux.slots.set s u, busy := none, seq := c.aux.seq + 1 } } ∧
      (c.auxConversionDone code die = m ∨ notReady = false ∧ ∃ k t, c.auxConversionDone code die = m.dieCompare s k t) := by
  generalize ended : c.auxConversionDone code die = d
  unfold Chip.auxConversionDone at ended
  rw [busy] at ended
  dsimp -zeta only at ended
  rw [dif_pos s.isLt] at ended
  extract_lets i code u r ovr w u1 u2 done _ m at ended
  refine ⟨u2, m, ?_, ?_, rfl, ?_⟩
  · unfold u2
    split
    · rfl
    · exact add_res ..
  · intro h
    unfold u2
    rw [if_pos h]
  · split at ended
    · split at ended
      · rename_i fresh
        exact .inr ⟨(Bool.not_eq_true' notReady).mp (Bool.and_eq_true_iff.1 fresh).1, _, _, ended.symm⟩
      · exact .inl ended.symm
    · exact .inl ended.symm

/-- The slot's result word is written, every other slot standing (R295). -/
theorem auxConversionDone_result (busy : c.aux.busy = some (s.val, notReady)) :
    Runs (.auxConversionDone code die) c [.sys, .tb, .ph, .grp, .le, .setpt, .aux, .sweep, .sett, .guards, .eva, .trace, .obs, .nv, .cal, .log, .host, .draws]
        (fun d => d.aux.busy = none ∧ d.aux.seq = c.aux.seq + 1 ∧
      (d.aux.slots[s]).res = resultWord 16 false notReady
        ((c.aux.value c.aux.slots[s] (min code 65535) die).2 || decide (min code 65535 = 0) || decide (min code 65535 = 65535)) false c.aux.seq
        ((min code 65535 : Nat) : Int) ∧
      (notReady = true → (d.aux.slots[s]).val = (c.aux.slots[s]).val ∧ d.sys = c.sys) ∧
      ∀ r : Slot, r ≠ s → d.aux.slots[r] = c.aux.slots[r]) := by
  obtain ⟨u, m, res, val, hm, ended⟩ := auxConversionDone_books (code := code) (die := die) busy
  have slot : (c.aux.slots.set s u)[s] = u := Vector.getElem_set_self ..
  have others : ∀ r : Slot, r ≠ s → (c.aux.slots.set s u)[r] = c.aux.slots[r] := fun r hr =>
    Vector.getElem_set_ne _ _ (fun e => hr (Fin.ext e.symm))
  refine runs_of_moves (fun _ => rfl) (Chip.auxConversionDone_moves code die c) ?_
  rcases ended with e | ⟨ready, k, t, e⟩
  · rw [e, hm]
    exact ⟨rfl, rfl, (congrArg AuxSlot.res slot).trans res, fun h => ⟨(congrArg AuxSlot.val slot).trans (val h), rfl⟩, others⟩
  · obtain ⟨hot, aux⟩ := dieCompare_aux s k t m
    rw [e, aux, hm]
    exact ⟨rfl, rfl, (congrArg AuxSlot.res slot).trans res, fun h => absurd h (ne_true_of_eq_false ready), others⟩
end

/-- Settles O15, one lemma a clause: the end of a conversion is followed from the slot's books through a die sensor's comparison. -/
theorem auxConversions : Obligations.AuxConversions :=
  ⟨fun _ _ => auxConversion_converts, fun _ _ _ _ _ => auxConversionDone_result⟩

end Sys2Proof.Machine
end

section
/-!
SUPPORT. The OV requests of the groups: a mode change and the reaction to a fault leave them alone, and an URGENT grant cycle takes them all (R65, R502).
-/

namespace Sys2Proof.Machine
open Sys2Proof

/-- The OV requests that wait, group by group. -/
def Chip.ovReqs (c : Chip) : Group → Option (Word × Bool) := fun j => (c.grp[j]).conv.ovReq

/-! ### What leaves the requests alone -/

theorem ovReqs_of_grp {c d : Chip} (h : d.grp = c.grp) : d.ovReqs = c.ovReqs := by
  unfold Chip.ovReqs
  rw [h]

/-- An operation that leaves every group alone leaves the requests alone. -/
theorem ovReqs_of_moves {ps : List Part} {c d : Chip} (h : Moves ps c d) (hp : Part.grp ∉ ps := by decide) : d.ovReqs = c.ovReqs :=
  ovReqs_of_grp (h.same .grp hp)

theorem ovReqs_modGrp {g : Group} {f : GroupUnit → GroupUnit} (c : Chip) (h : (f c.grp[g]).conv.ovReq = (c.grp[g]).conv.ovReq) :
    (c.modGrp g f).ovReqs = c.ovReqs := by
  funext j
  unfold Chip.ovReqs
  rw [Chip.modGrp_grp]
  by_cases e : g = j
  · subst e
    rw [vmod_self, h]
  · rw [vmod_other _ _ _ _ e]

theorem ovReqs_ite {p : Prop} [Decidable p] {a b c : Chip} (h : a.ovReqs = c.ovReqs) (k : b.ovReqs = c.ovReqs) :
    (if p then a else b).ovReqs = c.ovReqs := by
  split
  · exact h
  · exact k

theorem swapGrant_ovReqs (t : Nat) (c : Chip) : (c.swapGrant t).ovReqs = c.ovReqs := by
  unfold Chip.swapGrant
  split
  · rfl
  · rename_i chs _
    extract_lets x y z w
    have hx : x.ovReqs = c.ovReqs := (ovReqs_of_moves (Chip.grant_moves ..)).trans (ovReqs_of_moves (Chip.elapseTo_moves ..))
    have hz : z.ovReqs = y.ovReqs := by
      refine foldl_preserves Chip.ovReqs _ (fun d ch => ?_) chs y
      unfold Chip.derateFlag
      exact ovReqs_ite (ovReqs_modGrp d rfl) rfl
    have hw : w.ovReqs = z.ovReqs := by
      funext j
      show ((vmap z.grp GroupUnit.swapped)[j]).conv.ovReq = _
      rw [vmap_get]
      rfl
    exact hw.trans (hz.trans hx)

theorem badgerFirst_ovReqs (c : Chip) : c.badgerFirst.ovReqs = c.ovReqs := (swapGrant_ovReqs ..).trans (swapGrant_ovReqs ..)

theorem closePreps_ovReqs (g : Group) (c : Chip) : (c.closePreps g).ovReqs = c.ovReqs := by
  unfold Chip.closePreps
  refine ovReqs_ite rfl ?_
  exact ((ovReqs_of_moves (Chip.sendFloors_moves ..)).trans (ovReqs_of_moves (Chip.present_moves ..))).trans (ovReqs_modGrp c rfl)

theorem applySelection_ovReqs (g : Group) (c : Chip) : (c.applySelection g).ovReqs = c.ovReqs := by
  unfold Chip.applySelection
  exact (ovReqs_of_moves (Chip.present_moves ..)).trans (ovReqs_modGrp c rfl)

theorem startGroup_ovReqs (g : Group) (c : Chip) : (c.startGroup g).ovReqs = c.ovReqs := by
  unfold Chip.startGroup
  extract_lets x y ps z ti now
  have hy : y.ovReqs = x.ovReqs := foldl_preserves Chip.ovReqs _ (fun d p => ovReqs_of_moves (Chip.modPl_moves ..)) _ x
  have hz : z.ovReqs = y.ovReqs := foldl_preserves Chip.ovReqs _ (fun d p => ovReqs_of_moves (Chip.setPstate_moves ..)) _ y
  exact (ovReqs_modGrp z rfl).trans (hz.trans (hy.trans (ovReqs_of_moves (Chip.modEngines_moves ..))))

theorem leaveMode_ovReqs (g : Group) (old m : Mode) (c : Chip) : (c.leaveMode g old m).ovReqs = c.ovReqs := by
  unfold Chip.leaveMode
  extract_lets x y z w
  have hx : x.ovReqs = c.ovReqs := ovReqs_ite ((ovReqs_of_moves (Chip.modEngines_moves ..)).trans (closePreps_ovReqs g c)) rfl
  have hy : y.ovReqs = x.ovReqs := ovReqs_ite (ovReqs_of_moves (Chip.modEngines_moves ..)) rfl
  have hz : z.ovReqs = y.ovReqs := ovReqs_ite (applySelection_ovReqs g y) rfl
  have hw : w.ovReqs = z.ovReqs :=
    ovReqs_ite ((ovReqs_of_moves (Chip.present_moves ..)).trans (ovReqs_of_moves (Chip.modSg_moves ..))) rfl
  exact (ovReqs_ite (ovReqs_of_moves (Chip.present_moves ..)) rfl).trans (hw.trans (hz.trans (hy.trans hx)))

theorem beginMode_ovReqs (g : Group) (old m : Mode) (k : Cause) (c : Chip) : (c.beginMode g old m k).ovReqs = c.ovReqs := by
  unfold Chip.beginMode
  cases m
  case precharge => exact (ovReqs_of_moves (Chip.present_moves ..)).trans (startGroup_ovReqs g c)
  case softstart =>
    refine ovReqs_ite ((ovReqs_of_moves (Chip.submit_moves ..)).trans (ovReqs_ite ?_ rfl))
      ((ovReqs_of_moves (Chip.submit_moves ..)).trans (startGroup_ovReqs g c))
    split
    · rfl
    · rfl
  case lightload => exact ovReqs_ite (ovReqs_of_moves (Chip.present_moves ..)) rfl
  case regulate => exact ovReqs_ite (ovReqs_of_moves (Chip.present_moves ..)) rfl
  case charge => exact ovReqs_of_moves (Chip.present_moves ..)
  case derated => exact ovReqs_of_moves (Chip.present_moves ..)
  case standby => exact ovReqs_ite rfl (ovReqs_of_moves (Chip.stopGroup_moves ..))
  case safe => exact ovReqs_of_moves (Chip.stopGroup_moves ..)
  all_goals rfl

/-- A mode change leaves the OV requests alone (R65, R160). -/
theorem enterMode_ovReqs (g : Group) (m : Mode) (k : Cause) (c : Chip) : (c.enterMode g m k).ovReqs = c.ovReqs := by
  unfold Chip.enterMode
  refine ovReqs_ite rfl ?_
  extract_lets old x y z w v
  have hz : z.ovReqs = y.ovReqs := by
    refine ovReqs_modGrp y ?_
    unfold GroupUnit.moved
    dsimp only
    split
    · rfl
    · rfl
  have hy : y.ovReqs = c.ovReqs := (ovReqs_of_moves (Chip.modeGrant_moves ..)).trans (badgerFirst_ovReqs c)
  have hv : v.ovReqs = z.ovReqs := (beginMode_ovReqs ..).trans (leaveMode_ovReqs ..)
  exact (ovReqs_of_moves (Chip.orderMembers_moves ..)).trans (hv.trans (hz.trans hy))

theorem endRamps_ovReqs (gs : List Group) (c : Chip) : (c.endRamps gs).ovReqs = c.ovReqs := by
  unfold Chip.endRamps
  exact (ovReqs_of_moves (Chip.shdnAdvance_moves ..)).trans (foldl_preserves Chip.ovReqs _ (fun d g => ovReqs_modGrp d rfl) gs c)

theorem groupToSafe_ovReqs (g : Group) (c : Chip) : (c.groupToSafe g).ovReqs = c.ovReqs := by
  unfold Chip.groupToSafe
  extract_lets m x y z
  have hx : x.ovReqs = c.ovReqs := ovReqs_of_moves (Chip.stopGroup_moves ..)
  have hy : y.ovReqs = x.ovReqs := ovReqs_ite (ovReqs_of_moves (Chip.abortSweepOf_moves ..)) rfl
  have hz : z.ovReqs = c.ovReqs := (enterMode_ovReqs ..).trans (hy.trans hx)
  exact ovReqs_ite (ovReqs_ite hx (ovReqs_ite ((ovReqs_of_moves (Chip.sendFlit_moves ..)).trans hz) hz)) ((endRamps_ovReqs ..).trans hx)

/-- The reaction to a Class B fault leaves the OV requests alone. -/
theorem reactB_ovReqs (b : Block) (code unit : Nat) (c : Chip) : (c.reactB b code unit).ovReqs = c.ovReqs := by
  unfold Chip.reactB
  extract_lets gs x
  refine (foldl_preserves Chip.ovReqs _ (fun d g => groupToSafe_ovReqs g d) gs x).trans ?_
  unfold x
  split
  · exact ovReqs_ite rfl (ovReqs_of_moves (Chip.setPstate_moves ..))
  · rfl

/-! ### The URGENT grant cycle -/

/-- The record of a group's OV takes that group's request, and no other. -/
theorem ovRecord_ovReqs (g : Group) (c : Chip) (j : Group) : (c.ovRecord g).ovReqs j = if j = g then none else c.ovReqs j := by
  unfold Chip.ovRecord
  split
  · extract_lets x
    have hx : x.ovReqs j = if j = g then none else c.ovReqs j := by
      split
      · rename_i e
        subst e
        exact congrArg GroupConv.ovReq (modGv_conv_self ..)
      · rename_i e
        exact congrArg (fun u : GroupUnit => u.conv.ovReq) (modGv_other _ c e)
    split
    · exact (congrFun (ovReqs_of_moves (Chip.againB_moves ..)) j).trans hx
    · exact (congrFun (ovReqs_of_moves (Chip.recordB_moves ..)) j).trans hx
  · rename_i none_waits
    split
    · rename_i e
      rw [e]
      exact none_waits
    · rfl

/-- The requests recorded in turn are those taken. -/
theorem ovRecords_ovReqs (gs : List Group) (c : Chip) (j : Group) :
    (gs.foldl (fun c g => c.ovRecord g) c).ovReqs j = if j ∈ gs then none else c.ovReqs j := by
  induction gs generalizing c with
  | nil => rfl
  | cons g gs ih =>
    rw [List.foldl_cons, ih, ovRecord_ovReqs]
    by_cases mem : j ∈ gs
    · rw [if_pos mem, if_pos (List.mem_cons_of_mem g mem)]
    · rw [if_neg mem]
      by_cases e : j = g
      · rw [if_pos e, if_pos (List.mem_cons.2 (.inl e))]
      · rw [if_neg e, if_neg (fun h => (List.mem_cons.1 h).elim e mem)]

/-- A raise leaves what its block, and every other, holds. -/
theorem recordB_keeps {b k : Block} {code unit code' unit' : Nat} {c : Chip} (d0 : Word) (inj : Bool) (h : Holds k code' unit' c) :
    Holds k code' unit' (c.recordB b code unit d0 inj) := by
  obtain ⟨f, hf, e⟩ := h
  refine ⟨f, ?_, e⟩
  unfold Chip.recordB
  extract_lets here x y z gs w
  obtain ⟨n, hist, hx⟩ := writeHist_guards b .raise .b code unit d0 inj (c.grantAs (raiseInput b .b code unit) (guardInfo b .raise .b code d0 inj))
  have hg : (c.grantAs (raiseInput b .b code unit) (guardInfo b .raise .b code d0 inj)).guards = c.guards := (Chip.grantAs_moves ..).same .guards
  rw [hg] at hx
  have hy : f ∈ (y.guards[k]).faults := by
    unfold y
    rw [Chip.count_guards, Chip.modGuard_guards, hx]
    by_cases e : b = k
    · subst e
      rw [vmod_self, vmod_self]
      exact List.mem_append_left _ hf
    · rw [vmod_other _ _ _ _ e, vmod_other _ _ _ _ e]
      exact hf
  have hz : z.guards = y.guards := by unfold z; split <;> rfl
  have hw : w.guards = z.guards := by
    unfold w
    split
    · rfl
    · exact (Chip.discard_moves z).same .guards
  rw [(Chip.queueFrame_moves ..).same .guards, hw, hz]
  exact hy

/-- A fault raised again leaves what every block holds. -/
theorem againB_keeps {b k : Block} {code unit code' unit' : Nat} {c : Chip} (inj : Bool) (h : Holds k code' unit' c) :
    Holds k code' unit' (c.againB b code unit inj) := by
  obtain ⟨f, hf, e⟩ := h
  unfold Holds Chip.againB
  rw [Chip.modGuard_guards]
  by_cases same : b = k
  · subst same
    rw [vmod_self]
    refine ⟨_, List.mem_map_of_mem hf, ?_⟩
    split
    · exact e
    · exact e
  · rw [vmod_other _ _ _ _ same]
    exact ⟨f, hf, e⟩

/-- The record of an OV leaves what every block holds. -/
theorem ovRecord_keeps {k : Block} {code unit : Nat} {c : Chip} (g : Group) (h : Holds k code unit c) : Holds k code unit (c.ovRecord g) := by
  unfold Chip.ovRecord
  split
  · extract_lets x
    split
    · exact againB_keeps _ h
    · exact recordB_keeps _ _ h
  · exact h

/-- Of the groups whose requests are recorded in turn, each that had one holds its OV in the end. -/
theorem ovRecords_holds {gs : List Group} {g : Group} (c : Chip) (mem : g ∈ gs) (waits : (c.ovReqs g).isSome = true) :
    Holds (grpBlock g) 0x20 g.val (gs.foldl (fun c g => c.ovRecord g) c) := by
  have kept : ∀ (l : List Group) (d : Chip), Holds (grpBlock g) 0x20 g.val d → Holds (grpBlock g) 0x20 g.val (l.foldl (fun c g => c.ovRecord g) d) :=
    fun l d h => List.foldlRecOn l _ h (fun _ k a _ => ovRecord_keeps a k)
  induction gs generalizing c with
  | nil => cases mem
  | cons k gs ih =>
    rw [List.foldl_cons]
    by_cases e : g = k
    · subst e
      obtain ⟨⟨w, inj⟩, hw⟩ := Option.isSome_iff_exists.1 waits
      exact kept gs _ (ovRecord_holds g w inj c hw)
    · refine ih _ ((List.mem_cons.1 mem).resolve_left e) ?_
      rw [ovRecord_ovReqs, if_neg e]
      exact waits

/-- An URGENT cycle of OV requests alone: each group whose request waited holds its OV, and no request waits any more (R65, R502). -/
theorem urgentCycle_ov {c : Chip} {g : Group} (waits : (c.ovReqs g).isSome = true) :
    Holds (grpBlock g) 0x20 g.val (c.urgentCycle id) ∧ ∀ j : Group, ((c.urgentCycle id).grp[j]).conv.ovReq = none := by
  unfold Chip.urgentCycle
  extract_lets gs raised u x _ y
  have mem : ∀ j, j ∈ gs ↔ (c.ovReqs j).isSome = true := fun j => by
    unfold gs Chip.ovWaiting
    rw [List.mem_filter]
    exact ⟨fun h => h.2, fun h => ⟨List.mem_finRange j, h⟩⟩
  have guards : (raised.foldl (fun c g => c.reactB (grpBlock g) 0x20 g.val) y).guards = x.guards :=
    foldl_preserves Chip.guards _ (fun d k => (Chip.reactB_moves ..).same .guards) raised y
  have reqs : (raised.foldl (fun c g => c.reactB (grpBlock g) 0x20 g.val) y).ovReqs = x.ovReqs :=
    foldl_preserves Chip.ovReqs _ (fun d k => reactB_ovReqs ..) raised y
  constructor
  · unfold Holds
    rw [guards]
    exact ovRecords_holds c ((mem g).2 waits) waits
  · intro j
    refine (congrFun reqs j).trans ((ovRecords_ovReqs gs c j).trans ?_)
    split
    · rfl
    · rename_i out
      exact Option.not_isSome_iff_eq_none.1 (fun h => out ((mem j).2 h))

end Sys2Proof.Machine
end

section
/-!
SUPPORT. What follows a run of group results (R288 to R291, R502, R503) and FF_VIN_UPDATE (R326, R327), and the statement about them, one lemma a clause.
-/

namespace Sys2Proof.Machine
open Sys2Proof

/-! ### What a flit that leaves does not touch -/

/-- An observation counter and what each group is in the chain. -/
def Chip.counterAndRoles (j : Fin 32) (c : Chip) : BitVec 48 × Vector SettGroup 4 := (c.obs[j], c.sett.groups)

theorem counterAndRoles_of {c d : Chip} (j : Fin 32) (ho : d.obs[j] = c.obs[j]) (hs : d.sett.groups = c.sett.groups) :
    d.counterAndRoles j = c.counterAndRoles j := Prod.ext ho hs

section
variable {j : Fin 32} (other : j ≠ 23)
include other

theorem servePort_counterAndRoles (p : SettPort) (t now n : Nat) (c : Chip) :
    (c.servePort p t now n).counterAndRoles j = c.counterAndRoles j := by
  refine counterAndRoles_of j ?_ (servePort_groups p t now n c)
  induction n generalizing t c with
  | zero => rfl
  | succ n ih =>
    unfold Chip.servePort
    extract_lets u t'
    split
    · rfl
    split
    · rfl
    · rename_i w rest _
      extract_lets vc x y
      rw [ih, (Chip.freeBuffer_moves w.held vc y).same .obs]
      exact count_other _ _ other.symm

theorem transmit_counterAndRoles (held : Option SettPort) (p : SettPort) (f : Flit) (c : Chip) :
    (c.transmit held p f).counterAndRoles j = c.counterAndRoles j := by
  unfold Chip.transmit
  extract_lets vc x y
  split
  · split
    · rfl
    · rfl
  · have hy : y.counterAndRoles j = c.counterAndRoles j := by unfold y; split <;> rfl
    exact (servePort_counterAndRoles other ..).trans hy

/-- A flit that leaves counts in OBS counter 23 alone (R652), and changes no group's part in the chain. -/
theorem sendFlit_counterAndRoles (dst : Nat) (b : FlitBody) (c : Chip) :
    (c.sendFlit dst b).counterAndRoles j = c.counterAndRoles j := by
  unfold Chip.sendFlit
  extract_lets vc seq _ x
  exact foldl_preserves (Chip.counterAndRoles j) _ (fun d p => transmit_counterAndRoles other ..) _ x

/-- An abort of a sweep injects no more and sends at most one flit (R486, R487). -/
theorem abortSweepOf_counterAndRoles (g : Group) (cause : Nat) (c : Chip) :
    (c.abortSweepOf g cause).counterAndRoles j = c.counterAndRoles j := by
  unfold Chip.abortSweepOf Chip.abortSweep
  split
  · split
    · rfl
    split
    · split
      · rfl
      · extract_lets x y
        have hx : x.counterAndRoles j = c.counterAndRoles j := by unfold x; split <;> rfl
        exact (sendFlit_counterAndRoles other ..).trans hx
    · rfl
  · rfl
end

/-! ### Warnings and faults of the guards -/

/-- A warning granted in `m` is one since any block `c` with the same warnings counted and the same EVSEQ (R60, R652). -/
theorem raiseC_warned_since {b : Block} {code unit : Nat} {d0 : Word} {inj : Bool} {c m : Chip} (obs : m.obs[(19 : Fin 32)] = c.obs[(19 : Fin 32)])
    (eva : m.eva = c.eva) : Warned b code c (m.raiseC b code unit d0 inj) := by
  obtain ⟨held, hcode, counted, granted⟩ := raiseC_warned b code unit d0 inj m
  exact ⟨held, hcode, by rw [counted, obs], by rw [Granted, granted, eva]⟩

section
variable {c : Chip} {g : Group}

/-- A lost sense: the group goes on with VSLn in `m`, and what follows is a warning or a fault as LOSS_WARN and the group's part in the chain say
(R288, R289). -/
theorem loseSense_detected (found : (c.grp[g]).conv.lost = false) (diff : (c.grp[g]).cfg.diff = true) :
    ∃ m : Chip, (m.grp[g]).conv.lost = true ∧ (m.grp[g]).conv.onLocal = true ∧ m.obs[(19 : Fin 32)] = c.obs[(19 : Fin 32)] ∧ m.eva = c.eva ∧
      c.loseSense g false = if (c.grp[g]).cfg.lossWarn || c.isMember g then
          (m.condBack (grpBlock g) 0x21 g.val).raiseC (grpBlock g) 0x21 g.val (c.grp[g]).conv.res false
        else m.raiseB (grpBlock g) 0x21 g.val (c.grp[g]).conv.res false := by
  generalize ended : c.loseSense g false = d
  unfold Chip.loseSense at ended
  extract_lets u x m d0 at ended
  have hx : (x.grp[g]).conv.lost = true ∧ (x.grp[g]).conv.onLocal = true := by
    unfold x
    rw [modGv_conv_self]
    exact ⟨rfl, rfl⟩
  have hm : m.grp = x.grp ∧ m.eva = c.eva ∧ m.counterAndRoles 19 = c.counterAndRoles 19 := by
    unfold m
    rw [if_pos (show (u.cfg.diff && !u.conv.lost) = true by unfold u; rw [diff, found]; rfl)]
    split
    · exact ⟨(Chip.abortSweepOf_moves ..).same .grp, (Chip.abortSweepOf_moves ..).same .eva, abortSweepOf_counterAndRoles (by decide) ..⟩
    · exact ⟨rfl, rfl, rfl⟩
  obtain ⟨grp, eva, alone⟩ := hm
  have role : m.isMember g = c.isMember g := by
    unfold Chip.isMember
    rw [show m.sett.groups = c.sett.groups from congrArg Prod.snd alone]
  refine ⟨m, by rw [grp]; exact hx.1, by rw [grp]; exact hx.2, congrArg Prod.fst alone, eva, ?_⟩
  rw [← ended, role]
  rfl

/-- Sixteen remote conversions out of range of a differential pair lose the sense (R288). -/
theorem senseLost_detected (long : 16 ≤ (c.grp[g]).conv.oorRun) (found : (c.grp[g]).conv.lost = false) (diff : (c.grp[g]).cfg.diff = true) :
    c.senseLost g = c.loseSense g false := by
  unfold Chip.senseLost
  exact if_pos ⟨long, by rw [found]; rfl, diff⟩

/-! ### The clauses -/

/-- GRP_OV at its URGENT grant (R65, R502, R521). -/
theorem grpOv_grants {w : Word × Bool} (waits : (c.grp[g]).conv.ovReq = some w) :
    Runs (.grpOv g) c [.sys, .tb, .ph, .grp, .le, .setpt, .sweep, .sett, .guards, .eva, .trace, .obs, .nv, .cal, .log, .host, .draws]
        (fun d => Holds (grpBlock g) 0x20 g.val d ∧ ∀ j : Group, (d.grp[j]).conv.ovReq = none) := by
  have waiting : (c.ovReqs g).isSome = true := Option.isSome_iff_exists.2 ⟨w, waits⟩
  refine runs_of_moves (fun _ => rfl) (Chip.grpOv_moves g c) ?_
  rw [show c.grpOv g = c.urgentCycle id from if_pos waiting]
  exact urgentCycle_ov waiting

/-- GRP_OV_WARN, once in an unbroken run (R503). -/
theorem grpOvWarn_warns (long : 16 ≤ (c.grp[g]).conv.ovwRun) (fresh : (c.grp[g]).conv.ovwDone = false) (phases : c.phasesOf g ≠ []) :
    Runs (.grpOvWarn g) c [.grp, .guards, .eva, .trace, .obs, .nv, .log, .draws]
        (fun d => (d.grp[g]).conv.ovwDone = true ∧ Warned (grpBlock g) 0x4C c d) := by
  have warns : c.grpOvWarn g = (c.modGv g (fun k => { k with ovwDone := true })).raiseC (grpBlock g) 0x4C g.val (c.grp[g]).conv.res false := by
    unfold Chip.grpOvWarn
    exact if_pos ⟨long, by rw [fresh]; rfl, by simpa using phases⟩
  refine runs_of_moves (fun _ => rfl) (Chip.grpOvWarn_moves g c) ?_
  rw [warns]
  refine ⟨?_, raiseC_warned_since rfl rfl⟩
  rw [(Chip.raiseC_moves ..).same .grp, modGv_conv_self]

/-- SENSE_LOST with LOSS_WARN, or on a member (R288, R289). -/
theorem senseLost_warns (long : 16 ≤ (c.grp[g]).conv.oorRun) (found : (c.grp[g]).conv.lost = false) (diff : (c.grp[g]).cfg.diff = true)
    (warns : (c.grp[g]).cfg.lossWarn = true ∨ c.isMember g = true) :
    Runs (.senseLost g) c [.sys, .tb, .ph, .grp, .le, .setpt, .sweep, .sett, .guards, .eva, .trace, .obs, .nv, .cal, .log, .host, .draws]
        (fun d => (d.grp[g]).conv.lost = true ∧ (d.grp[g]).conv.onLocal = true ∧ Warned (grpBlock g) 0x21 c d) := by
  obtain ⟨m, lost, onLocal, obs, eva, ended⟩ := loseSense_detected found diff
  refine runs_of_moves (fun _ => rfl) (Chip.senseLost_moves g c) ?_
  rw [senseLost_detected long found diff, ended, if_pos (Bool.or_eq_true_iff.2 warns)]
  have grp : ((m.condBack (grpBlock g) 0x21 g.val).raiseC (grpBlock g) 0x21 g.val (c.grp[g]).conv.res false).grp = m.grp :=
    (Chip.raiseC_moves ..).same .grp
  exact ⟨by rw [grp]; exact lost, by rw [grp]; exact onLocal, raiseC_warned_since obs eva⟩

/-- SENSE_LOST without LOSS_WARN, not on a member (R288, R502). -/
theorem senseLost_faults (long : 16 ≤ (c.grp[g]).conv.oorRun) (found : (c.grp[g]).conv.lost = false) (diff : (c.grp[g]).cfg.diff = true)
    (loud : (c.grp[g]).cfg.lossWarn = false) (own : c.isMember g = false) :
    Runs (.senseLost g) c [.sys, .tb, .ph, .grp, .le, .setpt, .sweep, .sett, .guards, .eva, .trace, .obs, .nv, .cal, .log, .host, .draws]
        (fun d => Holds (grpBlock g) 0x21 g.val d) := by
  obtain ⟨m, -, -, -, -, ended⟩ := loseSense_detected found diff
  refine runs_of_moves (fun _ => rfl) (Chip.senseLost_moves g c) ?_
  rw [senseLost_detected long found diff, ended, if_neg (by rw [loud, own]; exact Bool.false_ne_true)]
  exact raiseB_holds (grpBlock g) 0x21 _ _ _ _ (by decide)

/-- SENSE_BACK (R291). -/
theorem senseBack_warns (lost : (c.grp[g]).conv.lost = true) (checking : (c.grp[g]).conv.checking = true) (long : 16 ≤ (c.grp[g]).conv.inRun) :
    Runs (.senseBack g) c [.grp, .guards, .eva, .trace, .obs, .nv, .log, .draws]
        (fun d => (d.grp[g]).conv.lost = false ∧ (d.grp[g]).conv.onLocal = false ∧ (d.grp[g]).conv.checking = false ∧
      Warned (grpBlock g) 0x4B c d) := by
  have warns : c.senseBack g = (c.modGv g (fun k => { k with
      lost := false, lostInj := false, onLocal := false, checking := false, oorRun := 0, inRun := 0 })).raiseC (grpBlock g) 0x4B g.val 0 false := by
    unfold Chip.senseBack
    exact if_pos (by rw [lost, checking, decide_eq_true long]; rfl)
  refine runs_of_moves (fun _ => rfl) (Chip.senseBack_moves g c) ?_
  rw [warns, (Chip.raiseC_moves ..).same .grp, modGv_conv_self]
  exact ⟨rfl, rfl, rfl, raiseC_warned_since rfl rfl⟩

/-- FF_VIN_UPDATE (R326, R327). -/
theorem ffVinUpdate_updates {e : Engine} (group : groupAt (c.le[e]).cfg.group = some g) (en : (c.le[e]).cfg.en = true)
    (vff : (c.le[e]).cfg.vffMode ≠ 0) (acts : c.law g ≠ .idle) :
    Runs (.ffVinUpdate e) c [.le, .guards, .eva, .trace, .obs, .nv, .log, .draws]
        (fun d => d.le = c.le.set e (c.ffUpdate g e).1 ∧ ((c.ffUpdate g e).2 = true → Warned (leBlock e) 0x4F c d)) := by
  have updates : c.ffVinUpdate e = if (c.ffUpdate g e).2 then (c.modLe e (fun _ => (c.ffUpdate g e).1)).raiseC (leBlock e) 0x4F 0xFF 0 false
      else c.modLe e (fun _ => (c.ffUpdate g e).1) := by
    unfold Chip.ffVinUpdate
    dsimp only
    rw [group]
    exact if_neg (by rw [en, decide_eq_false vff, beq_false_of_ne acts]; exact Bool.false_ne_true)
  refine runs_of_moves (fun _ => rfl) (Chip.ffVinUpdate_moves e c) ?_
  rw [updates]
  split
  · exact ⟨(Chip.raiseC_moves ..).same .le, fun _ => raiseC_warned_since rfl rfl⟩
  · rename_i quiet
    exact ⟨rfl, fun h => absurd h quiet⟩
end

/-- Settles O14, one lemma a clause: GRP_OV follows from its URGENT cycle, whose reactions leave every OV request alone, and a lost sense from the block
that goes on with VSLn. -/
theorem groupSenseAndGuards : Obligations.GroupSenseAndGuards :=
  ⟨fun _ _ _ => grpOv_grants, fun _ _ => grpOvWarn_warns, fun _ _ => senseLost_warns, fun _ _ => senseLost_faults,
    fun _ _ => senseBack_warns, fun _ _ _ => ffVinUpdate_updates⟩

end Sys2Proof.Machine
end

section
/-!
SUPPORT. What VSEL has adopted, which a selection leaves alone (R343), the misses that a port counts (R364) and the grant of ANT_FIRED (R366), and the
statement about them, one lemma a clause.
-/

namespace Sys2Proof.Machine
open Sys2Proof

/-! ### What VSEL has adopted -/

/-- The levels of the VSEL pins, the value adopted, whether one is, and how many have been (R343). -/
def SetptUnit.vsel (u : SetptUnit) : Fin 16 × Fin 16 × Bool × Word := (u.raw, u.value, u.adopted, u.cnt)

theorem vsel_of_moves {ps : List Part} {c d : Chip} (h : Moves ps c d) (hp : Part.setpt ∉ ps := by decide) : d.setpt.vsel = c.setpt.vsel :=
  congrArg SetptUnit.vsel (h.same .setpt hp)

theorem submit_vsel (ch : Change) (c : Chip) : (c.submit ch).setpt.vsel = c.setpt.vsel := by
  unfold Chip.submit
  split
  · rfl
  · rfl

theorem select_vsel (g : Group) (set src : Nat) (seq : Word) (c : Chip) : (c.select g set src seq).setpt.vsel = c.setpt.vsel := by
  unfold Chip.select
  extract_lets x
  split
  · rfl
  · exact submit_vsel ..

/-- A selection writes the set-point file by its swap alone (R340). -/
theorem selection_vsel (g : Group) (set src : Nat) (c : Chip) : (c.selection g set src).1.setpt.vsel = c.setpt.vsel := by
  unfold Chip.selection
  extract_lets _ x y
  split
  · rfl
  split
  · exact vsel_of_moves (Chip.sendFlit_moves ..)
  · have hx : x.setpt.vsel = c.setpt.vsel := by
      unfold x
      split
      · exact vsel_of_moves (Chip.abortSweepOf_moves ..)
      · rfl
    have hy : y.setpt.vsel = c.setpt.vsel := (select_vsel ..).trans hx
    dsimp only
    split
    · exact (vsel_of_moves (Chip.broadcast_moves ..)).trans hy
    · exact hy

theorem vselSelect_vsel (v : Fin 16) (c : Chip) (g : Group) : (Chip.vselSelect v c g).setpt.vsel = c.setpt.vsel := by
  unfold Chip.vselSelect
  split
  · rfl
  · extract_lets r
    have hr : r.1.setpt.vsel = c.setpt.vsel := selection_vsel ..
    split
    · exact hr
    · exact (vsel_of_moves (Chip.warn_moves ..)).trans hr

/-- VSEL_CHANGE of a value that is not the adopted one adopts it and counts it (R343). -/
theorem vselChange_vsel {c : Chip} {v : Fin 16} (up : c.ctrlUp = true) (fresh : ¬(c.setpt.adopted = true ∧ c.setpt.value = v)) :
    (c.vselChange v).setpt.vsel = (v, v, true, c.setpt.cnt + 1) := by
  unfold Chip.vselChange
  rw [if_neg (by simp [up]), if_neg (by simpa using fresh)]
  extract_lets x _ y z _ w
  have hx : x.setpt = c.setpt := (Chip.elapseTo_moves ..).same .setpt
  have hy : y.setpt.vsel = (v, v, true, c.setpt.cnt + 1) := by
    show (v, v, true, x.setpt.cnt + 1) = _
    rw [hx]
  have hw : w.setpt.vsel = (v, v, true, c.setpt.cnt + 1) := (vsel_of_moves (Chip.grant_moves 56 0 y)).trans hy
  split
  · exact (foldl_preserves (fun d => d.setpt.vsel) _ (vselSelect_vsel v) allGroups w).trans hw
  · exact hw

/-! ### Misses -/

/-- A count of 16 bits has risen above `n`, or stands at its top. -/
abbrev RoseAbove (n m : Nat) : Prop := n < m ∨ m = 0xFFFF

theorem satInc_rises {n m : Nat} (h : n ≤ m ∨ m = 0xFFFF) : RoseAbove n (satInc 0xFFFF m) := by
  unfold satInc
  split
  · omega
  · exact .inr rfl

/-- The block once each of the preparations has been counted as missed at its port (R364). -/
def Chip.missed (l : List Prep) (c : Chip) : Chip := l.foldl (fun c q => c.modLcmd q.port (LcmdUnit.countEnd false)) c

theorem countMiss_rises {p : LcmdPort} {q : Prep} {n : Nat} (c : Chip) (port : q.port = p) (h : n ≤ (c.lcmd[p]).miss ∨ (c.lcmd[p]).miss = 0xFFFF) :
    RoseAbove n ((c.modLcmd q.port (LcmdUnit.countEnd false)).lcmd[p]).miss := by
  rw [port, Chip.modLcmd_lcmd, vmod_self]
  exact satInc_rises h

/-- Some preparations, all of one port, make its misses rise (R364). -/
theorem missed_rises {p : LcmdPort} {q : Prep} {l : List Prep} (c : Chip) (ports : ∀ r ∈ q :: l, r.port = p) :
    RoseAbove (c.lcmd[p]).miss ((c.missed (q :: l)).lcmd[p]).miss :=
  List.foldlRecOn (motive := fun d => RoseAbove (c.lcmd[p]).miss (d.lcmd[p]).miss) l _
    (countMiss_rises c (ports q List.mem_cons_self) (.inl (Nat.le_refl _)))
    (fun d rose r hr => countMiss_rises d (ports r (List.mem_cons_of_mem q hr)) (rose.imp_left Nat.le_of_lt))

/-- FCAST_MISS where a preparation's window has ended: the port counts in a block that goes on to the warning 0x54 (R364). -/
theorem fcastMiss_counts {c : Chip} {p : LcmdPort} {g : Group} {q : Prep} (prep : q ∈ (c.grp[g]).preps) (opened : q.closed = false)
    (port : q.port = p) (ended : q.windowEnd < c.tb.count) :
    ∃ m : Chip, c.fcastMiss p g = m.warn lcmdBlock 0x54 p.val ∧ RoseAbove (c.lcmd[p]).miss (m.lcmd[p]).miss := by
  unfold Chip.fcastMiss
  extract_lets now late misses x y z
  have found : q ∈ misses := List.mem_filter.2 ⟨prep, by simp [late, now, opened, port, ended]⟩
  have ports : ∀ r ∈ misses, r.port = p := fun r hr => by
    have hl : late r = true := (List.mem_filter.1 hr).2
    simp only [late, Bool.and_eq_true, beq_iff_eq] at hl
    exact hl.1.2
  have hz : z.lcmd = x.lcmd := ((Chip.publishPreps_moves ..).same .lcmd).trans ((Chip.prunePreps_moves ..).same .lcmd)
  rw [if_neg (by simpa using List.ne_nil_of_mem found)]
  have hx : x = c.missed misses := rfl
  refine ⟨z, rfl, ?_⟩
  rw [hz, hx]
  cases hm : misses with
  | nil => exact absurd (hm ▸ found) List.not_mem_nil
  | cons r l => exact missed_rises c (hm ▸ ports)

/-! ### ANT_FIRED -/

/-- What an engine's source has yet to report of its saturation leaves its ANT_FIRED alone (R62). -/
theorem nextReqs_antReq (e : Engine) (l : List EngReq) (c : Chip) : ((Chip.nextReqs e l c).le[e]).antReq = (c.le[e]).antReq := by
  have ends : ∀ rest : List EngReq, ((c.modLe e (fun u => { u with reqs := rest })).le[e]).antReq = (c.le[e]).antReq := fun rest => by
    rw [Chip.modLe_le, vmod_self]
  induction l generalizing c with
  | nil => exact ends []
  | cons r rest ih =>
    cases r with
    | sat hi lo out rose =>
      have granted : (c.satGrant e hi lo out rose).le = c.le := (Chip.satGrant_moves ..).same .le
      unfold Chip.nextReqs
      rw [ih _ (fun _ => by rw [Chip.modLe_le, vmod_self]), granted]
    | _ => exact ends _

/-- ANT_FIRED next to be reported is granted in a block that goes on to the group's preparations alone (R366). -/
theorem antFired_grants {c : Chip} {g : Group} {e : Engine} (outer : c.outerEngine g = some e) (fired : (c.le[e]).antReq = true)
    (next : c.firstReq e = some .ant) :
    ∃ m : Chip, m = Chip.nextReqs e (c.le[e]).reqs.tail ((c.grant (24 + e.val) 1).modLe e (fun u => { u with antReq := false })) ∧
      (c.antFired g).le = m.le ∧ (c.antFired g).eva = m.eva := by
  unfold Chip.antFired
  rw [outer]
  dsimp -zeta only
  extract_lets u x m y z r
  rw [if_neg (show ¬(!(c.le[e]).antReq || c.firstReq e != some .ant) = true by rw [fired, next]; decide)]
  have hr : Moves [.grp] m r.1 := moves_trans (moves_trans (Chip.modGrp_moves ..) (Chip.prunePreps_moves ..)) (Chip.armNext_moves ..)
  refine ⟨m, rfl, ?_⟩
  split
  · exact ⟨hr.same .le, hr.same .eva⟩
  · have hp : Moves [.setpt] r.1 (r.1.present g r.2) := Chip.present_moves ..
    exact ⟨(hp.same .le).trans (hr.same .le), (hp.same .eva).trans (hr.same .eva)⟩

/-! ### The clauses -/

section
variable {c : Chip} {v : Fin 16} {p : LcmdPort} {g : Group}

/-- VSEL_CHANGE of another value (R343). -/
theorem vselChange_adopts (up : c.ctrlUp = true) (fresh : ¬(c.setpt.adopted = true ∧ c.setpt.value = v)) :
    Runs (.vselChange v) c [.tb, .grp, .le, .setpt, .sweep, .sett, .guards, .eva, .trace, .obs, .nv, .log, .draws]
        (fun d => d.setpt.raw = v ∧ d.setpt.value = v ∧ d.setpt.adopted = true ∧ d.setpt.cnt = c.setpt.cnt + 1) := by
  refine runs_of_moves (fun _ => rfl) (Chip.vselChange_moves v c) ?_
  simpa only [SetptUnit.vsel, Prod.mk.injEq] using vselChange_vsel up fresh

/-- VSEL_CHANGE of the adopted value only shows in RAW (R343; DEDUCED, log 58). -/
theorem vselChange_shows (up : c.ctrlUp = true) (adopted : c.setpt.adopted = true) (value : c.setpt.value = v) :
    Runs (.vselChange v) c [.setpt] (fun d => d.setpt = { c.setpt with raw := v }) := by
  have shown : c.vselChange v = { c with setpt := { c.setpt with raw := v } } := by
    unfold Chip.vselChange
    rw [if_neg (by simp [up]), if_pos (by simp [adopted, value])]
  refine runs_of_moves (d := { c with setpt := { c.setpt with raw := v } }) (fun q => ?_) (moves_set_setpt (moves_refl _ c) (by decide)) rfl
  rw [← shown]
  rfl

/-- FCAST_MISS (R364). -/
theorem fcastMiss_warns {q : Prep} (prep : q ∈ (c.grp[g]).preps) (opened : q.closed = false) (port : q.port = p) (ended : q.windowEnd < c.tb.count) :
    Runs (.fcastMiss p g) c [.grp, .setpt, .lcmd, .sett, .guards, .eva, .trace, .obs, .nv, .log, .draws]
        (fun d => ((d.lcmd[p]).miss > (c.lcmd[p]).miss ∨ (d.lcmd[p]).miss = 0xFFFF) ∧ (d.guards[lcmdBlock]).c = true ∧
          (d.guards[lcmdBlock]).cCode = 0x54) := by
  obtain ⟨m, warns, misses⟩ := fcastMiss_counts prep opened port ended
  obtain ⟨held, code, -, -⟩ := warn_warned lcmdBlock 0x54 p.val m
  refine runs_of_moves (fun _ => rfl) (Chip.fcastMiss_moves p g c) ?_
  rw [warns, (Chip.warn_moves ..).same .lcmd]
  exact ⟨misses, held, code⟩

/-- ANT_FIRED_GRANT (R366). -/
theorem antFiredGrant_takes {e : Engine} (outer : c.outerEngine g = some e) (fired : (c.le[e]).antReq = true) (next : c.firstReq e = some .ant) :
    Runs (.antFiredGrant g) c [.grp, .le, .setpt, .eva, .trace, .obs, .draws]
        (fun d => (d.le[e]).antReq = false ∧ ((c.le[e]).reqs = [.ant] → Granted c d)) := by
  obtain ⟨m, hm, le, eva⟩ := antFired_grants outer fired next
  refine runs_of_moves (fun _ => rfl) (Chip.antFired_moves g c) ⟨?_, fun alone => ?_⟩
  · rw [le, hm, nextReqs_antReq, Chip.modLe_le, vmod_self]
  · rw [alone] at hm
    rw [Granted, eva, hm]
    exact grant_granted (24 + e.val) 1 c
end

/-- Settles O17, one lemma a clause: VSEL_CHANGE is followed past the selections it makes, FCAST_MISS over the preparations that it counts, and
ANT_FIRED_GRANT over what its engine reports behind it. -/
theorem selectionsAndPreparations : Obligations.SelectionsAndPreparations :=
  ⟨fun _ _ => vselChange_adopts, fun _ _ => vselChange_shows, fun _ _ _ _ => fcastMiss_warns, fun _ _ _ => antFiredGrant_takes⟩

end Sys2Proof.Machine
end

section
/-!
SUPPORT. A frame on a load-command port (R351 to R356, R369), and the statement about it, one lemma a clause.
-/

namespace Sys2Proof.Machine
open Sys2Proof

/-! ### The books of a port -/

section
variable {u : LcmdUnit} {f : List Byte} {t : Nat}

/-- A wrong CRC counts in CRC alone (R354). -/
theorem receive_crc (wrong : crc16 (f.take 10) ≠ BitVec.ofNat 16 (numAt f 10 1 * 256 + numAt f 11 1)) :
    LcmdUnit.receive f t u = { u with crc := satInc 0xFFFF u.crc } := by
  have check : u.check f = .crc := if_pos wrong
  unfold LcmdUnit.receive
  rw [check]

/-- A good HEARTBEAT marks the port alive and joins no queue (R355, R356). -/
theorem receive_heartbeat (good : u.check f = .ok) (beat : frameType f = 3) :
    LcmdUnit.receive f t u =
      { u with ok := u.ok + 1, last := some f, lastSeq := numAt f 2 1, alive := true, hbAt := t, hb := bytesAt f 4 6 } := by
  unfold LcmdUnit.receive
  rw [good]
  exact if_pos beat

/-- A good frame other than a HEARTBEAT joins a queue that has a free place (R356). -/
theorem receive_queues (good : u.check f = .ok) (other : frameType f ≠ 3) (free : u.queue.length < 4) :
    (LcmdUnit.receive f t u).queue = u.queue ++ [⟨f, t⟩] := by
  unfold LcmdUnit.receive
  rw [good]
  dsimp only
  rw [if_neg other, if_neg (Nat.not_le.2 free)]
end

/-! ### A port's lapse and its return -/

theorem hbLapse_lcmd (p : LcmdPort) (c : Chip) : (c.hbLapse p).lcmd =
    if (c.lcmd[p]).lapseReq then vmod c.lcmd p (fun u => { u with lapseReq := false, aliveG := false }) else c.lcmd := by
  unfold Chip.hbLapse
  split
  · extract_lets x y
    have hx : x.lcmd = vmod c.lcmd p (fun u => { u with lapseReq := false, aliveG := false }) := by
      unfold x
      rw [Chip.modLcmd_lcmd, (Chip.grant_moves ..).same .lcmd]
    have hy : y.lcmd = x.lcmd := foldl_preserves Chip.lcmd _ (fun d g => (Chip.cancelPort_moves p d g).same .lcmd) allGroups x
    rw [(Chip.warn_moves ..).same .lcmd, hy, hx]
  · rfl

/-- HB_ALIVE: the port is alive to Badger, and no lapse of it waits (R62, R355). -/
theorem hbAlive_lcmd (p : LcmdPort) (c : Chip) :
    (c.hbAlive p).lcmd = vmod c.lcmd p (fun u => { u with lapseReq := false, aliveG := true }) := by
  unfold Chip.hbAlive
  rw [Chip.modLcmd_lcmd, (Chip.grant_moves ..).same .lcmd, hbLapse_lcmd]
  split
  · rw [vmod_vmod]
  · rename_i none_waits
    refine vmod_congr _ _ ?_
    rw [← Bool.eq_false_iff.2 none_waits]

/-! ### A frame -/

/-- The block once a frame has ended at tick `t` and its port has booked it; a good one counts in OBS counter 27 (R354, R652). -/
def Chip.booked (p : LcmdPort) (f : List Byte) (t : Nat) (c : Chip) : Chip :=
  let d := (c.elapseTo t).modLcmd p (LcmdUnit.receive f t)
  if (c.lcmd[p]).check f = .ok then d.count 27 1 else d

theorem booked_moves (p : LcmdPort) (f : List Byte) (t : Nat) (c : Chip) : Moves [.tb, .sett, .trace, .obs, .lcmd] c (c.booked p f t) := by
  have booked : Moves [.tb, .sett, .trace, .obs, .lcmd] c ((c.elapseTo t).modLcmd p (LcmdUnit.receive f t)) :=
    moves_then (moves_mono (Chip.elapseTo_moves t c) (by decide)) (Chip.modLcmd_moves ..) (by decide)
  exact moves_ite (fun _ => moves_then booked (Chip.count_moves ..) (by decide)) (fun _ => booked)

theorem booked_lcmd (p : LcmdPort) (f : List Byte) (t : Nat) (c : Chip) : (c.booked p f t).lcmd = vmod c.lcmd p (LcmdUnit.receive f t) := by
  have booked : ((c.elapseTo t).modLcmd p (LcmdUnit.receive f t)).lcmd = vmod c.lcmd p (LcmdUnit.receive f t) := by
    rw [Chip.modLcmd_lcmd, (Chip.elapseTo_moves ..).same .lcmd]
  unfold Chip.booked
  dsimp only
  split
  · exact booked
  · exact booked

section
variable {c : Chip} {p : LcmdPort} {f : List Byte} {t : Nat}

/-- A port without EN discards its input uncounted (R369). -/
theorem lcmdFrame_disabled (off : (c.lcmd[p]).cfg.en = false) : c.lcmdFrame p f t = c :=
  if_pos (by rw [off, Bool.not_false, Bool.or_true, Bool.true_or])

section
variable (up : c.ctrlUp = true) (out : c.outOfBoot = true) (en : (c.lcmd[p]).cfg.en = true) (start : f.head? = some frameStart)
include up out en start

/-- An enabled port books a frame, and a good HEARTBEAT of a port that was not alive is reported (R351, R354, R355). -/
theorem lcmdFrame_books : c.lcmdFrame p f t =
    if (c.lcmd[p]).check f = .ok ∧ frameType f = 3 ∧ (c.lcmd[p]).alive = false then (c.booked p f t).hbAlive p else c.booked p f t := by
  have ports : (c.elapseTo t).lcmd = c.lcmd := (Chip.elapseTo_moves ..).same .lcmd
  unfold Chip.lcmdFrame Chip.booked
  rw [if_neg (by rw [up, out, en, start]; decide)]
  dsimp only
  rw [ports]
  simp only [beq_iff_eq, Bool.and_eq_true, decide_eq_true_eq, Bool.not_eq_true', and_assoc]

/-- A frame that is no good HEARTBEAT is booked, and nothing else but the time changes (R354 to R356). -/
theorem lcmdFrame_quiet (quiet : (c.lcmd[p]).check f = .ok → frameType f ≠ 3) : c.lcmdFrame p f t = c.booked p f t := by
  rw [lcmdFrame_books up out en start]
  exact if_neg fun ⟨good, beat, _⟩ => quiet good beat

/-- A row of a frame that is no good HEARTBEAT. -/
theorem runs_quiet {i : Instr} (row : ∀ q, exec i ⟨q, c⟩ = .next ⟨q, c.lcmdFrame p f t⟩)
    (quiet : (c.lcmd[p]).check f = .ok → frameType f ≠ 3) :
    Runs i c [.tb, .sett, .trace, .obs, .lcmd] (fun d => d.lcmd = vmod c.lcmd p (LcmdUnit.receive f t)) := by
  rw [lcmdFrame_quiet up out en start quiet] at row
  exact runs_of_moves row (booked_moves p f t c) (booked_lcmd p f t c)

/-! ### The clauses -/

/-- FORECAST and VREQ, no good HEARTBEAT (R354, R356). -/
theorem forecastVreq_book (quiet : (c.lcmd[p]).check f = .ok → frameType f ≠ 3) :
    Runs (.forecast p f t) c [.tb, .sett, .trace, .obs, .lcmd] (fun d => d.lcmd = vmod c.lcmd p (LcmdUnit.receive f t)) ∧
    Runs (.vreq p f t) c [.tb, .sett, .trace, .obs, .lcmd] (fun d => d.lcmd = vmod c.lcmd p (LcmdUnit.receive f t)) :=
  ⟨runs_quiet up out en start (fun _ => rfl) quiet, runs_quiet up out en start (fun _ => rfl) quiet⟩

/-- A good HEARTBEAT (R355, R356), whose HB_ALIVE is granted inside the command (log 56). -/
theorem heartbeat_beats (good : (c.lcmd[p]).check f = .ok) (beat : frameType f = 3) :
    Runs (.heartbeat p f t) c [.tb, .grp, .setpt, .lcmd, .sett, .guards, .eva, .trace, .obs, .nv, .log, .draws]
        (fun d => (d.lcmd[p]).alive = true ∧ (d.lcmd[p]).hbAt = t ∧ (d.lcmd[p]).hb = bytesAt f 4 6 ∧
      (d.lcmd[p]).ok = (c.lcmd[p]).ok + 1 ∧ (d.lcmd[p]).queue = (c.lcmd[p]).queue ∧
      ((c.lcmd[p]).alive = false → (d.lcmd[p]).aliveG = true)) := by
  refine runs_of_moves (fun _ => rfl) (Chip.lcmdFrame_moves p f t c) ?_
  by_cases woke : (c.lcmd[p]).check f = .ok ∧ frameType f = 3 ∧ (c.lcmd[p]).alive = false
  · rw [lcmdFrame_books up out en start, if_pos woke, hbAlive_lcmd, vmod_self, booked_lcmd, vmod_self, receive_heartbeat good beat]
    exact ⟨rfl, rfl, rfl, rfl, rfl, fun _ => rfl⟩
  · rw [lcmdFrame_books up out en start, if_neg woke, booked_lcmd, vmod_self, receive_heartbeat good beat]
    exact ⟨rfl, rfl, rfl, rfl, rfl, fun dead => absurd ⟨good, beat, dead⟩ woke⟩

/-- FORECAST with a wrong CRC (R354). -/
theorem forecast_wrongCrc (wrong : crc16 (f.take 10) ≠ BitVec.ofNat 16 (numAt f 10 1 * 256 + numAt f 11 1)) :
    Runs (.forecast p f t) c [.tb, .sett, .trace, .obs, .lcmd] (fun d => d.lcmd = vmod c.lcmd p (fun u => { u with crc := satInc 0xFFFF u.crc })) := by
  have check : (c.lcmd[p]).check f = .crc := if_pos wrong
  have books : vmod c.lcmd p (LcmdUnit.receive f t) = vmod c.lcmd p (fun u => { u with crc := satInc 0xFFFF u.crc }) :=
    vmod_congr _ _ (receive_crc wrong)
  rw [← books]
  exact runs_quiet up out en start (fun _ => rfl) (fun good => by rw [check] at good; cases good)
end

/-- FORECAST, VREQ and HEARTBEAT on a port without EN (R369; changing nothing is log 5). -/
theorem frames_disabled (off : (c.lcmd[p]).cfg.en = false) :
    Runs (.forecast p f t) c [] (fun d => d = c) ∧ Runs (.vreq p f t) c [] (fun d => d = c) ∧ Runs (.heartbeat p f t) c [] (fun d => d = c) := by
  have runs : ∀ i : Instr, (∀ q, exec i ⟨q, c⟩ = .next ⟨q, c.lcmdFrame p f t⟩) → Runs i c [] (fun d => d = c) := fun i row => by
    rw [lcmdFrame_disabled off] at row
    exact runs_of_moves row (moves_refl _ c) rfl
  exact ⟨runs _ fun _ => rfl, runs _ fun _ => rfl, runs _ fun _ => rfl⟩
end

/-- Settles O18, one lemma a clause: a frame is booked by its port, and a good HEARTBEAT of a port that was not alive goes on to HB_ALIVE. -/
theorem loadCommandFrames : Obligations.LoadCommandFrames :=
  ⟨fun _ _ _ _ => forecastVreq_book, fun _ _ _ _ => heartbeat_beats, fun _ _ _ _ => forecast_wrongCrc, fun _ _ _ _ => receive_queues,
    fun _ _ _ _ => frames_disabled⟩

end Sys2Proof.Machine
end

section
/-!
SUPPORT. BAL_PASS (R374 to R384, R403) and PH_STATE (R371, R388, R407, R408), and the statement about them, one lemma a clause.
-/

-- one theorem after another, as in the model's own laws: the checks of a large package would else hold too many threads at once
set_option Elab.async false

namespace Sys2Proof.Machine
open Sys2Proof

/-- What a change of one element of a vector leaves of that element it leaves of all. -/
theorem vmod_view {α β : Type} {n : Nat} (view : α → β) {f : α → α} (v : Vector α n) (i j : Fin n) (h : view (f v[i]) = view v[i]) :
    view (vmod v i f)[j] = view v[j] := by
  by_cases e : i = j
  · subst e
    rw [vmod_self, h]
  · rw [vmod_other _ _ _ _ e]

/-! ### The end of a pass -/

/-- The mode of a group and its pass: whether one is due, and the sum and the number of its values. -/
def GroupUnit.passState (u : GroupUnit) : Mode × Bool × Rat × Nat := (u.mode, u.bal.passDue, u.bal.passSum, u.bal.passN)

/-- The modes and the passes, group by group. -/
def Chip.passStates (c : Chip) : Group → Mode × Bool × Rat × Nat := fun j => (c.grp[j]).passState

/-- An operation that leaves every group alone leaves the passes alone. -/
theorem passStates_of_moves {ps : List Part} {c d : Chip} (h : Moves ps c d) (hp : Part.grp ∉ ps := by decide) : d.passStates = c.passStates := by
  unfold Chip.passStates
  rw [h.same .grp hp]

theorem passStates_modGb {g : Group} {f : GroupBal → GroupBal} (c : Chip)
    (h : ∀ u : GroupUnit, GroupUnit.passState { u with bal := f u.bal } = u.passState) : (c.modGb g f).passStates = c.passStates :=
  funext fun j => vmod_view GroupUnit.passState c.grp g j (h _)

/-- A pass that ends is due no more, and its sums start afresh; the load it found is in no group's pass. -/
theorem passStates_end (g : Group) (load : Option Rat) (c : Chip) (j : Group) :
    (c.modGb g (fun b => { b with passDue := false, passSum := 0, passN := 0, load := load.getD b.load })).passStates j =
      if j = g then ((c.grp[g]).mode, false, 0, 0) else c.passStates j := by
  by_cases e : j = g
  · subst e
    rw [if_pos rfl]
    exact congrArg GroupUnit.passState (vmod_self ..)
  · rw [if_neg e]
    exact congrArg GroupUnit.passState (vmod_other _ _ _ _ fun h => e h.symm)

theorem addOne_passStates (g : Group) (pick : Chip → Option Phase) (c : Chip) : (c.addOne g pick).passStates = c.passStates := by
  unfold Chip.addOne
  split
  · split
    · extract_lets now x
      have hx : x.passStates = c.passStates :=
        (passStates_of_moves (Chip.modPl_moves ..)).trans (passStates_of_moves (Chip.setPstate_moves ..))
      exact (passStates_modGb x fun _ => rfl).trans hx
    · rfl
  · rfl

theorem reverseShed_passStates (g : Group) (p : Phase) (c : Chip) : (c.reverseShed g p).passStates = c.passStates :=
  (passStates_modGb _ fun _ => rfl).trans (passStates_of_moves (Chip.setPstate_moves ..))

theorem countCandidate_passStates (g : Group) (load : Option Rat) (c : Chip) : (c.countCandidate g load).passStates = c.passStates := by
  unfold Chip.countCandidate
  split
  · extract_lets n
    split
    · exact passStates_modGb c fun _ => rfl
    · exact passStates_modGb c fun _ => rfl
  · exact passStates_modGb c fun _ => rfl

theorem rotationAdd_passStates (g : Group) (i o : Phase) (c : Chip) : (c.rotationAdd g i o).passStates = c.passStates := by
  unfold Chip.rotationAdd
  split
  · exact (passStates_modGb _ fun _ => rfl).trans (reverseShed_passStates ..)
  · split
    · exact (passStates_modGb _ fun _ => rfl).trans (addOne_passStates ..)
    · rfl

theorem rotate_passStates (g : Group) (c : Chip) : (c.rotate g).passStates = c.passStates := by
  unfold Chip.rotate
  extract_lets u out
  split
  · split
    · exact rotationAdd_passStates ..
    · rfl
  · rfl

/-- BAL_PASS ends the pass of its group; the trims, the shed candidate and the rotation that follow change no pass and no mode (R374, R384, R403). -/
theorem balPass_passStates {g : Group} {c : Chip} (due : (c.grp[g]).bal.passDue = true) (runs : c.groupRuns g = true)
    (j : Group) : (c.balPass g).passStates j = if j = g then ((c.grp[g]).mode, false, 0, 0) else c.passStates j := by
  unfold Chip.balPass
  rw [if_neg (by rw [due, runs]; exact Bool.false_ne_true)]
  extract_lets b load x y mean z
  have hy : y.passStates = x.passStates := foldl_preserves Chip.passStates _ (fun d p => passStates_of_moves (Chip.modBal_moves ..)) _ x
  have hz : z.passStates = y.passStates := by
    unfold z
    split
    · exact foldl_preserves Chip.passStates _ (fun d p => passStates_of_moves (Chip.balancePhase_moves ..)) _ y
    · rfl
  have after : ((z.countCandidate g load).rotate g).passStates = z.passStates := (rotate_passStates ..).trans (countCandidate_passStates ..)
  rw [after, hz, hy]
  exact passStates_end g load c j

/-! ### A report of a phase's state -/

/-- The block once PH_STATE of phase `p` of group `g` has been granted for the report `s`: the reports `rest` stay, the group's phases are counted
where none switches, and a lost phase ends its rotation (R371). -/
def Chip.reportTaken (p : Phase) (g : Group) (s : PState) (rest : List PState) (c : Chip) : Chip :=
  let c := (c.grant p.val 1).modPl p (fun u => { u with reports := rest })
  let c := if c.anySwitching g then c else c.recount g
  if s = PState.faulted then c.modGb g (GroupBal.shedEnded p) else c

/-- What follows the judgement of a group's health in PH_STATE: the bounds, one swap with a change of the mode `was`, and the charge values
(R388, R408, R553). -/
def Chip.reportSwapped (g : Group) (s : PState) (was : Mode) (c : Chip) : Chip :=
  let c := c.refreshBounds g
  let c := if (c.grp[g]).mode = was then c else { c with setpt := c.setpt.joined }
  if s = PState.active ∨ s = PState.shedding then c else c.chargeRepeat g

theorem phState_of_report {p : Phase} {g : Group} {s : PState} {rest : List PState} {c : Chip} (own : c.groupOf p = some g)
    (reports : (c.ph[p]).pl.reports = s :: rest) :
    c.phState p = ((c.reportTaken p g s rest).judgeHealth g).reportSwapped g s ((c.reportTaken p g s rest).grp[g]).mode := by
  unfold Chip.phState
  simp only [own, reports]
  rfl

/-- The swap that follows the judgement leaves all but the set points and the values drawn alone. -/
theorem reportSwapped_moves (g : Group) (s : PState) (was : Mode) (c : Chip) : Moves [.setpt, .draws] c (c.reportSwapped g s was) := by
  unfold Chip.reportSwapped
  extract_lets x y
  have hx : Moves [.setpt, .draws] c x := moves_mono (Chip.refreshBounds_moves g c) (by decide)
  have hy : Moves [.setpt, .draws] c y := moves_ite (fun _ => hx) (fun _ => moves_set_setpt hx (by decide))
  exact moves_ite (fun _ => hy) (fun _ => moves_trans hy (Chip.chargeRepeat_moves g y))

section
variable (p : Phase) (g : Group) (s : PState) (rest : List PState) (c : Chip)

/-- Once the report is granted, taking it changes BAL of the group alone. -/
theorem reportTaken_counts :
    Moves [.grp] ((c.grant p.val 1).modPl p (fun u => { u with reports := rest })) (c.reportTaken p g s rest) ∧
    ∀ {α : Type} (view : GroupUnit → α), (∀ u b, view { u with bal := b } = view u) →
      view ((c.reportTaken p g s rest).grp[g]) = view (c.grp[g]) := by
  unfold Chip.reportTaken
  extract_lets x y
  have hx : x.grp = c.grp := ((Chip.modPl_moves ..).same .grp).trans ((Chip.grant_moves ..).same .grp)
  have hy : Moves [.grp] x y := moves_ite (fun _ => moves_refl _ _) (fun _ => Chip.recount_moves g x)
  refine ⟨moves_ite (fun _ => moves_trans hy (Chip.modGb_moves ..)) (fun _ => hy), fun view blind => ?_⟩
  have vy : view (y.grp[g]) = view (c.grp[g]) := by
    rw [← hx]
    unfold y
    split
    · rfl
    · exact vmod_view view x.grp g g (blind ..)
  split
  · exact (vmod_view view y.grp g g (blind ..)).trans vy
  · exact vy

theorem reportTaken_moves : Moves [.ph, .grp, .eva, .trace, .obs, .draws] c (c.reportTaken p g s rest) :=
  moves_then (moves_then (moves_mono (Chip.grant_moves p.val 1 c) (by decide)) (Chip.modPl_moves ..) (by decide))
    (reportTaken_counts p g s rest c).1 (by decide)

theorem reportTaken_mode : ((c.reportTaken p g s rest).grp[g]).mode = (c.grp[g]).mode :=
  (reportTaken_counts p g s rest c).2 GroupUnit.mode fun _ _ => rfl

theorem reportTaken_cfg : ((c.reportTaken p g s rest).grp[g]).cfg = (c.grp[g]).cfg :=
  (reportTaken_counts p g s rest c).2 GroupUnit.cfg fun _ _ => rfl

/-- Taking a report takes it from the reports of its phase, and leaves the phases alone otherwise. -/
theorem reportTaken_ph : (c.reportTaken p g s rest).ph = vmod c.ph p (fun u => { u with pl := { u.pl with reports := rest } }) := by
  rw [(reportTaken_counts p g s rest c).1.same .ph, ← (Chip.grant_moves p.val 1 c).same .ph]
  rfl

/-- Taking a report grants PH_STATE alone (R60). -/
theorem reportTaken_granted : Granted c (c.reportTaken p g s rest) := by
  rw [Granted, (reportTaken_counts p g s rest c).1.same .eva]
  exact grant_granted p.val 1 c
end

/-! ### The healthy phases -/

/-- The healthy phases of a group on this device follow from the groups and the states of the phases (R407). -/
theorem healthy_congr {c d : Chip} (g : Group) (sys : d.sys = c.sys) (cfg : ∀ p : Phase, (d.ph[p]).cfg = (c.ph[p]).cfg)
    (states : ∀ p : Phase, d.pstate p = c.pstate p) : d.healthy g = c.healthy g := by
  unfold Chip.healthy Chip.phasesOf
  simp only [sys, cfg, states]

/-- The healthy phases of a group in all follow from those of this device and from what the chain has reported (R441). -/
theorem healthyAll_congr {c d : Chip} {g : Group} (tb : d.tb = c.tb) (sett : d.sett = c.sett) (guards : d.guards = c.guards)
    (gauge : d.gauge = c.gauge) (mode : (d.grp[g]).mode = (c.grp[g]).mode) (own : d.healthy g = c.healthy g) :
    d.healthyAll g = c.healthyAll g := by
  unfold Chip.healthyAll Chip.isLeader Chip.deviceCounts Chip.ownCounts Chip.groupFaulted
  rw [tb, sett, guards, gauge, mode, own]

/-- Taking a report changes no phase's state, and so not the healthy phases. -/
theorem reportTaken_healthyAll (p : Phase) (g : Group) (s : PState) (rest : List PState) (c : Chip) :
    (c.reportTaken p g s rest).healthyAll g = c.healthyAll g := by
  have moved := reportTaken_moves p g s rest c
  have cfg : ∀ q : Phase, ((c.reportTaken p g s rest).ph[q]).cfg = (c.ph[q]).cfg := fun q => by
    rw [reportTaken_ph]
    exact vmod_view PhaseUnit.cfg c.ph p q rfl
  have states : ∀ q : Phase, (c.reportTaken p g s rest).pstate q = c.pstate q := fun q => by
    unfold Chip.pstate
    rw [reportTaken_ph]
    exact vmod_view (fun u : PhaseUnit => u.pl.pstate) c.ph p q rfl
  exact healthyAll_congr (moved.same .tb) (moved.same .sett) (moved.same .guards) (moved.same .gauge) (reportTaken_mode p g s rest c)
    (healthy_congr g (moved.same .sys) cfg states)

/-! ### The judgement -/

/-- The judgement of a group in no switching mode says at most that a condition is back (R407). -/
theorem judgeHealth_notSwitching {g : Group} {c : Chip} (still : isSwitchingMode (c.grp[g]).mode = false) : Moves [.guards] c (c.judgeHealth g) := by
  unfold Chip.judgeHealth
  extract_lets u n x
  rw [if_pos (by unfold u; rw [still]; exact Bool.or_true _)]
  exact moves_ite (fun _ => Chip.condBack_moves ..) (fun _ => moves_refl _ _)

/-- The judgement of a switching group that is decided here and has fewer than DER_MIN healthy phases holds the fault 0x26 (R180, R407). -/
theorem judgeHealth_holds {g : Group} {c : Chip} (decides : c.decides g = true) (dev : c.sys.dev = .perGroup)
    (switching : isSwitchingMode (c.grp[g]).mode = true) (few : c.healthyAll g < (c.grp[g]).cfg.derMin) :
    Holds (grpBlock g) 0x26 g.val (c.judgeHealth g) := by
  unfold Chip.judgeHealth
  extract_lets u n x
  have hx : x = c.condBack (grpBlock g) 0x26 g.val := if_pos few
  have judged : ¬(!x.decides g || x.sys.dev != .perGroup || !isSwitchingMode u.mode) = true := by
    have hd : x.decides g = c.decides g := by rw [hx]; rfl
    have hs : x.sys = c.sys := by rw [hx]; rfl
    unfold u
    rw [hd, hs, decides, dev, switching]
    decide
  rw [if_neg judged, if_pos few]
  exact raiseB_holds _ _ _ _ _ _ (by decide)

/-! ### The clauses -/

/-- BAL_PASS of a group that runs (R374). -/
theorem balPass_ends {c : Chip} {g : Group} (due : (c.grp[g]).bal.passDue = true) (runs : c.groupRuns g = true) :
    Runs (.balPass g) c [.ph, .grp, .guards, .eva, .trace, .obs, .nv, .log, .draws]
        (fun d => (d.grp[g]).bal.passDue = false ∧ (d.grp[g]).bal.passSum = 0 ∧ (d.grp[g]).bal.passN = 0 ∧
      ∀ j : Group, (d.grp[j]).mode = (c.grp[j]).mode) := by
  refine runs_of_moves (fun _ => rfl) (Chip.balPass_moves g c) ?_
  have ended := balPass_passStates due runs
  have own : (c.balPass g).passStates g = ((c.grp[g]).mode, false, 0, 0) := (ended g).trans (if_pos rfl)
  refine ⟨congrArg (·.2.1) own, congrArg (·.2.2.1) own, congrArg (·.2.2.2) own, fun j => ?_⟩
  by_cases e : j = g
  · subst e
    exact congrArg Prod.fst own
  · exact congrArg Prod.fst ((ended j).trans (if_neg e))

section
variable {c : Chip} {p : Phase} {g : Group} {s : PState} {rest : List PState} (own : c.groupOf p = some g)
  (reports : (c.ph[p]).pl.reports = s :: rest)
include own reports

/-- PH_STATE of a phase whose group is in no switching mode (R371). -/
theorem phState_takes (still : isSwitchingMode (c.grp[g]).mode = false) :
    Runs (.phState p) c [.sys, .tb, .ph, .grp, .le, .setpt, .sweep, .sett, .guards, .eva, .trace, .obs, .nv, .cal, .log, .host, .draws]
        (fun d => d.ph = vmod c.ph p (fun u => { u with pl := { u.pl with reports := rest } }) ∧ Granted c d) := by
  refine runs_of_moves (fun _ => rfl) (Chip.phState_moves p c) ?_
  have judged : Moves [.guards] (c.reportTaken p g s rest) ((c.reportTaken p g s rest).judgeHealth g) :=
    judgeHealth_notSwitching (by rw [reportTaken_mode]; exact still)
  have follows : Moves [.guards, .setpt, .draws] (c.reportTaken p g s rest) (c.phState p) := by
    rw [phState_of_report own reports]
    exact moves_then (moves_mono judged (by decide)) (reportSwapped_moves ..) (by decide)
  refine ⟨(follows.same .ph).trans (reportTaken_ph p g s rest c), ?_⟩
  rw [Granted, follows.same .eva]
  exact reportTaken_granted p g s rest c

/-- PH_STATE of a phase whose group switches with fewer than DER_MIN healthy phases (R180, R407). -/
theorem phState_faults (decides : c.decides g = true) (dev : c.sys.dev = .perGroup) (switching : isSwitchingMode (c.grp[g]).mode = true)
    (few : c.healthyAll g < (c.grp[g]).cfg.derMin) :
    Runs (.phState p) c [.sys, .tb, .ph, .grp, .le, .setpt, .sweep, .sett, .guards, .eva, .trace, .obs, .nv, .cal, .log, .host, .draws]
        (fun d => Holds (grpBlock g) 0x26 g.val d) := by
  refine runs_of_moves (fun _ => rfl) (Chip.phState_moves p c) ?_
  have taken := reportTaken_moves p g s rest c
  have member : (c.reportTaken p g s rest).decides g = c.decides g := by
    unfold Chip.decides Chip.isMember
    rw [taken.same .sett]
  have held : Holds (grpBlock g) 0x26 g.val ((c.reportTaken p g s rest).judgeHealth g) :=
    judgeHealth_holds (member.trans decides) (by rw [taken.same .sys]; exact dev) (by rw [reportTaken_mode]; exact switching)
      (by rw [reportTaken_healthyAll, reportTaken_cfg]; exact few)
  rw [phState_of_report own reports]
  unfold Holds
  rw [(reportSwapped_moves ..).same .guards]
  exact held
end

/-- Settles O10, one lemma a clause: a pass ends before the trims, the sheds and the rotation, none of which touches a pass or a mode, and a report is taken
before its group's health is judged, with the same healthy phases. -/
theorem balanceAndPhaseStates : Obligations.BalanceAndPhaseStates :=
  ⟨fun _ _ => balPass_ends, fun _ _ _ _ _ => phState_takes, fun _ _ _ _ _ => phState_faults⟩

end Sys2Proof.Machine
end

section
/-!
SUPPORT. SWEEP_START and SWEEP_ABORT from the host (R469, R489, R628): what the refusal of a sweep rests on, what booking and a mode change leave of the
sweep, and the statement about the two commands, one lemma a clause.
-/

namespace Sys2Proof.Machine
open Sys2Proof

/-- The refusal of a sweep follows from the phases, groups, engines and the sweep unit, and from who leads each group (R469). -/
theorem sweepRefusal_congr {c d : Chip} (x : SweepDesc) (sys : d.sys = c.sys) (ph : d.ph = c.ph) (grp : d.grp = c.grp) (le : d.le = c.le)
    (sweep : d.sweep = c.sweep) (groups : d.sett.groups = c.sett.groups) : d.sweepRefusal x = c.sweepRefusal x := by
  unfold Chip.sweepRefusal Chip.sweepParams Chip.acceptedInterval Chip.counting Chip.phasesOf Chip.pstate Chip.pairing Chip.enginesOf Chip.isMember
  rw [sys, ph, grp, le, sweep, groups]

/-- A row that is a command of Badger's does what the command does once it has been sent to Badger (R37). -/
theorem runs_sent {i : Instr} {ref : HostRef} {type : Nat} {body : List Byte} {run : HostCmd → Chip → Chip} {c : Chip} {ps : List Part}
    {post : Chip → Prop} (row : ∀ q, exec i ⟨q, c⟩ = .next ⟨q, c.badgerCommand ref type body run⟩) (n : TakesNext ⟨ref, type, body⟩ c)
    (k : CarriedOut ⟨ref, type, body⟩ c) (sub : ∀ p ∈ [Part.host, .mbx, .dom, .eva, .trace, .obs, .draws], p ∈ ps)
    (moved : Moves ps (c.sent ⟨ref, type, body⟩) (run ⟨ref, type, body⟩ (c.sent ⟨ref, type, body⟩)))
    (holds : post (run ⟨ref, type, body⟩ (c.sent ⟨ref, type, body⟩))) : Runs i c ps post := by
  rw [badgerCommand_of_takesNext n k] at row
  exact runs_of_moves row (moves_trans (moves_mono (c.sent_moves _) sub) moved) holds

/-- Sending a command to Badger leaves the refusal of a sweep as it was. -/
theorem sweepRefusal_sent (h : HostCmd) (x : SweepDesc) (c : Chip) : (c.sent h).sweepRefusal x = c.sweepRefusal x :=
  have sent := c.sent_moves h
  sweepRefusal_congr x (sent.same .sys) (sent.same .ph) (sent.same .grp) (sent.same .le) (sent.same .sweep) (congrArg SettUnit.groups (sent.same .sett))

/-- A mode change to another mode than CHARGE is the entry to that mode alone (R539). -/
theorem changeMode_eq_enterMode {m : Mode} (g : Group) (k : Cause) (c : Chip) (h : m ≠ .charge) : c.changeMode g m k = c.enterMode g m k := by
  unfold Chip.changeMode
  exact if_neg (by simp [h])

/-! ### What the commands do -/

/-- SWEEP_START that nothing refuses books the sweep, takes the group to SWEEP and is done (R469, R628). -/
theorem sweepStart_books {x : SweepDesc} {g : Group} {c : Chip} (cmd : HostCmd) (accepts : c.sweepRefusal x = none) (group : x.group = g.val)
    (alone : (c.sett.groups[g]).span = false) :
    c.sweepStart x cmd = ((c.bookSweep g x cmd.ref.tag c.sett.addr false).enterMode g .sweep .sweepStart).done cmd .ok [] := by
  obtain rfl : Fin.ofNat 4 x.group = g := by rw [group]; exact Fin.ofNat_val_eq_self g
  unfold Chip.sweepStart
  rw [accepts]
  dsimp only
  rw [if_neg (by rw [alone]; exact Bool.false_ne_true), changeMode_eq_enterMode _ _ _ (by decide)]

theorem sweepStart_refused {x : SweepDesc} {r : Result} {c : Chip} (cmd : HostCmd) (refused : c.sweepRefusal x = some r) :
    c.sweepStart x cmd = c.done cmd r [] := by
  unfold Chip.sweepStart
  rw [refused]

/-- A SWEEP_ABORT waits for the grant of its ABORT (R70). -/
def Chip.abortWaits (cmd : HostCmd) (c : Chip) : Chip := { c with host := { c.host with aborts := c.host.aborts ++ [(.sweep, some cmd)] } }

theorem sweepAbort_own {tag : Nat} {c : Chip} (cmd : HostCmd) (other : c.sweep.ask ≠ some tag) (runs : c.sweep.st ≠ .idle) (orig : c.sweep.orig = true)
    (own : c.sweep.tag = tag) :
    c.sweepAbort tag cmd = Chip.abortWaits cmd { c with sweep := { c.sweep with abortReq := c.sweep.abortReq ++ [1] } } := by
  unfold Chip.sweepAbort
  rw [if_neg other, if_pos (by simp [runs, orig, own])]
  rfl

theorem sweepAbort_asked {tag : Nat} {c : Chip} (cmd : HostCmd) (asked : c.sweep.ask = some tag) :
    c.sweepAbort tag cmd = Chip.abortWaits cmd { c with sweep := { c.sweep with askAbort := c.sweep.askAbort ++ [1] } } := by
  unfold Chip.sweepAbort
  rw [if_pos asked]
  rfl

theorem sweepAbort_late {tag : Nat} {c : Chip} (cmd : HostCmd) (idle : c.sweep.st = .idle) (other : c.sweep.ask ≠ some tag) :
    c.sweepAbort tag cmd = c.done cmd (if c.sweep.completedTags.contains tag then .alreadyDone else .sweepUnknown) [] := by
  unfold Chip.sweepAbort
  rw [if_neg other, if_neg (by simp [idle])]
  split
  · rfl
  · rfl

/-! ### The clauses -/

section
variable {c : Chip} {h : HostRef}

/-- SWEEP_START that nothing refuses, of a group on this device alone (R469, R628). -/
theorem sweepStart_accepted {x : SweepDesc} {g : Group} (n : TakesNext ⟨h, 0x05, descBytes x⟩ c) (k : CarriedOut ⟨h, 0x05, descBytes x⟩ c)
    (accepts : c.sweepRefusal x = none) (group : x.group = g.val) (alone : (c.sett.groups[g]).span = false) (quiet : c.shdnAsked = false) :
    Runs (.sweepStart h x) c [.sys, .tb, .ph, .grp, .le, .setpt, .sweep, .sett, .guards, .eva, .trace, .obs, .mbx, .dom, .nv, .cal, .log, .host, .draws]
        (fun d => (∀ j : Group, (d.grp[j]).mode = if g = j then .sweep else (c.grp[j]).mode) ∧ d.sweep.st = .setup ∧ d.sweep.tag = h.tag ∧
      d.sweep.group = g ∧ d.sweep.desc = x ∧ Answered ⟨h, 0x05, descBytes x⟩ .ok [] c d) := by
  refine runs_sent (fun _ => rfl) n k (by decide) (Chip.sweepStart_moves ..) ?_
  have sent := c.sent_moves ⟨h, 0x05, descBytes x⟩
  have free := doneFree_sent n.1 k
  rw [sweepStart_books _ ((sweepRefusal_sent ..).trans accepts) group (by rw [sent.same .sett]; exact alone)]
  generalize booking : (c.sent ⟨h, 0x05, descBytes x⟩).bookSweep g x h.tag _ false = b
  have booked : Moves [.sweep] (c.sent ⟨h, 0x05, descBytes x⟩) b := booking ▸ Chip.bookSweep_moves ..
  have entered := Chip.enterMode_moves g .sweep .sweepStart b
  have modes := enterMode_mode g .sweep .sweepStart b (by unfold Chip.shdnAsked; rw [booked.same .sys, sent.same .sys]; exact quiet)
  generalize b.enterMode g .sweep .sweepStart = e at entered modes ⊢
  have answered := e.done_moves ⟨h, 0x05, descBytes x⟩ .ok []
  have sweep := (answered.same .sweep).trans (entered.same .sweep)
  rw [booked.same .grp, sent.same .grp] at modes
  refine ⟨?_, ?_, ?_, ?_, ?_, ?_⟩
  · rw [answered.same .grp]
    exact modes
  · rw [sweep, ← booking]; rfl
  · rw [sweep, ← booking]; rfl
  · rw [sweep, ← booking]; rfl
  · rw [sweep, ← booking]; rfl
  · refine done_answered .ok [] ((entered.same .host).trans ((booked.same .host).trans (sent_host _ c))) ?_
    exact doneFree_congr ((entered.same .sys).trans (booked.same .sys)) ((entered.same .dom).trans (booked.same .dom))
      ((entered.same .mbx).trans (booked.same .mbx)) free

/-- A command of Badger's that is done at once is answered, and the message of Badger's and Owl's apart nothing else changes (R37, R651). -/
theorem runs_done {i : Instr} {type : Nat} {body : List Byte} {run : HostCmd → Chip → Chip} {r : Result}
    (row : ∀ q, exec i ⟨q, c⟩ = .next ⟨q, c.badgerCommand h type body run⟩) (n : TakesNext ⟨h, type, body⟩ c) (k : CarriedOut ⟨h, type, body⟩ c)
    (ends : run ⟨h, type, body⟩ (c.sent ⟨h, type, body⟩) = (c.sent ⟨h, type, body⟩).done ⟨h, type, body⟩ r []) :
    Runs i c [.host, .mbx, .dom, .eva, .trace, .obs, .draws] (fun d => Answered ⟨h, type, body⟩ r [] c d) := by
  refine runs_sent row n k (by decide) ?_ ?_
  · rw [ends]
    exact moves_mono (Chip.done_moves ..) (by decide)
  · rw [ends]
    exact done_answered r [] (sent_host _ c) (doneFree_sent n.1 k)

/-- SWEEP_START that is refused (R469). -/
theorem sweepStart_refuses {x : SweepDesc} {r : Result} (n : TakesNext ⟨h, 0x05, descBytes x⟩ c) (k : CarriedOut ⟨h, 0x05, descBytes x⟩ c)
    (refused : c.sweepRefusal x = some r) :
    Runs (.sweepStart h x) c [.host, .mbx, .dom, .eva, .trace, .obs, .draws] (fun d => Answered ⟨h, 0x05, descBytes x⟩ r [] c d) :=
  runs_done (fun _ => rfl) n k (sweepStart_refused _ ((sweepRefusal_sent ..).trans refused))

section
variable {tag : Nat} (n : TakesNext ⟨h, 0x06, leBytes 2 tag ++ [0, 0]⟩ c) (k : CarriedOut ⟨h, 0x06, leBytes 2 tag ++ [0, 0]⟩ c)
include n k

/-- A SWEEP_ABORT that requests an ABORT changes the sweep unit by its request, and waits (R70). -/
theorem runs_abortWaits {u : SweepUnit}
    (requests : (c.sent ⟨h, 0x06, leBytes 2 tag ++ [0, 0]⟩).sweepAbort tag ⟨h, 0x06, leBytes 2 tag ++ [0, 0]⟩ =
      Chip.abortWaits ⟨h, 0x06, leBytes 2 tag ++ [0, 0]⟩ { c.sent ⟨h, 0x06, leBytes 2 tag ++ [0, 0]⟩ with sweep := u }) :
    Runs (.sweepAbort h tag) c [.sweep, .host, .mbx, .dom, .eva, .trace, .obs, .draws] (fun d => d.sweep = u ∧
      d.host.aborts = c.host.aborts ++ [(.sweep, some ⟨h, 0x06, leBytes 2 tag ++ [0, 0]⟩)] ∧ Taken ⟨h, 0x06, leBytes 2 tag ++ [0, 0]⟩ c d) := by
  refine runs_sent (fun _ => rfl) n k (by decide) (moves_mono (Chip.sweepAbort_moves ..) (by decide)) ?_
  rw [requests]
  unfold Chip.abortWaits Taken
  dsimp only
  rw [sent_host]
  exact ⟨rfl, rfl, rfl, rfl, List.mem_append_right _ List.mem_cons_self⟩

/-- SWEEP_ABORT of the sweep in progress that this device originated (R70, R489). -/
theorem sweepAbort_requests (other : c.sweep.ask ≠ some tag) (runs : c.sweep.st ≠ .idle) (orig : c.sweep.orig = true) (own : c.sweep.tag = tag) :
    Runs (.sweepAbort h tag) c [.sweep, .host, .mbx, .dom, .eva, .trace, .obs, .draws]
        (fun d => d.sweep = { c.sweep with abortReq := c.sweep.abortReq ++ [1] } ∧
      d.host.aborts = c.host.aborts ++ [(.sweep, some ⟨h, 0x06, leBytes 2 tag ++ [0, 0]⟩)] ∧ Taken ⟨h, 0x06, leBytes 2 tag ++ [0, 0]⟩ c d) := by
  have sweep : (c.sent ⟨h, 0x06, leBytes 2 tag ++ [0, 0]⟩).sweep = c.sweep := (c.sent_moves _).same .sweep
  rw [← sweep] at other runs orig own ⊢
  exact runs_abortWaits n k (sweepAbort_own _ other runs orig own)

/-- SWEEP_ABORT of the chain-wide sweep that this device has asked its head for (R483, R489). -/
theorem sweepAbort_requestsAsked (asked : c.sweep.ask = some tag) :
    Runs (.sweepAbort h tag) c [.sweep, .host, .mbx, .dom, .eva, .trace, .obs, .draws]
        (fun d => d.sweep = { c.sweep with askAbort := c.sweep.askAbort ++ [1] } ∧
      d.host.aborts = c.host.aborts ++ [(.sweep, some ⟨h, 0x06, leBytes 2 tag ++ [0, 0]⟩)] ∧ Taken ⟨h, 0x06, leBytes 2 tag ++ [0, 0]⟩ c d) := by
  have sweep : (c.sent ⟨h, 0x06, leBytes 2 tag ++ [0, 0]⟩).sweep = c.sweep := (c.sent_moves _).same .sweep
  rw [← sweep] at asked ⊢
  exact runs_abortWaits n k (sweepAbort_asked _ asked)

/-- SWEEP_ABORT with no sweep in progress (R489). -/
theorem sweepAbort_answers (idle : c.sweep.st = .idle) (other : c.sweep.ask ≠ some tag) :
    Runs (.sweepAbort h tag) c [.host, .mbx, .dom, .eva, .trace, .obs, .draws] (fun d => Answered ⟨h, 0x06, leBytes 2 tag ++ [0, 0]⟩
      (if c.sweep.completedTags.contains tag then .alreadyDone else .sweepUnknown) [] c d) := by
  have sweep : (c.sent ⟨h, 0x06, leBytes 2 tag ++ [0, 0]⟩).sweep = c.sweep := (c.sent_moves _).same .sweep
  rw [← sweep] at idle other ⊢
  exact runs_done (fun _ => rfl) n k (sweepAbort_late _ idle other)
end
end

/-- Settles O34, one lemma a clause: the sweep that SWEEP_START books outlasts the mode change, and each answer is made once Badger has been sent the
command. -/
theorem sweepCommands : Obligations.SweepCommands :=
  ⟨fun _ _ _ _ => sweepStart_accepted, fun _ _ _ _ => sweepStart_refuses, fun _ _ _ => sweepAbort_requests,
    fun _ _ _ => sweepAbort_requestsAsked, fun _ _ _ => sweepAbort_answers⟩

end Sys2Proof.Machine
end

section
/-!
SUPPORT. A flit that passes: what sending, forwarding and delivering one leave of the chain's registers, and the block at which what a flit of VC2 does
begins (R421 to R427).
-/

namespace Sys2Proof.Machine
open Sys2Proof

/-! ### What no flit that passes changes -/

/-- The chain's registers without the books of the flits that pass: of each port its state alone, nothing of the peers, and no flit sent. -/
def SettUnit.standing (u : SettUnit) : SettUnit :=
  { u with ports := vmap u.ports (fun p => { st := p.st }), peers := Vector.replicate 8 {}, tx := [], linksUp := false }

/-- What is read off the registers that no flit changes is the same where these are. -/
theorem same_of_standing {α : Type} {c d : Chip} (view : SettUnit → α) (h : d.sett.standing = c.sett.standing)
    (reads : ∀ u : SettUnit, view u.standing = view u := by intro u; rfl) : view d.sett = view c.sett := by
  rw [← reads, h, reads]

theorem modPort_standing (p : SettPort) {f : SettPortUnit → SettPortUnit} (c : Chip) (h : ∀ u, (f u).st = u.st) :
    (c.modPort p f).sett.standing = c.sett.standing := by
  have states : ∀ j : SettPort, (vmap (vmod c.sett.ports p f) (fun u => ({ st := u.st } : SettPortUnit)))[j] =
      (vmap c.sett.ports (fun u => ({ st := u.st } : SettPortUnit)))[j] := fun j => by
    rw [vmap_get, vmap_get, vmod_view SettPortUnit.st c.sett.ports p j (h _)]
  have ports := Vector.ext fun i hi => states ⟨i, hi⟩
  exact congrArg (fun v => ({ c.sett.standing with ports := v } : SettUnit)) ports

theorem returnCredit_standing (p : SettPort) (vc : Fin 4) (c : Chip) : (c.returnCredit p vc).sett.standing = c.sett.standing :=
  modPort_standing p c fun _ => rfl

theorem freeBuffer_standing (held : Option SettPort) (vc : Fin 4) (c : Chip) : (c.freeBuffer held vc).sett.standing = c.sett.standing := by
  unfold Chip.freeBuffer
  split
  · exact (returnCredit_standing ..).trans (modPort_standing _ c fun _ => rfl)
  · rfl

theorem servePort_standing (p : SettPort) (t now n : Nat) (c : Chip) : (c.servePort p t now n).sett.standing = c.sett.standing := by
  induction n generalizing t c with
  | zero => rfl
  | succ n ih =>
    unfold Chip.servePort
    extract_lets u t'
    split
    · rfl
    split
    · rfl
    · extract_lets vc x y
      rw [ih, freeBuffer_standing]
      exact modPort_standing p c fun _ => rfl

theorem transmit_standing (held : Option SettPort) (p : SettPort) (f : Flit) (c : Chip) :
    (c.transmit held p f).sett.standing = c.sett.standing := by
  unfold Chip.transmit
  extract_lets vc x y
  split
  · split
    · exact returnCredit_standing ..
    · rfl
  · have waits : x.sett.standing = c.sett.standing := modPort_standing p c fun _ => rfl
    have holds : y.sett.standing = x.sett.standing := by
      unfold y
      split
      · exact modPort_standing _ x fun _ => rfl
      · rfl
    exact (servePort_standing ..).trans (holds.trans waits)

/-- A flit that a device originates takes the next SEQ of its VC (R421). -/
theorem sendFlit_standing (dst : Nat) (b : FlitBody) (c : Chip) : (c.sendFlit dst b).sett.standing =
    { c.sett.standing with seqs := c.sett.seqs.set b.vc ((c.sett.seqs[b.vc] + 1) % 256) } := by
  unfold Chip.sendFlit
  extract_lets vc seq _ x
  exact (foldl_preserves (fun d => d.sett.standing) _ (fun d p => transmit_standing ..) _ x).trans rfl

/-- What is read off the registers that no flit changes, SEQ apart, a flit that leaves does not change. -/
theorem sendFlit_same {α : Type} (view : SettUnit → α) (dst : Nat) (b : FlitBody) (c : Chip)
    (reads : ∀ u : SettUnit, view u.standing = view u := by intro u; rfl)
    (blind : ∀ (u : SettUnit) s, view { u with seqs := s } = view u := by intro u s; rfl) : view (c.sendFlit dst b).sett = view c.sett := by
  rw [← reads, sendFlit_standing, blind, reads]

/-- A flit that leaves takes one SEQ of its VC (R421). -/
theorem sendFlit_seqs (dst : Nat) (b : FlitBody) (c : Chip) : (c.sendFlit dst b).sett.seqs[b.vc] = (c.sett.seqs[b.vc] + 1) % 256 := by
  have sent : (c.sendFlit dst b).sett.seqs = c.sett.seqs.set b.vc ((c.sett.seqs[b.vc] + 1) % 256) :=
    congrArg SettUnit.seqs (sendFlit_standing dst b c)
  rw [sent]
  exact Vector.getElem_set_self ..

/-- A flit that leaves once an event is granted: one SEQ of its VC has been taken, and no other event granted (R60, R421). -/
theorem sendFlit_once {c e : Chip} (standing : e.sett.standing = c.sett.standing) (granted : Granted c e) (dst : Nat) (b : FlitBody) :
    (e.sendFlit dst b).sett.seqs[b.vc] = (c.sett.seqs[b.vc] + 1) % 256 ∧ Granted c (e.sendFlit dst b) := by
  refine ⟨?_, ?_⟩
  · rw [sendFlit_seqs, same_of_standing SettUnit.seqs standing]
  · rw [Granted, (Chip.sendFlit_moves ..).same .eva]
    exact granted

theorem forward_standing (f : FlitHdr) (b : FlitBody) (cut : Bool) (c : Chip) : (c.forward f b cut).sett.standing = c.sett.standing := by
  unfold Chip.forward
  exact (transmit_standing ..).trans rfl

/-- Which port a source is heard by says nothing of its duplicates (R424). -/
theorem duplicate_modPeer {g : PeerInfo → PeerInfo} (f : FlitHdr) (vc : Fin 4) (c : Chip) (h : ∀ q, (g q).seen = q.seen) :
    (c.modPeer f.src g).duplicate f vc = c.duplicate f vc := by
  have seen : ((c.modPeer f.src g).sett.peers[f.src]).seen = (c.sett.peers[f.src]).seen := vmod_view PeerInfo.seen _ _ _ (h _)
  unfold Chip.duplicate
  rw [seen]
  rfl

/-- A flit that is delivered here is received as such, and of the chain's registers changes only the books of the flits that pass (R423, R424). -/
theorem receive_of_delivers {f : FlitHdr} {b : FlitBody} {c : Chip} (h : Delivers f b c) :
    (c.receive f b).2 = true ∧ (c.receive f b).1.sett.standing = c.sett.standing := by
  obtain ⟨up, free, port, crc, -, other, fresh, here⟩ := h
  unfold Chip.receive
  rw [if_neg (by rw [up, free, port]; decide), if_neg (by rw [crc]; decide)]
  extract_lets x y z
  have hx : x.sett.standing = c.sett.standing := modPort_standing f.port c fun _ => rfl
  have hz : z.sett.standing = y.sett.standing := by
    unfold z
    split
    · exact forward_standing ..
    · exact returnCredit_standing ..
  have first : y.duplicate f b.vc = false := (duplicate_modPeer f b.vc x fun q => by split <;> rfl).trans fresh
  have addr : z.sett.addr = c.sett.addr := same_of_standing SettUnit.addr (hz.trans hx)
  rw [if_neg (show ¬f.src = x.sett.addr from other), if_neg (by rw [first]; exact Bool.false_ne_true),
    if_pos (by rw [addr]; simpa using here)]
  exact ⟨rfl, hz.trans hx⟩

/-! ### The delivery of a flit of VC2 -/

/-- A row that makes the block `d`, of which `post` holds. -/
theorem runs_of_eq {i : Instr} {c d e : Chip} {ps : List Part} {post : Chip → Prop} (row : ∀ q, exec i ⟨q, c⟩ = .next ⟨q, e⟩) (does : e = d)
    (moved : Moves ps c d) (holds : post d) : Runs i c ps post := runs_of_moves (does ▸ row) moved holds

/-- The block at the grant of a flit's delivery, before what the flit does (R423, R482). -/
def Chip.delivered (f : FlitHdr) (b : FlitBody) (c : Chip) : Chip := (c.receive f b).1.grant 36 1

theorem Chip.delivered_moves (f : FlitHdr) (b : FlitBody) (c : Chip) : Moves [.sett, .eva, .trace, .obs, .draws] c (c.delivered f b) :=
  moves_then (moves_mono (Chip.receive_moves ..) (by decide)) (Chip.grant_moves ..) (by decide)

theorem delivered_granted (f : FlitHdr) (b : FlitBody) (c : Chip) : Granted c (c.delivered f b) := by
  have granted := grant_granted 36 1 (c.receive f b).1
  rw [Granted, (Chip.receive_moves f b c).same .eva] at granted
  exact granted

section
variable {f : FlitHdr} {b : FlitBody} {c : Chip} (h : Delivers f b c)
include h

theorem delivered_standing : (c.delivered f b).sett.standing = c.sett.standing :=
  (congrArg SettUnit.standing ((Chip.grant_moves ..).same .sett)).trans (receive_of_delivers h).2

theorem delivered_src : f.src ≠ (c.delivered f b).sett.addr := by
  obtain ⟨-, -, -, -, -, other, -⟩ := id h
  rw [same_of_standing SettUnit.addr (delivered_standing h)]
  exact other

theorem deliver2_of_delivers (act : Chip → Chip) : c.deliver2 f b act = act (c.delivered f b) := by
  obtain ⟨-, -, -, -, named, -⟩ := id h
  unfold Chip.deliver2 Chip.deliver3
  rw [named]
  exact if_pos (receive_of_delivers h).1

/-- A row that is a flit of VC2 delivered here, which at the grant of its delivery makes the block `d` (R482). -/
theorem runs_delivered {i : Instr} {act : Chip → Chip} {d : Chip} {ps : List Part} {post : Chip → Prop}
    (row : ∀ q, exec i ⟨q, c⟩ = .next ⟨q, c.deliver2 f b act⟩) (does : act (c.delivered f b) = d)
    (sub : ∀ p ∈ [Part.sett, .eva, .trace, .obs, .draws], p ∈ ps) (moved : Moves ps (c.delivered f b) d) (holds : post d) : Runs i c ps post :=
  runs_of_eq row ((deliver2_of_delivers h act).trans does) (moves_trans (moves_mono (c.delivered_moves f b) sub) moved) holds
end

end Sys2Proof.Machine
end

section
/-!
SUPPORT. What the head, a participant and the originator of a chain-wide sweep do at a flit's delivery and at a timeout, and how a sweep ends (R482 to R489).
-/

namespace Sys2Proof.Machine
open Sys2Proof

/-! ### The head -/

theorem actsHead_of_standing {c d : Chip} (h : d.sett.standing = c.sett.standing) : d.actsHead = c.actsHead := by
  have none : d.sett.ports.toList.all (fun p => p.st != .up) = c.sett.ports.toList.all (fun p => p.st != .up) :=
    same_of_standing (fun u => u.ports.toList.all (fun p => p.st != .up)) h fun u => by
      simp only [SettUnit.standing, vmap, Vector.toList_mk, List.all_map]; rfl
  unfold Chip.actsHead Chip.isHead
  rw [same_of_standing SettUnit.role h, same_of_standing SettUnit.ctSet h, none]

/-- A head with a sweep scheduled refuses another device's (R483). -/
theorem headSweep_busy {src : Address} {tag : Nat} {w : SweepDesc} {c : Chip} (busy : c.sweep.headTag.isSome = true) (other : src ≠ c.sett.addr) :
    c.headSweep src tag w = c.sendFlit src.val (.swAbort tag src (Fin.ofNat 4 w.group) 0x0B) := by
  unfold Chip.headSweep
  dsimp only
  rw [if_pos busy, if_neg other]

/-- T_0 as the head sets it (R483). -/
def Chip.scheduleT0 (c : Chip) : Nat := (((c.chainTime128 + 127) / 128).toNat + 2400000 + 23999) / 24000 * 24000

theorem scheduleT0_mod (c : Chip) : c.scheduleT0 % 24000 = 0 := Nat.mul_mod_left ..

/-- The head's books of a sweep that it schedules (R483). -/
def Chip.schedules (src : Address) (tag : Nat) (w : SweepDesc) (c : Chip) : Chip :=
  { c with sweep := { c.sweep with
    headTag := some (tag, src), headGroup := Fin.ofNat 4 w.group, headT0 := c.scheduleT0, acksLeft := c.participants (Fin.ofNat 4 w.group), ackBad := false } }

/-- A device whose group does not span takes no part in a chain-wide sweep (R483). -/
theorem setupSweep_alone {tag t0 : Nat} {orig : Address} {w : SweepDesc} {c : Chip}
    (alone : (c.sett.groups[(Fin.ofNat 4 w.group : Group)]).span = false) : c.setupSweep tag orig w t0 = c := by
  unfold Chip.setupSweep
  exact if_pos (by rw [alone]; rfl)

/-- A head that takes no part in the sweep schedules it and tells the chain (R483). -/
theorem headSweep_schedules {src : Address} {tag : Nat} {w : SweepDesc} {c : Chip} (free : c.sweep.headTag = none) (alone : NoSpans c) :
    c.headSweep src tag w = (c.schedules src tag w).sendFlit 15 (.swSetup tag src w c.scheduleT0) := by
  have groups : ((c.schedules src tag w).sendFlit 15 (.swSetup tag src w c.scheduleT0)).sett.groups = c.sett.groups :=
    sendFlit_same SettUnit.groups ..
  unfold Chip.headSweep
  refine (if_neg (by rw [free]; exact Bool.false_ne_true)).trans (setupSweep_alone ?_)
  exact (congrArg (fun v : Vector SettGroup 4 => (v[(Fin.ofNat 4 w.group : Group)]).span) groups).trans (alone _)

/-! ### A participant -/

/-- A command that waits for its answer is answered by DONE, where DONE can reach Owl (R142, R617, R651). -/
theorem done_host {h : HostCmd} {c : Chip} (r : Result) (body : List Byte) (free : DoneFree c) (waits : h ∈ c.host.pending) :
    (c.done h r body).host = { c.host with pending := c.host.pending.erase h, answers := c.host.answers ++ [(h, r, body)] } := by
  have answers : ∀ d : Chip, d.host = c.host →
      (d.answer h r body).host = { c.host with pending := c.host.pending.erase h, answers := c.host.answers ++ [(h, r, body)] } := fun d hd => by
    unfold Chip.answer
    rw [hd, if_pos (List.contains_iff_mem.2 waits)]
  unfold Chip.done
  split
  · exact answers c rfl
  · rename_i runs
    have hr : c.isUp .badger = true ∧ c.sys.result = .ok := by simpa using runs
    have pass : c.canPass .bo (doneWords h.ref.tag (resultCode r)) = true := by
      rcases free with held | ⟨owl, empty⟩
      · simp [Chip.badgerRuns, hr] at held
      · unfold Chip.canPass
        dsimp only
        rw [show c.isUp (mbxSender .bo) = true from hr.1, show c.isUp (mbxReceiver .bo) = true from owl, empty]
        simp
    rw [if_pos pass]
    exact answers _ ((Chip.pass_moves ..).same .host)

/-- The device that has asked for the sweep has an answer for its host (R483). -/
def Chip.hostTold (tag : Nat) (orig : Address) (c : Chip) : Chip :=
  if orig == c.sett.addr && c.sweep.ask == some tag then
    (match c.host.sweepCmd with
      | some h => ({ c with host := { c.host with sweepCmd := none } }).done h .ok []
      | none => c)
  else c

theorem Chip.hostTold_moves (tag : Nat) (orig : Address) (c : Chip) :
    Moves [.eva, .trace, .obs, .mbx, .dom, .host, .draws] c (c.hostTold tag orig) := by
  unfold Chip.hostTold
  refine moves_ite (fun _ => ?_) (fun _ => moves_refl _ _)
  split
  · exact moves_then (moves_set_host (moves_refl _ _) (by decide)) (Chip.done_moves ..) (by decide)
  · exact moves_refl _ _

theorem hostTold_other {tag : Nat} {orig : Address} {c : Chip} (other : orig ≠ c.sett.addr) : c.hostTold tag orig = c := by
  unfold Chip.hostTold
  exact if_neg (by simp [other])

theorem hostTold_asked {tag : Nat} {orig : Address} {h : HostCmd} {c : Chip} (mine : (orig == c.sett.addr && c.sweep.ask == some tag) = true)
    (waits : c.host.sweepCmd = some h) : c.hostTold tag orig =
      ({ c with host := { c.host with sweepCmd := none } }).done h .ok [] := by
  unfold Chip.hostTold
  rw [if_pos mine, waits]

/-- The block once a participant has answered its host, where it has asked, and the head (R483). -/
def Chip.setupAnswered (tag : Nat) (orig : Address) (w : SweepDesc) (c : Chip) : Chip :=
  (c.hostTold tag orig).sendFlit c.sett.head.val (.swAck tag orig (Fin.ofNat 4 w.group) (ackCode (c.sweepRefusal w)))

theorem Chip.setupAnswered_moves (tag : Nat) (orig : Address) (w : SweepDesc) (c : Chip) :
    Moves [.sett, .eva, .trace, .obs, .mbx, .dom, .host, .draws] c (c.setupAnswered tag orig w) :=
  moves_then (moves_mono (Chip.hostTold_moves ..) (by decide)) (Chip.sendFlit_moves ..) (by decide)

theorem setupAnswered_other {tag : Nat} {orig : Address} {w : SweepDesc} {c : Chip} (other : orig ≠ c.sett.addr) :
    c.setupAnswered tag orig w = c.sendFlit c.sett.head.val (.swAck tag orig (Fin.ofNat 4 w.group) (ackCode (c.sweepRefusal w))) := by
  unfold Chip.setupAnswered
  rw [hostTold_other other]

/-- What is read off the registers that no flit changes, SEQ apart, a participant's answer does not change. -/
theorem setupAnswered_same {α : Type} (view : SettUnit → α) (tag : Nat) (orig : Address) (w : SweepDesc) (c : Chip)
    (reads : ∀ u : SettUnit, view u.standing = view u := by intro u; rfl)
    (blind : ∀ (u : SettUnit) s, view { u with seqs := s } = view u := by intro u s; rfl) :
    view (c.setupAnswered tag orig w).sett = view c.sett :=
  (sendFlit_same view _ _ _ reads blind).trans (congrArg view ((c.hostTold_moves tag orig).same .sett))

/-- The member that asked for the sweep answers the SWEEP_START that waits, and has left the sweep unit alone (R483). -/
theorem setupAnswered_asked {tag : Nat} {orig : Address} {w : SweepDesc} {h : HostCmd} {c : Chip}
    (mine : (orig == c.sett.addr && c.sweep.ask == some tag) = true) (waits : c.host.sweepCmd = some h) (pending : h ∈ c.host.pending)
    (free : DoneFree c) : (c.setupAnswered tag orig w).sweep = c.sweep ∧ (c.setupAnswered tag orig w).host =
      { c.host with sweepCmd := none, pending := c.host.pending.erase h, answers := c.host.answers ++ [(h, .ok, [])] } := by
  refine ⟨(c.setupAnswered_moves tag orig w).same .sweep, ?_⟩
  have told := done_host (c := { c with host := { c.host with sweepCmd := none } }) .ok [] free pending
  rw [← hostTold_asked mine waits] at told
  exact ((Chip.sendFlit_moves ..).same .host).trans told

/-- A participant takes a sweep up, as the one that asked for it or as another (R483). -/
def Chip.takesUp (mine : Bool) (tag : Nat) (orig : Address) (w : SweepDesc) (t0 : Nat) (c : Chip) : Chip :=
  let g : Group := Fin.ofNat 4 w.group
  let asked := if mine then c.sweep.askAbort else []
  let c := c.bookSweep g w tag orig true
  { c with sweep := { c.sweep with
    ask := if mine then none else c.sweep.ask, askAbort := if mine then [] else c.sweep.askAbort
    abortReq := asked, tNext := t0, t0Known := true, donesLeft := if mine then c.participants g else [], tEnd := t0 + planLength w } }

theorem Chip.takesUp_moves (mine : Bool) (tag : Nat) (orig : Address) (w : SweepDesc) (t0 : Nat) (c : Chip) :
    Moves [.sweep] c (c.takesUp mine tag orig w t0) := by
  unfold Chip.takesUp
  exact moves_set_sweep (Chip.bookSweep_moves ..) (by decide)

/-- A participant that takes a sweep up after its answer has sent that answer alone (R421, R482). -/
theorem takesUp_once {c e : Chip} (standing : e.sett.standing = c.sett.standing) (granted : Granted c e) (dst : Nat) (b : FlitBody) (mine : Bool)
    (tag : Nat) (orig : Address) (w : SweepDesc) (t0 : Nat) :
    ((e.sendFlit dst b).takesUp mine tag orig w t0).sett.seqs[b.vc] = (c.sett.seqs[b.vc] + 1) % 256 ∧
      Granted c ((e.sendFlit dst b).takesUp mine tag orig w t0) := by
  have taken := (e.sendFlit dst b).takesUp_moves mine tag orig w t0
  rw [Granted, taken.same .sett, taken.same .eva]
  exact sendFlit_once standing granted dst b

section
variable {tag t0 : Nat} {orig : Address} {w : SweepDesc} {c : Chip} (carries : c.phasesOf (Fin.ofNat 4 w.group) ≠ [])
  (distant : c.sett.head ≠ c.sett.addr)
include carries distant

/-- A participant that is no head answers, and takes up what nothing refuses (R483). -/
theorem setupSweep_answers (span : (c.sett.groups[(Fin.ofNat 4 w.group : Group)]).span = true) :
    c.setupSweep tag orig w t0 =
      if (c.sweepRefusal w).isSome then c.setupAnswered tag orig w
      else
        let d := (c.setupAnswered tag orig w).takesUp (orig == c.sett.addr && c.sweep.ask == some tag) tag orig w t0
        if d.decides (Fin.ofNat 4 w.group) then d.changeMode (Fin.ofNat 4 w.group) .sweep .sweepStart else d := by
  have sett : (c.hostTold tag orig).sett = c.sett := (c.hostTold_moves tag orig).same .sett
  have answer : (if (c.hostTold tag orig).sett.head = (c.hostTold tag orig).sett.addr then
        (c.hostTold tag orig).takeAck (c.hostTold tag orig).sett.addr tag orig (ackCode (c.sweepRefusal w))
      else (c.hostTold tag orig).sendFlit (c.hostTold tag orig).sett.head.val (.swAck tag orig (Fin.ofNat 4 w.group) (ackCode (c.sweepRefusal w)))) =
      c.setupAnswered tag orig w := by
    rw [if_neg (by rw [sett]; exact distant), sett]
    rfl
  rw [← answer]
  unfold Chip.setupSweep
  refine if_neg ?_
  rw [span, List.isEmpty_eq_false_iff.2 carries]
  decide

theorem setupSweep_refused (span : (c.sett.groups[(Fin.ofNat 4 w.group : Group)]).span = true) (refused : (c.sweepRefusal w).isSome = true) :
    c.setupSweep tag orig w t0 = c.setupAnswered tag orig w := by
  rw [setupSweep_answers carries distant span, if_pos refused]

/-- A member leaves the mode of its group to its leader (R197). -/
theorem setupSweep_accepted (member : c.isMember (Fin.ofNat 4 w.group) = true) (accepts : c.sweepRefusal w = none) :
    c.setupSweep tag orig w t0 =
      (c.setupAnswered tag orig w).takesUp (orig == c.sett.addr && c.sweep.ask == some tag) tag orig w t0 := by
  have groups : (c.setupAnswered tag orig w).sett.groups = c.sett.groups := setupAnswered_same SettUnit.groups ..
  have led : ((c.setupAnswered tag orig w).takesUp (orig == c.sett.addr && c.sweep.ask == some tag) tag orig w t0).decides (Fin.ofNat 4 w.group) = false := by
    unfold Chip.decides Chip.isMember
    rw [(Chip.takesUp_moves ..).same .sett, groups]
    exact congrArg not member
  rw [setupSweep_answers carries distant (Bool.and_eq_true_iff.1 member).1, if_neg (by rw [accepts]; exact Bool.false_ne_true)]
  dsimp only
  rw [if_neg (by rw [led]; exact Bool.false_ne_true)]
end

/-! ### Aborts and timeouts -/

theorem hearAbort_asked {tag cause : Nat} {c : Chip} (asked : c.sweep.ask = some tag) :
    c.hearAbort tag cause = { c with sweep := { c.sweep with askAbort := c.sweep.askAbort ++ [cause] } } := if_pos asked

theorem hearAbort_own {tag cause : Nat} {c : Chip} (other : c.sweep.ask ≠ some tag) (own : c.originates tag = true) :
    c.hearAbort tag cause = { c with sweep := { c.sweep with abortReq := c.sweep.abortReq ++ [cause] } } := by
  unfold Chip.hearAbort
  rw [if_neg other, if_pos own]

/-- The head's sweep is scheduled no more (R483). -/
def Chip.unscheduled (c : Chip) : Chip := { c with sweep := { c.sweep with acksLeft := [], ackBad := false, headTag := none } }

/-- SWEEP_SETUP_TIMEOUT, with an answer refused or missing too late (R483). -/
theorem setupTimeout_unschedules {tag : Nat} {orig : Address} {c : Chip} (head : c.sweep.headTag = some (tag, orig))
    (bad : c.sweep.ackBad = true ∨ (c.sweep.acksLeft ≠ [] ∧ ((c.sweep.headT0 - 240000 : Nat) : Int) * 128 ≤ c.chainTime128)) :
    c.setupTimeout = if orig = c.sett.addr then c.unscheduled.hearAbort tag 9
      else c.unscheduled.sendFlit orig.val (.swAbort tag orig c.sweep.headGroup 9) := by
  unfold Chip.setupTimeout
  rw [head]
  refine if_pos ?_
  rcases bad with bad | ⟨missing, late⟩
  · rw [bad]
    exact Bool.true_or _
  · rw [List.isEmpty_eq_false_iff.2 missing, decide_eq_true late]
    exact Bool.or_true _

/-! ### The end of a sweep -/

/-- What the registers show of a sweep's end (R487, R490). -/
def SweepUnit.outcome (u : SweepUnit) : SweepState × Bool × Nat × Nat × BitVec 16 × BitVec 16 :=
  (u.st, u.windowOpen, u.lastTag, u.lastCause, u.aborted, u.completed)

theorem oweReport_outcome (tag cause points : Nat) (orig : Address) (c : Chip) :
    (c.oweReport tag cause points orig).sweep.outcome = c.sweep.outcome := by
  unfold Chip.oweReport
  generalize (if cause = 2 then c.reportsLink orig else orig == c.sett.addr) = mine
  split
  · rfl
  split
  · rfl
  · rfl

/-- A group that leaves SWEEP with the sweep's end changes nothing of the sweep unit (R486). -/
theorem sweepGroupEnd_sweep (g : Group) (c : Chip) : (c.sweepGroupEnd g).sweep = c.sweep := by
  have ended : (c.modEngines g EngineUnit.endInjection).sweep = c.sweep := (Chip.modEngines_moves ..).same .sweep
  unfold Chip.sweepGroupEnd
  dsimp only
  split
  · rw [changeMode_eq_enterMode _ _ _ (by decide), (Chip.enterMode_moves ..).same .sweep]
    exact ended
  · exact ended

/-- The end of the sweep in progress, with its tag and cause, counted as aborted or completed (R487, R488). -/
theorem endSweep_outcome {aborted : Bool} {cause : Nat} {c : Chip} (runs : c.sweep.st ≠ .idle) :
    (c.endSweep aborted cause).sweep.outcome = (.idle, false, c.sweep.tag, cause,
      if aborted then c.sweep.aborted + 1 else c.sweep.aborted, if aborted then c.sweep.completed else c.sweep.completed + 1) := by
  unfold Chip.endSweep
  dsimp only
  rw [if_neg runs, sweepGroupEnd_sweep, (Chip.refuseStart_moves ..).same .sweep, oweReport_outcome]
  rfl

/-- The head's part in a sweep of a tag and originator ends (R487). -/
def Chip.headEnds (tag : Nat) (orig : Address) (c : Chip) : Chip :=
  if c.sweep.headTag = some (tag, orig) then { c with sweep := { c.sweep with headTag := none, acksLeft := [], ackBad := false } } else c

theorem headEnds_sweep (tag : Nat) (orig : Address) (c : Chip) :
    ∃ head left bad, (c.headEnds tag orig).sweep = { c.sweep with headTag := head, acksLeft := left, ackBad := bad } := by
  unfold Chip.headEnds
  split
  · exact ⟨_, _, _, rfl⟩
  · exact ⟨_, _, _, rfl⟩

theorem headEnds_moves (tag : Nat) (orig : Address) (c : Chip) : Moves [.sweep] c (c.headEnds tag orig) :=
  moves_ite (fun _ => moves_set_sweep (moves_refl _ _) (by decide)) (fun _ => moves_refl _ _)

section
variable {tag cause : Nat} {orig : Address} {aborted : Bool} {c : Chip}

/-- SW_END of a sweep that no part of this device holds (R487). -/
theorem applyEnd_unknown (sweep : c.sweep.origAddr ≠ orig) (cap : c.sweep.capOrig ≠ orig) (head : c.sweep.headTag ≠ some (tag, orig)) :
    c.applyEnd tag orig aborted cause = c := by
  unfold Chip.applyEnd
  dsimp only
  rw [if_neg head, if_neg (by simp [sweep]), if_neg (by simp [cap])]

/-- SW_END of the chain-wide sweep in progress (R487). -/
theorem applyEnd_ends (runs : c.sweep.st ≠ .idle) (chain : c.sweep.chain = true) (own : c.sweep.tag = tag) (named : c.sweep.origAddr = orig) :
    c.applyEnd tag orig aborted cause = (c.headEnds tag orig).endSweep aborted cause := by
  unfold Chip.applyEnd
  exact if_pos (by simp [runs, chain, own, named])

theorem applyEnd_outcome (runs : c.sweep.st ≠ .idle) (chain : c.sweep.chain = true) (own : c.sweep.tag = tag) (named : c.sweep.origAddr = orig) :
    (c.applyEnd tag orig aborted cause).sweep.outcome = (.idle, false, tag, cause,
      if aborted then c.sweep.aborted + 1 else c.sweep.aborted, if aborted then c.sweep.completed else c.sweep.completed + 1) := by
  obtain ⟨head, left, bad, ended⟩ := headEnds_sweep tag orig c
  rw [applyEnd_ends runs chain own named, endSweep_outcome (by rw [ended]; exact runs), ended, own]

/-- SW_END, aborted, of the completed sweep whose results stand in capture memory (R488). -/
theorem applyEnd_releases (idle : c.sweep.st = .idle) (done : c.sweep.cap = .completed) (chain : c.sweep.capChain = true)
    (own : c.sweep.capTag = tag) (named : c.sweep.capOrig = orig) :
    ∃ e, Moves [.cap, .sweep] c e ∧ e.sweep.aborted = c.sweep.aborted ∧ c.applyEnd tag orig true cause =
      { e with sweep := { e.sweep with releaseReq := true, aborted := e.sweep.aborted + 1, lastTag := tag, lastCause := cause, endSeq := e.eva.seq } } := by
  refine ⟨(c.headEnds tag orig).capEnd true cause 256, ?_, ?_, ?_⟩
  · exact moves_then (moves_mono (headEnds_moves ..) (by decide)) (Chip.capEnd_moves ..) (by decide)
  · rw [(Chip.capEnd_moves ..).same .sweep]
    obtain ⟨head, left, bad, ended⟩ := headEnds_sweep tag orig c
    rw [ended]
  · unfold Chip.applyEnd
    dsimp only
    rw [if_neg (by simp [idle]), if_pos (by simp [done, chain, own, named])]
    rfl
end

end Sys2Proof.Machine
end

section
/-!
SUPPORT. The flits and timeouts of a chain-wide sweep (R482 to R489), and the statement about them, one lemma a clause.
-/

namespace Sys2Proof.Machine
open Sys2Proof

section
variable {c : Chip} {f : FlitHdr}

/-! ### SW_REQ -/

section
variable {tag : Nat} {w : SweepDesc} (h : Delivers f (.swReq tag w) c) (acts : c.actsHead = true)
include h acts

theorem delivered_headSweep : (fun d : Chip => if d.actsHead then d.headSweep f.src tag w else d) (c.delivered f (.swReq tag w)) =
    (c.delivered f (.swReq tag w)).headSweep f.src tag w := if_pos ((actsHead_of_standing (delivered_standing h)).trans acts)

/-- SW_REQ at a head with a sweep scheduled already (R483). -/
theorem swReq_refuses (busy : c.sweep.headTag.isSome = true) :
    Runs (.swReq f tag w) c [.sett, .eva, .trace, .obs, .draws]
        (fun d => d.sett.seqs[(2 : Fin 4)] = (c.sett.seqs[(2 : Fin 4)] + 1) % 256 ∧ Granted c d) := by
  have sweep : (c.delivered f (.swReq tag w)).sweep = c.sweep := (c.delivered_moves f _).same .sweep
  have refuses := headSweep_busy (tag := tag) (w := w) (by rw [sweep]; exact busy) (delivered_src h)
  exact runs_delivered h (fun _ => rfl) ((delivered_headSweep h acts).trans refuses) (by decide) (moves_mono (Chip.sendFlit_moves ..) (by decide))
    (sendFlit_once (delivered_standing h) (delivered_granted f _ c) _ _)

/-- SW_REQ at a head with no sweep scheduled, which takes no part in the sweep (R483). -/
theorem swReq_schedules (free : c.sweep.headTag = none) (alone : NoSpans c) :
    Runs (.swReq f tag w) c [.sweep, .sett, .eva, .trace, .obs, .draws] (fun d => d.sweep.headTag = some (tag, f.src) ∧ d.sweep.headT0 % 24000 = 0 ∧
      d.sweep.ackBad = false ∧ d.sett.seqs[(2 : Fin 4)] = (c.sett.seqs[(2 : Fin 4)] + 1) % 256 ∧ Granted c d) := by
  have sweep : (c.delivered f (.swReq tag w)).sweep = c.sweep := (c.delivered_moves f _).same .sweep
  have groups : (c.delivered f (.swReq tag w)).sett.groups = c.sett.groups := same_of_standing SettUnit.groups (delivered_standing h)
  have schedules := headSweep_schedules (src := f.src) (tag := tag) (w := w) (c := c.delivered f (.swReq tag w)) (by rw [sweep]; exact free)
    (fun g => by rw [groups]; exact alone g)
  have standing : ((c.delivered f (.swReq tag w)).schedules f.src tag w).sett.standing = c.sett.standing := delivered_standing h
  have granted : Granted c ((c.delivered f (.swReq tag w)).schedules f.src tag w) := delivered_granted ..
  refine runs_delivered h (fun _ => rfl) ((delivered_headSweep h acts).trans schedules) (by decide)
    (moves_then (moves_set_sweep (moves_refl _ _) (by decide)) (Chip.sendFlit_moves ..) (by decide)) ?_
  rw [(Chip.sendFlit_moves ..).same .sweep]
  exact ⟨rfl, scheduleT0_mod _, rfl, sendFlit_once standing granted ..⟩
end

/-! ### SW_SETUP -/

section
variable {tag t0 : Nat} {orig : Address} {w : SweepDesc} (carries : c.phasesOf (Fin.ofNat 4 w.group) ≠ []) (distant : c.sett.head ≠ c.sett.addr)

theorem sweepRefusal_delivered {b : FlitBody} (h : Delivers f b c) : (c.delivered f b).sweepRefusal w = c.sweepRefusal w :=
  have moved := c.delivered_moves f b
  sweepRefusal_congr w (moved.same .sys) (moved.same .ph) (moved.same .grp) (moved.same .le) (moved.same .sweep)
    (same_of_standing SettUnit.groups (delivered_standing h))

include carries in
theorem phasesOf_delivered (b : FlitBody) : (c.delivered f b).phasesOf (Fin.ofNat 4 w.group) ≠ [] := by
  have moved := c.delivered_moves f b
  unfold Chip.phasesOf
  rw [moved.same .sys, moved.same .ph]
  exact carries

theorem isMember_delivered {b : FlitBody} (h : Delivers f b c) {g : Group} (member : c.isMember g = true) : (c.delivered f b).isMember g = true := by
  unfold Chip.isMember
  rw [same_of_standing SettUnit.groups (delivered_standing h)]
  exact member

include distant in
theorem head_delivered {b : FlitBody} (h : Delivers f b c) : (c.delivered f b).sett.head ≠ (c.delivered f b).sett.addr := by
  have standing := delivered_standing h
  rw [same_of_standing SettUnit.head standing, same_of_standing SettUnit.addr standing]
  exact distant

include carries distant

/-- SW_SETUP at a member that did not ask, which refuses nothing (R482, R483). -/
theorem swSetup_takesUp (h : Delivers f (.swSetup tag orig w t0) c) (member : c.isMember (Fin.ofNat 4 w.group) = true) (other : orig ≠ c.sett.addr)
    (accepts : c.sweepRefusal w = none) :
    Runs (.swSetup f tag orig w t0) c [.sweep, .sett, .eva, .trace, .obs, .draws]
        (fun d => d.sweep.st = .setup ∧ d.sweep.chain = true ∧ d.sweep.tag = tag ∧
      d.sweep.origAddr = orig ∧ d.sweep.desc = w ∧ d.sweep.tNext = t0 ∧ d.sweep.t0Known = true ∧
      d.sett.seqs[(2 : Fin 4)] = (c.sett.seqs[(2 : Fin 4)] + 1) % 256 ∧ Granted c d) := by
  have standing := delivered_standing h
  have setup := setupSweep_accepted (tag := tag) (t0 := t0) (orig := orig) (phasesOf_delivered carries _) (head_delivered distant h)
    (isMember_delivered h member) ((sweepRefusal_delivered h).trans accepts)
  rw [setupAnswered_other (by rw [same_of_standing SettUnit.addr standing]; exact other)] at setup
  refine runs_delivered h (fun _ => rfl) setup (by decide)
    (moves_then (moves_mono (Chip.sendFlit_moves ..) (by decide)) (Chip.takesUp_moves ..) (by decide)) ?_
  exact ⟨rfl, rfl, rfl, rfl, rfl, rfl, rfl, takesUp_once standing (delivered_granted f _ c) ..⟩

/-- SW_SETUP at a device that carries the group and did not ask, which refuses the sweep (R482, R483). -/
theorem swSetup_refuses (h : Delivers f (.swSetup tag orig w t0) c) (span : (c.sett.groups[Fin.ofNat 4 w.group]).span = true)
    (other : orig ≠ c.sett.addr) (refused : (c.sweepRefusal w).isSome = true) :
    Runs (.swSetup f tag orig w t0) c [.sett, .eva, .trace, .obs, .draws] (fun d =>
      d.sett.seqs[(2 : Fin 4)] = (c.sett.seqs[(2 : Fin 4)] + 1) % 256 ∧ Granted c d) := by
  have standing := delivered_standing h
  have setup := setupSweep_refused (tag := tag) (t0 := t0) (orig := orig) (phasesOf_delivered carries _) (head_delivered distant h)
    (by rw [same_of_standing SettUnit.groups standing]; exact span) (by rw [sweepRefusal_delivered h]; exact refused)
  rw [setupAnswered_other (by rw [same_of_standing SettUnit.addr standing]; exact other)] at setup
  exact runs_delivered h (fun _ => rfl) setup (by decide) (moves_mono (Chip.sendFlit_moves ..) (by decide))
    (sendFlit_once standing (delivered_granted f _ c) _ _)

/-- SW_SETUP at the member that asked for the sweep (R483). -/
theorem swSetup_answersHost {cmd : HostCmd} (h : Delivers f (.swSetup tag c.sett.addr w t0) c) (member : c.isMember (Fin.ofNat 4 w.group) = true)
    (asked : c.sweep.ask = some tag) (waits : c.host.sweepCmd = some cmd) (pending : cmd ∈ c.host.pending) (free : DoneFree c)
    (accepts : c.sweepRefusal w = none) :
    Runs (.swSetup f tag c.sett.addr w t0) c [.sys, .tb, .ph, .grp, .le, .setpt, .sweep, .sett, .guards, .eva, .trace, .obs, .mbx, .dom, .nv, .cal, .log, .host, .draws]
        (fun d => d.sweep.st = .setup ∧ d.sweep.chain = true ∧ d.sweep.orig = true ∧ d.sweep.tag = tag ∧
      d.sweep.ask = none ∧ d.sweep.abortReq = c.sweep.askAbort ∧ d.host.sweepCmd = none ∧ d.host.answers = c.host.answers ++ [(cmd, .ok, [])]) := by
  have moved := c.delivered_moves f (.swSetup tag c.sett.addr w t0)
  have addr : (c.delivered f (.swSetup tag c.sett.addr w t0)).sett.addr = c.sett.addr := same_of_standing SettUnit.addr (delivered_standing h)
  have setup := setupSweep_accepted (tag := tag) (t0 := t0) (orig := c.sett.addr) (phasesOf_delivered carries _) (head_delivered distant h)
    (isMember_delivered h member) ((sweepRefusal_delivered h).trans accepts)
  generalize named : c.delivered f (.swSetup tag c.sett.addr w t0) = x at moved addr setup
  have mine : (c.sett.addr == x.sett.addr && x.sweep.ask == some tag) = true := by
    rw [addr, moved.same .sweep, asked]
    simp
  rw [mine] at setup
  obtain ⟨sweep, host⟩ := setupAnswered_asked (w := w) mine (by rw [moved.same .host]; exact waits) (by rw [moved.same .host]; exact pending)
    (doneFree_congr (moved.same .sys) (moved.same .dom) (moved.same .mbx) free)
  have here : (x.setupAnswered tag c.sett.addr w).sett.addr = c.sett.addr := (setupAnswered_same SettUnit.addr ..).trans addr
  rw [moved.same .sweep] at sweep
  rw [moved.same .host] at host
  have answered := x.setupAnswered_moves tag c.sett.addr w
  generalize x.setupAnswered tag c.sett.addr w = e at setup sweep host here answered
  have taken := e.takesUp_moves true tag c.sett.addr w t0
  refine runs_delivered (d := e.takesUp true tag c.sett.addr w t0) h (fun _ => rfl) (by rw [named]; exact setup) (by decide) ?_ ?_
  · rw [named]
    exact moves_then (moves_mono answered (by decide)) taken (by decide)
  refine ⟨rfl, rfl, ?_, rfl, rfl, ?_, ?_, ?_⟩
  · show (c.sett.addr == e.sett.addr) = true
    rw [here]
    exact beq_self_eq_true _
  · exact congrArg SweepUnit.askAbort sweep
  · rw [taken.same .host, host]
  · rw [taken.same .host, host]
end

/-! ### SW_ACK and SWEEP_SETUP_TIMEOUT -/

/-- SW_ACK at the head of the sweep scheduled (R483). -/
theorem swAck_hears {tag : Nat} {w : SweepOwner} {answer : Nat} (h : Delivers f (.swAck tag w.orig w.group answer) c)
    (head : c.sweep.headTag = some (tag, w.orig)) :
    Runs (.swAck f tag w answer) c [.sweep, .sett, .eva, .trace, .obs, .draws] (fun d => Granted c d ∧ d.sweep =
      { c.sweep with acksLeft := c.sweep.acksLeft.filter (· != f.src), ackBad := c.sweep.ackBad || answer != 0 }) := by
  have sweep : (c.delivered f (.swAck tag w.orig w.group answer)).sweep = c.sweep := (c.delivered_moves f _).same .sweep
  rw [← sweep] at head ⊢
  exact runs_delivered h (fun _ => rfl) (if_pos head) (by decide) (moves_set_sweep (moves_refl _ _) (by decide)) ⟨delivered_granted f _ c, rfl⟩

section
variable {tag : Nat} (head : c.sweep.headTag = some (tag, c.sett.addr)) (bad : c.sweep.ackBad = true)
include head bad

/-- SWEEP_SETUP_TIMEOUT with an answer refused of a sweep that this device has asked for (R483). -/
theorem sweepSetupTimeout_asked (asked : c.sweep.ask = some tag) :
    Runs (.sweepSetupTimeout) c [.sweep] (fun d => d.sweep =
      { c.sweep with acksLeft := [], ackBad := false, headTag := none, askAbort := c.sweep.askAbort ++ [9] }) := by
  have aborts := (setupTimeout_unschedules head (.inl bad)).trans (if_pos rfl)
  rw [hearAbort_asked (c := c.unscheduled) asked] at aborts
  exact runs_of_eq (fun _ => rfl) aborts (moves_set_sweep (moves_set_sweep (moves_refl _ _) (by decide)) (by decide)) rfl

/-- SWEEP_SETUP_TIMEOUT with an answer refused of a sweep in progress of this device's own (R483). -/
theorem sweepSetupTimeout_own (other : c.sweep.ask ≠ some tag) (own : c.originates tag = true) :
    Runs (.sweepSetupTimeout) c [.sweep] (fun d => d.sweep =
      { c.sweep with acksLeft := [], ackBad := false, headTag := none, abortReq := c.sweep.abortReq ++ [9] }) := by
  have aborts := (setupTimeout_unschedules head (.inl bad)).trans (if_pos rfl)
  rw [hearAbort_own (c := c.unscheduled) other own] at aborts
  exact runs_of_eq (fun _ => rfl) aborts (moves_set_sweep (moves_set_sweep (moves_refl _ _) (by decide)) (by decide)) rfl
end

/-- SWEEP_SETUP_TIMEOUT with answers missing of another device's sweep (R483). -/
theorem sweepSetupTimeout_others {tag : Nat} {orig : Address} (head : c.sweep.headTag = some (tag, orig)) (other : orig ≠ c.sett.addr)
    (missing : c.sweep.acksLeft ≠ []) (late : ((c.sweep.headT0 - 240000 : Nat) : Int) * 128 ≤ c.chainTime128) :
    Runs (.sweepSetupTimeout) c [.sweep, .sett, .obs] (fun d => d.sweep = { c.sweep with acksLeft := [], ackBad := false, headTag := none } ∧
      d.sett.seqs[(2 : Fin 4)] = (c.sett.seqs[(2 : Fin 4)] + 1) % 256) := by
  have tells := (setupTimeout_unschedules head (.inr ⟨missing, late⟩)).trans (if_neg other)
  refine runs_of_eq (fun _ => rfl) tells (moves_then (moves_set_sweep (moves_refl _ _) (by decide)) (Chip.sendFlit_moves ..) (by decide)) ?_
  exact ⟨(Chip.sendFlit_moves ..).same .sweep, sendFlit_seqs (c := c.unscheduled) orig.val (.swAbort tag orig c.sweep.headGroup 9)⟩

/-! ### SW_DONE and SW_DONE_TIMEOUT -/

section
variable {w : SweepName} {written : Nat} (h : Delivers f (.swDone w.tag w.owner.orig w.owner.group written) c)
include h

/-- SW_DONE at a device that it does not name (R485). -/
theorem swDone_passes (other : w.owner.orig ≠ c.sett.addr) :
    Runs (.swDone f w written) c [.sett, .eva, .trace, .obs, .draws] (fun d => Granted c d) := by
  have addr := same_of_standing SettUnit.addr (delivered_standing h)
  exact runs_delivered h (fun _ => rfl) (if_neg (by rw [addr]; simp [other])) (by decide) (moves_refl _ _) (delivered_granted f _ c)

/-- SW_DONE at the originator (R485). -/
theorem swDone_hears (mine : w.owner.orig = c.sett.addr) (own : c.originates w.tag = true) :
    Runs (.swDone f w written) c [.sweep, .sett, .eva, .trace, .obs, .draws]
        (fun d => Granted c d ∧ d.sweep.donesLeft = c.sweep.donesLeft.filter (· != f.src) ∧
      (d.sweep.donesLeft = [] → d.sweep.request = true)) := by
  have addr := same_of_standing SettUnit.addr (delivered_standing h)
  have sweep : (c.delivered f (.swDone w.tag w.owner.orig w.owner.group written)).sweep = c.sweep := (c.delivered_moves f _).same .sweep
  have here : ((c.delivered f (.swDone w.tag w.owner.orig w.owner.group written)).originates w.tag &&
      w.owner.orig == (c.delivered f (.swDone w.tag w.owner.orig w.owner.group written)).sett.addr) = true := by
    unfold Chip.originates at own ⊢
    rw [sweep, own, addr, mine]
    exact beq_self_eq_true _
  refine runs_delivered h (fun _ => rfl) (if_pos here) (by decide) (moves_set_sweep (moves_refl _ _) (by decide)) ⟨delivered_granted f _ c, ?_, ?_⟩
  · exact congrArg (fun u : SweepUnit => u.donesLeft.filter (· != f.src)) sweep
  · intro last
    exact Bool.or_eq_true_iff.2 (.inr (List.isEmpty_iff.2 last))
end

/-- SW_DONE_TIMEOUT with devices awaited (R485). -/
theorem swDoneTimeout_aborts (own : c.originates c.sweep.tag = true) (unasked : c.sweep.request = false) (missing : c.sweep.donesLeft ≠ [])
    (known : c.sweep.t0Known = true) (late : ((c.sweep.tEnd + 2400000 : Nat) : Int) * 128 ≤ c.chainTime128) :
    Runs (.swDoneTimeout) c [.sweep] (fun d => d.sweep = { c.sweep with abortReq := c.sweep.abortReq ++ [0x0A] }) := by
  have due : (c.originates c.sweep.tag && !c.sweep.request && !c.sweep.donesLeft.isEmpty && c.sweep.t0Known &&
      decide (((c.sweep.tEnd + 2400000 : Nat) : Int) * 128 ≤ c.chainTime128)) = true := by
    rw [own, unasked, List.isEmpty_eq_false_iff.2 missing, known, decide_eq_true late]
    decide
  have aborts : c.doneTimeout = { c with sweep := { c.sweep with abortReq := c.sweep.abortReq ++ [0x0A] } } := if_pos due
  exact runs_of_eq (fun _ => rfl) aborts (moves_set_sweep (moves_refl _ _) (by decide)) rfl

/-! ### SW_ABORT -/

section
variable {w : SweepName} {cause : Nat} (h : Delivers f (.swAbort w.tag w.owner.orig w.owner.group cause) c) (mine : w.owner.orig = c.sett.addr)
include h mine

theorem delivered_hearAbort : (fun d : Chip => if w.owner.orig = d.sett.addr then d.hearAbort w.tag cause else d)
      (c.delivered f (.swAbort w.tag w.owner.orig w.owner.group cause)) =
    (c.delivered f (.swAbort w.tag w.owner.orig w.owner.group cause)).hearAbort w.tag cause :=
  if_pos (mine.trans (same_of_standing SettUnit.addr (delivered_standing h)).symm)

/-- SW_ABORT at the device that has asked for the sweep (R483, R487). -/
theorem swAbort_asked (asked : c.sweep.ask = some w.tag) :
    Runs (.swAbort f w cause) c [.sweep, .sett, .eva, .trace, .obs, .draws]
        (fun d => Granted c d ∧ d.sweep = { c.sweep with askAbort := c.sweep.askAbort ++ [cause] }) := by
  rw [← (c.delivered_moves f (.swAbort w.tag w.owner.orig w.owner.group cause)).same .sweep] at asked ⊢
  exact runs_delivered h (fun _ => rfl) ((delivered_hearAbort h mine).trans (hearAbort_asked asked)) (by decide)
    (moves_set_sweep (moves_refl _ _) (by decide)) ⟨delivered_granted f _ c, rfl⟩

/-- SW_ABORT at the originator of the sweep in progress (R487). -/
theorem swAbort_own (other : c.sweep.ask ≠ some w.tag) (own : c.originates w.tag = true) :
    Runs (.swAbort f w cause) c [.sweep, .sett, .eva, .trace, .obs, .draws]
        (fun d => Granted c d ∧ d.sweep = { c.sweep with abortReq := c.sweep.abortReq ++ [cause] }) := by
  unfold Chip.originates at own
  rw [← (c.delivered_moves f (.swAbort w.tag w.owner.orig w.owner.group cause)).same .sweep] at other own ⊢
  exact runs_delivered h (fun _ => rfl) ((delivered_hearAbort h mine).trans (hearAbort_own other own)) (by decide)
    (moves_set_sweep (moves_refl _ _) (by decide)) ⟨delivered_granted f _ c, rfl⟩
end

/-! ### SW_END -/

section
variable {w : SweepName} {cause : Nat}

/-- SW_END of a sweep that no part of this device holds (R487). -/
theorem swEnd_passes {aborted : Bool} (h : Delivers f (.swEnd w.tag w.owner.orig w.owner.group aborted cause) c)
    (sweep : c.sweep.origAddr ≠ w.owner.orig) (cap : c.sweep.capOrig ≠ w.owner.orig) (head : c.sweep.headTag ≠ some (w.tag, w.owner.orig)) :
    Runs (.swEnd f w aborted cause) c [.sett, .eva, .trace, .obs, .draws] (fun d => Granted c d) := by
  rw [← (c.delivered_moves f (.swEnd w.tag w.owner.orig w.owner.group aborted cause)).same .sweep] at sweep cap head
  exact runs_delivered h (fun _ => rfl) (applyEnd_unknown sweep cap head) (by decide) (moves_refl _ _) (delivered_granted f _ c)

/-- SW_END, aborted, of the completed sweep whose results stand in capture memory (R488). -/
theorem swEnd_releases (h : Delivers f (.swEnd w.tag w.owner.orig w.owner.group true cause) c) (idle : c.sweep.st = .idle)
    (done : c.sweep.cap = .completed) (chain : c.sweep.capChain = true) (own : c.sweep.capTag = w.tag) (named : c.sweep.capOrig = w.owner.orig) :
    Runs (.swEnd f w true cause) c [.sys, .tb, .ph, .grp, .le, .setpt, .cap, .sweep, .sett, .guards, .eva, .trace, .obs, .mbx, .dom, .nv, .cal, .log, .host, .draws]
        (fun d => d.sweep.releaseReq = true ∧ d.sweep.aborted = c.sweep.aborted + 1 ∧ d.sweep.lastTag = w.tag ∧
      d.sweep.lastCause = cause ∧ Granted c d) := by
  have granted := delivered_granted f (.swEnd w.tag w.owner.orig w.owner.group true cause) c
  have same : (c.delivered f (.swEnd w.tag w.owner.orig w.owner.group true cause)).sweep = c.sweep := (c.delivered_moves f _).same .sweep
  rw [← same] at idle done chain own named ⊢
  obtain ⟨e, moved, counted, ends⟩ := applyEnd_releases (cause := cause) idle done chain own named
  refine runs_delivered h (fun _ => rfl) ends (by decide) (moves_set_sweep (moves_mono moved (by decide)) (by decide)) ?_
  rw [Granted, ← moved.same .eva] at granted
  exact ⟨rfl, congrArg (· + 1) counted, rfl, rfl, granted⟩

/-- SW_END of the chain-wide sweep in progress (R487). -/
theorem swEnd_ends {aborted : Bool} (h : Delivers f (.swEnd w.tag w.owner.orig w.owner.group aborted cause) c) (runs : c.sweep.st ≠ .idle)
    (chain : c.sweep.chain = true) (own : c.sweep.tag = w.tag) (named : c.sweep.origAddr = w.owner.orig) :
    Runs (.swEnd f w aborted cause) c [.sys, .tb, .ph, .grp, .le, .setpt, .cap, .sweep, .sett, .guards, .eva, .trace, .obs, .mbx, .dom, .nv, .cal, .log, .host, .draws]
        (fun d => d.sweep.st = .idle ∧ d.sweep.windowOpen = false ∧ d.sweep.lastTag = w.tag ∧ d.sweep.lastCause = cause ∧
      d.sweep.aborted = (if aborted = true then c.sweep.aborted + 1 else c.sweep.aborted) ∧
      d.sweep.completed = (if aborted = true then c.sweep.completed else c.sweep.completed + 1)) := by
  rw [← (c.delivered_moves f (.swEnd w.tag w.owner.orig w.owner.group aborted cause)).same .sweep] at runs chain own named ⊢
  refine runs_delivered h (fun _ => rfl) rfl (by decide) (Chip.applyEnd_moves ..) ?_
  simpa only [SweepUnit.outcome, Prod.mk.injEq] using applyEnd_outcome runs chain own named
end
end

/-- Settles O50, one lemma a clause: each flit acts at the grant of its delivery, which leaves the sweep unit, and of the chain's registers all but the books
of the flits that pass, as they were. -/
theorem sweepProtocol : Obligations.SweepProtocol :=
  ⟨fun _ _ _ _ => swReq_refuses, fun _ _ _ _ => swReq_schedules,
    fun _ _ _ _ _ _ h member carries other distant => swSetup_takesUp carries distant h member other,
    fun _ _ _ _ _ _ h span carries other distant => swSetup_refuses carries distant h span other,
    fun _ _ _ _ _ _ h member carries distant => swSetup_answersHost carries distant h member,
    fun _ _ _ _ _ => swAck_hears, fun _ _ => sweepSetupTimeout_asked, fun _ _ => sweepSetupTimeout_own, fun _ _ _ => sweepSetupTimeout_others,
    fun _ _ _ _ => swDone_passes, fun _ _ _ _ => swDone_hears, fun _ => swDoneTimeout_aborts, fun _ _ _ _ => swAbort_asked,
    fun _ _ _ _ => swAbort_own, fun _ _ _ _ _ => swEnd_passes, fun _ _ _ _ => swEnd_releases, fun _ _ _ _ _ => swEnd_ends⟩

end Sys2Proof.Machine
end
